-- ==== Sys2Proof/Word.lean ====
section
/-!
DEFINITION. The word and byte types of the part (R6) and the names of its cores, dies, streams, engines and partitions (R2, R3).
-/
namespace Sys2Proof

/-- A 64-bit register or memory word. -/
abbrev Word := BitVec 64
/-- One byte of memory. -/
abbrev Byte := BitVec 8
/-- A coordinate ix4:ix3:ix2:ix1:ix0 packed as bits 61:0 of the coordinate word (R31). Its unsigned order is the order of R8. -/
abbrev Coord := BitVec 62
/-- A core of the module: die in bits 7:6, cluster in 5:2, core in 1:0 (R92). -/
abbrev CoreId := Fin 256
/-- One of the four dies (R3). -/
abbrev DieId := Fin 4
/-- One of the 32 partitions, named like its virtual function (R3, R5). -/
abbrev PartId := Fin 32

/-- The four streams of a core (R16), in the order in which R133 and R24 name them. -/
inductive StreamId where
  | c | a | v | s
  deriving DecidableEq, Repr

/-- The engines that streams command (R16). -/
inductive Engine where
  | me | ce | se
  deriving DecidableEq, Repr

/-- The next stream on the ring A, V, S, C (R17). -/
def StreamId.next : StreamId → StreamId
  | .a => .v
  | .v => .s
  | .s => .c
  | .c => .a

/-- The previous stream on the ring (R17). -/
def StreamId.prev : StreamId → StreamId
  | .v => .a
  | .s => .v
  | .c => .s
  | .a => .c

/-- The number of a stream: 0 C, 1 A, 2 V, 3 S (R81, R256). -/
def StreamId.num : StreamId → Nat
  | .c => 0
  | .a => 1
  | .v => 2
  | .s => 3

/-- The four streams in the order C, A, V, S. -/
def StreamId.all : List StreamId := [.c, .a, .v, .s]

/-- A tile: 16 rows of 64 slots of 32 bits, element (r, c) at position 64 r + c (R18, R183). -/
abbrev Tile := Vector (BitVec 32) 1024
/-- The tile of zeros. -/
def Tile.zero : Tile := Vector.replicate 1024 0

end Sys2Proof
end

