-- ==== Sys2Proof/Syntax.lean ====
section
/-!
DEFINITION. The instructions of the opcode map (R61) with their operand formats (R45, R51 to R60), and the events of the opcode
table, in one inductive with one constructor for each row.
-/
namespace Sys2Proof

/-- A register specifier (R19, R47): bit 6 is peek, bit 5 the file, bits 4:0 the number. -/
abbrev Spec := BitVec 7

/-- The common header (R45) without its opcode, length and operand field. -/
structure Hdr where
  stage : BitVec 2
  pan : Bool
  pap : Bool
  pbn : Bool
  pbp : Bool
  deriving DecidableEq, Repr

/-- Format RR (R51). -/
structure FRR where
  c : Spec
  b : Spec
  a : Spec
  fn : BitVec 5
  d : Spec
  deriving DecidableEq, Repr

/-- Format RI (R52). -/
structure FRI where
  imm : BitVec 25
  a : Spec
  fn : BitVec 5
  d : Spec
  deriving DecidableEq, Repr

/-- Format LI (R52). -/
structure FLI where
  imm : BitVec 32
  fn : BitVec 5
  d : Spec
  deriving DecidableEq, Repr

/-- Format BR (R53). -/
structure FBR where
  ofs : BitVec 32
  fn : BitVec 5
  x : Spec
  deriving DecidableEq, Repr

/-- Format LP (R54). -/
structure FLP where
  endo : BitVec 16
  trip : BitVec 16
  tsrc : Bool
  nst : BitVec 2
  level : BitVec 3
  deriving DecidableEq, Repr

/-- Format CI (R55). -/
structure FCI where
  cw : Word
  deriving DecidableEq, Repr

/-- Format M (R56). -/
structure FM where
  opt : BitVec 3
  aux : Spec
  idx : Spec
  base : Spec
  ty : BitVec 5
  d : Spec
  deriving DecidableEq, Repr

/-- Format ME (R56). -/
structure FME where
  e2 : Spec
  e1 : Spec
  m : FM
  deriving DecidableEq, Repr

/-- Format VB (R57). -/
structure FVB where
  sx : Spec
  fn : BitVec 5
  men : Bool
  mask : BitVec 3
  tc : BitVec 5
  tb : BitVec 5
  ta : BitVec 5
  rm : BitVec 3
  ty : BitVec 5
  td : BitVec 4
  deriving DecidableEq, Repr

/-- Format VF (R58). -/
structure FVF where
  stc : BitVec 12
  stb : BitVec 12
  sta : BitVec 12
  std : BitVec 12
  kind : BitVec 4
  cnt : BitVec 12
  vb : FVB
  deriving DecidableEq, Repr

/-- Format VN (R59): strides SB, SA, SD, units UB, UA, UD and extents, level 0 lowest. -/
structure FVN where
  sb : BitVec 40
  sa : BitVec 40
  sd : BitVec 40
  ub : BitVec 4
  ua : BitVec 4
  ud : BitVec 4
  ext : BitVec 60
  vb : FVB
  deriving DecidableEq, Repr

/-- Format MX (R60). -/
structure FMX where
  ssv : BitVec 5
  sse : Bool
  swc : BitVec 6
  swv : BitVec 5
  swe : Bool
  diag : BitVec 8
  mcs : BitVec 2
  tri : Bool
  km1 : BitVec 12
  nm1 : BitVec 7
  mm1 : BitVec 7
  bk : Bool
  ak : Bool
  b2 : Spec
  b1 : Spec
  a2 : Spec
  a1 : Spec
  batch : BitVec 4
  tb : Bool
  ta : Bool
  wm : Bool
  acc : BitVec 5
  deriving DecidableEq, Repr

/-- The operand fields of an instruction in its format. -/
inductive Fmt where
  | rr (f : FRR)
  | ri (f : FRI)
  | li (f : FLI)
  | br (f : FBR)
  | lp (f : FLP)
  | ci (f : FCI)
  | m (f : FM)
  | me (f : FME)
  | vb (f : FVB)
  | vf (f : FVF)
  | vn (f : FVN)
  | mx (f : FMX)
  deriving DecidableEq, Repr

/-- What Brim proposes for a new partition (R321, R322, R337): its tables, rings and pages, the units of DRAM, the slot-table entries and
the image of its resident job, with what Brim has written into the units. -/
structure Plan where
  root : Nat
  errva : Word
  cmpva : Word
  ctxva : Word
  mcmdva : Word
  slva : Word
  recva : Word
  recPa : Nat
  image : Word
  /-- owned units of 64 KiB, by physical address divided by 65,536 -/
  units : List Nat
  /-- slot-table entries: table and index -/
  slots : List (Nat × Nat)
  writes : List (Nat × List Byte)
  deriving DecidableEq, Repr

/-- The instructions and the events of the opcode table, one constructor for each row. An instruction of R61 carries its common
header (R45) and its operand fields; an event carries what its agent brings. -/
inductive Instr where
  /-- ADD: major 0x01, minor 0x00 (R61). -/
  | add (h : Hdr) (f : FRR)
  /-- SUB: major 0x01, minor 0x01 (R61). -/
  | sub (h : Hdr) (f : FRR)
  /-- MUL: major 0x01, minor 0x02 (R61). -/
  | mul (h : Hdr) (f : FRR)
  /-- MULH: major 0x01, minor 0x03 (R61). -/
  | mulh (h : Hdr) (f : FRR)
  /-- DIV: major 0x01, minor 0x04 (R61). -/
  | div (h : Hdr) (f : FRR)
  /-- REM: major 0x01, minor 0x05 (R61). -/
  | rem (h : Hdr) (f : FRR)
  /-- AND: major 0x01, minor 0x06 (R61). -/
  | and (h : Hdr) (f : FRR)
  /-- OR: major 0x01, minor 0x07 (R61). -/
  | or (h : Hdr) (f : FRR)
  /-- XOR: major 0x01, minor 0x08 (R61). -/
  | xor (h : Hdr) (f : FRR)
  /-- SHL: major 0x01, minor 0x09 (R61). -/
  | shl (h : Hdr) (f : FRR)
  /-- SHR: major 0x01, minor 0x0A (R61). -/
  | shr (h : Hdr) (f : FRR)
  /-- SAR: major 0x01, minor 0x0B (R61). -/
  | sar (h : Hdr) (f : FRR)
  /-- ROT: major 0x01, minor 0x0C (R61). -/
  | rot (h : Hdr) (f : FRR)
  /-- MIN: major 0x01, minor 0x0D (R61). -/
  | min (h : Hdr) (f : FRR)
  /-- MAX: major 0x01, minor 0x0E (R61). -/
  | max (h : Hdr) (f : FRR)
  /-- CLZ: major 0x01, minor 0x0F (R61). -/
  | clz (h : Hdr) (f : FRR)
  /-- POPC: major 0x01, minor 0x10 (R61). -/
  | popc (h : Hdr) (f : FRR)
  /-- SEL: major 0x01, minor 0x11 (R61). -/
  | sel (h : Hdr) (f : FRR)
  /-- MOV: major 0x01, minor 0x12 (R61). -/
  | mov (h : Hdr) (f : FRR)
  /-- CMP_EQ: major 0x02, minor 0x00 (R61). -/
  | cmpEq (h : Hdr) (f : FRR)
  /-- CMP_NE: major 0x02, minor 0x01 (R61). -/
  | cmpNe (h : Hdr) (f : FRR)
  /-- CMP_LT: major 0x02, minor 0x02 (R61). -/
  | cmpLt (h : Hdr) (f : FRR)
  /-- CMP_LE: major 0x02, minor 0x03 (R61). -/
  | cmpLe (h : Hdr) (f : FRR)
  /-- CMP_LTU: major 0x02, minor 0x04 (R61). -/
  | cmpLtu (h : Hdr) (f : FRR)
  /-- CMP_LEU: major 0x02, minor 0x05 (R61). -/
  | cmpLeu (h : Hdr) (f : FRR)
  /-- ADDI: major 0x03, minor 0x00 (R61). -/
  | addi (h : Hdr) (f : FRI)
  /-- LDI: major 0x03, minor 0x01 (R61). -/
  | ldi (h : Hdr) (f : FLI)
  /-- LDIH: major 0x03, minor 0x02 (R61). -/
  | ldih (h : Hdr) (f : FLI)
  /-- BR: major 0x08, minor 0x00 (R61). -/
  | br (h : Hdr) (f : FBR)
  /-- BRC: major 0x08, minor 0x01 (R61). -/
  | brc (h : Hdr) (f : FBR)
  /-- CALL: major 0x08, minor 0x02 (R61). -/
  | call (h : Hdr) (f : FBR)
  /-- RET: major 0x08, minor 0x03 (R61). -/
  | ret (h : Hdr) (f : FBR)
  /-- LOOP: major 0x09, minor 0x00 (R61). -/
  | loop (h : Hdr) (f : FLP)
  /-- LCLAMP: major 0x09, minor 0x01 (R61). -/
  | lclamp (h : Hdr) (f : FLP)
  /-- SETC_REGISTER: major 0x0C, minor 0x00 (R61). -/
  | setcRegister (h : Hdr) (f : FRR)
  /-- SETC_IMMEDIATE: major 0x0C, minor 0x01 (R61). -/
  | setcImmediate (h : Hdr) (f : FCI)
  /-- ADVC: major 0x0C, minor 0x02 (R61). -/
  | advc (h : Hdr) (f : FRR)
  /-- GETC: major 0x0C, minor 0x03 (R61). -/
  | getc (h : Hdr) (f : FRR)
  /-- GETFR: major 0x0C, minor 0x04 (R61). -/
  | getfr (h : Hdr) (f : FRR)
  /-- TOK: major 0x0D, minor 0x00 (R61). -/
  | tok (h : Hdr) (f : FRR)
  /-- BIND: major 0x0D, minor 0x01 (R61). -/
  | bind (h : Hdr) (f : FRR)
  /-- QDROP: major 0x0E, minor 0x00 (R61). -/
  | qdrop (h : Hdr) (f : FRR)
  /-- QDEPTH: major 0x0E, minor 0x01 (R61). -/
  | qdepth (h : Hdr) (f : FRR)
  /-- QCLR: major 0x0E, minor 0x02 (R61). -/
  | qclr (h : Hdr) (f : FRR)
  /-- SRD: major 0x10, minor 0x00 (R61). -/
  | srd (h : Hdr) (f : FRR)
  /-- SWR: major 0x10, minor 0x01 (R61). -/
  | swr (h : Hdr) (f : FRR)
  /-- SWR_STOPAT: major 0x10, minor 0x01 (R61). -/
  | swrStopat (h : Hdr) (f : FRR)
  /-- SWR_EVMASK: major 0x10, minor 0x01 (R61). -/
  | swrEvmask (h : Hdr) (f : FRR)
  /-- SWR_RMODE: major 0x10, minor 0x01 (R61). -/
  | swrRmode (h : Hdr) (f : FRR)
  /-- SWR_SRSEED: major 0x10, minor 0x01 (R61). -/
  | swrSrseed (h : Hdr) (f : FRR)
  /-- SWR_MSEED: major 0x10, minor 0x01 (R61). -/
  | swrMseed (h : Hdr) (f : FRR)
  /-- SWR_TRAPREC: major 0x10, minor 0x01 (R61). -/
  | swrTraprec (h : Hdr) (f : FRR)
  /-- SWR_EMAP: major 0x10, minor 0x01 (R61). -/
  | swrEmap (h : Hdr) (f : FRR)
  /-- SWR_EGCFG: major 0x10, minor 0x01 (R61). -/
  | swrEgcfg (h : Hdr) (f : FRR)
  /-- SWR_CKPAIR: major 0x10, minor 0x01 (R61). -/
  | swrCkpair (h : Hdr) (f : FRR)
  /-- TRAP: major 0x10, minor 0x02 (R61). -/
  | trap (h : Hdr) (f : FRI)
  /-- ERET: major 0x10, minor 0x03 (R61). -/
  | eret (h : Hdr) (f : FRR)
  /-- WAITEV: major 0x10, minor 0x04 (R61). -/
  | waitev (h : Hdr) (f : FRR)
  /-- YIELD: major 0x10, minor 0x05 (R61). -/
  | yield (h : Hdr) (f : FRR)
  /-- FENCE: major 0x11, minor 0x00 (R61). -/
  | fence (h : Hdr) (f : FRR)
  /-- STOPAT_REGISTER: major 0x11, minor 0x01 (R61). -/
  | stopatRegister (h : Hdr) (f : FRR)
  /-- STOPAT_IMMEDIATE: major 0x11, minor 0x02 (R61). -/
  | stopatImmediate (h : Hdr) (f : FCI)
  /-- RESUME: major 0x11, minor 0x03 (R61). -/
  | resume (h : Hdr) (f : FRR)
  /-- SPAWN: major 0x12, minor 0x00 (R61). -/
  | spawn (h : Hdr) (f : FRR)
  /-- RDV: major 0x12, minor 0x01 (R61). -/
  | rdv (h : Hdr) (f : FRR)
  /-- MBOX: major 0x12, minor 0x02 (R61). -/
  | mbox (h : Hdr) (f : FRR)
  /-- SEMW: major 0x13, minor 0x00 (R61). -/
  | semw (h : Hdr) (f : FRR)
  /-- SEMS: major 0x13, minor 0x01 (R61). -/
  | sems (h : Hdr) (f : FRR)
  /-- SEMWT: major 0x13, minor 0x02 (R61). -/
  | semwt (h : Hdr) (f : FRR)
  /-- BARR: major 0x14, minor 0x00 (R61). -/
  | barr (h : Hdr) (f : FRR)
  /-- SSTEP: major 0x14, minor 0x01 (R61). -/
  | sstep (h : Hdr) (f : FRR)
  /-- SEND: major 0x14, minor 0x02 (R61). -/
  | send (h : Hdr) (f : FM)
  /-- TLBI_PAGE: major 0x15, minor 0x00 (R61). -/
  | tlbiPage (h : Hdr) (f : FRR)
  /-- TLBI_TENANT: major 0x15, minor 0x00 (R61). -/
  | tlbiTenant (h : Hdr) (f : FRR)
  /-- BKPT: major 0x16, minor 0x00 (R61). -/
  | bkpt (h : Hdr) (f : FRR)
  /-- SNAP: major 0x16, minor 0x01 (R61). -/
  | snap (h : Hdr) (f : FRR)
  /-- TMARK: major 0x16, minor 0x02 (R61). -/
  | tmark (h : Hdr) (f : FRR)
  /-- LD: major 0x18, minor 0x00 (R61). -/
  | ld (h : Hdr) (f : FM)
  /-- LDT: major 0x18, minor 0x01 (R61). -/
  | ldt (h : Hdr) (f : FM)
  /-- GATHER: major 0x19, minor 0x00 (R61). -/
  | gather (h : Hdr) (f : FM)
  /-- GEN: major 0x1A, minor 0x00 (R61). -/
  | gen (h : Hdr) (f : FRR)
  /-- GEN_BASE: major 0x1A, minor 0x00 (R61). -/
  | genBase (h : Hdr) (f : FRR)
  /-- GEN_COEF: major 0x1A, minor 0x00 (R61). -/
  | genCoef (h : Hdr) (f : FRR)
  /-- CPY: major 0x1B, minor 0x00 (R61). -/
  | cpy (h : Hdr) (f : FM)
  /-- CPY_THREE_LEVELS: major 0x1B, minor 0x01 (R61). -/
  | cpyThreeLevels (h : Hdr) (f : FME)
  /-- PUB: major 0x1B, minor 0x02 (R61). -/
  | pub (h : Hdr) (f : FM)
  /-- RLD: major 0x1C, minor 0x00 (R61). -/
  | rld (h : Hdr) (f : FM)
  /-- ST: major 0x20, minor 0x00 (R61). -/
  | st (h : Hdr) (f : FM)
  /-- STT: major 0x20, minor 0x01 (R61). -/
  | stt (h : Hdr) (f : FM)
  /-- SCATTER: major 0x21, minor 0x00 (R61). -/
  | scatter (h : Hdr) (f : FM)
  /-- RST: major 0x22, minor 0x00 (R61). -/
  | rst (h : Hdr) (f : FM)
  /-- RSTA: major 0x22, minor 0x01 (R61). -/
  | rsta (h : Hdr) (f : FM)
  /-- RAT: major 0x22, minor 0x02 (R61). -/
  | rat (h : Hdr) (f : FM)
  /-- AADD: major 0x28, minor 0x00 (R61). -/
  | aadd (h : Hdr) (f : FM)
  /-- AXCH: major 0x28, minor 0x01 (R61). -/
  | axch (h : Hdr) (f : FM)
  /-- ACAS: major 0x28, minor 0x02 (R61). -/
  | acas (h : Hdr) (f : FM)
  /-- AINCW: major 0x28, minor 0x03 (R61). -/
  | aincw (h : Hdr) (f : FM)
  /-- AFADDB: major 0x28, minor 0x04 (R61). -/
  | afaddb (h : Hdr) (f : FM)
  /-- AWAIT: major 0x28, minor 0x05 (R61). -/
  | await (h : Hdr) (f : FM)
  /-- VADD: major 0x30, minor 0x00 (R61). -/
  | vadd (h : Hdr) (f : FVB)
  /-- VADD_VF: major 0x30, minor 0x00 (R61). -/
  | vaddVf (h : Hdr) (f : FVF)
  /-- VSUB: major 0x30, minor 0x01 (R61). -/
  | vsub (h : Hdr) (f : FVB)
  /-- VSUB_VF: major 0x30, minor 0x01 (R61). -/
  | vsubVf (h : Hdr) (f : FVF)
  /-- VMUL: major 0x30, minor 0x02 (R61). -/
  | vmul (h : Hdr) (f : FVB)
  /-- VMUL_VF: major 0x30, minor 0x02 (R61). -/
  | vmulVf (h : Hdr) (f : FVF)
  /-- VFMA: major 0x30, minor 0x03 (R61). -/
  | vfma (h : Hdr) (f : FVB)
  /-- VFMA_VF: major 0x30, minor 0x03 (R61). -/
  | vfmaVf (h : Hdr) (f : FVF)
  /-- VDIV: major 0x30, minor 0x04 (R61). -/
  | vdiv (h : Hdr) (f : FVB)
  /-- VDIV_VF: major 0x30, minor 0x04 (R61). -/
  | vdivVf (h : Hdr) (f : FVF)
  /-- VABS: major 0x30, minor 0x05 (R61). -/
  | vabs (h : Hdr) (f : FVB)
  /-- VABS_VF: major 0x30, minor 0x05 (R61). -/
  | vabsVf (h : Hdr) (f : FVF)
  /-- VNEG: major 0x30, minor 0x06 (R61). -/
  | vneg (h : Hdr) (f : FVB)
  /-- VNEG_VF: major 0x30, minor 0x06 (R61). -/
  | vnegVf (h : Hdr) (f : FVF)
  /-- VMIN: major 0x30, minor 0x07 (R61). -/
  | vmin (h : Hdr) (f : FVB)
  /-- VMIN_VF: major 0x30, minor 0x07 (R61). -/
  | vminVf (h : Hdr) (f : FVF)
  /-- VMAX: major 0x30, minor 0x08 (R61). -/
  | vmax (h : Hdr) (f : FVB)
  /-- VMAX_VF: major 0x30, minor 0x08 (R61). -/
  | vmaxVf (h : Hdr) (f : FVF)
  /-- VMINP: major 0x30, minor 0x09 (R61). -/
  | vminp (h : Hdr) (f : FVB)
  /-- VMINP_VF: major 0x30, minor 0x09 (R61). -/
  | vminpVf (h : Hdr) (f : FVF)
  /-- VMAXP: major 0x30, minor 0x0A (R61). -/
  | vmaxp (h : Hdr) (f : FVB)
  /-- VMAXP_VF: major 0x30, minor 0x0A (R61). -/
  | vmaxpVf (h : Hdr) (f : FVF)
  /-- VCMP: major 0x31, minor 0x00 (R61). -/
  | vcmp (h : Hdr) (f : FVB)
  /-- VSEL: major 0x31, minor 0x01 (R61). -/
  | vsel (h : Hdr) (f : FVB)
  /-- VSEL_VF: major 0x31, minor 0x01 (R61). -/
  | vselVf (h : Hdr) (f : FVF)
  /-- VAND: major 0x31, minor 0x02 (R61). -/
  | vand (h : Hdr) (f : FVB)
  /-- VAND_VF: major 0x31, minor 0x02 (R61). -/
  | vandVf (h : Hdr) (f : FVF)
  /-- VOR: major 0x31, minor 0x03 (R61). -/
  | vor (h : Hdr) (f : FVB)
  /-- VOR_VF: major 0x31, minor 0x03 (R61). -/
  | vorVf (h : Hdr) (f : FVF)
  /-- VXOR: major 0x31, minor 0x04 (R61). -/
  | vxor (h : Hdr) (f : FVB)
  /-- VXOR_VF: major 0x31, minor 0x04 (R61). -/
  | vxorVf (h : Hdr) (f : FVF)
  /-- VSHL: major 0x31, minor 0x05 (R61). -/
  | vshl (h : Hdr) (f : FVB)
  /-- VSHL_VF: major 0x31, minor 0x05 (R61). -/
  | vshlVf (h : Hdr) (f : FVF)
  /-- VSHR: major 0x31, minor 0x06 (R61). -/
  | vshr (h : Hdr) (f : FVB)
  /-- VSHR_VF: major 0x31, minor 0x06 (R61). -/
  | vshrVf (h : Hdr) (f : FVF)
  /-- VCVT: major 0x32, minor 0x00 (R61). -/
  | vcvt (h : Hdr) (f : FVB)
  /-- VCVT_VF: major 0x32, minor 0x00 (R61). -/
  | vcvtVf (h : Hdr) (f : FVF)
  /-- VQMX: major 0x32, minor 0x01 (R61). -/
  | vqmx (h : Hdr) (f : FVB)
  /-- VQMX_VF: major 0x32, minor 0x01 (R61). -/
  | vqmxVf (h : Hdr) (f : FVF)
  /-- VDQMX: major 0x32, minor 0x02 (R61). -/
  | vdqmx (h : Hdr) (f : FVB)
  /-- VDQMX_VF: major 0x32, minor 0x02 (R61). -/
  | vdqmxVf (h : Hdr) (f : FVF)
  /-- VEXP2: major 0x32, minor 0x03 (R61). -/
  | vexp2 (h : Hdr) (f : FVB)
  /-- VEXP2_VF: major 0x32, minor 0x03 (R61). -/
  | vexp2Vf (h : Hdr) (f : FVF)
  /-- VLOG2: major 0x32, minor 0x04 (R61). -/
  | vlog2 (h : Hdr) (f : FVB)
  /-- VLOG2_VF: major 0x32, minor 0x04 (R61). -/
  | vlog2Vf (h : Hdr) (f : FVF)
  /-- VRCP: major 0x32, minor 0x05 (R61). -/
  | vrcp (h : Hdr) (f : FVB)
  /-- VRCP_VF: major 0x32, minor 0x05 (R61). -/
  | vrcpVf (h : Hdr) (f : FVF)
  /-- VRSQ: major 0x32, minor 0x06 (R61). -/
  | vrsq (h : Hdr) (f : FVB)
  /-- VRSQ_VF: major 0x32, minor 0x06 (R61). -/
  | vrsqVf (h : Hdr) (f : FVF)
  /-- VTANH: major 0x32, minor 0x07 (R61). -/
  | vtanh (h : Hdr) (f : FVB)
  /-- VTANH_VF: major 0x32, minor 0x07 (R61). -/
  | vtanhVf (h : Hdr) (f : FVF)
  /-- VROTR: major 0x33, minor 0x00 (R61). -/
  | vrotr (h : Hdr) (f : FVB)
  /-- VROTC: major 0x33, minor 0x01 (R61). -/
  | vrotc (h : Hdr) (f : FVB)
  /-- VBCR: major 0x33, minor 0x02 (R61). -/
  | vbcr (h : Hdr) (f : FVB)
  /-- VBCC: major 0x33, minor 0x03 (R61). -/
  | vbcc (h : Hdr) (f : FVB)
  /-- VREDR: major 0x33, minor 0x04 (R61). -/
  | vredr (h : Hdr) (f : FVB)
  /-- VREDC: major 0x33, minor 0x05 (R61). -/
  | vredc (h : Hdr) (f : FVB)
  /-- VTRN: major 0x33, minor 0x06 (R61). -/
  | vtrn (h : Hdr) (f : FVB)
  /-- VNETSET: major 0x34, minor 0x00 (R61). -/
  | vnetset (h : Hdr) (f : FVB)
  /-- VNET: major 0x34, minor 0x01 (R61). -/
  | vnet (h : Hdr) (f : FVB)
  /-- VLD: major 0x35, minor 0x00 (R61). -/
  | vld (h : Hdr) (f : FVB)
  /-- VLD_VF: major 0x35, minor 0x00 (R61). -/
  | vldVf (h : Hdr) (f : FVF)
  /-- VST: major 0x35, minor 0x01 (R61). -/
  | vst (h : Hdr) (f : FVB)
  /-- VST_VF: major 0x35, minor 0x01 (R61). -/
  | vstVf (h : Hdr) (f : FVF)
  /-- VGEN: major 0x35, minor 0x02 (R61). -/
  | vgen (h : Hdr) (f : FVB)
  /-- VADD_NEST: major 0x38, minor 0x00 (R61). -/
  | vaddNest (h : Hdr) (f : FVN)
  /-- VSUB_NEST: major 0x38, minor 0x01 (R61). -/
  | vsubNest (h : Hdr) (f : FVN)
  /-- VMUL_NEST: major 0x38, minor 0x02 (R61). -/
  | vmulNest (h : Hdr) (f : FVN)
  /-- VDIV_NEST: major 0x38, minor 0x04 (R61). -/
  | vdivNest (h : Hdr) (f : FVN)
  /-- VABS_NEST: major 0x38, minor 0x05 (R61). -/
  | vabsNest (h : Hdr) (f : FVN)
  /-- VNEG_NEST: major 0x38, minor 0x06 (R61). -/
  | vnegNest (h : Hdr) (f : FVN)
  /-- VMIN_NEST: major 0x38, minor 0x07 (R61). -/
  | vminNest (h : Hdr) (f : FVN)
  /-- VMAX_NEST: major 0x38, minor 0x08 (R61). -/
  | vmaxNest (h : Hdr) (f : FVN)
  /-- VMINP_NEST: major 0x38, minor 0x09 (R61). -/
  | vminpNest (h : Hdr) (f : FVN)
  /-- VMAXP_NEST: major 0x38, minor 0x0A (R61). -/
  | vmaxpNest (h : Hdr) (f : FVN)
  /-- VAND_NEST: major 0x38, minor 0x12 (R61). -/
  | vandNest (h : Hdr) (f : FVN)
  /-- VOR_NEST: major 0x38, minor 0x13 (R61). -/
  | vorNest (h : Hdr) (f : FVN)
  /-- VXOR_NEST: major 0x38, minor 0x14 (R61). -/
  | vxorNest (h : Hdr) (f : FVN)
  /-- VSHL_NEST: major 0x38, minor 0x15 (R61). -/
  | vshlNest (h : Hdr) (f : FVN)
  /-- VSHR_NEST: major 0x38, minor 0x16 (R61). -/
  | vshrNest (h : Hdr) (f : FVN)
  /-- VCVT_NEST: major 0x38, minor 0x20 (R61). -/
  | vcvtNest (h : Hdr) (f : FVN)
  /-- VREDR_NEST: major 0x38, minor 0x24 (R61). -/
  | vredrNest (h : Hdr) (f : FVN)
  /-- MFMT: major 0x3C, minor 0x00 (R61). -/
  | mfmt (h : Hdr) (f : FRR)
  /-- MCB: major 0x3C, minor 0x01 (R61). -/
  | mcb (h : Hdr) (f : FM)
  /-- MMA: major 0x3C, minor 0x02 (R61). -/
  | mma (h : Hdr) (f : FMX)
  /-- MCOMMIT: major 0x3D, minor 0x00 (R61). -/
  | mcommit (h : Hdr) (f : FRR)
  /-- MWAIT: major 0x3D, minor 0x01 (R61). -/
  | mwait (h : Hdr) (f : FRR)
  /-- MRD: major 0x3D, minor 0x02 (R61). -/
  | mrd (h : Hdr) (f : FRR)
  /-- MWR: major 0x3D, minor 0x03 (R61). -/
  | mwr (h : Hdr) (f : FRR)
  /-- MZERO: major 0x3D, minor 0x04 (R61). -/
  | mzero (h : Hdr) (f : FRR)
  /-- MSTL: major 0x3D, minor 0x05 (R61). -/
  | mstl (h : Hdr) (f : FM)
  /-- MSTF: major 0x3D, minor 0x06 (R61). -/
  | mstf (h : Hdr) (f : FM)
  /-- MSEED: major 0x3D, minor 0x07 (R61). -/
  | mseed (h : Hdr) (f : FRR)
  /-- Event LCLAMP_APPLY. R75: the k-th pending clamp is applied to its target. -/
  | lclampApply (k : Nat)
  /-- Event CKSEAL_SEAL. R371: the k-th released CKSEAL request, a seal, begins. -/
  | cksealSeal (k : Nat)
  /-- Event CKSEAL_RESTORE. R372: the k-th released CKSEAL request, a restore, begins. -/
  | cksealRestore (k : Nat)
  /-- Event CKSEAL_DUMP. R373: the k-th released CKSEAL request, a dump, begins. -/
  | cksealDump (k : Nat)
  /-- Event ADVANCE. R39: the stream makes its pending advance if its lead allows. -/
  | advance (core : CoreId) (st : StreamId)
  /-- Event ENTRY_FILL. R20: the pending operation with this number fills its entry. -/
  | entryFill (core : CoreId) (id : Nat)
  /-- Event TOKEN_PUSH. R28, R29: the oldest waiting push of the stream in that direction. -/
  | tokenPush (core : CoreId) (st : StreamId) (toNext : Bool)
  /-- Event ENGINE_COMMAND_START. R108, R113, R218: the engine starts the command with this number. -/
  | engineCommandStart (core : CoreId) (e : Engine) (id : Nat)
  /-- Event ENGINE_COMMAND_COMPLETE. R28: the engine completes the started command with this number. -/
  | engineCommandComplete (core : CoreId) (e : Engine) (id : Nat)
  /-- Event CHANNEL_ELEMENT_DELIVERY. R110: the copy at the channel delivers its next element. -/
  | channelElementDelivery (core : CoreId) (ch : BitVec 3)
  /-- Event LANDING_COMPLETE. R125: the landing of the job on this core completes. -/
  | landingComplete (core : CoreId)
  /-- Event STUCK_WAIT_TRAP. R125: the stuck waits of a landing trap. -/
  | stuckWaitTrap (core : CoreId)
  /-- Event HARD_PREEMPTION. R140: a pending hard pre-emption reaches the job on this core. -/
  | hardPreemption (core : CoreId)
  /-- Event JOB_CHOICE. R298: a free core chooses its first waiting job. -/
  | jobChoice (core : CoreId)
  /-- Event LAUNCH_START. R298, R148: a launch held by all of its cores starts. -/
  | launchStart (handle : BitVec 32)
  /-- Event JOB_AGING. R297: a waiting job rises a level. -/
  | jobAging (core : CoreId) (slot : BitVec 3)
  /-- Event LAUNCH_OFFER. R301: the launch unit checks the k-th sent SPAWN and offers it. -/
  | launchOffer (k : Nat)
  /-- Event SPAWN_STATUS_FILL. R92: the status of the k-th answered SPAWN fills its entry. -/
  | spawnStatusFill (k : Nat)
  /-- Event JOB_END. R93: the job on this core ends. -/
  | jobEnd (core : CoreId)
  /-- Event EVENT_ENTRY. R259: the supervisor enters its vectored entry. -/
  | eventEntry (p : PartId)
  /-- Event TIMER_FIRE. R257: the armed timer of the partition fires. -/
  | timerFire (p : PartId)
  /-- Event SEMAPHORE_WAIT_SERVED. R252: the oldest waiter of a physical semaphore is served. -/
  | semaphoreWaitServed (cl : BitVec 6) (sem : BitVec 8)
  /-- Event SEMWT_TIMEOUT. R253: the SEMWT waiting on this core times out. -/
  | semwtTimeout (core : CoreId)
  /-- Event BARRIER_ARRIVAL. R266, R267: the oldest held arrival of the job is counted. -/
  | barrierArrival (core : CoreId) (crew : Bool)
  /-- Event BARRIER_TIMEOUT. R309: the timed barrier wait on this core times out. -/
  | barrierTimeout (core : CoreId)
  /-- Event SUPERSTEP_PASSAGE. R312: every participant of the launch has arrived and passes. -/
  | superstepPassage (handle : BitVec 32)
  /-- Event SEND_CHUNK_DEPARTURE. R311: the released SEND with this number sends its next chunk. -/
  | sendChunkDeparture (core : CoreId) (id : Nat)
  /-- Event SEND_CHUNK_ARRIVAL. R311: the k-th chunk in flight is written at its target. -/
  | sendChunkArrival (k : Nat)
  /-- Event ATOMIC_APPLY. R245, R248: the pending atomic with this number is applied. -/
  | atomicApply (core : CoreId) (id : Nat)
  /-- Event AWAIT_SATISFIED. R244: the pending AWAIT with this number finds its condition true. -/
  | awaitSatisfied (core : CoreId) (id : Nat)
  /-- Event REMOTE_STORE_APPLY. R116: the k-th remote request, a store, accumulation or atomic, is applied at its target. -/
  | remoteStoreApply (k : Nat)
  /-- Event REMOTE_READ. R103, R276: the k-th remote request, a read, is answered at its target. -/
  | remoteRead (k : Nat)
  /-- Event REMOTE_FAILURE. R117, R356: the k-th remote request fails with the reason. -/
  | remoteFailure (k : Nat) (reason : BitVec 16)
  /-- Event PUB_FLIP. R112: the k-th released PUB exchanges the images. -/
  | pubFlip (k : Nat)
  /-- Event TLBI_EXECUTE. R286: the k-th released TLBI invalidates and answers. -/
  | tlbiExecute (k : Nat)
  /-- Event LOG_WAIT_RELEASE. R249: the k-th foreign write waiting for a log entry is released. -/
  | logWaitRelease (k : Nat)
  /-- Event PATROL_SCRUB. R290: the patrol scrubber visits a line; bad: its error cannot be corrected. -/
  | patrolScrub (die : DieId) (line : Nat) (bad : Bool)
  /-- Event FLEET_WRITE_ARRIVAL. R318: the k-th fleet message, a write, reaches its home die. -/
  | fleetWriteArrival (k : Nat)
  /-- Event FLEET_UPDATE_ARRIVAL. R318: the k-th fleet message, an update or tick, is applied. -/
  | fleetUpdateArrival (k : Nat)
  /-- Event FLEET_FETCH. R318: the k-th fleet message, a fetch, is served by its home die. -/
  | fleetFetch (k : Nat)
  /-- Event FLEET_FETCH_RECEIPT. R318: the k-th fleet message, a fetched line, is received. -/
  | fleetFetchReceipt (k : Nat)
  /-- Event MAILBOX_WRITE. R325, R326: a host write to a mailbox. -/
  | mailboxWrite (fn : Option PartId) (n : BitVec 4) (msg : List Byte) (whole : Bool)
  /-- Event HOST_BAR2_ACCESS. R325, R327: a host read or write of device memory through BAR2. -/
  | hostBar2Access (vf : PartId) (a : Nat) (write : Option (List Byte)) (len : Nat)
  /-- Event HOST_ATOMICOP. R241: a host AtomicOp: 0 FetchAdd, 1 Swap, 2 CAS. -/
  | hostAtomicop (vf : PartId) (a : Nat) (op : BitVec 2) (width : Nat) (v c : BitVec 32)
  /-- Event HOST_REGISTER_WRITE. R325, R339: a host write of a BAR0 register of a virtual function, or of function 0. -/
  | hostRegisterWrite (fn : Option PartId) (off : Nat) (v : Word)
  /-- Event PCTL_RESUME. R328: the host resumes the stopped supervisor. -/
  | pctlResume (vf : PartId)
  /-- Event PCTL_RESTART. R328: the host restarts the partition. -/
  | pctlRestart (vf : PartId)
  /-- Event VF_TEARDOWN. R329: the partition of a virtual function is torn down. -/
  | vfTeardown (p : PartId)
  /-- Event MITTEN_SAVE. R331: Mitten takes up a SAVE command. -/
  | mittenSave (p : PartId) (slot : Nat)
  /-- Event MITTEN_SAVELIVE. R331: Mitten takes up a SAVELIVE command. -/
  | mittenSavelive (p : PartId) (slot : Nat)
  /-- Event MITTEN_SAVE_DONE. R332, R342: the k-th save in progress completes. -/
  | mittenSaveDone (k : Nat)
  /-- Event GOVERNOR_WINDOW. R238: a window begins with the budget set for it. -/
  | governorWindow (core : CoreId)
  /-- Event POWER_MEASUREMENT. R340: the governor measures power and temperatures. -/
  | powerMeasurement (power : BitVec 32) (temps : List (BitVec 16))
  /-- Event ATTESTATION_NONCE. R336: the host writes an attestation nonce of a virtual function, or of function 0. -/
  | attestationNonce (fn : Option PartId) (nonce : List Byte)
  /-- Event QUOTE_READY. R336: Crown delivers the quote. -/
  | quoteReady (fn : Option PartId) (quote : List Byte)
  /-- Event CREATE_PARTITION. R339, R321: a request to create a partition, with what Brim proposes. -/
  | createPartition (req : List Byte) (plan : Plan)
  /-- Event DESTROY_PARTITION. R339: a request to destroy a partition. -/
  | destroyPartition (req : List Byte)
  /-- Event READ_TELEMETRY. R339: a request to read telemetry. -/
  | readTelemetry (req : List Byte)
  /-- Event SET_PERSONALITY. R339: a request to set the personality of a group. -/
  | setPersonality (req : List Byte)
  /-- Event SET_NODE. R339: a request to set the node and the extents. -/
  | setNode (req : List Byte)
  /-- Event BRIM_TIMEOUT. R338: Brim has not answered in time. -/
  | brimTimeout
  /-- Event RECOVERY_MESSAGE. R338: a recovery message. -/
  | recoveryMessage (msg : List Byte)
  /-- Event POWER_GOOD. R341: power is good and bring-up takes its next step. -/
  | powerGood
  /-- Event PERSONALITY_CHANGE. R361: a group changes to its requested personality. -/
  | personalityChange (g : BitVec 4)
  /-- Event LINK_DROP. R361, R352: a group drops its link. -/
  | linkDrop (g : BitVec 4)
  /-- Event LINK_TRAINED. R360, R364: training of a link completes; from 16 on, a die link. -/
  | linkTrained (g : BitVec 5) (width : BitVec 8) (speed : BitVec 4)
  /-- Event LINK_DOWN. R352, R360: a link has gone down; from 16 on, a die link. -/
  | linkDown (g : BitVec 5) (reason : BitVec 8)
  /-- Event FLEET_SPLIT. R367: a fleet loses a link and ends. -/
  | fleetSplit (handle : BitVec 32)
  /-- Event LSD. R362, R363: a peer descriptor arrives. -/
  | lsd (g : BitVec 5) (flit : List Byte)
  /-- Event SWAPREQ. R362, R365: a lane-swap request arrives. -/
  | swapreq (g : BitVec 5) (flit : List Byte)
  /-- Event SWAPACK. R362, R365: a lane-swap answer arrives. -/
  | swapack (g : BitVec 5) (flit : List Byte)
  /-- Event KEYCHG. R362, R366: a key change arrives. -/
  | keychg (g : BitVec 5) (flit : List Byte)
  /-- Event KEYACK. R362, R366: a key answer arrives. -/
  | keyack (g : BitVec 5) (flit : List Byte)
  /-- Event PERSREQ. R361, R362: a personality request arrives. -/
  | persreq (g : BitVec 4) (flit : List Byte)
  /-- Event PERSACK. R361, R362: a personality answer arrives. -/
  | persack (g : BitVec 4) (flit : List Byte)
  /-- Event TIME. R346, R362: a time flit arrives. -/
  | time (g : BitVec 4) (flit : List Byte)
  /-- Event TIME_FLIT_SEND. R346: a time flit is sent. -/
  | timeFlitSend (g : BitVec 4)
  /-- Event LANE_HEALTH_SAMPLE. R365: a lane has been sampled: flits, corrected flits, and the eye margin in percent of nominal. -/
  | laneHealthSample (g : BitVec 5) (lane : BitVec 5) (flits corrected eye : Nat)
  /-- Event KEY_ROTATION. R366: this side begins a key change. -/
  | keyRotation (g : BitVec 5)
  /-- Event KEEPER_STORE. R370: a store of the pair partner reaches the keeper region. -/
  | keeperStore (p : PartId) (g a : Nat) (data : List Byte)
  /-- Event SEAL. R371: SEAL(g) reaches this keeper; or, with a result, the partner has sealed generation g of this owner. -/
  | sealSet (p : PartId) (g : Nat) (result : Option (Nat × List Byte))
  /-- Event TCTL. R393: the host writes TCTL. -/
  | tctl (vf : PartId) (v : Word)
  /-- Event TRBASE. R392: the host writes TRBASE. -/
  | trbase (vf : PartId) (v : Word)
  /-- Event TRSIZE. R392: the host writes TRSIZE. -/
  | trsize (vf : PartId) (v : Word)
  /-- Event TRIGAT. R396: the timed trigger of a partition fires. -/
  | trigat (vf : PartId)
  /-- Event DBGSTOP. R392: the host writes DBGSTOP. -/
  | dbgstop (vf : PartId) (v : Word)
  /-- Event SNAPSHOT_CAPTURE. R396, R397: a fired trigger captures a core. -/
  | snapshotCapture (p : PartId) (core : CoreId)
  /-- Event VF_ENABLE. R339, R341: the host sets VF Enable. -/
  | vfEnable (on : Bool)
  /-- Event REQUEST_TIMEOUT. R356: the k-th remote request has waited TOUT. -/
  | requestTimeout (k : Nat)
  /-- Event PAIRING. R368, R369: the partner answers with its feed identifier, its FORCE and its KWSIZE. -/
  | pairing (p : PartId) (feed : BitVec 16) (force : Bool) (kwsize : Nat)
  /-- Event CKSEAL_RESTORE_DONE. R372: the keeper has streamed a sealed generation. -/
  | cksealRestoreDone (p : PartId) (header : List Byte) (records pages : List (List Byte))
  /-- Event CKSEAL_DUMP_DONE. R373: a dump completes. -/
  | cksealDumpDone (p : PartId)
  deriving DecidableEq, Repr

/-- The parts of an encoded instruction. -/
structure Enc where
  major : BitVec 6
  minor : BitVec 6
  h : Hdr
  f : Fmt
  deriving DecidableEq, Repr

/-- The number of 64-bit words of a format (R51 to R60). -/
def Fmt.words : Fmt → Nat
  | .ci _ | .me _ | .vf _ | .mx _ => 2
  | .vn _ => 4
  | _ => 1

/-- The major and minor opcode, the header and the operand fields of an instruction (R61); an event has none. -/
def Instr.enc : Instr → Option Enc
  | .add h f => some ⟨0x01, 0x00, h, .rr f⟩
  | .sub h f => some ⟨0x01, 0x01, h, .rr f⟩
  | .mul h f => some ⟨0x01, 0x02, h, .rr f⟩
  | .mulh h f => some ⟨0x01, 0x03, h, .rr f⟩
  | .div h f => some ⟨0x01, 0x04, h, .rr f⟩
  | .rem h f => some ⟨0x01, 0x05, h, .rr f⟩
  | .and h f => some ⟨0x01, 0x06, h, .rr f⟩
  | .or h f => some ⟨0x01, 0x07, h, .rr f⟩
  | .xor h f => some ⟨0x01, 0x08, h, .rr f⟩
  | .shl h f => some ⟨0x01, 0x09, h, .rr f⟩
  | .shr h f => some ⟨0x01, 0x0A, h, .rr f⟩
  | .sar h f => some ⟨0x01, 0x0B, h, .rr f⟩
  | .rot h f => some ⟨0x01, 0x0C, h, .rr f⟩
  | .min h f => some ⟨0x01, 0x0D, h, .rr f⟩
  | .max h f => some ⟨0x01, 0x0E, h, .rr f⟩
  | .clz h f => some ⟨0x01, 0x0F, h, .rr f⟩
  | .popc h f => some ⟨0x01, 0x10, h, .rr f⟩
  | .sel h f => some ⟨0x01, 0x11, h, .rr f⟩
  | .mov h f => some ⟨0x01, 0x12, h, .rr f⟩
  | .cmpEq h f => some ⟨0x02, 0x00, h, .rr f⟩
  | .cmpNe h f => some ⟨0x02, 0x01, h, .rr f⟩
  | .cmpLt h f => some ⟨0x02, 0x02, h, .rr f⟩
  | .cmpLe h f => some ⟨0x02, 0x03, h, .rr f⟩
  | .cmpLtu h f => some ⟨0x02, 0x04, h, .rr f⟩
  | .cmpLeu h f => some ⟨0x02, 0x05, h, .rr f⟩
  | .addi h f => some ⟨0x03, 0x00, h, .ri f⟩
  | .ldi h f => some ⟨0x03, 0x01, h, .li f⟩
  | .ldih h f => some ⟨0x03, 0x02, h, .li f⟩
  | .br h f => some ⟨0x08, 0x00, h, .br f⟩
  | .brc h f => some ⟨0x08, 0x01, h, .br f⟩
  | .call h f => some ⟨0x08, 0x02, h, .br f⟩
  | .ret h f => some ⟨0x08, 0x03, h, .br f⟩
  | .loop h f => some ⟨0x09, 0x00, h, .lp f⟩
  | .lclamp h f => some ⟨0x09, 0x01, h, .lp f⟩
  | .setcRegister h f => some ⟨0x0C, 0x00, h, .rr f⟩
  | .setcImmediate h f => some ⟨0x0C, 0x01, h, .ci f⟩
  | .advc h f => some ⟨0x0C, 0x02, h, .rr f⟩
  | .getc h f => some ⟨0x0C, 0x03, h, .rr f⟩
  | .getfr h f => some ⟨0x0C, 0x04, h, .rr f⟩
  | .tok h f => some ⟨0x0D, 0x00, h, .rr f⟩
  | .bind h f => some ⟨0x0D, 0x01, h, .rr f⟩
  | .qdrop h f => some ⟨0x0E, 0x00, h, .rr f⟩
  | .qdepth h f => some ⟨0x0E, 0x01, h, .rr f⟩
  | .qclr h f => some ⟨0x0E, 0x02, h, .rr f⟩
  | .srd h f => some ⟨0x10, 0x00, h, .rr f⟩
  | .swr h f => some ⟨0x10, 0x01, h, .rr f⟩
  | .swrStopat h f => some ⟨0x10, 0x01, h, .rr f⟩
  | .swrEvmask h f => some ⟨0x10, 0x01, h, .rr f⟩
  | .swrRmode h f => some ⟨0x10, 0x01, h, .rr f⟩
  | .swrSrseed h f => some ⟨0x10, 0x01, h, .rr f⟩
  | .swrMseed h f => some ⟨0x10, 0x01, h, .rr f⟩
  | .swrTraprec h f => some ⟨0x10, 0x01, h, .rr f⟩
  | .swrEmap h f => some ⟨0x10, 0x01, h, .rr f⟩
  | .swrEgcfg h f => some ⟨0x10, 0x01, h, .rr f⟩
  | .swrCkpair h f => some ⟨0x10, 0x01, h, .rr f⟩
  | .trap h f => some ⟨0x10, 0x02, h, .ri f⟩
  | .eret h f => some ⟨0x10, 0x03, h, .rr f⟩
  | .waitev h f => some ⟨0x10, 0x04, h, .rr f⟩
  | .yield h f => some ⟨0x10, 0x05, h, .rr f⟩
  | .fence h f => some ⟨0x11, 0x00, h, .rr f⟩
  | .stopatRegister h f => some ⟨0x11, 0x01, h, .rr f⟩
  | .stopatImmediate h f => some ⟨0x11, 0x02, h, .ci f⟩
  | .resume h f => some ⟨0x11, 0x03, h, .rr f⟩
  | .spawn h f => some ⟨0x12, 0x00, h, .rr f⟩
  | .rdv h f => some ⟨0x12, 0x01, h, .rr f⟩
  | .mbox h f => some ⟨0x12, 0x02, h, .rr f⟩
  | .semw h f => some ⟨0x13, 0x00, h, .rr f⟩
  | .sems h f => some ⟨0x13, 0x01, h, .rr f⟩
  | .semwt h f => some ⟨0x13, 0x02, h, .rr f⟩
  | .barr h f => some ⟨0x14, 0x00, h, .rr f⟩
  | .sstep h f => some ⟨0x14, 0x01, h, .rr f⟩
  | .send h f => some ⟨0x14, 0x02, h, .m f⟩
  | .tlbiPage h f => some ⟨0x15, 0x00, h, .rr f⟩
  | .tlbiTenant h f => some ⟨0x15, 0x00, h, .rr f⟩
  | .bkpt h f => some ⟨0x16, 0x00, h, .rr f⟩
  | .snap h f => some ⟨0x16, 0x01, h, .rr f⟩
  | .tmark h f => some ⟨0x16, 0x02, h, .rr f⟩
  | .ld h f => some ⟨0x18, 0x00, h, .m f⟩
  | .ldt h f => some ⟨0x18, 0x01, h, .m f⟩
  | .gather h f => some ⟨0x19, 0x00, h, .m f⟩
  | .gen h f => some ⟨0x1A, 0x00, h, .rr f⟩
  | .genBase h f => some ⟨0x1A, 0x00, h, .rr f⟩
  | .genCoef h f => some ⟨0x1A, 0x00, h, .rr f⟩
  | .cpy h f => some ⟨0x1B, 0x00, h, .m f⟩
  | .cpyThreeLevels h f => some ⟨0x1B, 0x01, h, .me f⟩
  | .pub h f => some ⟨0x1B, 0x02, h, .m f⟩
  | .rld h f => some ⟨0x1C, 0x00, h, .m f⟩
  | .st h f => some ⟨0x20, 0x00, h, .m f⟩
  | .stt h f => some ⟨0x20, 0x01, h, .m f⟩
  | .scatter h f => some ⟨0x21, 0x00, h, .m f⟩
  | .rst h f => some ⟨0x22, 0x00, h, .m f⟩
  | .rsta h f => some ⟨0x22, 0x01, h, .m f⟩
  | .rat h f => some ⟨0x22, 0x02, h, .m f⟩
  | .aadd h f => some ⟨0x28, 0x00, h, .m f⟩
  | .axch h f => some ⟨0x28, 0x01, h, .m f⟩
  | .acas h f => some ⟨0x28, 0x02, h, .m f⟩
  | .aincw h f => some ⟨0x28, 0x03, h, .m f⟩
  | .afaddb h f => some ⟨0x28, 0x04, h, .m f⟩
  | .await h f => some ⟨0x28, 0x05, h, .m f⟩
  | .vadd h f => some ⟨0x30, 0x00, h, .vb f⟩
  | .vaddVf h f => some ⟨0x30, 0x00, h, .vf f⟩
  | .vsub h f => some ⟨0x30, 0x01, h, .vb f⟩
  | .vsubVf h f => some ⟨0x30, 0x01, h, .vf f⟩
  | .vmul h f => some ⟨0x30, 0x02, h, .vb f⟩
  | .vmulVf h f => some ⟨0x30, 0x02, h, .vf f⟩
  | .vfma h f => some ⟨0x30, 0x03, h, .vb f⟩
  | .vfmaVf h f => some ⟨0x30, 0x03, h, .vf f⟩
  | .vdiv h f => some ⟨0x30, 0x04, h, .vb f⟩
  | .vdivVf h f => some ⟨0x30, 0x04, h, .vf f⟩
  | .vabs h f => some ⟨0x30, 0x05, h, .vb f⟩
  | .vabsVf h f => some ⟨0x30, 0x05, h, .vf f⟩
  | .vneg h f => some ⟨0x30, 0x06, h, .vb f⟩
  | .vnegVf h f => some ⟨0x30, 0x06, h, .vf f⟩
  | .vmin h f => some ⟨0x30, 0x07, h, .vb f⟩
  | .vminVf h f => some ⟨0x30, 0x07, h, .vf f⟩
  | .vmax h f => some ⟨0x30, 0x08, h, .vb f⟩
  | .vmaxVf h f => some ⟨0x30, 0x08, h, .vf f⟩
  | .vminp h f => some ⟨0x30, 0x09, h, .vb f⟩
  | .vminpVf h f => some ⟨0x30, 0x09, h, .vf f⟩
  | .vmaxp h f => some ⟨0x30, 0x0A, h, .vb f⟩
  | .vmaxpVf h f => some ⟨0x30, 0x0A, h, .vf f⟩
  | .vcmp h f => some ⟨0x31, 0x00, h, .vb f⟩
  | .vsel h f => some ⟨0x31, 0x01, h, .vb f⟩
  | .vselVf h f => some ⟨0x31, 0x01, h, .vf f⟩
  | .vand h f => some ⟨0x31, 0x02, h, .vb f⟩
  | .vandVf h f => some ⟨0x31, 0x02, h, .vf f⟩
  | .vor h f => some ⟨0x31, 0x03, h, .vb f⟩
  | .vorVf h f => some ⟨0x31, 0x03, h, .vf f⟩
  | .vxor h f => some ⟨0x31, 0x04, h, .vb f⟩
  | .vxorVf h f => some ⟨0x31, 0x04, h, .vf f⟩
  | .vshl h f => some ⟨0x31, 0x05, h, .vb f⟩
  | .vshlVf h f => some ⟨0x31, 0x05, h, .vf f⟩
  | .vshr h f => some ⟨0x31, 0x06, h, .vb f⟩
  | .vshrVf h f => some ⟨0x31, 0x06, h, .vf f⟩
  | .vcvt h f => some ⟨0x32, 0x00, h, .vb f⟩
  | .vcvtVf h f => some ⟨0x32, 0x00, h, .vf f⟩
  | .vqmx h f => some ⟨0x32, 0x01, h, .vb f⟩
  | .vqmxVf h f => some ⟨0x32, 0x01, h, .vf f⟩
  | .vdqmx h f => some ⟨0x32, 0x02, h, .vb f⟩
  | .vdqmxVf h f => some ⟨0x32, 0x02, h, .vf f⟩
  | .vexp2 h f => some ⟨0x32, 0x03, h, .vb f⟩
  | .vexp2Vf h f => some ⟨0x32, 0x03, h, .vf f⟩
  | .vlog2 h f => some ⟨0x32, 0x04, h, .vb f⟩
  | .vlog2Vf h f => some ⟨0x32, 0x04, h, .vf f⟩
  | .vrcp h f => some ⟨0x32, 0x05, h, .vb f⟩
  | .vrcpVf h f => some ⟨0x32, 0x05, h, .vf f⟩
  | .vrsq h f => some ⟨0x32, 0x06, h, .vb f⟩
  | .vrsqVf h f => some ⟨0x32, 0x06, h, .vf f⟩
  | .vtanh h f => some ⟨0x32, 0x07, h, .vb f⟩
  | .vtanhVf h f => some ⟨0x32, 0x07, h, .vf f⟩
  | .vrotr h f => some ⟨0x33, 0x00, h, .vb f⟩
  | .vrotc h f => some ⟨0x33, 0x01, h, .vb f⟩
  | .vbcr h f => some ⟨0x33, 0x02, h, .vb f⟩
  | .vbcc h f => some ⟨0x33, 0x03, h, .vb f⟩
  | .vredr h f => some ⟨0x33, 0x04, h, .vb f⟩
  | .vredc h f => some ⟨0x33, 0x05, h, .vb f⟩
  | .vtrn h f => some ⟨0x33, 0x06, h, .vb f⟩
  | .vnetset h f => some ⟨0x34, 0x00, h, .vb f⟩
  | .vnet h f => some ⟨0x34, 0x01, h, .vb f⟩
  | .vld h f => some ⟨0x35, 0x00, h, .vb f⟩
  | .vldVf h f => some ⟨0x35, 0x00, h, .vf f⟩
  | .vst h f => some ⟨0x35, 0x01, h, .vb f⟩
  | .vstVf h f => some ⟨0x35, 0x01, h, .vf f⟩
  | .vgen h f => some ⟨0x35, 0x02, h, .vb f⟩
  | .vaddNest h f => some ⟨0x38, 0x00, h, .vn f⟩
  | .vsubNest h f => some ⟨0x38, 0x01, h, .vn f⟩
  | .vmulNest h f => some ⟨0x38, 0x02, h, .vn f⟩
  | .vdivNest h f => some ⟨0x38, 0x04, h, .vn f⟩
  | .vabsNest h f => some ⟨0x38, 0x05, h, .vn f⟩
  | .vnegNest h f => some ⟨0x38, 0x06, h, .vn f⟩
  | .vminNest h f => some ⟨0x38, 0x07, h, .vn f⟩
  | .vmaxNest h f => some ⟨0x38, 0x08, h, .vn f⟩
  | .vminpNest h f => some ⟨0x38, 0x09, h, .vn f⟩
  | .vmaxpNest h f => some ⟨0x38, 0x0A, h, .vn f⟩
  | .vandNest h f => some ⟨0x38, 0x12, h, .vn f⟩
  | .vorNest h f => some ⟨0x38, 0x13, h, .vn f⟩
  | .vxorNest h f => some ⟨0x38, 0x14, h, .vn f⟩
  | .vshlNest h f => some ⟨0x38, 0x15, h, .vn f⟩
  | .vshrNest h f => some ⟨0x38, 0x16, h, .vn f⟩
  | .vcvtNest h f => some ⟨0x38, 0x20, h, .vn f⟩
  | .vredrNest h f => some ⟨0x38, 0x24, h, .vn f⟩
  | .mfmt h f => some ⟨0x3C, 0x00, h, .rr f⟩
  | .mcb h f => some ⟨0x3C, 0x01, h, .m f⟩
  | .mma h f => some ⟨0x3C, 0x02, h, .mx f⟩
  | .mcommit h f => some ⟨0x3D, 0x00, h, .rr f⟩
  | .mwait h f => some ⟨0x3D, 0x01, h, .rr f⟩
  | .mrd h f => some ⟨0x3D, 0x02, h, .rr f⟩
  | .mwr h f => some ⟨0x3D, 0x03, h, .rr f⟩
  | .mzero h f => some ⟨0x3D, 0x04, h, .rr f⟩
  | .mstl h f => some ⟨0x3D, 0x05, h, .m f⟩
  | .mstf h f => some ⟨0x3D, 0x06, h, .m f⟩
  | .mseed h f => some ⟨0x3D, 0x07, h, .rr f⟩
  | .lclampApply _ => none
  | .cksealSeal _ => none
  | .cksealRestore _ => none
  | .cksealDump _ => none
  | .advance _ _ => none
  | .entryFill _ _ => none
  | .tokenPush _ _ _ => none
  | .engineCommandStart _ _ _ => none
  | .engineCommandComplete _ _ _ => none
  | .channelElementDelivery _ _ => none
  | .landingComplete _ => none
  | .stuckWaitTrap _ => none
  | .hardPreemption _ => none
  | .jobChoice _ => none
  | .launchStart _ => none
  | .jobAging _ _ => none
  | .launchOffer _ => none
  | .spawnStatusFill _ => none
  | .jobEnd _ => none
  | .eventEntry _ => none
  | .timerFire _ => none
  | .semaphoreWaitServed _ _ => none
  | .semwtTimeout _ => none
  | .barrierArrival _ _ => none
  | .barrierTimeout _ => none
  | .superstepPassage _ => none
  | .sendChunkDeparture _ _ => none
  | .sendChunkArrival _ => none
  | .atomicApply _ _ => none
  | .awaitSatisfied _ _ => none
  | .remoteStoreApply _ => none
  | .remoteRead _ => none
  | .remoteFailure _ _ => none
  | .pubFlip _ => none
  | .tlbiExecute _ => none
  | .logWaitRelease _ => none
  | .patrolScrub _ _ _ => none
  | .fleetWriteArrival _ => none
  | .fleetUpdateArrival _ => none
  | .fleetFetch _ => none
  | .fleetFetchReceipt _ => none
  | .mailboxWrite _ _ _ _ => none
  | .hostBar2Access _ _ _ _ => none
  | .hostAtomicop _ _ _ _ _ _ => none
  | .hostRegisterWrite _ _ _ => none
  | .pctlResume _ => none
  | .pctlRestart _ => none
  | .vfTeardown _ => none
  | .mittenSave _ _ => none
  | .mittenSavelive _ _ => none
  | .mittenSaveDone _ => none
  | .governorWindow _ => none
  | .powerMeasurement _ _ => none
  | .attestationNonce _ _ => none
  | .quoteReady _ _ => none
  | .createPartition _ _ => none
  | .destroyPartition _ => none
  | .readTelemetry _ => none
  | .setPersonality _ => none
  | .setNode _ => none
  | .brimTimeout => none
  | .recoveryMessage _ => none
  | .powerGood => none
  | .personalityChange _ => none
  | .linkDrop _ => none
  | .linkTrained _ _ _ => none
  | .linkDown _ _ => none
  | .fleetSplit _ => none
  | .lsd _ _ => none
  | .swapreq _ _ => none
  | .swapack _ _ => none
  | .keychg _ _ => none
  | .keyack _ _ => none
  | .persreq _ _ => none
  | .persack _ _ => none
  | .time _ _ => none
  | .timeFlitSend _ => none
  | .laneHealthSample _ _ _ _ _ => none
  | .keyRotation _ => none
  | .keeperStore _ _ _ _ => none
  | .sealSet _ _ _ => none
  | .tctl _ _ => none
  | .trbase _ _ => none
  | .trsize _ _ => none
  | .trigat _ => none
  | .dbgstop _ _ => none
  | .snapshotCapture _ _ => none
  | .vfEnable _ => none
  | .requestTimeout _ => none
  | .pairing _ _ _ _ => none
  | .cksealRestoreDone _ _ _ _ => none
  | .cksealDumpDone _ => none

end Sys2Proof
end

