-- ==== Sys2Proof/WellFormed.lean ====
section
/-!
DEFINITION. Check 5 of R63 as far as it depends on an instruction's own bits: operand classes (R47), type and rounding codes
(R49, R50), reserved fields (R9) and the field rules of each instruction's chapter. The decoder refuses what fails it.
-/
namespace Sys2Proof

/-- The operand classes of R47 that instructions use. `any` leaves the check to the instruction. -/
inductive Cls where
  | none | src | dst | pred | spSrc | spDst | any
  deriving DecidableEq, Repr

/-- A specifier belongs to its position's class (R47). -/
def Cls.ok : Cls → Spec → Bool
  | .none, x => x == 0
  | .src, x => !x.getLsbD 5
  | .dst, x => decide (x.toNat < 32)
  | .pred, x => decide (32 ≤ x.toNat ∧ x.toNat < 40)
  | .spSrc, x => !x.getLsbD 5 || decide (32 ≤ x.toNat ∧ x.toNat < 40)
  | .spDst, x => decide (x.toNat < 40)
  | .any, _ => true

/-- The four specifiers of an RR instruction belong to their classes. -/
def FRR.cls (f : FRR) (d a b c : Cls) : Bool := d.ok f.d && a.ok f.a && b.ok f.b && c.ok f.c
/-- The function field is below a bound. -/
def FRR.fnMax (f : FRR) (n : Nat) : Bool := decide (f.fn.toNat < n)
/-- The two specifiers of an RI instruction belong to their classes. -/
def FRI.cls (f : FRI) (d a : Cls) : Bool := d.ok f.d && a.ok f.a
/-- The four specifiers of an M instruction belong to their classes. -/
def FM.cls (f : FM) (d base idx aux : Cls) : Bool := d.ok f.d && base.ok f.base && idx.ok f.idx && aux.ok f.aux
/-- D names a tile queue in bits 3:0, with bits 6:4 zero (R104). -/
def FM.tileD (f : FM) : Bool := decide (f.d.toNat < 16)

/-- The trip source of LOOP and LCLAMP (R54): with TSRC = 1 a scalar source in bits 38:32 and zeros above it. -/
def FLP.tripOk (f : FLP) : Bool := !f.tsrc || (decide (f.trip.toNat < 128) && Cls.src.ok (f.trip.setWidth 7))
/-- The fields of LOOP (R54). -/
def FLP.loopOk (f : FLP) : Bool := f.endo != 0 && decide (f.level.toNat < 5) && f.tripOk
/-- The fields of LCLAMP (R54). -/
def FLP.clampOk (f : FLP) : Bool := f.endo == 0 && f.nst == 0 && decide (f.level.toNat < 5) && f.tripOk
/-- The coordinate word of format CI (R55): VALID is 1 and bit 62 is 0. -/
def FCI.ok (f : FCI) : Bool := f.cw.getLsbD 63 && !f.cw.getLsbD 62

/-- Float types f32, f16 and bf16 (R185). -/
def floatTy (t : BitVec 5) : Bool := decide (t.toNat ≤ 2)
/-- Integer types i8, i16, i32, n8, n16 and n32 (R185). -/
def intTy (t : BitVec 5) : Bool := t == 0x0D || t == 0x0E || t == 0x0F || t == 0x11 || t == 0x12 || t == 0x13
/-- Float and integer types (R189). -/
def arithTy (t : BitVec 5) : Bool := floatTy t || intTy t
/-- The types of VABS (R189). -/
def absTy (t : BitVec 5) : Bool := floatTy t || t == 0x0D || t == 0x0E || t == 0x0F
/-- The types of VREDR and VREDC (R200): integer types take ops 0 to 2. -/
def redTy (fn t : BitVec 5) : Bool := floatTy t || (intTy t && decide (fn.toNat ≤ 2))
/-- The types of VCVT (R195). -/
def cvtTy (t : BitVec 5) : Bool := decide (t.toNat ≤ 0x13) && t != 0x0B && t != 0x10
/-- The MX element formats (R196). -/
def mxTy (t : BitVec 5) : Bool := decide (3 ≤ t.toNat ∧ t.toNat ≤ 7) || t == 0x0D
/-- The FN field of VQMX (R196): bits 1:0 the source type, bits 3:2 zero, bit 4 the rule. -/
def mxFn (fn : BitVec 5) : Bool := decide (fn.toNat % 16 < 3)
/-- The scalar types of LD, ST and RLD (R99). -/
def scalarTy (t : BitVec 5) : Bool := decide (t.toNat ≤ 2) || (decide (0x0D ≤ t.toNat ∧ t.toNat ≤ 0x14))
/-- The tile types of R99: every code but i64 and n64. -/
def tileTy (t : BitVec 5) : Bool := decide (t.toNat ≤ 0x13) && t != 0x10
/-- The types CPY may carry (R108, R110): n8 for a copy to memory, i8 to i64 and n8 to n64 for a channel. -/
def copyTy (t : BitVec 5) : Bool := decide (0x0D ≤ t.toNat ∧ t.toNat ≤ 0x14)
/-- TRAP's cause in bits 7:0 with bits 24:8 zero; 0x00, 0x10 and values above 0x13 are refused (R83). -/
def trapCauseOk (imm : BitVec 25) : Bool := decide (imm.toNat ≤ 0x13) && imm != 0 && imm != 0x10
/-- The SWR numbers that the opcode table gives a row of their own. -/
def swrOwnRow (fn : BitVec 5) : Bool :=
  fn == 9 || fn == 26 || fn == 0 || fn == 2 || fn == 3 || fn == 13 || fn == 21 || fn == 19 || fn == 22
/-- FN of TLBI (R285): the kind in bits 4:3 and a scope from 2 to 5 in bits 2:0. -/
def tlbiFn (kind : Nat) (fn : BitVec 5) : Bool :=
  decide (fn.toNat / 8 = kind) && decide (2 ≤ fn.toNat % 8 ∧ fn.toNat % 8 ≤ 5)
/-- The fields of BARR (R308): a deadline and a status register with T = 1 only. -/
def FRR.barrOk (f : FRR) : Bool :=
  f.fnMax 8 && (if f.fn.getLsbD 1 then f.cls .dst .src .none .none else f.cls .none .none .none .none)
/-- The fields of RAT (R115): AUX for cas and faddb, and a type that agrees with the operation. -/
def FM.ratOk (f : FM) : Bool :=
  f.cls .dst .src .src (if f.opt == 2 || f.opt == 4 then .src else .none) && decide (f.opt.toNat < 5) &&
    f.ty == (if f.opt == 0 then 0x00 else 0x13)
/-- The fields of MSTF (R234): with OPT 1 a scale address in AUX, and i8 allowed. -/
def FM.mstfOk (f : FM) : Bool :=
  f.cls .src .src .src (if f.opt == 1 then .src else .none) && decide (f.opt.toNat < 2) &&
    (decide (f.ty.toNat ≤ 7) || (f.opt == 1 && f.ty == 0x0D))

/-- The operand positions that a vector instruction uses: the letters are the fields TD, TA, TB, TC and SX; `ld` and `st` are
VLD and VST, whose memory operand is A or D in the V-form. -/
inductive VUse where
  | dab | dabc | da | dax | ld | st | ab | x | dx
  deriving DecidableEq, Repr

/-- Whether a vector instruction takes a mask (R186, R193). -/
inductive MUse where
  | no | may | must
  deriving DecidableEq, Repr

/-- TD is used. -/
def VUse.hasD : VUse → Bool
  | .dab | .dabc | .da | .dax | .ld | .ab | .dx => true
  | .st | .x => false
/-- TA is used. -/
def VUse.hasA : VUse → Bool
  | .dab | .dabc | .da | .dax | .st | .ab => true
  | .ld | .x | .dx => false
/-- TB is used. -/
def VUse.hasB : VUse → Bool
  | .dab | .dabc | .ab => true
  | _ => false
/-- TC is used. -/
def VUse.hasC : VUse → Bool
  | .dabc => true
  | _ => false
/-- SX is used by the base form. -/
def VUse.hasX : VUse → Bool
  | .dax | .ld | .st | .x | .dx => true
  | _ => false

/-- The mask fields (R186): reserved where no mask is used. -/
def FVB.maskOk (f : FVB) : MUse → Bool
  | .no => !f.men && f.mask == 0
  | .may => f.men || f.mask == 0
  | .must => f.men
/-- The rounding field (R50, R184): reserved in an instruction that does not round. -/
def FVB.rmOk (f : FVB) (rounds : Bool) : Bool := if rounds then f.rm != 7 else f.rm == 0

/-- The fields of a base-form vector instruction (R57, R184). -/
def FVB.ok (f : FVB) (u : VUse) (m : MUse) (rounds : Bool) : Bool :=
  (u.hasD || f.td == 0) && (u.hasA || f.ta == 0) && (u.hasB || f.tb == 0) && (u.hasC || f.tc == 0) &&
    (if u.hasX then Cls.src.ok f.sx else f.sx == 0) && f.maskOk m && f.rmOk rounds

/-- Operand j (0 D, 1 A, 2 B, 3 C) of a V-form (R58, R206): a segment needs a used operand and a zero tile field, and a step needs
a segment. VLD's operand A and VST's operand D are segments. -/
def FVF.operandOk (f : FVF) (j : Nat) (used mustSeg : Bool) (tile step : Nat) : Bool :=
  (!f.kind.getLsbD j || (used && tile == 0)) && (f.kind.getLsbD j || step == 0) && (used || tile == 0) &&
    (!mustSeg || f.kind.getLsbD j)

/-- The fields of a V-form (R58, R206). -/
def FVF.ok (f : FVF) (u : VUse) (m : MUse) (rounds : Bool) : Bool :=
  f.cnt != 0 && f.operandOk 0 (u.hasD || u == .st) (u == .st) f.vb.td.toNat f.std.toNat &&
    f.operandOk 1 (u.hasA || u == .ld) (u == .ld) f.vb.ta.toNat f.sta.toNat &&
    f.operandOk 2 u.hasB false f.vb.tb.toNat f.stb.toNat && f.operandOk 3 u.hasC false f.vb.tc.toNat f.stc.toNat &&
    (if f.kind != 0 || u.hasX then Cls.src.ok f.vb.sx else f.vb.sx == 0) && f.vb.maskOk m && f.vb.rmOk rounds

/-- Extent of level j of a loop nest (R59). -/
def FVN.extent (f : FVN) (j : Nat) : Nat := f.ext.toNat / 2 ^ (12 * j) % 4096
/-- The extents of R59: E0 is nonzero and the present levels are consecutive. -/
def FVN.extOk (f : FVN) : Bool :=
  f.extent 0 != 0 && (f.extent 1 != 0 || f.extent 2 == 0) && (f.extent 2 != 0 || f.extent 3 == 0) &&
    (f.extent 3 != 0 || f.extent 4 == 0)
/-- The fields of an N-form (R59, R207). -/
def FVN.ok (f : FVN) (hasB rounds : Bool) : Bool :=
  f.vb.td == 0 && f.vb.ta == 0 && f.vb.tb == 0 && f.vb.tc == 0 && f.extOk && (hasB || (f.sb == 0 && f.ub == 0)) &&
    Cls.src.ok f.vb.sx && f.vb.maskOk .no && f.vb.rmOk rounds

/-- One MMA operand (R60, R223): two scalar sources for scratchpad, or one tile field; `outer` and `k` are its sizes and `along`
says that K runs along the tile's columns. -/
def mmaOperandOk (sp : Bool) (x1 x2 : Spec) (along : Bool) (outer k : Nat) : Bool :=
  if sp then Cls.src.ok x1 && Cls.src.ok x2
  else x2 == 0 && decide (x1.toNat < 32) && (if along then decide (outer ≤ 16 ∧ k ≤ 64) else decide (k ≤ 16 ∧ outer ≤ 64))
/-- The fields of MMA (R60, R223). -/
def FMX.ok (f : FMX) : Bool :=
  (f.tri || (f.diag == 0 && f.mcs == 0)) && f.diag != 0x80 && (f.swe || (f.swv == 0 && f.swc == 0)) &&
    (!f.swe || f.swc != 0) && (f.sse || f.ssv == 0) &&
    mmaOperandOk f.ak f.a1 f.a2 (!f.ta) (f.mm1.toNat + 1) (f.km1.toNat + 1) &&
    mmaOperandOk f.bk f.b1 f.b2 f.tb (f.nm1.toNat + 1) (f.km1.toNat + 1)

/-- Check 5 of R63 for the instruction's own bits: reserved fields, operand classes, types, rounding codes and every other
cause-0x01 condition that depends on the bits alone. An event has no encoding and nothing to check. -/
def Instr.wf : Instr → Bool
  | .add _ f => f.cls .dst .src .src .none && f.fn == 0
  | .sub _ f => f.cls .dst .src .src .none && f.fn == 0
  | .mul _ f => f.cls .dst .src .src .none && f.fn == 0
  | .mulh _ f => f.cls .dst .src .src .none && f.fnMax 2
  | .div _ f => f.cls .dst .src .src .none && f.fnMax 2
  | .rem _ f => f.cls .dst .src .src .none && f.fnMax 2
  | .and _ f => f.cls .dst .src .src .none && f.fn == 0
  | .or _ f => f.cls .dst .src .src .none && f.fn == 0
  | .xor _ f => f.cls .dst .src .src .none && f.fn == 0
  | .shl _ f => f.cls .dst .src .src .none && f.fn == 0
  | .shr _ f => f.cls .dst .src .src .none && f.fn == 0
  | .sar _ f => f.cls .dst .src .src .none && f.fn == 0
  | .rot _ f => f.cls .dst .src .src .none && f.fn == 0
  | .min _ f => f.cls .dst .src .src .none && f.fnMax 2
  | .max _ f => f.cls .dst .src .src .none && f.fnMax 2
  | .clz _ f => f.cls .dst .src .none .none && f.fn == 0
  | .popc _ f => f.cls .dst .src .none .none && f.fn == 0
  | .sel _ f => f.cls .dst .src .src .pred && f.fn == 0
  | .mov _ f => f.cls .spDst .spSrc .none .none && f.fn == 0
  | .cmpEq _ f => f.cls .pred .src .src .none && f.fn == 0
  | .cmpNe _ f => f.cls .pred .src .src .none && f.fn == 0
  | .cmpLt _ f => f.cls .pred .src .src .none && f.fn == 0
  | .cmpLe _ f => f.cls .pred .src .src .none && f.fn == 0
  | .cmpLtu _ f => f.cls .pred .src .src .none && f.fn == 0
  | .cmpLeu _ f => f.cls .pred .src .src .none && f.fn == 0
  | .addi _ f => f.cls .dst .src && f.fn == 0
  | .ldi _ f => Cls.dst.ok f.d && decide (f.fn.toNat < 2)
  | .ldih _ f => Cls.dst.ok f.d && f.fn == 0
  | .br _ f => f.x == 0 && f.fn == 0
  | .brc _ f => Cls.pred.ok f.x && decide (f.fn.toNat < 2)
  | .call _ f => Cls.dst.ok f.x && f.fn == 0
  | .ret _ f => Cls.src.ok f.x && f.fn == 0 && f.ofs == 0
  | .loop _ f => f.loopOk
  | .lclamp _ f => f.clampOk
  | .setcRegister _ f => f.cls .none .src .none .none && f.fn == 0
  | .setcImmediate _ f => f.ok
  | .advc _ f => f.cls .none .none .none .none && f.fnMax 5
  | .getc _ f => f.cls .dst .none .none .none && f.fnMax 6
  | .getfr _ f => f.cls .dst .none .none .none && f.fn == 0
  | .tok _ f => f.cls .none .none .none .none && f.fn == 0
  | .bind _ f => f.cls .dst .none .none .none && f.d != 31 && f.fnMax 8
  | .qdrop _ f => f.cls .none .dst .none .none && f.fn != 0 && f.fnMax 5
  | .qdepth _ f => f.cls .dst .src .none .none && f.fn == 0
  | .qclr _ f => f.cls .none .dst .none .none && f.fn == 0
  | .srd _ f => f.cls .dst .src .none .none && f.fnMax 27
  | .swr _ f => f.cls .none .src .src .none && f.fnMax 27 && !swrOwnRow f.fn
  | .swrStopat _ f => f.cls .none .src .src .none && f.fn == 9
  | .swrEvmask _ f => f.cls .none .src .src .none && f.fn == 26
  | .swrRmode _ f => f.cls .none .src .src .none && f.fn == 0
  | .swrSrseed _ f => f.cls .none .src .src .none && f.fn == 2
  | .swrMseed _ f => f.cls .none .src .src .none && f.fn == 3
  | .swrTraprec _ f => f.cls .none .src .src .none && f.fn == 13
  | .swrEmap _ f => f.cls .none .src .src .none && f.fn == 21
  | .swrEgcfg _ f => f.cls .none .src .src .none && f.fn == 19
  | .swrCkpair _ f => f.cls .none .src .src .none && f.fn == 22
  | .trap _ f => f.cls .none .src && f.fn == 0 && trapCauseOk f.imm
  | .eret _ f => f.cls .none .none .none .none && f.fn == 0
  | .waitev _ f => f.cls .dst .none .none .none && f.fnMax 2
  | .yield _ f => f.cls .none .none .none .none && f.fn == 0
  | .fence _ f => f.cls .none .none .none .none && f.fn != 0 && f.fnMax 7
  | .stopatRegister _ f => f.cls .none .src .src .none && f.fn == 0
  | .stopatImmediate _ f => f.ok
  | .resume _ f => f.cls .dst .src .none .none && f.fn == 0
  | .spawn _ f => f.cls .dst .src .src .none && f.fnMax 4
  | .rdv _ f => f.cls .none .none .none .none && f.fn == 0
  | .mbox _ f => f.cls .dst .src .src .none && f.fnMax 2
  | .semw _ f => f.cls .none .src .none .none
  | .sems _ f => f.cls .none .src .none .none
  | .semwt _ f => f.cls .dst .src .src .none
  | .barr _ f => f.barrOk
  | .sstep _ f => f.cls .dst .none .none .none && f.fn == 0
  | .send _ f => f.cls .src .src .src .src && f.ty == 0 && decide (f.opt.toNat < 2)
  | .tlbiPage _ f => f.cls .dst .src .none .none && tlbiFn 0 f.fn
  | .tlbiTenant _ f => f.cls .dst .none .none .none && tlbiFn 1 f.fn
  | .bkpt _ f => f.cls .none .none .none .none
  | .snap _ f => f.cls .none .none .none .none
  | .tmark _ f => f.cls .none .src .none .none
  | .ld _ f => f.cls .dst .src .src .none && f.opt == 0 && scalarTy f.ty
  | .ldt _ f => f.tileD && f.cls .any .src .src .none && f.opt == 0 && tileTy f.ty
  | .gather _ f => f.tileD && f.cls .any .src .src .src && decide (f.opt.toNat < 2) && tileTy f.ty
  | .gen _ f => f.cls .dst .none .none .none && decide (f.fn.toNat / 8 = 0)
  | .genBase _ f => f.cls .none .src .none .none && decide (f.fn.toNat / 8 = 1)
  | .genCoef _ f => f.cls .none .src .src .none && decide (f.fn.toNat / 8 = 2)
  | .cpy _ f => f.cls .src .src .none .src && f.opt == 0 && copyTy f.ty
  | .cpyThreeLevels _ f => f.m.cls .src .src .src .src && f.m.opt == 0 && copyTy f.m.ty && Cls.src.ok f.e1 && f.e2 == 0
  | .pub _ f => f.cls .none .src .none .none && f.opt == 0 && f.ty == 0
  | .rld _ f => f.cls .dst .src .src .none && f.opt == 0 && scalarTy f.ty
  | .st _ f => f.cls .src .src .src .none && f.opt == 0 && scalarTy f.ty
  | .stt _ f => f.tileD && f.cls .any .src .src .none && f.opt == 0 && tileTy f.ty
  | .scatter _ f => f.tileD && f.cls .any .src .src .src && f.opt == 0 && tileTy f.ty
  | .rst _ f => f.cls .src .src .src .src && f.opt == 0 && f.ty == 0
  | .rsta _ f => f.cls .src .src .src .src && f.opt == 0 && f.ty == 0
  | .rat _ f => f.ratOk
  | .aadd _ f => f.cls .dst .src .src .none && f.opt == 0 && (f.ty == 0x00 || f.ty == 0x13)
  | .axch _ f => f.cls .dst .src .src .none && f.opt == 0 && f.ty == 0x13
  | .acas _ f => f.cls .dst .src .src .src && f.opt == 0 && f.ty == 0x13
  | .aincw _ f => f.cls .dst .src .src .none && f.opt == 0 && f.ty == 0x13
  | .afaddb _ f => f.cls .dst .src .src .src && f.opt == 0 && f.ty == 0x13
  | .await _ f => f.cls .dst .src .src .none && decide (f.opt.toNat < 4) && f.ty == 0x13
  | .vadd _ f => f.ok .dab .may (floatTy f.ty) && arithTy f.ty && f.fn == 0
  | .vaddVf _ f => f.ok .dab .may (floatTy f.vb.ty) && arithTy f.vb.ty && f.vb.fn == 0
  | .vsub _ f => f.ok .dab .may (floatTy f.ty) && arithTy f.ty && f.fn == 0
  | .vsubVf _ f => f.ok .dab .may (floatTy f.vb.ty) && arithTy f.vb.ty && f.vb.fn == 0
  | .vmul _ f => f.ok .dab .may (floatTy f.ty) && arithTy f.ty && f.fn == 0
  | .vmulVf _ f => f.ok .dab .may (floatTy f.vb.ty) && arithTy f.vb.ty && f.vb.fn == 0
  | .vfma _ f => f.ok .dabc .may true && floatTy f.ty && f.fn == 0
  | .vfmaVf _ f => f.ok .dabc .may true && floatTy f.vb.ty && f.vb.fn == 0
  | .vdiv _ f => f.ok .dab .may true && floatTy f.ty && f.fn == 0
  | .vdivVf _ f => f.ok .dab .may true && floatTy f.vb.ty && f.vb.fn == 0
  | .vabs _ f => f.ok .da .may false && absTy f.ty && f.fn == 0
  | .vabsVf _ f => f.ok .da .may false && absTy f.vb.ty && f.vb.fn == 0
  | .vneg _ f => f.ok .da .may false && arithTy f.ty && f.fn == 0
  | .vnegVf _ f => f.ok .da .may false && arithTy f.vb.ty && f.vb.fn == 0
  | .vmin _ f => f.ok .dab .may false && arithTy f.ty && f.fn == 0
  | .vminVf _ f => f.ok .dab .may false && arithTy f.vb.ty && f.vb.fn == 0
  | .vmax _ f => f.ok .dab .may false && arithTy f.ty && f.fn == 0
  | .vmaxVf _ f => f.ok .dab .may false && arithTy f.vb.ty && f.vb.fn == 0
  | .vminp _ f => f.ok .dab .may false && floatTy f.ty && f.fn == 0
  | .vminpVf _ f => f.ok .dab .may false && floatTy f.vb.ty && f.vb.fn == 0
  | .vmaxp _ f => f.ok .dab .may false && floatTy f.ty && f.fn == 0
  | .vmaxpVf _ f => f.ok .dab .may false && floatTy f.vb.ty && f.vb.fn == 0
  | .vcmp _ f => f.ok .ab .may false && arithTy f.ty && decide (f.fn.toNat < 8) && decide (f.td.toNat < 8)
  | .vsel _ f => f.ok .dab .must false && f.ty == 0 && f.fn == 0
  | .vselVf _ f => f.ok .dab .must false && f.vb.ty == 0 && f.vb.fn == 0
  | .vand _ f => f.ok .dab .may false && f.ty == 0x13 && f.fn == 0
  | .vandVf _ f => f.ok .dab .may false && f.vb.ty == 0x13 && f.vb.fn == 0
  | .vor _ f => f.ok .dab .may false && f.ty == 0x13 && f.fn == 0
  | .vorVf _ f => f.ok .dab .may false && f.vb.ty == 0x13 && f.vb.fn == 0
  | .vxor _ f => f.ok .dab .may false && f.ty == 0x13 && f.fn == 0
  | .vxorVf _ f => f.ok .dab .may false && f.vb.ty == 0x13 && f.vb.fn == 0
  | .vshl _ f => f.ok .dab .may false && (f.ty == 0x0F || f.ty == 0x13) && f.fn == 0
  | .vshlVf _ f => f.ok .dab .may false && (f.vb.ty == 0x0F || f.vb.ty == 0x13) && f.vb.fn == 0
  | .vshr _ f => f.ok .dab .may false && (f.ty == 0x0F || f.ty == 0x13) && f.fn == 0
  | .vshrVf _ f => f.ok .dab .may false && (f.vb.ty == 0x0F || f.vb.ty == 0x13) && f.vb.fn == 0
  | .vcvt _ f => f.ok .da .may true && cvtTy f.ty && cvtTy f.fn
  | .vcvtVf _ f => f.ok .da .may true && cvtTy f.vb.ty && cvtTy f.vb.fn
  | .vqmx _ f => f.ok .dax .no true && mxTy f.ty && mxFn f.fn
  | .vqmxVf _ f => f.ok .dax .no true && mxTy f.vb.ty && mxFn f.vb.fn
  | .vdqmx _ f => f.ok .dax .no true && floatTy f.ty && mxTy f.fn
  | .vdqmxVf _ f => f.ok .dax .no true && floatTy f.vb.ty && mxTy f.vb.fn
  | .vexp2 _ f => f.ok .da .may true && floatTy f.ty && f.fn == 0
  | .vexp2Vf _ f => f.ok .da .may true && floatTy f.vb.ty && f.vb.fn == 0
  | .vlog2 _ f => f.ok .da .may true && floatTy f.ty && f.fn == 0
  | .vlog2Vf _ f => f.ok .da .may true && floatTy f.vb.ty && f.vb.fn == 0
  | .vrcp _ f => f.ok .da .may true && floatTy f.ty && f.fn == 0
  | .vrcpVf _ f => f.ok .da .may true && floatTy f.vb.ty && f.vb.fn == 0
  | .vrsq _ f => f.ok .da .may true && floatTy f.ty && f.fn == 0
  | .vrsqVf _ f => f.ok .da .may true && floatTy f.vb.ty && f.vb.fn == 0
  | .vtanh _ f => f.ok .da .may true && floatTy f.ty && f.fn == 0
  | .vtanhVf _ f => f.ok .da .may true && floatTy f.vb.ty && f.vb.fn == 0
  | .vrotr _ f => f.ok .dax .may false && f.ty == 0 && f.fn == 0
  | .vrotc _ f => f.ok .dax .may false && f.ty == 0 && f.fn == 0
  | .vbcr _ f => f.ok .dax .may false && f.ty == 0 && f.fn == 0
  | .vbcc _ f => f.ok .dax .may false && f.ty == 0 && f.fn == 0
  | .vredr _ f => f.ok .da .may ((floatTy f.ty && f.fn == 0)) && redTy f.fn f.ty && decide (f.fn.toNat < 5)
  | .vredc _ f => f.ok .da .may ((floatTy f.ty && f.fn == 0)) && redTy f.fn f.ty && decide (f.fn.toNat < 5)
  | .vtrn _ f => f.ok .da .may false && f.ty == 0 && f.fn == 0
  | .vnetset _ f => f.ok .x .no false && f.ty == 0 && decide (f.fn.toNat < 8)
  | .vnet _ f => f.ok .da .may false && f.ty == 0 && decide (f.fn.toNat < 8)
  | .vld _ f => f.ok .ld .may false && tileTy f.ty && f.fn == 0
  | .vldVf _ f => f.ok .ld .may false && tileTy f.vb.ty && f.vb.fn == 0
  | .vst _ f => f.ok .st .may false && tileTy f.ty && f.fn == 0
  | .vstVf _ f => f.ok .st .may false && tileTy f.vb.ty && f.vb.fn == 0
  | .vgen _ f => f.ok .dx .may false && (f.ty == 0x0F || f.ty == 0x13) && f.fn == 0
  | .vaddNest _ f => f.ok true (floatTy f.vb.ty) && arithTy f.vb.ty && f.vb.fn == 0
  | .vsubNest _ f => f.ok true (floatTy f.vb.ty) && arithTy f.vb.ty && f.vb.fn == 0
  | .vmulNest _ f => f.ok true (floatTy f.vb.ty) && arithTy f.vb.ty && f.vb.fn == 0
  | .vdivNest _ f => f.ok true true && floatTy f.vb.ty && f.vb.fn == 0
  | .vabsNest _ f => f.ok false false && absTy f.vb.ty && f.vb.fn == 0
  | .vnegNest _ f => f.ok false false && arithTy f.vb.ty && f.vb.fn == 0
  | .vminNest _ f => f.ok true false && arithTy f.vb.ty && f.vb.fn == 0
  | .vmaxNest _ f => f.ok true false && arithTy f.vb.ty && f.vb.fn == 0
  | .vminpNest _ f => f.ok true false && floatTy f.vb.ty && f.vb.fn == 0
  | .vmaxpNest _ f => f.ok true false && floatTy f.vb.ty && f.vb.fn == 0
  | .vandNest _ f => f.ok true false && f.vb.ty == 0x13 && f.vb.fn == 0
  | .vorNest _ f => f.ok true false && f.vb.ty == 0x13 && f.vb.fn == 0
  | .vxorNest _ f => f.ok true false && f.vb.ty == 0x13 && f.vb.fn == 0
  | .vshlNest _ f => f.ok true false && (f.vb.ty == 0x0F || f.vb.ty == 0x13) && f.vb.fn == 0
  | .vshrNest _ f => f.ok true false && (f.vb.ty == 0x0F || f.vb.ty == 0x13) && f.vb.fn == 0
  | .vcvtNest _ f => f.ok false true && cvtTy f.vb.ty && cvtTy f.vb.fn
  | .vredrNest _ f => f.ok false (floatTy f.vb.ty && f.vb.fn == 0) && redTy f.vb.fn f.vb.ty && decide (f.vb.fn.toNat < 5) && f.sd.extractLsb' 0 8 == 0
  | .mfmt _ f => f.cls .none .src .none .none && f.fn == 0
  | .mcb _ f => f.cls .none .src .none .none && f.ty == 0x02 && decide (f.opt.toNat < 4)
  | .mma _ f => f.ok
  | .mcommit _ f => f.cls .none .none .none .none && f.fnMax 16
  | .mwait _ f => f.cls .none .none .none .none && f.fnMax 16
  | .mrd _ f => f.cls .dst .src .none .none
  | .mwr _ f => f.cls .none .src .src .none
  | .mzero _ f => f.cls .none .none .none .none
  | .mstl _ f => f.cls .src .src .src .none && f.opt == 0 && (f.ty == 0x09 || f.ty == 0x0A)
  | .mstf _ f => f.mstfOk
  | .mseed _ f => f.cls .none .src .none .none && f.fn == 0
  | .lclampApply _ => true
  | .cksealSeal _ => true
  | .cksealRestore _ => true
  | .cksealDump _ => true
  | .advance _ _ => true
  | .entryFill _ _ => true
  | .tokenPush _ _ _ => true
  | .engineCommandStart _ _ _ => true
  | .engineCommandComplete _ _ _ => true
  | .channelElementDelivery _ _ => true
  | .landingComplete _ => true
  | .stuckWaitTrap _ => true
  | .hardPreemption _ => true
  | .jobChoice _ => true
  | .launchStart _ => true
  | .jobAging _ _ => true
  | .launchOffer _ => true
  | .spawnStatusFill _ => true
  | .jobEnd _ => true
  | .eventEntry _ => true
  | .timerFire _ => true
  | .semaphoreWaitServed _ _ => true
  | .semwtTimeout _ => true
  | .barrierArrival _ _ => true
  | .barrierTimeout _ => true
  | .superstepPassage _ => true
  | .sendChunkDeparture _ _ => true
  | .sendChunkArrival _ => true
  | .atomicApply _ _ => true
  | .awaitSatisfied _ _ => true
  | .remoteStoreApply _ => true
  | .remoteRead _ => true
  | .remoteFailure _ _ => true
  | .pubFlip _ => true
  | .tlbiExecute _ => true
  | .logWaitRelease _ => true
  | .patrolScrub _ _ _ => true
  | .fleetWriteArrival _ => true
  | .fleetUpdateArrival _ => true
  | .fleetFetch _ => true
  | .fleetFetchReceipt _ => true
  | .mailboxWrite _ _ _ _ => true
  | .hostBar2Access _ _ _ _ => true
  | .hostAtomicop _ _ _ _ _ _ => true
  | .hostRegisterWrite _ _ _ => true
  | .pctlResume _ => true
  | .pctlRestart _ => true
  | .vfTeardown _ => true
  | .mittenSave _ _ => true
  | .mittenSavelive _ _ => true
  | .mittenSaveDone _ => true
  | .governorWindow _ => true
  | .powerMeasurement _ _ => true
  | .attestationNonce _ _ => true
  | .quoteReady _ _ => true
  | .createPartition _ _ => true
  | .destroyPartition _ => true
  | .readTelemetry _ => true
  | .setPersonality _ => true
  | .setNode _ => true
  | .brimTimeout => true
  | .recoveryMessage _ => true
  | .powerGood => true
  | .personalityChange _ => true
  | .linkDrop _ => true
  | .linkTrained _ _ _ => true
  | .linkDown _ _ => true
  | .fleetSplit _ => true
  | .lsd _ _ => true
  | .swapreq _ _ => true
  | .swapack _ _ => true
  | .keychg _ _ => true
  | .keyack _ _ => true
  | .persreq _ _ => true
  | .persack _ _ => true
  | .time _ _ => true
  | .timeFlitSend _ => true
  | .laneHealthSample _ _ _ _ _ => true
  | .keyRotation _ => true
  | .keeperStore _ _ _ _ => true
  | .sealSet _ _ _ => true
  | .tctl _ _ => true
  | .trbase _ _ => true
  | .trsize _ _ => true
  | .trigat _ => true
  | .dbgstop _ _ => true
  | .snapshotCapture _ _ => true
  | .vfEnable _ => true
  | .requestTimeout _ => true
  | .pairing _ _ _ _ => true
  | .cksealRestoreDone _ _ _ _ => true
  | .cksealDumpDone _ => true

end Sys2Proof
end

