-- ==== Sys2Proof/Decode.lean ====
section
/-!
DEFINITION. The decoder: words to instructions by R44 to R63, total on any bits, refusing by name; and the encoder, written from the
same tables.
-/
namespace Sys2Proof

/-- The checks 1 to 5 of R63 that a word can fail, in their order; `short` is a byte list that ends inside the instruction. -/
inductive Reject where
  | badLen3 | badMajor | badMinor | badLength | badField | short
  deriving DecidableEq, Repr

/-- Bits lo + n - 1 to lo of an instruction. -/
def field (w lo n : Nat) : BitVec n := BitVec.ofNat n (w / 2 ^ lo)
/-- One bit of an instruction. -/
def fieldBit (w i : Nat) : Bool := decide (w / 2 ^ i % 2 = 1)
/-- Bits lo + n - 1 to lo are zero. -/
def fieldZero (w lo n : Nat) : Bool := decide (w / 2 ^ lo % 2 ^ n = 0)
/-- A Boolean as a bit of a word. -/
def bitNat (b : Bool) : Nat := if b then 1 else 0

/-- The twelve operand formats. -/
inductive FmtKind where
  | rr | ri | li | br | lp | ci | m | me | vb | vf | vn | mx
  deriving DecidableEq, Repr

/-- The header fields of R45. -/
def Hdr.ofWord (w : Nat) : Hdr := ⟨field w 18 2, fieldBit w 17, fieldBit w 16, fieldBit w 15, fieldBit w 14⟩

/-- Format RR (R51). -/
def FRR.ofWord (w : Nat) : FRR := ⟨field w 46 7, field w 39 7, field w 32 7, field w 27 5, field w 20 7⟩
/-- Format RI (R52). -/
def FRI.ofWord (w : Nat) : FRI := ⟨field w 39 25, field w 32 7, field w 27 5, field w 20 7⟩
/-- Format LI (R52). -/
def FLI.ofWord (w : Nat) : FLI := ⟨field w 32 32, field w 27 5, field w 20 7⟩
/-- Format BR (R53). -/
def FBR.ofWord (w : Nat) : FBR := ⟨field w 32 32, field w 27 5, field w 20 7⟩
/-- Format LP (R54). -/
def FLP.ofWord (w : Nat) : FLP := ⟨field w 48 16, field w 32 16, fieldBit w 25, field w 23 2, field w 20 3⟩
/-- Format CI (R55). -/
def FCI.ofWord (w : Nat) : FCI := ⟨field w 64 64⟩
/-- Format M (R56). -/
def FM.ofWord (w : Nat) : FM := ⟨field w 53 3, field w 46 7, field w 39 7, field w 32 7, field w 27 5, field w 20 7⟩
/-- Format ME (R56). -/
def FME.ofWord (w : Nat) : FME := ⟨field w 71 7, field w 64 7, FM.ofWord w⟩
/-- Format VB (R57). -/
def FVB.ofWord (w : Nat) : FVB :=
  ⟨field w 56 7, field w 51 5, fieldBit w 50, field w 47 3, field w 42 5, field w 37 5, field w 32 5, field w 29 3, field w 24 5,
    field w 20 4⟩
/-- Format VF (R58). -/
def FVF.ofWord (w : Nat) : FVF :=
  ⟨field w 116 12, field w 104 12, field w 92 12, field w 80 12, field w 76 4, field w 64 12, FVB.ofWord w⟩
/-- Format VN (R59). -/
def FVN.ofWord (w : Nat) : FVN :=
  ⟨field w 216 40, field w 176 40, field w 136 40, field w 132 4, field w 128 4, field w 124 4, field w 64 60, FVB.ofWord w⟩
/-- Format MX (R60). -/
def FMX.ofWord (w : Nat) : FMX :=
  ⟨field w 117 5, fieldBit w 116, field w 110 6, field w 105 5, fieldBit w 104, field w 96 8, field w 91 2, fieldBit w 90,
    field w 78 12, field w 71 7, field w 64 7, fieldBit w 61, fieldBit w 60, field w 53 7, field w 46 7, field w 39 7,
    field w 32 7, field w 28 4, fieldBit w 27, fieldBit w 26, fieldBit w 25, field w 20 5⟩

/-- The operand fields of an instruction in a format, and whether its reserved bits are zero (R51 to R60). -/
def Fmt.ofWord : FmtKind → Nat → Fmt × Bool
  | .rr, w => (.rr (FRR.ofWord w), fieldZero w 53 11)
  | .ri, w => (.ri (FRI.ofWord w), true)
  | .li, w => (.li (FLI.ofWord w), true)
  | .br, w => (.br (FBR.ofWord w), true)
  | .lp, w => (.lp (FLP.ofWord w), fieldZero w 26 6)
  | .ci, w => (.ci (FCI.ofWord w), fieldZero w 20 44)
  | .m, w => (.m (FM.ofWord w), fieldZero w 56 8)
  | .me, w => (.me (FME.ofWord w), fieldZero w 56 8 && fieldZero w 78 50)
  | .vb, w => (.vb (FVB.ofWord w), fieldZero w 63 1)
  | .vf, w => (.vf (FVF.ofWord w), fieldZero w 63 1)
  | .vn, w => (.vn (FVN.ofWord w), fieldZero w 63 1)
  | .mx, w => (.mx (FMX.ofWord w), fieldZero w 62 2 && fieldZero w 93 3 && fieldZero w 122 6)

/-- The bits of a header outside its opcode, length and operand field. -/
def Hdr.bits (h : Hdr) : Nat :=
  h.stage.toNat * 2 ^ 18 + bitNat h.pan * 2 ^ 17 + bitNat h.pap * 2 ^ 16 + bitNat h.pbn * 2 ^ 15 + bitNat h.pbp * 2 ^ 14

/-- The bits of format M. -/
def FM.bits (f : FM) : Nat :=
  f.opt.toNat * 2 ^ 53 + f.aux.toNat * 2 ^ 46 + f.idx.toNat * 2 ^ 39 + f.base.toNat * 2 ^ 32 + f.ty.toNat * 2 ^ 27 +
    f.d.toNat * 2 ^ 20
/-- The bits of format VB. -/
def FVB.bits (f : FVB) : Nat :=
  f.sx.toNat * 2 ^ 56 + f.fn.toNat * 2 ^ 51 + bitNat f.men * 2 ^ 50 + f.mask.toNat * 2 ^ 47 + f.tc.toNat * 2 ^ 42 +
    f.tb.toNat * 2 ^ 37 + f.ta.toNat * 2 ^ 32 + f.rm.toNat * 2 ^ 29 + f.ty.toNat * 2 ^ 24 + f.td.toNat * 2 ^ 20
/-- The bits of format MX. -/
def FMX.bits (f : FMX) : Nat :=
  f.ssv.toNat * 2 ^ 117 + bitNat f.sse * 2 ^ 116 + f.swc.toNat * 2 ^ 110 + f.swv.toNat * 2 ^ 105 + bitNat f.swe * 2 ^ 104 +
    f.diag.toNat * 2 ^ 96 + f.mcs.toNat * 2 ^ 91 + bitNat f.tri * 2 ^ 90 + f.km1.toNat * 2 ^ 78 + f.nm1.toNat * 2 ^ 71 +
    f.mm1.toNat * 2 ^ 64 + bitNat f.bk * 2 ^ 61 + bitNat f.ak * 2 ^ 60 + f.b2.toNat * 2 ^ 53 + f.b1.toNat * 2 ^ 46 +
    f.a2.toNat * 2 ^ 39 + f.a1.toNat * 2 ^ 32 + f.batch.toNat * 2 ^ 28 + bitNat f.tb * 2 ^ 27 + bitNat f.ta * 2 ^ 26 +
    bitNat f.wm * 2 ^ 25 + f.acc.toNat * 2 ^ 20

/-- The operand bits of an instruction (R51 to R60). -/
def Fmt.bits : Fmt → Nat
  | .rr f => f.c.toNat * 2 ^ 46 + f.b.toNat * 2 ^ 39 + f.a.toNat * 2 ^ 32 + f.fn.toNat * 2 ^ 27 + f.d.toNat * 2 ^ 20
  | .ri f => f.imm.toNat * 2 ^ 39 + f.a.toNat * 2 ^ 32 + f.fn.toNat * 2 ^ 27 + f.d.toNat * 2 ^ 20
  | .li f => f.imm.toNat * 2 ^ 32 + f.fn.toNat * 2 ^ 27 + f.d.toNat * 2 ^ 20
  | .br f => f.ofs.toNat * 2 ^ 32 + f.fn.toNat * 2 ^ 27 + f.x.toNat * 2 ^ 20
  | .lp f => f.endo.toNat * 2 ^ 48 + f.trip.toNat * 2 ^ 32 + bitNat f.tsrc * 2 ^ 25 + f.nst.toNat * 2 ^ 23 + f.level.toNat * 2 ^ 20
  | .ci f => f.cw.toNat * 2 ^ 64
  | .m f => f.bits
  | .me f => f.e2.toNat * 2 ^ 71 + f.e1.toNat * 2 ^ 64 + f.m.bits
  | .vb f => f.bits
  | .vf f => f.stc.toNat * 2 ^ 116 + f.stb.toNat * 2 ^ 104 + f.sta.toNat * 2 ^ 92 + f.std.toNat * 2 ^ 80 + f.kind.toNat * 2 ^ 76 +
      f.cnt.toNat * 2 ^ 64 + f.vb.bits
  | .vn f => f.sb.toNat * 2 ^ 216 + f.sa.toNat * 2 ^ 176 + f.sd.toNat * 2 ^ 136 + f.ub.toNat * 2 ^ 132 + f.ua.toNat * 2 ^ 128 +
      f.ud.toNat * 2 ^ 124 + f.ext.toNat * 2 ^ 64 + f.vb.bits
  | .mx f => f.bits

/-- The LEN code of a format (R45). -/
def Fmt.lenCode (f : Fmt) : Nat := match f.words with
  | 1 => 0
  | 2 => 1
  | _ => 2

/-- An SWR by the register it names: the opcode table gives nine registers a row of their own. -/
def swrOf (h : Hdr) (f : FRR) : Instr :=
  match f.fn.toNat with
  | 9 => .swrStopat h f
  | 26 => .swrEvmask h f
  | 0 => .swrRmode h f
  | 2 => .swrSrseed h f
  | 3 => .swrMseed h f
  | 13 => .swrTraprec h f
  | 21 => .swrEmap h f
  | 19 => .swrEgcfg h f
  | 22 => .swrCkpair h f
  | _ => .swr h f
/-- GEN by the operation in FN bits 4:3 (R107). -/
def genOf (h : Hdr) (f : FRR) : Option Instr :=
  match f.fn.toNat / 8 with
  | 0 => some (.gen h f)
  | 1 => some (.genBase h f)
  | 2 => some (.genCoef h f)
  | _ => none
/-- TLBI by the kind in FN bits 4:3 (R285). -/
def tlbiOf (h : Hdr) (f : FRR) : Option Instr :=
  match f.fn.toNat / 8 with
  | 0 => some (.tlbiPage h f)
  | 1 => some (.tlbiTenant h f)
  | _ => none

/-- The instruction of an opcode pair, by R61, with the rows that share one pair told apart by the field their chapter names
(R80, R107, R285). None where the pair is unassigned or the format is not the pair's. -/
def instrOf (major minor : Nat) (h : Hdr) (f : Fmt) : Option Instr :=
  match major, minor, f with
  | 0x01, 0x00, .rr f => some (.add h f)
  | 0x01, 0x01, .rr f => some (.sub h f)
  | 0x01, 0x02, .rr f => some (.mul h f)
  | 0x01, 0x03, .rr f => some (.mulh h f)
  | 0x01, 0x04, .rr f => some (.div h f)
  | 0x01, 0x05, .rr f => some (.rem h f)
  | 0x01, 0x06, .rr f => some (.and h f)
  | 0x01, 0x07, .rr f => some (.or h f)
  | 0x01, 0x08, .rr f => some (.xor h f)
  | 0x01, 0x09, .rr f => some (.shl h f)
  | 0x01, 0x0A, .rr f => some (.shr h f)
  | 0x01, 0x0B, .rr f => some (.sar h f)
  | 0x01, 0x0C, .rr f => some (.rot h f)
  | 0x01, 0x0D, .rr f => some (.min h f)
  | 0x01, 0x0E, .rr f => some (.max h f)
  | 0x01, 0x0F, .rr f => some (.clz h f)
  | 0x01, 0x10, .rr f => some (.popc h f)
  | 0x01, 0x11, .rr f => some (.sel h f)
  | 0x01, 0x12, .rr f => some (.mov h f)
  | 0x02, 0x00, .rr f => some (.cmpEq h f)
  | 0x02, 0x01, .rr f => some (.cmpNe h f)
  | 0x02, 0x02, .rr f => some (.cmpLt h f)
  | 0x02, 0x03, .rr f => some (.cmpLe h f)
  | 0x02, 0x04, .rr f => some (.cmpLtu h f)
  | 0x02, 0x05, .rr f => some (.cmpLeu h f)
  | 0x03, 0x00, .ri f => some (.addi h f)
  | 0x03, 0x01, .li f => some (.ldi h f)
  | 0x03, 0x02, .li f => some (.ldih h f)
  | 0x08, 0x00, .br f => some (.br h f)
  | 0x08, 0x01, .br f => some (.brc h f)
  | 0x08, 0x02, .br f => some (.call h f)
  | 0x08, 0x03, .br f => some (.ret h f)
  | 0x09, 0x00, .lp f => some (.loop h f)
  | 0x09, 0x01, .lp f => some (.lclamp h f)
  | 0x0C, 0x00, .rr f => some (.setcRegister h f)
  | 0x0C, 0x01, .ci f => some (.setcImmediate h f)
  | 0x0C, 0x02, .rr f => some (.advc h f)
  | 0x0C, 0x03, .rr f => some (.getc h f)
  | 0x0C, 0x04, .rr f => some (.getfr h f)
  | 0x0D, 0x00, .rr f => some (.tok h f)
  | 0x0D, 0x01, .rr f => some (.bind h f)
  | 0x0E, 0x00, .rr f => some (.qdrop h f)
  | 0x0E, 0x01, .rr f => some (.qdepth h f)
  | 0x0E, 0x02, .rr f => some (.qclr h f)
  | 0x10, 0x00, .rr f => some (.srd h f)
  | 0x10, 0x01, .rr f => some (swrOf h f)
  | 0x10, 0x02, .ri f => some (.trap h f)
  | 0x10, 0x03, .rr f => some (.eret h f)
  | 0x10, 0x04, .rr f => some (.waitev h f)
  | 0x10, 0x05, .rr f => some (.yield h f)
  | 0x11, 0x00, .rr f => some (.fence h f)
  | 0x11, 0x01, .rr f => some (.stopatRegister h f)
  | 0x11, 0x02, .ci f => some (.stopatImmediate h f)
  | 0x11, 0x03, .rr f => some (.resume h f)
  | 0x12, 0x00, .rr f => some (.spawn h f)
  | 0x12, 0x01, .rr f => some (.rdv h f)
  | 0x12, 0x02, .rr f => some (.mbox h f)
  | 0x13, 0x00, .rr f => some (.semw h f)
  | 0x13, 0x01, .rr f => some (.sems h f)
  | 0x13, 0x02, .rr f => some (.semwt h f)
  | 0x14, 0x00, .rr f => some (.barr h f)
  | 0x14, 0x01, .rr f => some (.sstep h f)
  | 0x14, 0x02, .m f => some (.send h f)
  | 0x15, 0x00, .rr f => tlbiOf h f
  | 0x16, 0x00, .rr f => some (.bkpt h f)
  | 0x16, 0x01, .rr f => some (.snap h f)
  | 0x16, 0x02, .rr f => some (.tmark h f)
  | 0x18, 0x00, .m f => some (.ld h f)
  | 0x18, 0x01, .m f => some (.ldt h f)
  | 0x19, 0x00, .m f => some (.gather h f)
  | 0x1A, 0x00, .rr f => genOf h f
  | 0x1B, 0x00, .m f => some (.cpy h f)
  | 0x1B, 0x01, .me f => some (.cpyThreeLevels h f)
  | 0x1B, 0x02, .m f => some (.pub h f)
  | 0x1C, 0x00, .m f => some (.rld h f)
  | 0x20, 0x00, .m f => some (.st h f)
  | 0x20, 0x01, .m f => some (.stt h f)
  | 0x21, 0x00, .m f => some (.scatter h f)
  | 0x22, 0x00, .m f => some (.rst h f)
  | 0x22, 0x01, .m f => some (.rsta h f)
  | 0x22, 0x02, .m f => some (.rat h f)
  | 0x28, 0x00, .m f => some (.aadd h f)
  | 0x28, 0x01, .m f => some (.axch h f)
  | 0x28, 0x02, .m f => some (.acas h f)
  | 0x28, 0x03, .m f => some (.aincw h f)
  | 0x28, 0x04, .m f => some (.afaddb h f)
  | 0x28, 0x05, .m f => some (.await h f)
  | 0x30, 0x00, .vb f => some (.vadd h f)
  | 0x30, 0x00, .vf f => some (.vaddVf h f)
  | 0x30, 0x01, .vb f => some (.vsub h f)
  | 0x30, 0x01, .vf f => some (.vsubVf h f)
  | 0x30, 0x02, .vb f => some (.vmul h f)
  | 0x30, 0x02, .vf f => some (.vmulVf h f)
  | 0x30, 0x03, .vb f => some (.vfma h f)
  | 0x30, 0x03, .vf f => some (.vfmaVf h f)
  | 0x30, 0x04, .vb f => some (.vdiv h f)
  | 0x30, 0x04, .vf f => some (.vdivVf h f)
  | 0x30, 0x05, .vb f => some (.vabs h f)
  | 0x30, 0x05, .vf f => some (.vabsVf h f)
  | 0x30, 0x06, .vb f => some (.vneg h f)
  | 0x30, 0x06, .vf f => some (.vnegVf h f)
  | 0x30, 0x07, .vb f => some (.vmin h f)
  | 0x30, 0x07, .vf f => some (.vminVf h f)
  | 0x30, 0x08, .vb f => some (.vmax h f)
  | 0x30, 0x08, .vf f => some (.vmaxVf h f)
  | 0x30, 0x09, .vb f => some (.vminp h f)
  | 0x30, 0x09, .vf f => some (.vminpVf h f)
  | 0x30, 0x0A, .vb f => some (.vmaxp h f)
  | 0x30, 0x0A, .vf f => some (.vmaxpVf h f)
  | 0x31, 0x00, .vb f => some (.vcmp h f)
  | 0x31, 0x01, .vb f => some (.vsel h f)
  | 0x31, 0x01, .vf f => some (.vselVf h f)
  | 0x31, 0x02, .vb f => some (.vand h f)
  | 0x31, 0x02, .vf f => some (.vandVf h f)
  | 0x31, 0x03, .vb f => some (.vor h f)
  | 0x31, 0x03, .vf f => some (.vorVf h f)
  | 0x31, 0x04, .vb f => some (.vxor h f)
  | 0x31, 0x04, .vf f => some (.vxorVf h f)
  | 0x31, 0x05, .vb f => some (.vshl h f)
  | 0x31, 0x05, .vf f => some (.vshlVf h f)
  | 0x31, 0x06, .vb f => some (.vshr h f)
  | 0x31, 0x06, .vf f => some (.vshrVf h f)
  | 0x32, 0x00, .vb f => some (.vcvt h f)
  | 0x32, 0x00, .vf f => some (.vcvtVf h f)
  | 0x32, 0x01, .vb f => some (.vqmx h f)
  | 0x32, 0x01, .vf f => some (.vqmxVf h f)
  | 0x32, 0x02, .vb f => some (.vdqmx h f)
  | 0x32, 0x02, .vf f => some (.vdqmxVf h f)
  | 0x32, 0x03, .vb f => some (.vexp2 h f)
  | 0x32, 0x03, .vf f => some (.vexp2Vf h f)
  | 0x32, 0x04, .vb f => some (.vlog2 h f)
  | 0x32, 0x04, .vf f => some (.vlog2Vf h f)
  | 0x32, 0x05, .vb f => some (.vrcp h f)
  | 0x32, 0x05, .vf f => some (.vrcpVf h f)
  | 0x32, 0x06, .vb f => some (.vrsq h f)
  | 0x32, 0x06, .vf f => some (.vrsqVf h f)
  | 0x32, 0x07, .vb f => some (.vtanh h f)
  | 0x32, 0x07, .vf f => some (.vtanhVf h f)
  | 0x33, 0x00, .vb f => some (.vrotr h f)
  | 0x33, 0x01, .vb f => some (.vrotc h f)
  | 0x33, 0x02, .vb f => some (.vbcr h f)
  | 0x33, 0x03, .vb f => some (.vbcc h f)
  | 0x33, 0x04, .vb f => some (.vredr h f)
  | 0x33, 0x05, .vb f => some (.vredc h f)
  | 0x33, 0x06, .vb f => some (.vtrn h f)
  | 0x34, 0x00, .vb f => some (.vnetset h f)
  | 0x34, 0x01, .vb f => some (.vnet h f)
  | 0x35, 0x00, .vb f => some (.vld h f)
  | 0x35, 0x00, .vf f => some (.vldVf h f)
  | 0x35, 0x01, .vb f => some (.vst h f)
  | 0x35, 0x01, .vf f => some (.vstVf h f)
  | 0x35, 0x02, .vb f => some (.vgen h f)
  | 0x38, 0x00, .vn f => some (.vaddNest h f)
  | 0x38, 0x01, .vn f => some (.vsubNest h f)
  | 0x38, 0x02, .vn f => some (.vmulNest h f)
  | 0x38, 0x04, .vn f => some (.vdivNest h f)
  | 0x38, 0x05, .vn f => some (.vabsNest h f)
  | 0x38, 0x06, .vn f => some (.vnegNest h f)
  | 0x38, 0x07, .vn f => some (.vminNest h f)
  | 0x38, 0x08, .vn f => some (.vmaxNest h f)
  | 0x38, 0x09, .vn f => some (.vminpNest h f)
  | 0x38, 0x0A, .vn f => some (.vmaxpNest h f)
  | 0x38, 0x12, .vn f => some (.vandNest h f)
  | 0x38, 0x13, .vn f => some (.vorNest h f)
  | 0x38, 0x14, .vn f => some (.vxorNest h f)
  | 0x38, 0x15, .vn f => some (.vshlNest h f)
  | 0x38, 0x16, .vn f => some (.vshrNest h f)
  | 0x38, 0x20, .vn f => some (.vcvtNest h f)
  | 0x38, 0x24, .vn f => some (.vredrNest h f)
  | 0x3C, 0x00, .rr f => some (.mfmt h f)
  | 0x3C, 0x01, .m f => some (.mcb h f)
  | 0x3C, 0x02, .mx f => some (.mma h f)
  | 0x3D, 0x00, .rr f => some (.mcommit h f)
  | 0x3D, 0x01, .rr f => some (.mwait h f)
  | 0x3D, 0x02, .rr f => some (.mrd h f)
  | 0x3D, 0x03, .rr f => some (.mwr h f)
  | 0x3D, 0x04, .rr f => some (.mzero h f)
  | 0x3D, 0x05, .m f => some (.mstl h f)
  | 0x3D, 0x06, .m f => some (.mstf h f)
  | 0x3D, 0x07, .rr f => some (.mseed h f)
  | _, _, _ => none

/-- The majors that R61 assigns (check 2 of R63). -/
def majorAssigned (major : Nat) : Bool :=
  [0x01, 0x02, 0x03, 0x08, 0x09, 0x0C, 0x0D, 0x0E, 0x10, 0x11, 0x12, 0x13, 0x14, 0x15, 0x16, 0x18, 0x19, 0x1A, 0x1B, 0x1C, 0x20, 0x21,
    0x22, 0x28, 0x30, 0x31, 0x32, 0x33, 0x34, 0x35, 0x38, 0x3C, 0x3D].contains major

/-- The formats that R61 gives an opcode pair, one for each length; none for an unassigned pair (check 3 of R63). -/
def opFormats (major minor : Nat) : List FmtKind :=
  match major with
  | 0x01 => if minor ≤ 0x12 then [.rr] else []
  | 0x02 => if minor ≤ 5 then [.rr] else []
  | 0x03 => if minor = 0 then [.ri] else if minor ≤ 2 then [.li] else []
  | 0x08 => if minor ≤ 3 then [.br] else []
  | 0x09 => if minor ≤ 1 then [.lp] else []
  | 0x0C => if minor = 1 then [.ci] else if minor ≤ 4 then [.rr] else []
  | 0x0D => if minor ≤ 1 then [.rr] else []
  | 0x0E => if minor ≤ 2 then [.rr] else []
  | 0x10 => if minor = 2 then [.ri] else if minor ≤ 5 then [.rr] else []
  | 0x11 => if minor = 2 then [.ci] else if minor ≤ 3 then [.rr] else []
  | 0x12 => if minor ≤ 2 then [.rr] else []
  | 0x13 => if minor ≤ 2 then [.rr] else []
  | 0x14 => if minor = 2 then [.m] else if minor ≤ 1 then [.rr] else []
  | 0x15 => if minor = 0 then [.rr] else []
  | 0x16 => if minor ≤ 2 then [.rr] else []
  | 0x18 => if minor ≤ 1 then [.m] else []
  | 0x19 => if minor = 0 then [.m] else []
  | 0x1A => if minor = 0 then [.rr] else []
  | 0x1B => if minor = 1 then [.me] else if minor ≤ 2 then [.m] else []
  | 0x1C => if minor = 0 then [.m] else []
  | 0x20 => if minor ≤ 1 then [.m] else []
  | 0x21 => if minor = 0 then [.m] else []
  | 0x22 => if minor ≤ 2 then [.m] else []
  | 0x28 => if minor ≤ 5 then [.m] else []
  | 0x30 => if minor ≤ 0x0A then [.vb, .vf] else []
  | 0x31 => if minor ≤ 6 then [.vb, .vf] else []
  | 0x32 => if minor ≤ 7 then [.vb, .vf] else []
  | 0x33 => if minor ≤ 6 then [.vb] else []
  | 0x34 => if minor ≤ 1 then [.vb] else []
  | 0x35 => if minor ≤ 1 then [.vb, .vf] else if minor = 2 then [.vb] else []
  | 0x38 => if minor ≤ 2 ∨ (4 ≤ minor ∧ minor ≤ 0x0A) ∨ (0x12 ≤ minor ∧ minor ≤ 0x16) ∨ minor = 0x20 ∨ minor = 0x24
      then [.vn] else []
  | 0x3C => if minor = 0 then [.rr] else if minor = 1 then [.m] else if minor = 2 then [.mx] else []
  | 0x3D => if minor = 5 ∨ minor = 6 then [.m] else if minor ≤ 7 then [.rr] else []
  | _ => []

/-- The LEN code of a format kind. -/
def FmtKind.lenCode : FmtKind → Nat
  | .ci | .me | .vf | .mx => 1
  | .vn => 2
  | _ => 0

/-- The format of a pair at a length (check 4 of R63). -/
def formatFor (fs : List FmtKind) (len : Nat) : Option FmtKind := fs.find? (fun k => k.lenCode = len)

/-- The number of words of the instruction whose first word is w, by its LEN field (R45); none for LEN 0b11. -/
def wordsOf (w : Nat) : Option Nat :=
  match w % 4 with
  | 0 => some 1
  | 1 => some 2
  | 2 => some 4
  | _ => none

/-- The instruction encoded by the bits w, the first word lowest, by the checks 1 to 5 of R63 in their order. Bits above the
instruction's length play no part. -/
def decode (w : Nat) : Except Reject Instr :=
  let major := w / 4 % 64
  let minor := w / 256 % 64
  if w % 4 = 3 then .error .badLen3
  else if !majorAssigned major then .error .badMajor
  else if (opFormats major minor).isEmpty then .error .badMinor
  else match formatFor (opFormats major minor) (w % 4) with
    | none => .error .badLength
    | some k =>
      let r := Fmt.ofWord k w
      match instrOf major minor (Hdr.ofWord w) r.1 with
      | none => .error .badField
      | some i => if r.2 && i.wf then .ok i else .error .badField

/-- A little-endian byte list as a number (R6). -/
def bytesToNat : List Byte → Nat
  | [] => 0
  | b :: bs => b.toNat + 256 * bytesToNat bs
/-- The n low bytes of a number, lowest first (R6). -/
def natToBytes : Nat → Nat → List Byte
  | 0, _ => []
  | n + 1, w => BitVec.ofNat 8 w :: natToBytes n (w / 256)

/-- The instruction at the head of a byte list, with the bytes that follow it (R44). -/
def decodeBytes (bs : List Byte) : Except Reject (Instr × List Byte) :=
  if bs.length < 8 then .error .short
  else match wordsOf (bytesToNat (bs.take 8)) with
    | none => .error .badLen3
    | some n =>
      if bs.length < 8 * n then .error .short
      else match decode (bytesToNat (bs.take (8 * n))) with
        | .ok i => .ok (i, bs.drop (8 * n))
        | .error e => .error e

/-- The bits of an instruction, from R45 and R51 to R61. -/
def Enc.bits (e : Enc) : Nat :=
  e.f.bits + e.h.bits + e.minor.toNat * 2 ^ 8 + e.major.toNat * 2 ^ 2 + e.f.lenCode
/-- The words of a well-formed instruction as one number with the first word lowest; none for an event. -/
def encode (i : Instr) : Option Nat := i.enc.map Enc.bits
/-- The bytes of an instruction as memory holds them (R44); none for an event. -/
def encodeBytes (i : Instr) : Option (List Byte) := i.enc.map (fun e => natToBytes (8 * e.f.words) e.bits)
/-- The first 64-bit word of an instruction, which R254 puts in the trap record. -/
def Instr.firstWord (i : Instr) : Word := match i.enc with
  | some e => BitVec.ofNat 64 e.bits
  | none => 0
/-- The length of an instruction in bytes (R44); an event has none. -/
def Instr.bytes (i : Instr) : Nat := match i.enc with
  | some e => 8 * e.f.words
  | none => 0

/-- The host's question: the instruction read from bits numbered as the opcode table numbers them, laid out in memory order. -/
def decodeTableWord (nbits w : Nat) : Option Instr :=
  match decodeBytes (natToBytes 32 (w % 2 ^ nbits)) with
  | .ok (i, _) => some i
  | .error _ => none

end Sys2Proof
end

