-- ==== Sys2Proof/Config.lean ====
section
/-!
DEFINITION. What the spec leaves open: free values, constants without a body, applied to the number of the step. No value of one is
known to any proof.
-/
namespace Sys2Proof.Config

/-- Which event takes place, or which core and stream tries to issue, at a step whose agenda is empty (95, R3); none: nothing moves.
The first component is an event; the second a stream. DESIGN CHOICE (assumption 1). -/
opaque freeEvent : Nat → Option Instr
/-- The stream that tries to issue at a step whose agenda is empty and that takes no event. DESIGN CHOICE (assumption 1). -/
opaque freeIssue : Nat → Option (CoreId × StreamId)
/-- The cycles that fabric time moves at a step (R346). DESIGN CHOICE (assumption 1). -/
opaque freeCycles : Nat → Nat
/-- Core cycles that a stream of a core waited in this step, of which LEADCYC counts the waits for its lead (R41). DESIGN CHOICE
(assumption 5). -/
opaque freeWait : Nat → CoreId → StreamId → Nat
/-- Lost arbitrations of a core's bank account at a step: counter and amount (R269). DESIGN CHOICE (assumption 5). -/
opaque freeBankLoss : Nat → CoreId → List (Nat × Nat)
/-- Issue cycles that an MMA of a core used in a step, in each of the windows that the step touches (R238). DESIGN CHOICE (assumption 5). -/
opaque freeIssueCycles : Nat → CoreId → Nat → Nat
/-- Cycles that the governor withheld from a core's MMA in a step, of those in which it may (R238). DESIGN CHOICE (assumption 5). -/
opaque freeGovStall : Nat → CoreId → Nat
/-- Core cycles that the job on a core ran at a step (R332). DESIGN CHOICE (assumption 5). -/
opaque freeRun : Nat → CoreId → Nat
/-- Amounts that the performance counters of a core's job gain at a step for events measured in cycles (R398). DESIGN CHOICE
(assumption 5). -/
opaque freeCounter : Nat → CoreId → Fin 16 → Nat
/-- Whether a translation that a TLB may still hold is found there (R282, R283). DESIGN CHOICE (assumption 12). -/
opaque freeTlbHit : Nat → Nat → Bool
/-- A translation that a TLB comes to hold at a step: the core, the partition, an address of the page, and whether it is the L2 of the
core's cluster (R282). DESIGN CHOICE (assumption 12). -/
opaque freeTlbFill : Nat → Option (CoreId × PartId × Nat × Bool)
/-- Whether a walk of an address uses a non-leaf entry that the walker may still hold: the level and the address of the table that the
entry names (R282). DESIGN CHOICE (assumption 12). -/
opaque freeWalkHit : Nat → Nat → Nat → Nat → Bool
/-- A non-leaf entry that a walker comes to hold at a step: the die, the partition, an address and the level of the table that the entry
names (R282). DESIGN CHOICE (assumption 12). -/
opaque freeWalkFill : Nat → Option (DieId × PartId × Nat × Nat)
/-- A word of code that the fetch of a core's job reads ahead at a step, and keeps (R65). DESIGN CHOICE (assumption 7). -/
opaque freeCodeFill : Nat → Option (CoreId × BitVec 64)
/-- Whether at a step the fetch of a core's job gives up a word of code that it keeps, by address: a store to it becomes visible (R65).
DESIGN CHOICE (assumption 7). -/
opaque freeCodeDrop : Nat → CoreId → Nat → Bool
/-- A value the spec leaves open where an instruction or event writes one. DESIGN CHOICE (assumption 13). -/
opaque freeWord : Nat → Nat → BitVec 64
/-- The stop of a die's rings that a die link meets: the link and the die (R310, R315). DESIGN CHOICE (assumption 78). -/
opaque linkStop : Nat → DieId → Nat
/-- A sector of a CXL device that the device reports as poisoned from a step on (R354). DESIGN CHOICE (assumption 76). -/
opaque freeCxlPoison : Nat → Option Nat
/-- The time master of the packages that torus links join, as a node number; by how much FTIME is slewed towards it at a step; and the
estimate of FTIME against the master's that a package makes without its time: ahead of it or behind it, and within the bound (R346). DESIGN
CHOICE (assumption 79). -/
opaque freeMaster : Nat → Nat
opaque freeSlew : Nat → Nat
opaque freeEstimate : Nat → Option Bool × Bool
/-- Data flits of a port in a step (R365, R366): sent, acknowledged by the peer, arrived, and failed to authenticate since the last one that
arrived. DESIGN CHOICE (assumption 62). -/
opaque freeFlits : Nat → Nat → Nat × Nat × Nat × Nat
/-- The lanes that a training finds good at a port's receiver, with the spare in bit 16 (R363). DESIGN CHOICE (assumption 62). -/
opaque freeLanes : Nat → Nat → BitVec 17
/-- Where Brim's firmware region of 256 MiB lies in die 0's DRAM (R337). DESIGN CHOICE (assumption 13). -/
opaque firmwareBase : Nat
/-- An error of a memory that an access of a job's stream meets at a step (R290, R291, R293): the core, the stream, the kind (DRAM corrected,
DRAM line poisoned, pool word corrected, pool sector poisoned), the place in the numbering of memory and the virtual address. DESIGN CHOICE
(assumption 76). -/
opaque freeError : Nat → Option (CoreId × StreamId × BitVec 2 × Nat × BitVec 64)
/-- The image of Brim that stands in the module at power-good (R335). DESIGN CHOICE (assumption 57). -/
opaque brimImage : List Byte
/-- The length that the header of an image gives, once enough of it is there (R335, R338): the header's layout is not given. DESIGN CHOICE
(assumption 57). -/
opaque imageLength : List Byte → Option Nat
/-- A length that an image may have (RESULT 4 of R339). DESIGN CHOICE (assumption 57). -/
opaque lengthOk : Nat → Bool
/-- Both signatures of an image verify against the fused hashes (R335). DESIGN CHOICE (assumption 57). -/
opaque imageSigned : List Byte → Bool
/-- The security version number in the header of an image, and the fused minimum (R335). DESIGN CHOICE (assumption 57). -/
opaque imageSvn : List Byte → BitVec 64
opaque fusedSvn : BitVec 64
/-- The two identity public keys, and the signatures under the identity keys (R336): ECDSA, and HSS with its index. DESIGN CHOICE
(assumption 57). -/
opaque identityKeys : List Byte
opaque ecSign : List Byte → List Byte
opaque hssSign : Nat → List Byte → List Byte
/-- The tag of a control flit: by port, direction, key epoch and the first 48 bytes (R362, R366); AES-256-GCM under Crown's keys, which no
agent outside Crown knows. DESIGN CHOICE (assumption 14). -/
opaque flitTag : Nat → Bool → Nat → List Byte → BitVec 128
/-- H_g of a partition's pair (R371): AES-256 under the pair key of a block that holds g; the first argument numbers the pairing. DESIGN
CHOICE (assumption 14). -/
opaque pairHash : Nat → Nat → BitVec 128

end Sys2Proof.Config
end

