-- ==== Sys2Proof/Machine/Flags.lean ====
section
/-!
DEFINITION. The exception flags of arithmetic (R171, R237) and the rounding modes (R50).
-/
namespace Sys2Proof.Machine

/-- The flags an operation sets: invalid, division by zero, overflow, underflow, inexact (R171). -/
structure Fl where
  nv : Bool
  dz : Bool
  of : Bool
  uf : Bool
  nx : Bool
  deriving DecidableEq, Repr

/-- No flag. -/
def Fl.clear : Fl := ⟨false, false, false, false, false⟩
/-- The flags of either. -/
def Fl.or (a b : Fl) : Fl := ⟨a.nv || b.nv, a.dz || b.dz, a.of || b.of, a.uf || b.uf, a.nx || b.nx⟩
/-- The flag NV when the condition holds. -/
def Fl.inv (b : Bool) : Fl := ⟨b, false, false, false, false⟩
/-- The flag NX when the condition holds. -/
def Fl.inexact (b : Bool) : Fl := ⟨false, false, false, false, b⟩

/-- RMODE bits 7:3: NV, DZ, OF, UF, NX (R171). -/
def Fl.rmodeBits (f : Fl) : Nat :=
  (if f.nv then 0x80 else 0) + (if f.dz then 0x40 else 0) + (if f.of then 0x20 else 0) + (if f.uf then 0x10 else 0) +
    (if f.nx then 0x08 else 0)
/-- MSTAT bits 7:4: NV, OF, UF, NX (R237). -/
def Fl.mstatBits (f : Fl) : Nat :=
  (if f.nv then 0x80 else 0) + (if f.of then 0x40 else 0) + (if f.uf then 0x20 else 0) + (if f.nx then 0x10 else 0)

/-- The rounding modes (R50). -/
inductive Rm where
  | rne | rtz | rup | rdn | rna | sr
  deriving DecidableEq, Repr

/-- The mode of a code 0 to 5; other codes never reach it (R50, R171). -/
def Rm.ofCode : Nat → Rm
  | 0 => .rne
  | 1 => .rtz
  | 2 => .rup
  | 3 => .rdn
  | 4 => .rna
  | _ => .sr

/-- The mode an RM field selects: DYN takes the sampled mode of RMODE (R50, R172). -/
def Rm.select (rm : BitVec 3) (dyn : Nat) : Rm := if rm = 6 then Rm.ofCode dyn else Rm.ofCode rm.toNat

end Sys2Proof.Machine
end

