-- ==== Sys2Proof/Machine/Num.lean ====
section
/-!
DEFINITION. Number formats, rounding and conversions (R160 to R182) on exact values: a finite value is m × 2^e, with a sticky bit
for a positive tail below one unit of m. Every function is structurally recursive.
-/
namespace Sys2Proof.Machine

/-- A value read from a format: a NaN (signalling or not), an infinity, a zero, or ±(m + tail) × 2^e with m ≠ 0, where `st` says
that a tail strictly between 0 and 1 is present. -/
inductive Val where
  | nan (sig neg : Bool)
  | inf (neg : Bool)
  | zero (neg : Bool)
  | fin (neg : Bool) (m : Nat) (e : Int) (st : Bool)
  deriving DecidableEq, Repr

/-- floor(log2) of m × 2^e. -/
def lgOf (m : Nat) (e : Int) : Int := e + (Nat.log2 m : Int)

/-- The layout of a floating-point format (R161, R162): stored significand bits, bias, width, the code of the largest finite
magnitude, the code of +∞ where there is one, and the canonical quiet NaN where there is one. -/
structure FFmt where
  mb : Nat
  bias : Nat
  w : Nat
  maxCode : Nat
  infCode : Option Nat
  qnan : Option Nat
  deriving DecidableEq, Repr

/-- The floating-point formats by type code (R49, R161, R162). -/
def FFmt.ofTy : Nat → FFmt
  | 0 => ⟨23, 127, 32, 0x7F7FFFFF, some 0x7F800000, some 0x7FC00000⟩
  | 1 => ⟨10, 15, 16, 0x7BFF, some 0x7C00, some 0x7E00⟩
  | 2 => ⟨7, 127, 16, 0x7F7F, some 0x7F80, some 0x7FC0⟩
  | 3 => ⟨3, 7, 8, 0x7E, none, some 0x7F⟩
  | 4 => ⟨2, 15, 8, 0x7B, some 0x7C, some 0x7E⟩
  | 5 => ⟨2, 3, 6, 0x1F, none, none⟩
  | 6 => ⟨3, 1, 6, 0x1F, none, none⟩
  | _ => ⟨1, 1, 4, 0x7, none, none⟩

/-- The width in bits of an element of a type code (R99). -/
def tyWidth : Nat → Nat
  | 0x00 | 0x0F | 0x13 => 32
  | 0x01 | 0x02 | 0x0A | 0x0E | 0x12 => 16
  | 0x03 | 0x04 | 0x08 | 0x09 | 0x0D | 0x11 => 8
  | 0x05 | 0x06 => 6
  | 0x07 | 0x0B | 0x0C => 4
  | _ => 64
/-- The signed integer types i4, i8, i16, i32 and i64 (R164). -/
def tySigned (t : Nat) : Bool := decide (0x0C ≤ t ∧ t ≤ 0x10)
/-- The integer types (R164). -/
def tyInt (t : Nat) : Bool := decide (0x0C ≤ t ∧ t ≤ 0x14)
/-- The floating-point types (R161). -/
def tyFloat (t : Nat) : Bool := decide (t ≤ 7)

/-- A raw code as two's complement of w bits. -/
def toSigned (w raw : Nat) : Int := if raw % 2 ^ w < 2 ^ (w - 1) then (raw % 2 ^ w : Nat) else (raw % 2 ^ w : Nat) - (2 ^ w : Nat)
/-- An integer modulo 2^w. -/
def wrapInt (w : Nat) (x : Int) : Nat := (x % (2 ^ w : Nat)).toNat

/-- An integer as a value. -/
def Val.ofInt (x : Int) : Val := if x = 0 then .zero false else .fin (decide (x < 0)) x.natAbs 0 false

/-- The value of a floating-point code (R161, R162); with `opf` a subnormal reads as zero of its sign (R174). -/
def decodeFloat (t : Nat) (opf : Bool) (raw : Nat) : Val :=
  let f := FFmt.ofTy t
  let neg := decide (raw / 2 ^ (f.w - 1) % 2 = 1)
  let mag := raw % 2 ^ (f.w - 1)
  let man := mag % 2 ^ f.mb
  let ex := mag / 2 ^ f.mb
  if f.maxCode < mag then
    if f.infCode = some mag then .inf neg
    else .nan (f.infCode.isSome && decide (man / 2 ^ (f.mb - 1) = 0)) neg
  else if mag = 0 then .zero neg
  else if ex = 0 then (if opf then .zero neg else .fin neg man (1 - (f.bias : Int) - f.mb) false)
  else .fin neg (man + 2 ^ f.mb) ((ex : Int) - f.bias - f.mb) false

/-- The greatest r below 2^b for which p holds, for a downward closed p that holds at 0. -/
def bitSearch (p : Nat → Bool) : Nat → Nat → Nat
  | 0, acc => acc
  | b + 1, acc => bitSearch p b (if p (acc + 2 ^ b) then acc + 2 ^ b else acc)

/-- Entry k of EXP2T: the integer nearest to 2^23 × 2^(k/4096) (R168). -/
def exp2t (k : Nat) : Nat := (bitSearch (fun r => decide (r ^ 4096 ≤ 2 ^ (k + 4096 * 24))) 25 0 + 1) / 2

/-- floor(2^160 × 2^(f/256)), the significand of an LNS value. -/
def exp2f256 (f : Nat) : Nat := bitSearch (fun r => decide (r ^ 256 ≤ 2 ^ (f + 256 * 160))) 161 0

/-- The linear value of an LNS code with L in units of 1/256 (R165, R166). -/
def lnsValue (neg : Bool) (l256 : Int) : Val :=
  let f := (l256 % 256).toNat
  if f = 0 then .fin neg 1 (l256 / 256) false else .fin neg (exp2f256 f) (l256 / 256 - 160) true

/-- An LNS code: its L field in units of 1/256, or zero, or NaN (R165, R166). -/
inductive Lns where
  | nan | zero
  | fin (neg : Bool) (l256 : Int)
  deriving DecidableEq, Repr

/-- The LNS code of lns8 (0x09) or lns16 (0x0A) (R165, R166). -/
def Lns.decode (t raw : Nat) : Lns :=
  if t = 0x09 then
    (if raw % 256 = 0x40 then .zero else if raw % 256 = 0xC0 then .nan
     else .fin (decide (raw / 128 % 2 = 1)) (toSigned 7 raw * 32))
  else
    (if raw % 65536 = 0x4000 then .zero else if raw % 65536 = 0xC000 then .nan
     else .fin (decide (raw / 32768 % 2 = 1)) (toSigned 15 raw))

/-- The value of an element of any type but cb4 (R161 to R166); an LNS NaN is never signalling (R178). -/
def decodeVal (t : Nat) (opf : Bool) (raw : Nat) : Val :=
  if tyFloat t then decodeFloat t opf raw
  else if t = 0x08 then (if raw % 256 = 255 then .nan false false else .fin false 1 ((raw % 256 : Nat) - 127) false)
  else if t = 0x09 ∨ t = 0x0A then
    match Lns.decode t raw with
    | .nan => .nan false false
    | .zero => .zero false
    | .fin neg l => lnsValue neg l
  else Val.ofInt (if tySigned t then toSigned (tyWidth t) raw else (raw % 2 ^ tyWidth t : Nat))

/-- What rounding needs beside the value: the mode, the lane's stochastic output, and the exponent of the source's own quantum where
the value is a code of a format or an integer (R170); none makes d = 64. -/
structure RndCtx where
  mode : Rm
  z : Nat
  src : Option Int
  deriving DecidableEq, Repr

/-- The number d of discarded bits (R170). -/
def RndCtx.d (c : RndCtx) (qe : Int) : Nat := match c.src with
  | none => 64
  | some q => min (qe - q).toNat 64

/-- SR's decision: D + z[63:64-d] ≥ 2^d (R170). -/
def srUp (d dv z : Nat) : Bool := decide (0 < d ∧ 2 ^ d ≤ dv + z / 2 ^ (64 - d))

/-- `rnd` of R170 to the quantum 2^qe: the integer n + c and whether the value was not a multiple of the quantum. A tail more than 200
bits below the quantum rounds like one 200 bits below it. -/
def rndTo (c : RndCtx) (neg : Bool) (m : Nat) (e : Int) (st : Bool) (qe : Int) : Nat × Bool :=
  if qe ≤ e then (m * 2 ^ (e - qe).toNat, st)
  else
    let k := min (qe - e).toNat (Nat.log2 m + 200)
    let n := m / 2 ^ k
    let r := m % 2 ^ k
    let inexact := decide (r ≠ 0) || st
    let up := match c.mode with
      | .rtz => false
      | .rup => inexact && !neg
      | .rdn => inexact && neg
      | .rne => decide (2 ^ k < 2 * r) || (decide (2 * r = 2 ^ k) && (st || decide (n % 2 = 1)))
      | .rna => decide (2 ^ k ≤ 2 * r)
      | .sr => srUp (c.d qe) (r * 2 ^ c.d qe / 2 ^ k) c.z
    (n + (if (up : Bool) then 1 else 0), inexact)

/-- The sign bit of a w-bit code. -/
def signBit (neg : Bool) (w : Nat) : Nat := if neg then 2 ^ (w - 1) else 0

/-- A value rounded to a floating-point format (R170, R174, R177 steps 2 to 6, R178). -/
def encFloat (t : Nat) (rsf : Bool) (c : RndCtx) : Val → Nat × Fl
  | .nan sig neg => match (FFmt.ofTy t).qnan with
    | some q => (signBit neg (FFmt.ofTy t).w + q, Fl.inv sig)
    | none => (0, Fl.inv true)
  | .inf neg => match (FFmt.ofTy t).infCode with
    | some i => (signBit neg (FFmt.ofTy t).w + i, Fl.clear)
    | none => (signBit neg (FFmt.ofTy t).w + (FFmt.ofTy t).qnan.getD (FFmt.ofTy t).maxCode, Fl.inv true)
  | .zero neg => (signBit neg (FFmt.ofTy t).w, Fl.clear)
  | .fin neg m e st =>
    let f := FFmt.ofTy t
    let sb := signBit neg f.w
    let emin : Int := 1 - f.bias
    let lg := lgOf m e
    if rsf && decide (lg < emin) then (sb, ⟨false, false, false, true, true⟩)
    else
      let qe := max lg emin - f.mb
      let r := rndTo c neg m e st qe
      let code := (qe + f.mb - emin).toNat * 2 ^ f.mb + r.1
      if f.maxCode < code then
        let toInf := match c.mode with
          | .rtz => false
          | .rup => !neg
          | .rdn => neg
          | _ => true
        (sb + (if toInf then f.infCode.getD f.maxCode else f.maxCode), ⟨false, false, true, false, true⟩)
      else (sb + code, ⟨false, false, false, r.2 && decide (lg < emin), r.2⟩)

/-- A value rounded to an integer format, saturating (R170, R178). -/
def encInt (t : Nat) (c : RndCtx) (v : Val) : Nat × Fl :=
  let w := tyWidth t
  let hi : Int := if tySigned t then (2 ^ (w - 1) : Nat) - 1 else (2 ^ w : Nat) - 1
  let lo : Int := if tySigned t then -(2 ^ (w - 1) : Nat) else 0
  match v with
  | .nan _ _ => (0, Fl.inv true)
  | .inf neg => (wrapInt w (if neg then lo else hi), Fl.inv true)
  | .zero _ => (0, Fl.clear)
  | .fin neg m e st =>
    let r := rndTo c neg m e st 0
    let x : Int := if neg then -(r.1 : Int) else r.1
    if x < lo then (wrapInt w lo, ⟨true, false, false, false, true⟩)
    else if hi < x then (wrapInt w hi, ⟨true, false, false, false, true⟩)
    else (wrapInt w x, Fl.inexact r.2)

/-- A value converted to E8M0 (R180). DESIGN CHOICE (log 85): minus infinity is a negative x that is not 0, so it sets NV beside OF; a zero
sets UF alone, and an infinity no NX. -/
def encE8m0 (c : RndCtx) : Val → Nat × Fl
  | .nan sig _ => (0xFF, Fl.inv sig)
  | .inf neg => (0xFE, ⟨neg, false, true, false, false⟩)
  | .zero _ => (0x00, ⟨false, false, false, true, false⟩)
  | .fin neg m e st =>
    let lg := lgOf m e
    let p := 2 ^ Nat.log2 m
    let pow2 := decide (m = p) && !st
    let ex := match c.mode with
      | .rtz => lg
      | .rdn => lg
      | .rup => if pow2 then lg else lg + 1
      | .rna => if 3 * p ≤ 2 * m then lg + 1 else lg
      | _ => if 3 * p < 2 * m ∨ (3 * p = 2 * m ∧ (st ∨ lg % 2 = 0)) then lg + 1 else lg
    if 127 < ex then (0xFE, ⟨neg, false, true, false, true⟩)
    else if ex < -127 then (0x00, ⟨neg, false, false, true, true⟩)
    else ((ex + 127).toNat, ⟨neg, false, false, false, !(pow2 && decide (ex = lg))⟩)

/-- The first `bits` fraction bits of log2 of a number between lo/2^p and hi/2^p, both in [1, 2), by repeated squaring; none when the
interval does not decide a bit. -/
def logBits (p : Nat) : Nat → Nat → Nat → Nat → Option Nat
  | 0, _, _, acc => some acc
  | b + 1, lo, hi, acc =>
    let lo' := lo * lo / 2 ^ p
    let hi' := hi * hi / 2 ^ p + 1
    if 2 ^ (p + 1) ≤ lo' then logBits p b (lo' / 2) (hi' / 2 + 1) (2 * acc + 1)
    else if hi' < 2 ^ (p + 1) then logBits p b lo' hi' (2 * acc)
    else none

/-- floor(2^bits × frac(log2 m)) for m not a power of two, with 512 bits of working precision. -/
def logFrac (bits m : Nat) : Nat :=
  let one := m * 2 ^ 512 / 2 ^ Nat.log2 m
  (logBits 512 bits one (one + 1) 0).getD 0

/-- L from floor(y), its fraction and the mode (R179): `cmp` compares the fraction with one half, `dv` is D. -/
def lnsPick (c : RndCtx) (d : Nat) (neg exact : Bool) (fl : Int) (cmp : Ordering) (dv : Nat) : Int :=
  if exact then fl
  else
    let up : Bool := match c.mode with
      | .rtz => false
      | .rup => !neg
      | .rdn => neg
      | .rne => cmp == .gt || (cmp == .eq && decide (fl % 2 = 1))
      | .rna => cmp != .lt
      | .sr => srUp d dv c.z
    if up then fl + 1 else fl

/-- The LNS code of L with its flags (R179): t is 0x09 or 0x0A. -/
def lnsFinish (t : Nat) (neg exact : Bool) (l : Int) : Nat × Fl :=
  let w := tyWidth t
  let lmax : Int := if t = 0x09 then 63 else 16383
  if lmax < l then (signBit neg w + lmax.toNat, ⟨false, false, true, false, true⟩)
  else if l < -lmax then (2 ^ (w - 2), ⟨false, false, false, true, true⟩)
  else (signBit neg w + wrapInt (w - 1) l, Fl.inexact (!exact))

/-- A value that is not an LNS code converted to LNS (R178, R179). -/
def encLns (t : Nat) (c : RndCtx) : Val → Nat × Fl
  | .nan sig _ => (3 * 2 ^ (tyWidth t - 2), Fl.inv sig)
  | .zero _ => (2 ^ (tyWidth t - 2), Fl.clear)
  | .inf neg => (signBit neg (tyWidth t) + (if t = 0x09 then 63 else 16383), ⟨false, false, true, false, false⟩)
  | .fin neg m e st =>
    let ub : Nat := if t = 0x09 then 3 else 8
    let u : Nat := 2 ^ ub
    let exact := decide (m = 2 ^ Nat.log2 m) && !st
    let fl : Int := (Nat.log2 (m ^ u) : Int) + u * e
    let cmp := if Nat.log2 (m ^ (2 * u)) % 2 = 1 then Ordering.gt else .lt
    let dv := match c.mode with
      | .sr => logFrac (64 + ub) m % 2 ^ 64
      | _ => 0
    lnsFinish t neg exact (lnsPick c 64 neg exact fl cmp dv)

/-- An LNS code converted to LNS (R179): exact widening, and rounding of L16 / 32 with d = 5 to LNS8. -/
def lnsToLns (t : Nat) (c : RndCtx) : Lns → Nat × Fl
  | .nan => (3 * 2 ^ (tyWidth t - 2), Fl.clear)
  | .zero => (2 ^ (tyWidth t - 2), Fl.clear)
  | .fin neg l =>
    if t = 0x0A then lnsFinish t neg true l
    else
      let r := (l % 32).toNat
      lnsFinish t neg (decide (r = 0)) (lnsPick c 5 neg (decide (r = 0)) (l / 32) (compare (2 * r) 32) r)

/-- A value that is not an LNS code converted to any target but cb4 (R177 to R180). -/
def encVal (t : Nat) (rsf : Bool) (c : RndCtx) (v : Val) : Nat × Fl :=
  if tyFloat t then encFloat t rsf c v
  else if t = 0x08 then encE8m0 c v
  else if t = 0x09 ∨ t = 0x0A then encLns t c v
  else encInt t c v

/-- The exponent of a value's own quantum, where it is a code of a format or an integer (R170). -/
def Val.quantum : Val → Option Int
  | .fin _ _ e st => if st then none else some e
  | _ => none

/-- A conversion of a code of type s to type t (R177), with the flush bits of the source and the target. -/
def convert (t s : Nat) (opf rsf : Bool) (mode : Rm) (z raw : Nat) : Nat × Fl :=
  if (s = 0x09 ∨ s = 0x0A) ∧ (t = 0x09 ∨ t = 0x0A) then lnsToLns t ⟨mode, z, none⟩ (Lns.decode s raw)
  else
    let v := decodeVal s opf raw
    encVal t rsf ⟨mode, z, if s = 0x09 ∨ s = 0x0A then none else v.quantum⟩ v

/-! ### Exact arithmetic -/

/-- An exact dyadic number x × 2^e. -/
structure Dy where
  x : Int
  e : Int
  deriving DecidableEq, Repr

/-- The exact sum. -/
def Dy.add (a b : Dy) : Dy :=
  let e := min a.e b.e
  ⟨a.x * (2 ^ (a.e - e).toNat : Nat) + b.x * (2 ^ (b.e - e).toNat : Nat), e⟩
/-- A finite value as a dyadic; NaN and infinity count as 0. -/
def Val.dy : Val → Dy
  | .fin neg m e _ => ⟨if neg then -(m : Int) else m, e⟩
  | _ => ⟨0, 0⟩
/-- A dyadic as a value; an exact zero takes the given sign. -/
def Dy.val (a : Dy) (zneg : Bool) : Val := if a.x = 0 then .zero zneg else .fin (decide (a.x < 0)) a.x.natAbs a.e false

/-- The sign of a value; a NaN's does not matter. -/
def Val.neg : Val → Bool
  | .nan _ n | .inf n | .zero n | .fin n _ _ _ => n
/-- The value is a NaN. -/
def Val.isNan : Val → Bool
  | .nan _ _ => true
  | _ => false
/-- The value is a signalling NaN. -/
def Val.isSig : Val → Bool
  | .nan s _ => s
  | _ => false
/-- The value is an infinity. -/
def Val.isInf : Val → Bool
  | .inf _ => true
  | _ => false
/-- The value is a zero. -/
def Val.isZero : Val → Bool
  | .zero _ => true
  | _ => false
/-- The value with its sign inverted. -/
def Val.negate : Val → Val
  | .nan s n => .nan s (!n)
  | .inf n => .inf (!n)
  | .zero n => .zero (!n)
  | .fin n m e st => .fin (!n) m e st

/-- The positive quiet NaN, the result of an invalid operation (R162). -/
def Val.qnan : Val := .nan false false

/-- The exact sum of two values and whether NV is set (R187, R190): `rdn` gives the sign of an exact zero of opposite signs. -/
def Val.add (rdn : Bool) (a b : Val) : Val × Bool :=
  if a.isNan || b.isNan then (.qnan, a.isSig || b.isSig)
  else if a.isInf && b.isInf then (if a.neg = b.neg then (a, false) else (.qnan, true))
  else if a.isInf then (a, false)
  else if b.isInf then (b, false)
  else (((a.dy.add b.dy).val (if a.neg = b.neg && a.isZero && b.isZero then a.neg else rdn)), false)

/-- The exact product of two values and whether NV is set (R190). -/
def Val.mul (a b : Val) : Val × Bool :=
  let s := a.neg != b.neg
  match a, b with
  | .nan sa _, _ => (.qnan, sa || b.isSig)
  | _, .nan sb _ => (.qnan, sb)
  | .inf _, .zero _ => (.qnan, true)
  | .zero _, .inf _ => (.qnan, true)
  | .inf _, _ => (.inf s, false)
  | _, .inf _ => (.inf s, false)
  | .zero _, _ => (.zero s, false)
  | _, .zero _ => (.zero s, false)
  | .fin _ m e _, .fin _ m' e' _ => (.fin s (m * m') (e + e') false, false)

/-- a × b + c, exact, and whether NV is set (R190): 0 × ∞ is invalid whatever c is. -/
def Val.fma (rdn : Bool) (a b c : Val) : Val × Bool :=
  let p := a.mul b
  let r := p.1.add rdn c
  (r.1, r.2 || p.2)

/-- a / b truncated to 200 bits below its leading bits with a sticky tail, the flags NV and DZ (R190). -/
def Val.div (a b : Val) : Val × Bool × Bool :=
  let s := a.neg != b.neg
  match a, b with
  | .nan sa _, _ => (.qnan, sa || b.isSig, false)
  | _, .nan sb _ => (.qnan, sb, false)
  | .inf _, .inf _ => (.qnan, true, false)
  | .zero _, .zero _ => (.qnan, true, false)
  | .inf _, _ => (.inf s, false, false)
  | _, .inf _ => (.zero s, false, false)
  | _, .zero _ => (.inf s, false, true)
  | .zero _, _ => (.zero s, false, false)
  | .fin _ m e _, .fin _ m' e' _ =>
    (.fin s (m * 2 ^ 200 / m') (e - e' - 200) (decide (m * 2 ^ 200 % m' ≠ 0)), false, false)

/-- floor of the square root of n below 2^(2b). -/
def isqrt (b n : Nat) : Nat := bitSearch (fun r => decide (r * r ≤ n)) b 0

/-! ### The log domain -/

/-- The internal log word (R167). -/
structure LogWord where
  nan : Bool
  inf : Bool
  zero : Bool
  neg : Bool
  l : Int
  deriving DecidableEq, Repr

/-- The ZERO word. -/
def LogWord.zeroWord : LogWord := ⟨false, false, true, false, 0⟩

/-- The integer nearest to 4096 × log2 (m × 2^e) (R167). -/
def nearestLog (m : Nat) (e : Int) : Int := ((Nat.log2 (m ^ 8192) : Int) + 1) / 2 + 4096 * e

/-- `log4096` of R167. -/
def log4096 : Val → LogWord
  | .nan _ _ => ⟨true, false, false, false, 0⟩
  | .inf n => ⟨false, true, false, n, 0⟩
  | .zero n => ⟨false, false, true, n, 0⟩
  | .fin n m e _ => ⟨false, false, false, n, nearestLog m e⟩

/-- The 32 bits of an internal log word (R167). -/
def LogWord.bits (w : LogWord) : Nat :=
  (if w.nan then 2 ^ 31 else 0) + (if w.inf then 2 ^ 30 else 0) + (if w.zero then 2 ^ 29 else 0) + (if w.neg then 2 ^ 23 else 0) +
    wrapInt 23 w.l

/-! ### Special functions (R198) -/

/-- The integer nearest to m × 2^e, ties to even, clamped to 2^24 in magnitude. -/
def nearestClamped (m : Nat) (e : Int) : Nat :=
  if 24 < lgOf m e then 2 ^ 24 else (rndTo ⟨.rne, 0, none⟩ false m e false 0).1

/-- Every special function gives a value, the flags NV and DZ, and whether the true value differs from it. -/
structure SpecRes where
  v : Val
  nv : Bool
  dz : Bool
  inexact : Bool
  deriving DecidableEq, Repr

/-- VEXP2 (R198): k is the integer nearest to 4096 x. -/
def specExp2 : Val → SpecRes
  | .nan s _ => ⟨.qnan, s, false, false⟩
  | .inf n => ⟨if n then .zero false else .inf false, false, false, false⟩
  | .zero _ => ⟨.fin false 1 0 false, false, false, false⟩
  | .fin n m e _ =>
    let a : Int := nearestClamped m (e + 12)
    let k : Int := if n then -a else a
    let exact := decide (0 ≤ e) || decide (m % 2 ^ (-e).toNat = 0)
    ⟨.fin false (exp2t (k % 4096).toNat) (k / 4096 - 23) false, false, false, !exact⟩
/-- VLOG2 (R198): V = L / 4096. -/
def specLog2 : Val → SpecRes
  | .nan s _ => ⟨.qnan, s, false, false⟩
  | .inf n => if n then ⟨.qnan, true, false, false⟩ else ⟨.inf false, false, false, false⟩
  | .zero _ => ⟨.inf true, false, true, false⟩
  | .fin n m e _ =>
    if n then ⟨.qnan, true, false, false⟩
    else ⟨(Dy.mk (nearestLog m e) (-12)).val false, false, false, decide (m ≠ 2 ^ Nat.log2 m)⟩
/-- VRCP (R198). -/
def specRcp (x : Val) : SpecRes :=
  let r := Val.div (.fin false 1 0 false) x
  ⟨r.1, r.2.1, r.2.2, false⟩
/-- VRSQ (R198): 1 / √x to 200 bits with a sticky tail. -/
def specRsq : Val → SpecRes
  | .nan s _ => ⟨.qnan, s, false, false⟩
  | .zero n => ⟨.inf n, false, true, false⟩
  | .inf n => if n then ⟨.qnan, true, false, false⟩ else ⟨.zero false, false, false, false⟩
  | .fin n m e _ =>
    if n then ⟨.qnan, true, false, false⟩
    else
      let m' := if e % 2 = 0 then m else 2 * m
      let e' := if e % 2 = 0 then e else e - 1
      let r := isqrt 201 (2 ^ 400 / m')
      ⟨.fin false r (-(e' / 2) - 200) (decide (r * r * m' ≠ 2 ^ 400)), false, false, false⟩

/-- The Taylor terms of exp(y) from term i on, for y / 2^p below 1/256 as lower and upper bounds: the sum of t, t y / i, and so on. -/
def expTerms (p y : Nat) : Nat → Nat → Nat → Nat → Nat × Nat
  | 0, _, _, hi => (0, hi + 1)
  | fuel + 1, i, lo, hi =>
    let r := expTerms p y fuel (i + 1) (lo * y / 2 ^ p / i) (hi * (y + 1) / 2 ^ p / i + 1)
    (lo + r.1, hi + r.2)
/-- Both bounds squared n times. -/
def sqTimes (p : Nat) : Nat → Nat × Nat → Nat × Nat
  | 0, b => b
  | n + 1, b => sqTimes p n (b.1 * b.1 / 2 ^ p, b.2 * b.2 / 2 ^ p + 1)
/-- floor(2^300 × tanh(m × 2^e)) for 0 < m × 2^e < 64, from bounds on exp(2x) with 1,536 bits of working precision. -/
def tanhFloor (m : Nat) (e : Int) : Nat :=
  let p : Nat := 1536
  let y := m * 2 ^ (e + 1522).toNat / 2 ^ (-(e + 1522)).toNat
  let b := sqTimes p 15 (expTerms p y 180 1 (2 ^ p) (2 ^ p))
  (b.1 - 2 ^ p) * 2 ^ 300 / (b.1 + 2 ^ p)
/-- VTANH (R198): tanh of a nonzero finite value is irrational, so its tail is always present; from 64 on it is 1 less a tail. -/
def specTanh : Val → SpecRes
  | .nan s _ => ⟨.qnan, s, false, false⟩
  | .zero n => ⟨.zero n, false, false, false⟩
  | .inf n => ⟨.fin n 1 0 false, false, false, false⟩
  | .fin n m e _ =>
    if 6 ≤ lgOf m e then ⟨.fin n (2 ^ 300 - 1) (-300) true, false, false, true⟩
    else ⟨.fin n (tanhFloor m e) (-300) true, false, false, true⟩

/-- A special function's result rounded to its type (R198, R178, R171): d = 64 in SR mode, and the true value's difference counts
for NX and UF. -/
def specFinish (t : Nat) (rsf : Bool) (mode : Rm) (z : Nat) (r : SpecRes) : Nat × Fl :=
  let q := encFloat t rsf ⟨mode, z, none⟩ r.v
  let f := FFmt.ofTy t
  let tiny := r.inexact && decide (q.1 % 2 ^ (f.w - 1) < 2 ^ f.mb)
  (q.1, q.2.or ⟨r.nv, r.dz, false, tiny, r.inexact⟩)

/-! ### Stochastic outputs (R175) -/

/-- Draw k of lane l under a seed. -/
def splitMix (seed l k : Nat) : Nat :=
  let m := 2 ^ 64
  let s0 := (seed + l * 0xD1B54A32D192ED03 + k * 0x9E3779B97F4A7C15) % m
  let s1 := (s0 ^^^ (s0 / 2 ^ 30)) * 0xBF58476D1CE4E5B9 % m
  let s2 := (s1 ^^^ (s1 / 2 ^ 27)) * 0x94D049BB133111EB % m
  s2 ^^^ (s2 / 2 ^ 31)

/-! ### Sums of groups (R200, R217, R243) -/

/-- The exact sum of a list of values that are neither NaN nor infinite. -/
def sumDy (vs : List Val) : Dy := vs.foldl (fun a v => a.add v.dy) ⟨0, 0⟩

/-- A group sum: NaN for a NaN or for infinities of both signs, an infinity, or the exact sum; and whether NV is set. An exact zero is
-0 when every member is -0 or `rdn` holds. -/
def groupSum (rdn : Bool) (vs : List Val) : Val × Bool :=
  let pinf := vs.any (fun v => v == .inf false)
  let ninf := vs.any (fun v => v == .inf true)
  if vs.any Val.isNan then (.qnan, vs.any Val.isSig || (pinf && ninf))
  else if pinf && ninf then (.qnan, true)
  else if pinf then (.inf false, false)
  else if ninf then (.inf true, false)
  else ((sumDy vs).val (rdn || (!vs.isEmpty && vs.all (fun v => v == .zero true))), false)

/-- `rne32` of an exact value (R160), as an FP32 code with the flags it would set. -/
def rne32 (v : Val) : Nat × Fl := encFloat 0 false ⟨.rne, 0, none⟩ v

/-- The new word of AADD.f32 (R243). -/
def addF32 (w a : Nat) : Nat :=
  (rne32 (groupSum false [decodeFloat 0 false w, decodeFloat 0 false a]).1).1

/-! ### MX scales (R181) -/

/-- The largest exponent and the largest value's leading part of an MX element format: emax, and max as m × 2^e (R181). -/
def mxMax : Nat → Int × Nat × Int
  | 3 => (8, 7, 6)
  | 4 => (15, 7, 13)
  | 5 => (4, 7, 2)
  | 6 => (2, 15, -1)
  | 7 => (2, 3, 1)
  | _ => (0, 127, -6)

/-- The larger of two magnitudes m × 2^e, as finite values. -/
def maxMag (a b : Nat × Int) : Nat × Int :=
  let e := min a.2 b.2
  if a.1 * 2 ^ (a.2 - e).toNat < b.1 * 2 ^ (b.2 - e).toNat then b else a

/-- The scale byte of a block (R181): `up` is the round-up rule. -/
def mxScale (t : Nat) (up : Bool) (vs : List Val) : Nat :=
  if vs.any Val.isNan then 0xFF
  else
    let a := vs.foldl (fun a v => match v with
      | .fin _ m e _ => if a.1 = 0 then (m, e) else maxMag a (m, e)
      | _ => a) ((0, 0) : Nat × Int)
    let mx := mxMax t
    let xs : Int :=
      if a.1 = 0 then -127
      else if up then
        -- the least k with a ≤ max × 2^k
        let k := lgOf a.1 a.2 - lgOf mx.2.1 mx.2.2
        let le := Dy.add ⟨a.1, a.2⟩ ⟨-(mx.2.1 : Int), mx.2.2 + k⟩
        if le.x ≤ 0 then k else k + 1
      else lgOf a.1 a.2 - mx.1
    (max (-127) (min xs 127) + 127).toNat

/-- A value scaled by 2^k. -/
def Val.scale (v : Val) (k : Int) : Val := match v with
  | .fin n m e st => .fin n m (e + k) st
  | v => v

/-- Element code of a value under a scale byte (R182): MXINT8 (t = 0x0D) is an i8 in units of 2^-6 saturating to ±127.
DESIGN CHOICE (log 85): an infinity in a block of 6-bit or 4-bit elements sets OF alone, as R182 says, and not NV. -/
def mxEncode (t : Nat) (rsf : Bool) (mode : Rm) (z scale : Nat) (v : Val) : Nat × Fl :=
  if scale = 0xFF then (0, Fl.clear)
  else
    let x := v.scale (127 - (scale : Int))
    if t = 0x0D then
      let y := x.scale 6
      match y with
      | .fin n m e st =>
        let r := rndTo ⟨mode, z, y.quantum⟩ n m e st 0
        if 127 < r.1 then (wrapInt 8 (if n then -127 else 127), ⟨true, false, false, false, true⟩)
        else (wrapInt 8 (if n then -(r.1 : Int) else r.1), Fl.inexact r.2)
      | .inf n => (wrapInt 8 (if n then -127 else 127), Fl.inv true)
      | _ => (0, Fl.clear)
    else match x with
      | .inf n => if t = 5 ∨ t = 6 ∨ t = 7 then (signBit n (tyWidth t) + (FFmt.ofTy t).maxCode, ⟨false, false, true, false, false⟩)
        else encFloat t rsf ⟨mode, z, none⟩ x
      | x => encFloat t rsf ⟨mode, z, x.quantum⟩ x

/-- The exact value of an element under its scale byte (R182): MXINT8 code k is k × 2^-6. -/
def mxDecode (t : Nat) (opf : Bool) (scale raw : Nat) : Val :=
  if scale = 0xFF then .nan false false
  else if t = 0x0D then (Val.ofInt (toSigned 8 raw)).scale ((scale : Int) - 127 - 6)
  else (decodeFloat t opf raw).scale ((scale : Int) - 127)

end Sys2Proof.Machine
end

