-- ==== Sys2Proof/Machine/State.lean ====
section
/-!
DEFINITION. The state of the part as plain data: streams, jobs, cores, clusters, dies, partitions, the host port, the fabric and the
memory, with the state right after reset.
-/
namespace Sys2Proof.Machine

/-! ### Queues -/

/-- A stamp: the coordinate and the stage of the issuing instruction (R33). -/
structure Stamp where
  coord : Coord
  stage : BitVec 2
  deriving DecidableEq, Repr

/-- The mark of an entry: poison with the package physical address (R102, R292), or a fabric error with the global address and the
target's reason (R103, R117). -/
inductive Mark where
  | none
  | poison (pa : Nat)
  | fabric (ga : Word) (reason : BitVec 16)
  deriving DecidableEq, Repr

/-- One entry of a queue register: its value once it has arrived (R20), its producer's stamp (R33), its mark, whether a held effect
fills it (R247), the number of the operation that fills or delivered it, and the number of the binding of a stream-register element
(R25). -/
structure QEntry (α : Type) where
  val : Option α
  stamp : Stamp
  mark : Mark
  held : Bool
  id : Nat
  bind : Option Nat
  deriving DecidableEq, Repr

/-- A queue: the live entries, head first, and the provisionally popped entries in the order of their pops with the coordinate and the
number of each popping instruction (R26, R132). -/
structure Queue (α : Type) where
  items : List (QEntry α)
  popped : List (QEntry α × Coord × Nat)
  deriving DecidableEq, Repr

/-- The empty queue. -/
def Queue.empty {α : Type} : Queue α := ⟨[], []⟩

/-! ### Streams -/

/-- A running loop (R72, R137): source iterations T, stages S, kernel iterations K, first source iteration F, body start and end, the
address of the LOOP (R270), and the number of the LOOP in program order (R75). -/
structure Loop where
  t : Nat
  s : Nat
  k : Nat
  f : Nat
  start : Word
  endo : Word
  at_ : Word
  num : Nat
  deriving DecidableEq, Repr

/-- An affine generator of A (R106). -/
structure Gen where
  base : Word
  coef : Vector Word 5
  deriving DecidableEq, Repr

/-- What a stream is doing (R305, R126). -/
inductive Phase where
  | issuing | parked | rdv
  deriving DecidableEq, Repr

/-- An advance the stream waits to make (R32, R73): the coordinate it goes to, and the loop level whose iteration it ends. -/
structure Adv where
  target : Coord
  loop : Option (Fin 5)
  /-- the information word of the trap when the advance carries beyond its field (R32, R254) -/
  tooFar : Option Word
  deriving DecidableEq, Repr

/-- One entry of the iteration ring (R128): the stream as it was just before an advance, or just before the first iteration of a loop that
reopens after a soft stop (R142); without either, as it was at its start. -/
structure Snap where
  pc : Word
  coord : Coord
  adv : Option Adv
  loops : Vector (Option Loop) 5
  preds : BitVec 8
  gens : Vector Gen 8
  arrTeam : Nat
  arrCrew : Nat
  arrStep : Nat
  delivery : Bool
  saved : Word
  inEntry : Bool
  /-- the stream's index into a replayed array (R401) -/
  replayIdx : Nat
  reopen : Option (Fin 5 × Nat)
  seq : Nat
  deriving DecidableEq, Repr

/-- What a waiting instruction of the C stream has been granted (R252, R309): the event that serves or times out a wait leaves its
answer here for the instruction. -/
inductive Wait where
  | none
  /-- waits on a physical semaphore as the waiter with this number -/
  | sem (id : Nat)
  /-- the semaphore wait was served; the status word for SEMWT -/
  | semServed (status : Nat)
  /-- waits at a barrier: scope, phase, deadline -/
  | barr (crew : Bool) (ph : Option Nat) (deadline : Option Word)
  | barrServed (status : Nat)
  /-- waits at an SSTEP -/
  | sstep
  | sstepPassed (t0 : Word)
  deriving DecidableEq, Repr

/-- A token push that has not been made (R28, R29): the instruction's number in program order, its stamp (R33), its address and the
direction. -/
structure Push where
  seq : Nat
  coord : Coord
  stage : BitVec 2
  pc : Word
  toNext : Bool
  /-- the push was found ready while its FIFO was full, so the stream issues nothing (R28) -/
  blocked : Bool
  deriving DecidableEq, Repr

/-- Where an instruction came from: stream, stamp, program order number and address (R33, R256). -/
structure Origin where
  st : StreamId
  stamp : Stamp
  seq : Nat
  pc : Word
  deriving DecidableEq, Repr

/-- A V-form that waits between two of its iterations (R24, R206): the next iteration, the popped bases, and what the instruction sampled
at issue and has flagged so far. -/
structure VProg where
  i : Nat
  bases : List Word
  fz : Nat
  mode : Rm
  seed : Nat
  draws : Nat
  fl : Fl
  deriving DecidableEq, Repr

/-- One stream of the job on a core (R18). -/
structure Stream where
  pc : Word
  coord : Coord
  phase : Phase
  adv : Option Adv
  regs : Vector (Queue Word) 31
  masks : Vector (BitVec 1024) 8
  /-- saved masks: number, old value, coordinate of the write (R27) -/
  maskHist : List (Fin 8 × BitVec 1024 × Coord)
  preds : BitVec 8
  loops : Vector (Option Loop) 5
  /-- the iteration ring, oldest entry first -/
  ring : List Snap
  /-- the stream as it started, for a cut before its first coordinate (R124); none for a stream without a section -/
  first : Option Snap
  /-- coordinates this stream has held that lie beyond FRONT or are its newest at or before FRONT, oldest first (R37, R39) -/
  heldCoords : List Coord
  /-- advances made since the job started, while FRONT has VALID = 0 (R39) -/
  advances : Nat
  leadcyc : BitVec 32
  cause : BitVec 4
  gens : Vector Gen 8
  nets : Vector (BitVec 352) 8
  netHist : List (Fin 8 × BitVec 352 × Coord)
  wait : Wait
  prog : Option VProg
  /-- token pushes to be made, oldest first (R28, R29) -/
  pushes : List Push
  /-- the last instruction that retired (R390) -/
  last : Origin
  /-- the loop level and the source iteration at which a soft resumption reopens (R142) -/
  reopen : Option (Fin 5 × Nat)
  /-- LSTATE after a SOFT landing: the level and FIRST (R137, R141) -/
  softLevel : Option (Fin 5 × Nat)
  /-- the last attempt to issue stalled, and nothing of the job has moved since (R125); the stage of that instruction -/
  tried : Bool
  waitStage : BitVec 2
  /-- numbers and scopes of the FENCEs of team scope or wider that effects of the job may still wait behind (R87, R320) -/
  fences : List (Nat × Nat)
  /-- numbers of the AWAITs whose D entry may still be read (R378) -/
  awaited : List Nat
  deriving DecidableEq, Repr

/-! ### Operations in flight -/

/-- The atomic operations (R242), AWAIT with its condition (R244). -/
inductive AOp where
  | addF | addN | xch | cas | incw | faddb
  | await (cc : BitVec 2)
  deriving DecidableEq, Repr

/-- Where an access lands: a byte of a core's pool, or a package physical address; `publish` is the page's attribute and `cxl` and
`host` the memory behind it. -/
inductive Place where
  | pool (core : CoreId) (p : Nat)
  | mem (pa : Nat)
  deriving DecidableEq, Repr

/-- A direct operation of a stream that has issued and not completed (R20, R42): its entry is filled, or its effect made, by an event. -/
inductive OpKind where
  | ld (a : Word) (ty : BitVec 5)
  | ldt (a pitch : Word) (ty : BitVec 5) (q : Fin 16)
  | gather (t l p : Word) (ty : BitVec 5) (zero : Bool) (q : Fin 16)
  | mrd (tile : BitVec 5) (posn : BitVec 14)
  | rld (ga : Word) (ty : BitVec 5)
  | atomic (op : AOp) (a : Word) (v c : BitVec 32)
  deriving DecidableEq, Repr

/-- A pending direct operation with its own number; s31 destinations fill nothing. -/
structure PendOp where
  id : Nat
  org : Origin
  kind : OpKind
  /-- the value with which an AWAIT found its condition to hold, at its first read or after a write (R244) -/
  hit : Option (BitVec 32)
  /-- the step at which it issued, by which the fabric orders an AWAIT among other requests (R248) -/
  tick : Nat
  deriving DecidableEq, Repr

/-- A copy's geometry (R108). -/
structure CopyGeo where
  src : Word
  dst : Word
  n0 : Nat
  n1 : Nat
  n2 : Nat
  ds1 : Int
  ds2 : Int
  os1 : Int
  os2 : Int
  deriving DecidableEq, Repr

/-- The store word of MSTL and MSTF (R231). -/
structure StoreWord where
  batch : BitVec 4
  up : Bool
  rm : BitVec 3
  cols : Nat
  col0 : Nat
  rows : Nat
  row0 : Nat
  acc : BitVec 5
  deriving DecidableEq, Repr

/-- The engine commands with what they sampled at issue (R108, R113, R116, R218 to R235). -/
inductive CmdKind where
  | copy (g : CopyGeo)
  | copyChan (g : CopyGeo) (ch : Fin 8) (ty : BitVec 5)
  | st (a v : Word) (ty : BitVec 5)
  | stt (a pitch : Word) (ty : BitVec 5) (tile : Tile)
  | scatter (t l p : Word) (ty : BitVec 5) (tile : Tile)
  | rst (src ga : Word) (n : Nat) (flag : Word) (acc : Bool)
  | rat (op : AOp) (ga : Word) (v c : BitVec 32)
  | send (src ga : Word) (n ofs : Nat) (ccw : Bool)
  | mma (f : FMX) (fmt : Word) (a1 a2 b1 b2 : Word) (mconst : BitVec 32) (fz : BitVec 16)
  | mcb (slot : Fin 4) (a : Word) (fz : BitVec 16)
  | mzero (tile : BitVec 5)
  | mst (lns : Bool) (w : StoreWord) (a pitch : Word) (ty : BitVec 5) (mx : Option Word) (mode : Rm) (fz : BitVec 16)
  | mseed (seed : Word)
  deriving DecidableEq, Repr

/-- What a started command has read and still has to write (R212, R224, R232, R116, R108); a poisoned byte has the address that its poison
is reported by (R292). -/
inductive Started where
  | none
  | bytes (bs : List (Byte × Option Nat))
  | elems (ws : List Word)
  | acc (ws : List (Nat × List (BitVec 32))) (fl : Fl) (lsat lund : Bool)
  | stores (ws : List (Word × List Byte)) (fl : Fl) (lsat lund : Bool) (draws : Nat)
  | codebook (ws : List LogWord) (nv : Bool)
  deriving DecidableEq, Repr

/-- A command in an engine (R218): queued while `started` is none. -/
structure Cmd where
  id : Nat
  org : Origin
  kind : CmdKind
  started : Option Started
  /-- a semaphore wait of an MMA that has been served (R226) -/
  semDone : Bool
  /-- elements of a channel copy already delivered -/
  delivered : Nat
  deriving DecidableEq, Repr

/-- The effects that wait for FRONT (R82, R91, R112, R118, R131, R135, R246, R286, R311). -/
inductive HeldKind where
  | store (pa : Nat) (bs : List Byte) (bad : Bool)
  | atomic (op : AOp) (ga : Word) (v c : BitVec 32) (host : Option Nat)
  /-- a plain store to an accumulator tile of another core through a page (R281) -/
  | plain (ga : Word) (bs : List Byte) (bad : Bool)
  /-- a block with the poison of each of its sectors (R292) -/
  | rst (ga : Word) (bs : List Byte) (bad : List Bool) (flag : Word) (acc : Bool)
  | rat (op : AOp) (ga : Word) (v c : BitVec 32)
  | send (src ga : Word) (n ofs : Nat) (ccw : Bool)
  | sems (phys : BitVec 8) (n : Nat)
  | spawn (level : BitVec 2) (image target : Word)
  | pub (pa : Nat)
  | tlbi (tenant : Bool) (scope : BitVec 3) (a : Word)
  | swr (fn : BitVec 5) (idx v : Word)
  | mbox (n : Nat)
  deriving DecidableEq, Repr

/-- A held effect with its number and origin; the list that holds them is in the order in which they were held (R131). -/
structure Held where
  id : Nat
  org : Origin
  kind : HeldKind
  /-- the virtual address of a store that was translated (R286) -/
  page : Option Nat
  deriving DecidableEq, Repr

/-- A pool sector that the job has written after a FENCE of this number and scope while effects of its own from before the FENCE were still
held back: other cores must not see the write before those effects (R87, R382). -/
structure Veil where
  core : CoreId
  sector : Nat
  fence : Nat
  scope : Nat
  deriving DecidableEq, Repr

/-- A barrier or SSTEP arrival waiting to be counted (R267, R312). -/
structure Arrival where
  org : Origin
  crew : Bool
  sstep : Bool
  a : Nat
  deriving DecidableEq, Repr

/-- A retraction-log entry (R129): the sector (a place in a pool), its old bytes and the coordinate. -/
structure LogEntry where
  core : CoreId
  p : Nat
  old : List Byte
  /-- the sector was poisoned (R292) -/
  bad : Bool
  coord : Coord
  deriving DecidableEq, Repr

/-- An ME retention buffer (R130): tile, its saved bytes, which of its sectors were poisoned (R292) and the coordinate. -/
structure Retain where
  tile : BitVec 5
  old : List Byte
  bad : List Nat
  coord : Coord
  deriving DecidableEq, Repr

/-- The registers that a cut restores (R81, R82). -/
inductive RReg where
  | rmode | fzctl | srseed | mseed | mconst | mstat
  deriving DecidableEq, Repr

/-- A change of a restored register: a write of its bits, flags that were set, or draws made from its seed (R171, R176, R235, R237). -/
inductive RChange where
  | write (v : Word)
  | flags (b : Word)
  | draws (n : Nat)
  deriving DecidableEq, Repr

/-- The restored registers with every change at or before FRONT made: their values, and the draws that each lane of V and of the store
path has made since its seed was written (R175, R176, R235). -/
structure RBase where
  regs : Vector Word 6
  vdraws : Nat
  mdraws : Nat
  deriving DecidableEq, Repr

/-- A pending stop request (R89, R123) with what its landing reports (R136, R256). -/
structure StopReq where
  coord : Coord
  brk : Bool
  /-- the kind the landing reports: 1 EXACT (or LATE), 5 BREAK, 7 SOFT, 8 YIELD -/
  kind : BitVec 4
  origin : BitVec 2
  st : StreamId
  /-- 0 an instruction of the job, 5 the scheduler or another party, 6 a replay divergence (R256, R402) -/
  unit : BitVec 3
  stage : BitVec 2
  tag : BitVec 5
  pc : Word
  /-- the soft stop's level and T' (R141) -/
  soft : Option (Fin 5 × Nat)
  deriving DecidableEq, Repr

/-- A trap that has been raised (R133, R254, R256). -/
structure TrapRec where
  cause : BitVec 8
  org : Origin
  unit : BitVec 3
  reason : BitVec 16
  info : Word
  /-- the virtual address of the access that met poison, 0 when there is none (R293) -/
  va : Word
  deriving DecidableEq, Repr

/-- What a landing in progress rests on (R124, R133): a trap, or a request with the kind it reports. -/
inductive LandWhy where
  | trap (t : TrapRec)
  | request (r : StopReq) (kind : BitVec 4) (cause : BitVec 8) (info : Word)
  /-- a released store that failed at its target: a request at the frontier with a trap's record (R117) -/
  | late (t : TrapRec)
  deriving DecidableEq, Repr

/-- A landing in progress (R125): the cut as the least coordinate beyond it (none: everything is inside), and why. -/
structure Landing where
  /-- operations with a coordinate below this bound lie inside the cut -/
  bound : Nat
  why : LandWhy
  deriving DecidableEq, Repr

/-- A semaphore map entry (R251). -/
structure SemEntry where
  valid : Bool
  shared : Bool
  phys : BitVec 8
  deriving DecidableEq, Repr

/-- A binding of a stream register (R109, R110). -/
structure Binding where
  id : Nat
  ch : Fin 8
  st : StreamId
  reg : Fin 31
  stamp : Stamp
  /-- the paired copy's number and the elements it has still to deliver -/
  copy : Option (Nat × Nat)
  deriving DecidableEq, Repr

/-- A cut-safe loop of the job header (R141, R149): level, resume offsets in the order C, A, V, S, and the live ranges. -/
structure CutSafe where
  level : Fin 5
  resume : Vector (BitVec 32) 4
  ranges : List Word
  deriving DecidableEq, Repr

/-- What the job header fixes (R148). -/
structure Header where
  leadw : BitVec 5
  tdep : Nat
  acg : Nat
  spg : Nat
  drain : BitVec 16
  fed : BitVec 16
  entry : Vector (BitVec 32) 4
  cutSafe : List CutSafe
  ibud : Word
  splen : Nat
  spofs : Nat
  deriving DecidableEq, Repr

/-- Identity of a job: the handle of its launch (R92) and the core it occupies. -/
abbrev Handle := BitVec 32

/-- A record in the core's trace buffer: its four words, its stamp's coordinate (none: VALID 0), stream and place in program order
(R388 to R391), and whether it is a body that belongs to the snapshot header before it (R397). -/
structure TraceRec where
  words : List Word
  coord : Option Coord
  st : Nat
  seq : Nat
  body : Bool
  /-- the answer that the record waits for, in its place in program order (R400): that of the instruction with this number -/
  awaits : Option Nat
  deriving DecidableEq, Repr

/-- Record and replay state of a job (R400 to R402). -/
structure Replay where
  recording : Bool
  replaying : Bool
  base : Word
  count : Nat
  idx : Vector Nat 4
  deriving DecidableEq, Repr

/-- What a semaphore wait consumed, kept to be returned by a cut (R135, R252): semaphore, units with their signallers, coordinate. -/
structure SemTaken where
  sem : BitVec 8
  units : List (Nat × Option (Handle × CoreId × Stamp))
  coord : Coord
  deriving DecidableEq, Repr

/-- An entry of the supervisor's list (R256, R257): its event word, and the core and the record of the job it names. -/
structure Event where
  word : Word
  core : CoreId
  trapRec : Vector Word 4
  deriving DecidableEq, Repr

/-- An event that WAITEV took beyond FRONT (R85): the entry with the place it held in the list, or the flag word; and what TRAPREC showed
before. -/
structure EvTaken where
  coord : Coord
  word : Word
  entry : Option (Event × Nat)
  prev : Option Event
  deriving DecidableEq, Repr

/-- A saved codebook slot (R220). -/
structure CbSave where
  slot : Fin 4
  words : List LogWord
  loaded : Bool
  coord : Coord
  deriving DecidableEq, Repr

/-- A profile slot: loop identifier, order of its last copy, copied account (R270). -/
structure ProfSlot where
  loopId : BitVec 32
  order : Nat
  counts : List (Nat × BitVec 32)
  deriving DecidableEq, Repr

/-- The context of a job on its core: everything that a save keeps (R140, R330) and what is in flight. -/
structure Job where
  handle : Handle
  part : PartId
  image : Word
  hdr : Header
  level : BitVec 2
  /-- the cores of the launch and this job's ordinal (R263, R303) -/
  ord : Nat
  streams : Vector Stream 4
  tiles : Vector (Queue Tile) 16
  /-- the slot that the next tile of each queue takes, and what the job's tiles have left in slots: queue, slot and tile (R146, R148) -/
  tileTail : Vector Nat 16
  tileLeft : List (Fin 16 × Nat × Tile)
  /-- token FIFOs: index 2 n + 1 leaves stream n for its next stream, 2 n for its previous stream (R17) -/
  toks : Vector (Queue Unit) 8
  front : Option Coord
  /-- the next number in program order -/
  seq : Nat
  /-- base values of the restored registers, and the changes beyond FRONT, oldest first (R82) -/
  rbase : RBase
  rlog : List (Coord × RReg × RChange)
  stop : Option StopReq
  stopst : Word
  traprec : Vector Word 4
  landing : Option Landing
  ops : List PendOp
  meQ : List Cmd
  ceQ : List Cmd
  seQ : List Cmd
  fmtQ : Queue Word
  /-- open and committed sets: batch and command number (R228), and for a committed command the coordinate and the number of its MCOMMIT -/
  openSet : List (BitVec 4 × Nat)
  committed : List (BitVec 4 × Nat × Coord × Nat)
  codebooks : Vector (List LogWord) 4
  cbv : BitVec 4
  cbHist : List CbSave
  bindings : List Binding
  rlogMem : List LogEntry
  retained : List Retain
  held : List Held
  veils : List Veil
  arrivals : List Arrival
  semMap : Vector SemEntry 32
  /-- the arrival numbers of C at the team, the crew and the superstep scope (R266, R307, R312) -/
  arrTeam : Nat
  arrCrew : Nat
  arrStep : Nat
  counters : Vector Word 16
  govstall : Word
  ibCount : Nat
  trace : List TraceRec
  replay : Replay
  /-- the superstep start before any passage, and the passages with their coordinates (R311, R312) -/
  t0 : Word
  passages : List (Coord × Word)
  /-- clamps of this job that are kept through cuts: level, the limit max(L, m), and the number in program order at which it was applied
  (R75) -/
  clamps : List (Fin 5 × Nat × Nat)
  semTaken : List SemTaken
  evTaken : List EvTaken
  /-- cycles run, spent saving and restoring, and scrubbed (R332) -/
  usedcyc : Word
  savecyc : Word
  scrubcyc : Word
  /-- the account and the profile while the context is saved (R269, R270) -/
  bankKept : List (Nat × BitVec 32)
  profKept : Vector (Option ProfSlot) 16
  deriving DecidableEq, Repr

/-! ### Cores and scheduling -/

/-- The states of a job in its core's queue (R304); a job that has ended has no entry. -/
inductive JState where
  | waiting | holding | running | landing | stopped | saved
  deriving DecidableEq, Repr

/-- An entry of a core's job queue (R296, R297); a saved job's context lies in memory at `saved`. -/
structure JobSlot where
  handle : Handle
  part : PartId
  base : BitVec 2
  cur : BitVec 2
  running : BitVec 2
  entryTime : Word
  state : JState
  launchLevel : BitVec 2
  ord : Nat
  image : Word
  hdr : Header
  /-- the context of a job that has left the core without having been saved yet, or that is stopped (R86, R304) -/
  ctx : Option Job
  /-- address of a saved context (R330) -/
  savedAt : Option Word
  /-- the pending request as requests and cancels have left it while the job was not on its core (R89) -/
  pend : Option (Option StopReq)
  /-- the job was launched in record mode (R400) -/
  records : Bool
  deriving DecidableEq, Repr

/-- A core beside its job: queue, bank accounts and governor (R238, R269, R270, R296). -/
structure Core where
  slots : Vector (Option JobSlot) 8
  /-- the slot whose job is on the core, and its context; a job that has ended before its team has the context and no slot (R262) -/
  on : Option (Fin 8)
  job : Option Job
  /-- live account, counter requester × 64 + bank (R269); counters that are 0 are not listed -/
  bank : List (Nat × BitVec 32)
  /-- the sixteen profile slots; an empty slot is none -/
  prof : Vector (Option ProfSlot) 16
  budget : BitVec 11
  govsrc : BitVec 3
  /-- issue cycles of the current window, with the excess of earlier ones (R238) -/
  issued : Nat
  deriving DecidableEq, Repr

/-! ### Clusters and dies -/

/-- A unit or group of signal units in a semaphore's count, with the job and coordinate that a cut can withdraw (R135); none once
committed or for a shared semaphore. -/
structure SemUnits where
  n : Nat
  owner : Option (Handle × CoreId × Stamp)
  deriving DecidableEq, Repr

/-- A waiter on a physical semaphore, in arrival order (R252). -/
structure SemWaiter where
  id : Nat
  core : CoreId
  n : Nat
  /-- an MMA's command number, for an MMA wait (R226) -/
  cmd : Option Nat
  org : Origin
  deadline : Option Word
  shared : Bool
  deriving DecidableEq, Repr

/-- A physical semaphore: its count as units in arrival order, and its waiters (R250, R252). -/
structure Sem where
  units : List SemUnits
  waiters : List SemWaiter
  deriving DecidableEq, Repr

/-- A block of sixteen semaphores and its barrier context (R250, R266): the jobs it is allocated to, and whether it is the shared block of
their launch. -/
structure SemBlock where
  users : List (Handle × CoreId)
  shared : Bool
  phase : BitVec 32
  arrived : List CoreId
  deriving DecidableEq, Repr

/-- A cluster (R250, R266). -/
structure Cluster where
  sems : Vector Sem 256
  blocks : Vector SemBlock 16
  deriving DecidableEq, Repr

/-- A crew barrier context in use (R307). -/
structure CrewCtx where
  handle : Handle
  phase : BitVec 32
  arrived : List CoreId
  deriving DecidableEq, Repr

/-- A slot-table entry (R310): VALID and the owner. -/
structure SlotEntry where
  valid : Bool
  owner : PartId
  deriving DecidableEq, Repr

/-- A line of a fleet cache: line address (package physical, divided by 64), its bytes, and whether it is poisoned (R292, R318). -/
structure FleetLine where
  line : Nat
  bytes : List Byte
  bad : Bool
  deriving DecidableEq, Repr

/-- A cached translation (R282): partition, virtual page, page size and entry word, and the structure that holds it. -/
structure TlbEntry where
  part : PartId
  va : Nat
  size : Nat
  pte : Word
  /-- 0: the L1 of `core`; 1: the L2 of its cluster -/
  l2 : Bool
  core : CoreId
  deriving DecidableEq, Repr

/-- A non-leaf entry that the walker of a die holds (R282): the partition, the first address that the entry serves, the level of the table
that it names and that table's address. -/
structure WalkEntry where
  die : DieId
  part : PartId
  va : Nat
  lvl : Nat
  next : Nat
  deriving DecidableEq, Repr

/-- A word of code that a job on a core has fetched and that its fetch still reads, whatever has been stored there since (R65): the address
in the numbering of memory and the word. -/
structure CodeWord where
  core : CoreId
  handle : Handle
  pa : Nat
  word : Word
  deriving DecidableEq, Repr

/-- A die (R274, R287, R307, R310, R317, R318). -/
structure Die where
  crews : List CrewCtx
  /-- flip-table bits that are 1, by pair number -/
  flips : List Nat
  clock : Vector (BitVec 32) 4
  cache : List FleetLine
  /-- directory bits that are 1: line and holding die -/
  directory : List (Nat × DieId)
  /-- the dies across a split (R367) -/
  cut : List DieId
  deriving DecidableEq, Repr

/-! ### Messages -/

/-- A SPAWN that has been sent (R91, R301). -/
structure Launch where
  core : CoreId
  handle : Handle
  part : PartId
  entry : Nat
  org : Origin
  level : BitVec 2
  image : Word
  target : Word
  /-- the status word once the launch unit has answered -/
  answer : Option Word
  deriving DecidableEq, Repr

/-- A launch that has been accepted and not ended (R298, R306). -/
structure Group where
  handle : Handle
  part : PartId
  level : BitVec 2
  cores : List CoreId
  done : List CoreId
  notReached : Bool
  started : Bool
  linkLost : Bool
  /-- FRONT and the record of the job on the lowest-numbered core, once it has ended (R256, R306) -/
  front : Word
  lastRec : Vector Word 4
  /-- cores whose SSTEP arrival is counted, and the T0 of each passage (R312) -/
  ssteps : List CoreId
  t0s : List Word
  /-- PHASE and ARRIVED of shared blocks that saves have given up, by cluster (R266) -/
  contexts : List (Fin 64 × BitVec 32 × List CoreId)
  deriving DecidableEq, Repr

/-- What a remote request asks of its target (R103, R116, R246). -/
inductive RemoteKind where
  | read (ty : BitVec 5)
  /-- a block with the poison of each of its sectors (R292) -/
  | store (bs : List Byte) (bad : List Bool) (flag : Word) (acc : Bool)
  /-- `ext`: a RAT, which takes the external path (R248) -/
  | atomic (op : AOp) (v c : BitVec 32) (ext : Bool)
  /-- an atomic to a SYS page in host memory (R241) -/
  | hostAtomic (pa : Nat) (op : AOp) (v c : BitVec 32)
  /-- a plain store through a foreign accumulator page -/
  | plain (bs : List Byte) (bad : Bool)
  deriving DecidableEq, Repr

/-- The way of a request (R353): inside the package; out through a group, with its virtual channel on the torus (R351), the accelerator
identifier on a switched group, or the message's number on an Ultra Ethernet group; or its failure at the source, with a reason (R356). -/
inductive Way where
  | inside
  | torus (g : BitVec 4) (channel : BitVec 2)
  | switched (g : BitVec 4) (accel : Nat)
  | ether (g : BitVec 4) (seq : Nat)
  | failed (reason : BitVec 16)
  deriving DecidableEq, Repr

/-- A remote request in flight, in issue order (R116, R353). -/
structure Remote where
  id : Nat
  core : CoreId
  handle : Handle
  part : PartId
  org : Origin
  ga : Word
  kind : RemoteKind
  sentAt : Word
  /-- number of the last FENCE of fleet scope before it in its stream, whose earlier fleet writes it follows; 0 when there is none (R320) -/
  fence : Nat
  /-- the way that it takes, none while it stalls, and the route epoch in which it got it (R352, R361) -/
  way : Option Way
  epoch : Nat
  /-- the step at which it was sent (R248) -/
  tick : Nat
  deriving DecidableEq, Repr

/-- A slot that a chunk takes (R310, R315, R347): the table, the stop where it enters a ring and the hops that it makes there, and when. -/
structure Leg where
  table : Nat
  stop : Nat
  hops : Nat
  left : Nat
  deriving DecidableEq, Repr

/-- A packet on its way: the dimension that it moves in, its virtual channel, and whether it has made a detour (R351). -/
structure Packet where
  dim : Option (Fin 3)
  crossed : Bool
  detoured : Bool
  deriving DecidableEq, Repr

/-- A chunk of a SEND in flight (R311). -/
structure Chunk where
  core : CoreId
  handle : Handle
  part : PartId
  sendId : Nat
  org : Origin
  ga : Word
  bs : List Byte
  /-- the poison of each sector (R292) -/
  bad : List Bool
  last : Bool
  ccw : Bool
  /-- the slots that it has taken, oldest first -/
  legs : List Leg
  /-- the die that it reaches or is written on, and the ring stop where it comes in there -/
  die : DieId
  stop : Nat
  /-- when it is at that die's router, or is written -/
  arrives : Nat
  /-- it is on its way to be written, and not to a router -/
  final : Bool
  /-- its route (R351 to R353): the packet as it stands at the die, the way that it got at its departure and in which route epoch -/
  packet : Packet
  way : Way
  epoch : Nat
  sentAt : Word
  /-- the step at which it departed, by which what goes from one die to one die is in order (R315) -/
  tick : Nat
  deriving DecidableEq, Repr

/-- A released SEND that has chunks to send (R311): `earliest` is the first cycle at which the next one may depart. -/
structure Sending where
  core : CoreId
  handle : Handle
  part : PartId
  id : Nat
  org : Origin
  src : Word
  ga : Word
  n : Nat
  sent : Nat
  earliest : Nat
  ccw : Bool
  /-- number of the last FENCE of fleet scope before it in its stream, 0 when there is none (R320) -/
  fence : Nat
  deriving DecidableEq, Repr

/-- The job's instruction that made a fleet write (R320). -/
structure Writer where
  core : CoreId
  handle : Handle
  org : Origin
  deriving DecidableEq, Repr

/-- A fleet message (R318). -/
inductive FleetMsg where
  /-- `whole`: it ends a command's write of all 64 bytes of its line (R290). `pub`: the pair of a PUBLISH buffer's bit, which chooses the image
  when the write reaches its home; `line` is then that of the first image (R288) -/
  | write (src home : DieId) (line off : Nat) (bs : List Byte) (v : Vector (BitVec 32) 4) (bad whole : Bool) (pub : Option Nat) (by_ : Option Writer)
  /-- `bad`: the line is poisoned once it has been written (R292) -/
  | update (dst src : DieId) (line off : Nat) (bs : List Byte) (v : Vector (BitVec 32) 4) (bad : Bool) (by_ : Option Writer)
  | tick (dst src : DieId) (v : Vector (BitVec 32) 4) (by_ : Option Writer)
  | fetch (src home : DieId) (line : Nat) (q : Vector (BitVec 32) 4)
  | line (dst home : DieId) (line : Nat) (bs : List Byte) (v : Vector (BitVec 32) 4) (bad : Bool)
  deriving DecidableEq, Repr

/-- A released PUB or TLBI that waits to act (R112, R286), or a released signal or launch that follows its job's earlier effects (R268, R320). -/
structure Service where
  core : CoreId
  handle : Handle
  part : PartId
  id : Nat
  org : Origin
  kind : HeldKind
  /-- a TLBI that has invalidated: the stores (core, launch, number) translated by what it invalidated that it waits for (R286) -/
  waits : Option (List (CoreId × Handle × Nat))
  deriving DecidableEq, Repr

/-- A write of another core or of the fabric that waits for a live log entry (R249). -/
structure LogWait where
  place : Place
  bs : List Byte
  /-- the virtual function whose posted write it is (R379) -/
  by_ : Option PartId
  deriving DecidableEq, Repr

/-- A clamp that has been issued and not applied (R75). -/
structure Clamp where
  core : CoreId
  handle : Handle
  level : Fin 5
  limit : Nat
  arm : Bool
  deriving DecidableEq, Repr

/-- A save in progress (R331, R418): the launch, the command's slot (none without a command), and whether it is SAVELIVE. -/
structure Saving where
  part : PartId
  handle : Handle
  slot : Option Nat
  live : Bool
  /-- the cores whose job is to be saved -/
  cores : List CoreId
  deriving DecidableEq, Repr

/-- A command in Mitten's page (R331): slot, OP, handle, FLAG, and whether the command is well formed. -/
structure MittenCmd where
  slot : Nat
  op : Nat
  handle : Handle
  flag : Word
  ok : Bool
  taken : Bool
  deriving DecidableEq, Repr

/-- The partition's last trigger (R396): its tag, the capture time, the core, the job and the stamp of the SNAP that fired it, and the cores that
have still to capture. -/
structure Trigger where
  tag : BitVec 5
  time : Word
  by_ : Option (CoreId × Handle × Origin)
  left : List CoreId
  /-- a cut has retracted the SNAP that fired it (R395) -/
  retr : Bool
  deriving DecidableEq, Repr

/-! ### Partitions, host and fabric -/

/-- A partition (R321, R322) with its supervisor's registers and host window. -/
structure Partition where
  clmask : BitVec 64
  root : Nat
  errva : Word
  cmpva : Word
  ctxva : Word
  mcmdva : Word
  slva : Word
  slcnt : BitVec 16
  recva : Word
  supcore : CoreId
  /-- the supervisor's image and handle -/
  supImage : Word
  supHandle : Handle
  evmask : Word
  tvec : Word
  armed : Bool
  timerFlag : Bool
  mbxFlags : BitVec 16
  fabFlags : BitVec 16
  /-- the list of landing and completion events, and the entries that wait for room (R257) -/
  events : List Event
  eventsWait : List Event
  delivery : Bool
  savedPc : Word
  inEntry : Bool
  /-- the record TRAPREC shows to the supervisor (R256) -/
  shownRec : Option Event
  mailboxes : Vector (List (List Byte)) 16
  /-- messages removed provisionally by MBOX: mailbox, message, coordinate -/
  mbxTaken : List (Nat × List Byte × Coord)
  ovfcnt : Word
  badcnt : Word
  pstate : BitVec 4
  pcause : BitVec 8
  pkind : BitVec 4
  supRec : Vector Word 4
  usedcyc : Word
  savecyc : Word
  scrubcyc : Word
  tofs : Word
  tscl : Word
  emap : Vector Word 64
  emapPending : List (Nat × Word)
  ckpair : Word
  ckseal : Word
  ckgen : Word
  /-- the operation of CKSEAL in progress: OP, GEN and the FTIME of its start -/
  ckBusy : Option (BitVec 2 × Nat × Word)
  /-- the control block at the CKPAIR write (R369), and the keep map from physical pages to page indexes (R368) -/
  ckBlock : List Nat
  ckMap : List (Nat × Nat)
  /-- this owner's first generation under the pairing's key, and its generations that the keeper holds sealed (R371, R374) -/
  ckFirst : Nat
  sealedGens : List Nat
  /-- the pairing, for its key -/
  ckNo : Nat
  tctl : Word
  trbase : Word
  trsize : Word
  trigat : Word
  dbgcore : Word
  /-- the timed trigger has still to fire (R396) -/
  trigArmed : Bool
  trLost : Word
  /-- records of jobs that have left their cores, each with the bodies that follow it, which a full ring holds back (R391, R394) -/
  trHeld : List (List (List Word))
  trigger : Option Trigger
  nonce : List Byte
  quoteReady : Bool
  quote : List Byte
  mitten : List MittenCmd
  seqNext : Nat
  tearing : BitVec 4
  /-- a PCTL write of 2 that waits for Brim (R338) -/
  restartAsked : Bool
  deriving DecidableEq, Repr

/-- An edge group or one end of a die link (R315, R358 to R366). -/
structure Group16 where
  tout : BitVec 32
  dpol : Bool
  /-- the personality that is asked for, and the one that a change in progress goes to -/
  persReq : BitVec 4
  persNew : BitVec 4
  assigned : Option PartId
  talign : Bool
  enc : Bool
  reason : BitVec 8
  state : BitVec 4
  pers : BitVec 4
  width : BitVec 8
  speed : BitVec 8
  retry : BitVec 16
  /-- transmit and receive key epochs; the first flit of the transmit epoch while the key before it is kept, and that of the receive epoch
  while it has not arrived (R366) -/
  epoch : BitVec 32
  rxEpoch : BitVec 32
  keyAt : Option Word
  rxKeyAt : Option Word
  /-- sequence numbers: of the next data flit that is sent, of the oldest in the replay buffer, of the next that arrives, and of the first
  under the current transmit key -/
  txSeq : Word
  txAcked : Word
  rxSeq : Word
  keyFrom : Word
  /-- lanes carried on the spare: by the transmitter (SWAP) and as the receiver takes them; the lane that the receiver has asked for; and the
  swaps agreed on, with the first flit of the new map -/
  swapMap : BitVec 5
  rxSwap : BitVec 5
  swapAsked : Option (BitVec 5)
  swapAt : Option (BitVec 5 × Word)
  rxSwapAt : Option (BitVec 5 × Word)
  /-- what the receiver has found good, spare in bit 16, and the speed codes supported -/
  laneOk : BitVec 17
  spsup : BitVec 16
  /-- the peer's last descriptor (R363) -/
  peer : List Byte
  authFails : Nat
  /-- a personality change: in progress, its drop time, and whether the peer has answered (R361) -/
  changing : Bool
  dropAt : Word
  acked : Bool
  /-- control flits sent -/
  outbox : List (List Byte)
  deriving DecidableEq, Repr

/-- What Crown, the controllers and Mitten report to Brim's telemetry or to function 0 (R293, R306, R329). -/
inductive Report where
  /-- an error event that no ring took -/
  | errorEvent (p : PartId) (kind : Nat)
  /-- a completion record that no ring took -/
  | completion (p : PartId)
  /-- an error that the patrol scrubber found -/
  | patrol (die : DieId) (line : Nat)
  /-- stores abandoned and messages discarded by a teardown -/
  | teardown (p : PartId) (stores messages : Nat)
  deriving DecidableEq, Repr

/-- Function 0 and the module (R335 to R341). -/
structure Module where
  step : Nat
  brimUp : Bool
  /-- the measurement of Brim's image, and its security version number (R335) -/
  m0 : List Byte
  svn : Word
  /-- signatures that the HSS tree has given (R336) -/
  hssUsed : Nat
  /-- Brim's request mailboxes: messages with the time of their arrival (R338, R339) -/
  requests : Vector (List (List Byte × Word)) 4
  /-- MSI-X vectors raised, in order: those of a virtual function or, with none, of function 0 (R324, R339) -/
  msix : List (Option PartId × BitVec 1)
  replies : Nat
  brrd : Word
  replySlots : Vector (List Byte) 16
  recOpen : Bool
  recResult : BitVec 8
  recBytes : List Byte
  feed : BitVec 16
  vfEnable : Bool
  power : BitVec 32
  temps : List (BitVec 16)
  node : BitVec 14
  dx : BitVec 8
  dy : BitVec 8
  dz : BitVec 8
  nonce : List Byte
  quoteReady : Bool
  quote : List Byte
  telemetry : List Report
  /-- route epochs begun (R352) -/
  routeEpoch : Nat
  /-- FTIME as last estimated against the time master's: ahead of it, or behind it (R346) -/
  ahead : Option Bool
  /-- Ultra Ethernet messages sent from a die to a die of another module (R353) -/
  ueSent : List (DieId × Nat × Nat)
  deriving DecidableEq, Repr

/-! ### The whole part -/

/-- What moves next: a stream tries to issue its next instruction, or an event of the opcode table takes place. -/
inductive Act where
  | issue (core : CoreId) (st : StreamId)
  | event (i : Instr)
  deriving DecidableEq, Repr

/-- The state of the module. Memory is one sorted list of the bytes that are not 0: package physical addresses below 2^50, and byte p of
the pool of core c at 2^50 + c × 2^22 + p (R145, R275, R276). -/
structure State where
  cores : Vector Core 256
  clusters : Vector Cluster 64
  dies : Vector Die 4
  parts : Vector (Option Partition) 32
  groups : Vector Group16 16
  /-- the eight die links (R315): entry n is the end of link n at its lower-numbered die, and entry 8 + n its other end -/
  dieLinks : Vector Group16 16
  /-- the slot-table entries that are not 0: table of R323, index, entry -/
  slotTables : List (Nat × Nat × SlotEntry)
  mem : List Host.Cell
  /-- poisoned 32-byte sectors, by address in the same numbering divided by 32; a poisoned DRAM line lists both of its sectors -/
  poison : List Nat
  /-- owner of each 64 KiB of DRAM that has one (R355) -/
  owners : List (Nat × PartId)
  tlb : List TlbEntry
  /-- non-leaf entries that the walkers hold (R282) -/
  walker : List WalkEntry
  /-- words of code whose stores the fetch of a job does not see yet (R65) -/
  code : List CodeWord
  launches : List Launch
  jobs : List Group
  remotes : List Remote
  chunks : List Chunk
  /-- slots that chunks have taken which have since been written (R311) -/
  legs : List Leg
  sendings : List Sending
  fleet : List FleetMsg
  services : List Service
  logWaits : List LogWait
  clamps : List Clamp
  /-- hard pre-emptions to come: a core and the launch whose job there is pre-empted (R140, R299) -/
  preempts : List (CoreId × Handle)
  /-- released CKSEAL writes that have not begun (R374) -/
  ckReqs : List (PartId × Word)
  /-- saves that Mitten has taken up (R331, R299, R300) -/
  saves : List Saving
  module : Module
  ftime : Word
  /-- the number of steps taken, the argument of the free values -/
  tick : Nat
  /-- the stream whose instruction executes -/
  cur : CoreId × StreamId
  /-- what moves next; while it is empty a free value chooses -/
  agenda : List Act
  deriving DecidableEq, Repr

/-- Why the machine stops with a fault: no behaviour of the spec stops the module, since every trap of R254 is a next state, so this
type has no constructor. -/
inductive Fault where
  deriving DecidableEq, Repr

/-- Why an instruction has no meaning. -/
inductive Refusal where
  /-- Raised by an arm of `exec` whose instruction is not modelled yet. Safe: the machine stops. -/
  | notModelled (mnemonic : String)
  deriving DecidableEq, Repr

/-! ### Reset -/

/-- No stop, nothing in a core's queue, BUDGET 1,250 and SRC 0 (R238). -/
def Core.reset : Core :=
  { slots := Vector.replicate 8 none, on := none, job := none, bank := [], prof := Vector.replicate 16 none,
    budget := 1250, govsrc := 0, issued := 0 }
/-- Counts 0 and no waiter (R250). -/
def Sem.reset : Sem := ⟨[], []⟩
/-- A free block with its context zeroed (R250, R266). -/
def SemBlock.reset : SemBlock := ⟨[], false, 0, []⟩
/-- A cluster after reset. -/
def Cluster.reset : Cluster := ⟨Vector.replicate 256 Sem.reset, Vector.replicate 16 SemBlock.reset⟩
/-- A die after reset: flip bits 0 (R288), clock 0 (R317), fleet cache and directory empty. -/
def Die.reset : Die := ⟨[], [], Vector.replicate 4 0, [], [], []⟩
/-- An edge group or an end of a die link after reset: TOUT 100, SWAP 31, everything else 0 (R359, R360); every lane good and every torus speed
supported. -/
def Group16.reset : Group16 :=
  { tout := 100, dpol := false, persReq := 0, persNew := 0, assigned := none, talign := false, enc := false, reason := 0, state := 0,
    pers := 0, width := 0, speed := 0, retry := 0, epoch := 0, rxEpoch := 0, keyAt := none, rxKeyAt := none, txSeq := 0, txAcked := 0, rxSeq := 0,
    keyFrom := 0, swapMap := 31, rxSwap := 31,
    swapAsked := none, swapAt := none, rxSwapAt := none, laneOk := 0x1FFFF, spsup := 0xE, peer := [], authFails := 0, changing := false, dropAt := 0, acked := false,
    outbox := [] }
/-- Function 0 and the module before power-good (R339 to R341). -/
def Module.reset : Module :=
  { step := 0, brimUp := false, m0 := [], svn := 0, hssUsed := 0, requests := Vector.replicate 4 [], msix := [], replies := 0, brrd := 0, replySlots := Vector.replicate 16 [], recOpen := false,
    recResult := 0, recBytes := [], feed := 0, vfEnable := false, power := 0, temps := [], node := 0, dx := 2, dy := 2, dz := 1,
    nonce := [], quoteReady := false, quote := [], telemetry := [], routeEpoch := 0, ahead := none, ueSent := [] }

/-- The module right after reset: no partition, no job, memory with nothing listed, FTIME 0. -/
def State.reset : State :=
  { cores := Vector.replicate 256 Core.reset, clusters := Vector.replicate 64 Cluster.reset, dies := Vector.replicate 4 Die.reset,
    parts := Vector.replicate 32 none, groups := Vector.replicate 16 Group16.reset, dieLinks := Vector.replicate 16 Group16.reset, slotTables := [], mem := [],
    poison := [], owners := [], tlb := [], walker := [], code := [], launches := [], jobs := [], remotes := [], chunks := [], legs := [], sendings := [], fleet := [],
    services := [], logWaits := [], clamps := [], preempts := [], ckReqs := [], saves := [], module := Module.reset, ftime := 0, tick := 0, cur := (0, .c),
    agenda := [] }

end Sys2Proof.Machine
end

