-- ==== Sys2Proof/Machine/Ops.lean ====
section
/-!
DEFINITION. The shared operations: the execution monad, access to the job and its streams, memory bytes, stop requests, taking a trap,
and the return to a vectored entry's saved address.
-/
namespace Sys2Proof.Machine

/-! ### The execution monad -/

/-- Why an instruction does not complete: it raises a trap of R254 (with the unit of R256 and the target's reason), it stalls with a
STALLC cause of R41, its replay diverges (R402), it waits for a line of another die (R318), or it waits with an entry of its own (R252, R267, R312). -/
inductive Stop where
  | trap (cause : BitVec 8) (info : Word) (reason : BitVec 16)
  | stall (cause : BitVec 4)
  | diverge (idx : Nat)
  /-- poison met at a package physical address by an access to a virtual address (R292, R293) -/
  | poison (pa : Nat) (va : Word)
  /-- a stall that keeps what the instruction has done: a V-form between two iterations (R206) -/
  | pause (cause : BitVec 4)
  | fetch (line : Nat)
  /-- it stalls and waits as a waiter of a semaphore or with an arrival of its own -/
  | wait (cause : BitVec 4) (w : Wait) (waiter : Option (BitVec 8 × SemWaiter)) (arr : Option Arrival)
  deriving DecidableEq, Repr

/-- An instruction's body: it changes the state or stops. -/
abbrev M := EStateM Stop State

/-- Raise a trap of the executing instruction. -/
def trap {α : Type} (cause : BitVec 8) (info : Word) : M α := throw (.trap cause info 0)
/-- Stall the executing stream. -/
def stall {α : Type} (cause : BitVec 4) : M α := throw (.stall cause)
/-- Trap when a condition holds. -/
def trapIf (b : Bool) (cause : BitVec 8) (info : Word) : M Unit := if b then trap cause info else pure ()

/-- Stall when a condition holds. -/
def stallIf (b : Bool) (cause : BitVec 4) : M Unit := if b then stall cause else pure ()

/-- The number of a stream as an index. -/
def StreamId.fin : StreamId → Fin 4
  | .c => 0
  | .a => 1
  | .v => 2
  | .s => 3

/-- The stream of a number. -/
def streamOf : Fin 4 → StreamId
  | 0 => .c
  | 1 => .a
  | 2 => .v
  | 3 => .s

/-- The core of a number, modulo 256. -/
def coreOf (n : Nat) : CoreId := ⟨n % 256, Nat.mod_lt _ (by decide)⟩
/-- The partition of a number, modulo 32. -/
def partOf (n : Nat) : PartId := ⟨n % 32, Nat.mod_lt _ (by decide)⟩
/-- The die of a core (R92). -/
def dieOf (c : CoreId) : DieId := ⟨c.val / 64 % 4, Nat.mod_lt _ (by decide)⟩
/-- The cluster of a core among the module's 64 (R92). -/
def clusterOf (c : CoreId) : Fin 64 := ⟨c.val / 4 % 64, Nat.mod_lt _ (by decide)⟩

/-- A core of the state. -/
def State.core (s : State) (c : CoreId) : Core := s.cores.get c
/-- The state with one core replaced. -/
def State.setCore (s : State) (c : CoreId) (k : Core) : State := { s with cores := s.cores.set c k }
/-- The job on a core. -/
def State.job (s : State) (c : CoreId) : Option Job := (s.core c).job
/-- The state with the job on a core replaced. -/
def State.setJob (s : State) (c : CoreId) (j : Job) : State := s.setCore c { s.core c with job := some j }
/-- The state with the job on a core changed, where there is one. -/
def State.onJob (s : State) (c : CoreId) (f : Job → Job) : State := match s.job c with
  | some j => s.setJob c (f j)
  | none => s
/-- A stream of a job. -/
def Job.stream (j : Job) (st : StreamId) : Stream := j.streams.get (StreamId.fin st)
/-- The job with one stream replaced. -/
def Job.setStream (j : Job) (st : StreamId) (t : Stream) : Job := { j with streams := j.streams.set (StreamId.fin st) t }
/-- The job with one stream changed. -/
def Job.onStream (j : Job) (st : StreamId) (f : Stream → Stream) : Job := j.setStream st (f (j.stream st))
/-- The job with every stream changed. -/
def Job.onStreams (j : Job) (f : Stream → Stream) : Job := { j with streams := j.streams.map f }

/-- The core that executes. -/
def curCore : M CoreId := do return (← get).cur.1
/-- The stream that executes. -/
def curStream : M StreamId := do return (← get).cur.2
/-- The executing job; a core without one executes nothing. -/
def getJob : M Job := do
  let s ← get
  match s.job s.cur.1 with
  | some j => return j
  | none => stall 0
/-- Replace the executing job. -/
def setJob (j : Job) : M Unit := modify (fun s => s.setJob s.cur.1 j)
/-- Change the executing job. -/
def modifyJob (f : Job → Job) : M Unit := do setJob (f (← getJob))
/-- The executing stream. -/
def getStream : M Stream := do return (← getJob).stream (← get).cur.2
/-- Change the executing stream. -/
def modifyStream (f : Stream → Stream) : M Unit := do
  let st ← curStream
  modifyJob (fun j => j.onStream st f)

/-! ### Coordinates (R8, R31, R32) -/

/-- The lowest bit of level n in a packed coordinate (R31). -/
def levelLo : Nat → Nat
  | 0 => 0
  | 1 => 16
  | 2 => 32
  | 3 => 44
  | _ => 54
/-- The width of level n (R18). -/
def levelWidth : Nat → Nat
  | 0 => 16
  | 1 => 16
  | 2 => 12
  | 3 => 10
  | _ => 8
/-- The value of ixN. -/
def Coord.ix (c : Coord) (n : Nat) : Nat := c.toNat / 2 ^ levelLo n % 2 ^ levelWidth n
/-- The coordinate word of a coordinate: VALID is 1 (R31). -/
def coordWord (c : Coord) : Word := BitVec.ofNat 64 (2 ^ 63 + c.toNat)
/-- The coordinate word of FRONT or of a landing coordinate: VALID 0 before the first (R31, R38). -/
def optCoordWord : Option Coord → Word
  | some c => coordWord c
  | none => 0
/-- Bits 61:0 of a coordinate word. -/
def wordCoord (w : Word) : Coord := w.setWidth 62
/-- A coordinate with every level below n cleared. -/
def clearBelow (c : Coord) (n : Nat) : Nat := c.toNat / 2 ^ levelLo n * 2 ^ levelLo n
/-- An advance at level n (R32): the coordinate entered, or the information word where ixN is at the end of its field. -/
def advanceAt (c : Coord) (n : Nat) : Coord × Option Word :=
  let t := BitVec.ofNat 62 (clearBelow c n + 2 ^ levelLo n)
  (t, if Coord.ix c n + 1 = 2 ^ levelWidth n then some (coordWord t) else none)

/-! ### Memory bytes -/

/-- The byte of a canonical memory at a key; an unlisted key reads as 0 (R333, R341; host and CXL memory by assumption 3). -/
def memByte (m : List Host.Cell) (a : Nat) : Byte := ((m.find? (fun c => c.1 = a)).map Prod.snd).getD 0
/-- n bytes from a key on. -/
def memBytes (m : List Host.Cell) (a n : Nat) : List Byte := (List.range n).map (fun i => memByte m (a + i))
/-- The cells of a run of bytes that differ from what an unlisted key reads as. -/
def cellsFrom : Nat → List Byte → List Host.Cell
  | _, [] => []
  | a, b :: bs => if b = 0 then cellsFrom (a + 1) bs else (a, b) :: cellsFrom (a + 1) bs
/-- The memory with a run of bytes written from a key on. -/
def memWrite (m : List Host.Cell) (a : Nat) (bs : List Byte) : List Host.Cell :=
  m.filter (fun c => c.1 < a) ++ cellsFrom a bs ++ m.filter (fun c => a + bs.length ≤ c.1)
/-- The canonical form: keys strictly rising and no byte 0. -/
def Memory.wf (m : List Host.Cell) : Bool :=
  decide (List.Pairwise (fun a b => a.1 < b.1) m) && m.all (fun c => c.2 != 0)

/-- The key of byte p of a core's pool. -/
def poolKey (c : CoreId) (p : Nat) : Nat := 2 ^ 50 + c.val * 2 ^ 22 + p
/-- The memory key of a place. -/
def Place.key : Place → Nat
  | .pool c p => poolKey c p
  | .mem pa => pa
/-- Read n bytes at a place. -/
def State.readAt (s : State) (p : Place) (n : Nat) : List Byte := memBytes s.mem p.key n
/-- The number of the bytes of a list, little-endian (R6). -/
def leNat (bs : List Byte) : Nat := bytesToLe bs
where
  /-- The recursion of `leNat`. -/
  bytesToLe : List Byte → Nat
    | [] => 0
    | b :: bs => b.toNat + 256 * bytesToLe bs
/-- n bytes of a number, little-endian (R6). -/
def leBytes : Nat → Nat → List Byte
  | 0, _ => []
  | n + 1, w => BitVec.ofNat 8 w :: leBytes n (w / 256)
/-- Write bytes at a key without any side effect. -/
def State.poke (s : State) (key : Nat) (bs : List Byte) : State := { s with mem := memWrite s.mem key bs }

/-! ### Restored registers (R81, R82) -/

/-- The index of a restored register. -/
def RReg.fin : RReg → Fin 6
  | .rmode => 0
  | .fzctl => 1
  | .srseed => 2
  | .mseed => 3
  | .mconst => 4
  | .mstat => 5

/-- The value of a restored register after a write of a word (R171, R173, R175, R235 to R237): flags of RMODE and MSTAT are cleared by
writing 1, and MODE 6 or 7 is ignored. -/
def RReg.written (r : RReg) (old v : Word) : Word :=
  match r with
  | .rmode =>
    let mode := if v.toNat % 8 < 6 then v.toNat % 8 else old.toNat % 8
    BitVec.ofNat 64 ((old &&& ~~~v &&& 0xF8).toNat + mode)
  | .fzctl => v &&& 0xFFFF
  | .srseed => v
  | .mseed => v
  | .mconst => v &&& 0xFFFFFFFF
  | .mstat => old &&& ~~~v &&& 0xFC
/-- A restored register after one change. -/
def RReg.apply (r : RReg) (old : Word) : RChange → Word
  | .write v => r.written old v
  | .flags b => old ||| b
  | .draws _ => old
/-- The draws of a lane after one change of its seed's register: a write restarts at draw 1 (R175, R235). -/
def RChange.drawn (n : Nat) : RChange → Nat
  | .write _ => 0
  | .draws k => n + k
  | .flags _ => n
/-- The restored registers after one change. -/
def RBase.apply (b : RBase) (r : RReg) (x : RChange) : RBase :=
  { regs := b.regs.set r.fin (r.apply (b.regs.get r.fin) x)
    vdraws := if r = .srseed then x.drawn b.vdraws else b.vdraws
    mdraws := if r = .mseed then x.drawn b.mdraws else b.mdraws }
/-- The restored registers as they are now: every change of the log made in order. -/
def Job.rnow (j : Job) : RBase := j.rlog.foldl (fun b x => b.apply x.2.1 x.2.2) j.rbase
/-- The current value of a restored register. -/
def Job.rreg (j : Job) (r : RReg) : Word := j.rnow.regs.get r.fin
/-- A change of a restored register by an operation with this coordinate. -/
def Job.rchange (j : Job) (c : Coord) (r : RReg) (x : RChange) : Job := { j with rlog := j.rlog ++ [(c, r, x)] }
/-- Make the changes at the front of the log whose coordinate satisfies `p` part of the base. -/
def foldRlog (b : RBase) (p : Coord → Bool) : List (Coord × RReg × RChange) → RBase × List (Coord × RReg × RChange)
  | [] => (b, [])
  | (c, r, x) :: l => if p c then foldRlog (b.apply r x) p l else (b, (c, r, x) :: l)

/-! ### Stop requests, traps and landings (R89, R122 to R125, R133, R134) -/

/-- The bound of the cut after FRONT: operations with a coordinate below it lie inside (R124). -/
def frontBound : Option Coord → Nat
  | some f => f.toNat + 1
  | none => 0

/-- A stream is beyond a coordinate, at RDV or not, or attempts an advance beyond it (R124). -/
def Stream.reaches (t : Stream) (c : Coord) : Bool := decide (c < t.coord) || t.adv.any (fun a => decide (c < a.target))

/-- A landing at the cut after c for a request, reported as `kind` (R124, R136, R254). -/
def landingOf (r : StopReq) (bound : Nat) (kind : BitVec 4) : Landing :=
  ⟨bound, .request r kind (if r.brk then 0x0F else 0x10) (coordWord r.coord)⟩

/-- The landing names a trap. -/
def Landing.isTrap (l : Landing) : Bool := match l.why with
  | .trap _ => true
  | .request _ _ _ _ => false
  | .late _ => false

/-- Whether trap a is recorded before trap b at one cut: first by stream, then by program order (R133). -/
def trapBefore (a b : TrapRec) : Bool :=
  decide (a.org.st.num < b.org.st.num ∨ (a.org.st = b.org.st ∧ a.org.seq < b.org.seq))

/-- A request of the job's own BKPT or YIELD (R86, R95), which a cut before its coordinate discards (R97). -/
def StopReq.ofMark (r : StopReq) : Bool := decide (r.kind = 8) || decide (r.kind = 5 ∧ r.origin = 0 ∧ r.unit = 0)
/-- A request that is kept until a landing of its own: one of STOPAT, of the debug port or of a clamp (R89, R122, R141). -/
def StopReq.lasts (r : StopReq) : Bool := !r.ofMark && decide (r.kind ≠ 6 ∧ r.unit ≠ 6)
/-- The job with the request of a landing pending again, because a trap at a lower cut replaces the landing (R89, R134): of two requests
the lower one stays. -/
def Job.reclaim (j : Job) (w : LandWhy) : Job := match w with
  | .request r _ _ _ =>
    if r.lasts && j.stop.all (fun p => decide (r.coord < p.coord)) then { j with stop := some r } else j
  | .trap _ | .late _ => j

/-- TAKING A TRAP (R133, R134): the trap names the cut before its stamp. It starts a landing, replaces a landing at a higher cut, whose
request stays pending (R89), replaces a trap of the same cut that it precedes, and is discarded otherwise. The saved record, the stopped
job and the supervisor's event follow when the landing completes (R125, R256, R257). -/
def Job.takeTrap (j : Job) (t : TrapRec) : Job :=
  let l : Landing := ⟨t.org.stamp.coord.toNat, .trap t⟩
  match j.landing with
  | none => { j with landing := some l }
  | some old =>
    if l.bound < old.bound then { j.reclaim old.why with landing := some l }
    else if l.bound = old.bound then
      match old.why with
      | .trap u => if trapBefore t u then { j with landing := some l } else j
      | .request _ _ _ _ => j
      | .late _ => j
    else j

/-- The request becomes the job's landing where R124, R133 and R134 say so, and stays pending otherwise. DESIGN CHOICE (log 71): a request
that names exactly the cut of a request's landing in progress stays pending, and a request that turns a YIELD landing into a stop leaves
that landing's own origin, stream, unit and address in the record; and a request below FRONT that a landing in progress consumes takes
a pending request above it along. -/
def Job.decideStop (j : Job) (r : StopReq) : Job :=
  let after := r.coord.toNat + 1
  let late := j.front.any (fun f => decide (r.coord < f))
  match j.landing with
  | none =>
    if late then { j with stop := none, landing := some (landingOf r (frontBound j.front) (if r.kind = 1 then 2 else r.kind)) }
    else if StreamId.all.any (fun st => (j.stream st).reaches r.coord) then
      { j with stop := none, landing := some (landingOf r after r.kind) }
    else { j with stop := some r }
  | some l =>
    if late then
      -- consumed by the landing in progress; it turns a YIELD into a stop (R134)
      match l.why with
      | .request q 8 _ _ => { j with stop := none, landing := some ⟨l.bound, .request { q with brk := r.brk }
          (if r.brk then 5 else 2) (if r.brk then 0x0F else 0x10) (coordWord r.coord)⟩ }
      | _ => { j with stop := none }
    else if after < l.bound then { j with stop := none, landing := some (landingOf r after r.kind) }
    else if after = l.bound && l.isTrap then { j with stop := none, landing := some (landingOf r after r.kind) }
    else { j with stop := some r }

/-- A stop request arrives (R89): it replaces a pending request with a higher coordinate and is ignored otherwise. -/
def Job.requestStop (j : Job) (r : StopReq) : Job :=
  match j.stop with
  | some p => if r.coord < p.coord then Job.decideStop j r else j
  | none => Job.decideStop j r

/-- A pending request that a stream has just reached starts its landing (R124). -/
def Job.checkStop (j : Job) : Job :=
  match j.stop with
  | some r => if j.landing.isNone && StreamId.all.any (fun st => (j.stream st).reaches r.coord) then
      { j with stop := none, landing := some (landingOf r (r.coord.toNat + 1) r.kind) } else j
  | none => j

/-- A landing for a request that names its own cut: it starts, or replaces one at a higher cut, or a trap at the same cut (R133, R134).
A landing that it replaces at a higher cut leaves its request pending (R89). DESIGN CHOICE (log 71): at the cut of a request's landing in
progress it has no effect of its own. -/
def Job.landAt (j : Job) (l : Landing) : Job := match j.landing with
  | none => { j with landing := some l }
  | some old =>
    if l.bound < old.bound then { j.reclaim old.why with landing := some l }
    else if l.bound = old.bound && old.isTrap then { j with landing := some l } else j

/-- A request of the scheduler lands the job HARD at the cut after FRONT (R122, R140). -/
def Job.hardStop (j : Job) (cause : BitVec 8) (info : Word) : Job :=
  j.landAt ⟨frontBound j.front, .request ⟨j.front.getD 0, false, 6, 2, .c, 5, 0, 0, 0, none⟩ 6 cause info⟩

/-- A replay divergence places a request at the cut before the operation's stamp (R402): BREAK with cause 0x0F, and the index of the entry
expected. -/
def Job.diverge (j : Job) (o : Origin) (idx : Nat) : Job :=
  j.landAt ⟨o.stamp.coord.toNat, .request ⟨o.stamp.coord, true, 5, 0, o.st, 6, o.stamp.stage, 0, o.pc, none⟩ 5 0x0F
    (BitVec.ofNat 64 idx)⟩

/-- Add to one of the job's counters, which saturates (R398). -/
def Job.count (j : Job) (i : Fin 16) (n : Nat) : Job :=
  { j with counters := j.counters.set i (BitVec.ofNat 64 (Nat.min (2 ^ 64 - 1) ((j.counters.get i).toNat + n))) }

/-- Whether an operation with a coordinate lies inside the landing's cut. -/
def Landing.inside (l : Landing) (c : Coord) : Bool := decide (c.toNat < l.bound)

/-- The return from a vectored event entry (R84): the program counter becomes the saved address and delivery is enabled. -/
def Partition.leaveEntry (p : Partition) : Partition := { p with delivery := true, inEntry := false }
/-- The vectored entry (R259): the address of the next instruction is saved, delivery is disabled and the stream continues at ENTRY. -/
def Partition.enter (p : Partition) (pc : Word) : Partition := { p with delivery := false, inEntry := true, savedPc := pc }

/-- The partition of a number. -/
def State.part (s : State) (p : PartId) : Option Partition := s.parts.get p
/-- The state with a partition replaced. -/
def State.setPart (s : State) (p : PartId) (x : Partition) : State := { s with parts := s.parts.set p (some x) }
/-- The state with a partition changed, where it exists. -/
def State.onPart (s : State) (p : PartId) (f : Partition → Partition) : State := match s.part p with
  | some x => s.setPart p (f x)
  | none => s

/-- The executing stream is its partition's supervisor: the C stream of the supervisor's core (R255). -/
def State.isSup (s : State) : Bool := match s.job s.cur.1 with
  | some j => decide (s.cur.2 = .c) && (match s.part j.part with
      | some p => decide (p.supcore = s.cur.1) && decide (j.handle = p.supHandle)
      | none => false)
  | none => false

/-! ### Semaphores (R135, R250, R252) -/

/-- The units a semaphore holds. -/
def Sem.count (m : Sem) : Nat := (m.units.map SemUnits.n).sum
/-- A signal of n units; the count saturates (R250, R252). -/
def Sem.signal (m : Sem) (n : Nat) (owner : Option (Handle × CoreId × Stamp)) : Sem :=
  let k := Nat.min n (0xFFFFFFFF - m.count)
  if k = 0 then m else { m with units := m.units ++ [⟨k, owner⟩] }
/-- A semaphore of a cluster. -/
def State.sem (s : State) (cl : Fin 64) (phys : BitVec 8) : Sem := ((s.clusters.get cl).sems.get phys.toFin)
/-- Replace a semaphore. -/
def State.setSem (s : State) (cl : Fin 64) (phys : BitVec 8) (m : Sem) : State :=
  { s with clusters := s.clusters.set cl { s.clusters.get cl with sems := (s.clusters.get cl).sems.set phys.toFin m } }
/-- Take n units in arrival order: the units taken and the rest (R252). -/
def takeUnits : Nat → List SemUnits → List SemUnits × List SemUnits
  | _, [] => ([], [])
  | 0, l => ([], l)
  | n, u :: l =>
    if u.n ≤ n then
      let (a, b) := takeUnits (n - u.n) l
      (u :: a, b)
    else ([⟨n, u.owner⟩], ⟨u.n - n, u.owner⟩ :: l)

/-! ### Waits with an entry (R252, R267, R312) -/

/-- An arrival is left to be counted, and the arrival number of its scope moves on (R266). -/
def Job.arrive (j : Job) (a : Arrival) : Job :=
  { j with
    arrivals := j.arrivals ++ [a]
    arrTeam := j.arrTeam + (if !a.crew && !a.sstep then 1 else 0)
    arrCrew := j.arrCrew + (if a.crew && !a.sstep then 1 else 0)
    arrStep := j.arrStep + (if a.sstep then 1 else 0) }
/-- The executing stream waits: it joins the waiters of a semaphore, or its arrival waits to be counted. -/
def State.enlist (s : State) (w : Wait) (waiter : Option (BitVec 8 × SemWaiter)) (arr : Option Arrival) : State :=
  let c := s.cur.1
  let s := match waiter with
    | some (phys, x) =>
      let m := s.sem (clusterOf c) phys
      s.setSem (clusterOf c) phys { m with waiters := m.waiters ++ [x] }
    | none => s
  s.onJob c (fun j =>
    let j := match arr with
      | some a => j.arrive a
      | none => j
    j.onStream s.cur.2 (fun t => { t with wait := w }))

end Sys2Proof.Machine
end

