-- ==== Sys2Proof/Machine/Operands.lean ====
section
/-!
DEFINITION. Operand forms: scalar queue registers, predicates, masks, tile queues and tokens, read and written by R20 to R30, R36, R102,
R103, R114 and R160.
-/
namespace Sys2Proof.Machine

/-- The peek bit of a specifier (R19). -/
def Spec.peek (x : Spec) : Bool := x.getLsbD 6
/-- The file bit of a specifier (R19). -/
def Spec.file (x : Spec) : Bool := x.getLsbD 5
/-- The number of a specifier (R19). -/
def Spec.num (x : Spec) : Nat := x.toNat % 32
/-- The information word of an underflow or overflow of a scalar register (R254). -/
def specInfo (x : Spec) : Word := x.setWidth 64

/-- The scalar register of a specifier, none for s31. -/
def Spec.reg (x : Spec) : Option (Fin 31) := if h : x.toNat % 32 < 31 then some ⟨x.toNat % 32, h⟩ else none

/-- A binding has elements to come or to pop (R25, R110). -/
def Job.bindingLive (j : Job) (b : Binding) : Bool :=
  match b.copy with
  | none => true
  | some (_, left) => decide (0 < left) || ((j.stream b.st).regs.get b.reg).items.any (fun e => e.bind = some b.id)

/-- The binding that makes a register a stream register (R25). -/
def Job.bound (j : Job) (st : StreamId) (r : Fin 31) : Option Binding :=
  j.bindings.find? (fun b => decide (b.st = st ∧ b.reg = r) && j.bindingLive b)

/-- What R36 and the marks of R102 and R103 make of reading an entry whose value has arrived. -/
def checkEntry {α : Type} (cur : Coord) (e : QEntry α) : M Unit := do
  trapIf (decide (cur < e.stamp.coord)) 0x06 (coordWord e.stamp.coord)
  match e.mark with
  | .none => pure ()
  | .poison pa => trap 0x0A (BitVec.ofNat 64 pa)
  | .fabric ga reason => throw (.trap 0x12 ga reason)

/-- The queue with its head entry popped provisionally by an instruction (R26). -/
def Queue.pop {α : Type} (q : Queue α) (cur : Coord) (seq : Nat) : Queue α := match q.items with
  | [] => q
  | e :: rest => ⟨rest, q.popped ++ [(e, cur, seq)]⟩

/-- Replace one scalar register of the executing stream. -/
def setReg (r : Fin 31) (q : Queue Word) : M Unit := modifyStream (fun t => { t with regs := t.regs.set r q })

/-- The trap or stall of reading an entry whose value has not arrived (R20): the entry of a held effect cannot be filled while the
reading stream is at its coordinate (R247, R286). -/
def awaitEntry {α β : Type} (cur : Coord) (e : QEntry α) : M β :=
  if e.held && decide (e.stamp.coord = cur) then trap 0x04 0x103 else stall 1

/-- The message is a write on its way to its home. -/
def FleetMsg.isWrite : FleetMsg → Bool
  | .write _ _ _ _ _ _ _ _ _ _ => true
  | _ => false
/-- The instruction whose write a message carries. -/
def FleetMsg.writer : FleetMsg → Option Writer
  | .write _ _ _ _ _ _ _ _ _ w => w
  | .update _ _ _ _ _ _ _ w => w
  | .tick _ _ _ w => w
  | _ => none
/-- An effect of a stream that is not held back and has not been performed at a scope (R87). -/
def State.fencePending (s : State) (c : CoreId) (j : Job) (st : StreamId) (scope : Nat) : Bool :=
  let mine (o : Origin) (hd : Handle) (k : CoreId) : Bool := decide (o.st = st ∧ hd = j.handle ∧ k = c)
  j.ops.any (fun o => o.org.st = st) || [j.meQ, j.ceQ, j.seQ].any (fun l => l.any (fun q => q.org.st = st)) ||
  (decide (3 ≤ scope) && (s.remotes.any (fun r => mine r.org r.handle r.core) || s.sendings.any (fun r => mine r.org r.handle r.core) ||
    s.chunks.any (fun r => mine r.org r.handle r.core) || s.services.any (fun r => mine r.org r.handle r.core))) ||
  (decide (5 ≤ scope) && s.fleet.any (fun m => m.isWrite && m.writer.any (fun x => mine x.org x.handle x.core)))
/-- The stream reads an entry: that of an AWAIT acts as a FENCE of crew scope just before the reading instruction (R378). -/
def Stream.reads (id seq : Nat) (t : Stream) : Stream :=
  if t.awaited.contains id then { t with fences := t.fences ++ [(seq, 4)] } else t
/-- The stream may read an entry: that of an AWAIT waits as a FENCE of crew scope does (R378). -/
def State.mayRead (s : State) (j : Job) (id : Nat) : Bool :=
  !(j.stream s.cur.2).awaited.contains id || !s.fencePending s.cur.1 j s.cur.2 4

/-- `pop` and `peek` of a scalar source (R21, R25, R26, R36, R160): s31 reads 0. `discard` drops marked entries without a trap (R102). The
read of an AWAIT's entry orders the stream (R378). -/
def readScalar (x : Spec) (discard : Bool) : M Word := do
  match Spec.reg x with
  | none => return 0
  | some r =>
    let j ← getJob
    let st ← curStream
    let t := j.stream st
    let q := t.regs.get r
    match q.items with
    | [] => if (j.bound st r).isSome then stall 2 else trap 0x03 (specInfo x)
    | e :: _ =>
      match e.val with
      | none => awaitEntry t.coord e
      | some v =>
        if discard then trapIf (decide (t.coord < e.stamp.coord)) 0x06 (coordWord e.stamp.coord) else checkEntry t.coord e
        let s ← get
        stallIf (!s.mayRead j e.id) 13
        modifyStream (Stream.reads e.id j.seq)
        if Spec.peek x then return v
        setReg r (q.pop t.coord j.seq)
        return v

/-- A scalar source (R66). -/
def pop (x : Spec) : M Word := readScalar x false

/-- A predicate source (R27, R66). -/
def readPred (x : Spec) : M Bool := do
  let t ← getStream
  return t.preds.getLsbD (Spec.num x % 8)
/-- Write a predicate. -/
def writePred (x : Spec) (b : Bool) : M Unit :=
  modifyStream (fun t =>
    let m : BitVec 8 := 1 <<< (Spec.num x % 8)
    { t with preds := if b then t.preds ||| m else t.preds &&& ~~~m })

/-- The stamp of the executing instruction (R33). -/
def stampOf (h : Hdr) : M Stamp := do
  let t ← getStream
  return ⟨t.coord, h.stage⟩
/-- The origin of the executing instruction. -/
def originOf (h : Hdr) : M Origin := do
  let j ← getJob
  let st ← curStream
  let t := j.stream st
  return ⟨st, ⟨t.coord, h.stage⟩, j.seq, t.pc⟩

/-- Room for one more entry of a scalar register (R21, R25, R26): the architectural depth, then the physical slots. -/
def pushRoom (x : Spec) : M Unit := do
  match Spec.reg x with
  | none => pure ()
  | some r =>
    let j ← getJob
    let st ← curStream
    let t := j.stream st
    let q := t.regs.get r
    trapIf ((j.bound st r).isSome || decide (4 ≤ q.items.length)) 0x04 (specInfo x)
    if 8 ≤ q.items.length + q.popped.length then
      if q.popped.all (fun p => p.2.1 = t.coord) then trap 0x04 (specInfo x) else stall 7
    else pure ()

/-- Append an entry to a scalar destination (R20, R160): a value, or a reservation that operation `id` fills. s31 discards. -/
def pushEntry (h : Hdr) (x : Spec) (v : Option Word) (id : Nat) (held : Bool) : M Unit := do
  pushRoom x
  match Spec.reg x with
  | none => pure ()
  | some r =>
    let t ← getStream
    let q := t.regs.get r
    setReg r { q with items := q.items ++ [⟨v, ⟨t.coord, h.stage⟩, .none, held, id, none⟩] }

/-- `push` of a value to a scalar destination (R66). -/
def push (h : Hdr) (x : Spec) (v : Word) : M Unit := do
  let j ← getJob
  pushEntry h x (some v) j.seq false
/-- Reserve an entry that the instruction's own operation fills later (R20). -/
def reserve (h : Hdr) (x : Spec) (held : Bool) : M Unit := do
  let j ← getJob
  pushEntry h x none j.seq held

/-! ### Tile queues (R21, R23, R24, R26, R114) -/

/-- The information word of a tile queue (R254). -/
def tileInfo (n : Nat) : Word := BitVec.ofNat 64 (0x80 + n % 16)
/-- The index of a tile queue. -/
def tileIdx (n : Nat) : Fin 16 := ⟨n % 16, Nat.mod_lt _ (by decide)⟩
/-- A tile queue is fed (R24). -/
def Job.fed (j : Job) (n : Nat) : Bool := j.hdr.fed.getLsbD (n % 16)
/-- A tile queue is drained (R114). -/
def Job.drained (j : Job) (n : Nat) : Bool := j.hdr.drain.getLsbD (n % 16)
/-- Holding slots in use (R26). -/
def Job.holding (j : Job) : Nat := (j.tiles.toList.map (fun q => q.popped.length)).sum

/-- With a tile depth of 0 an instruction that names a tile queue traps (R23). -/
def needTiles (n : Nat) : M Unit := do
  let j ← getJob
  trapIf (decide (j.hdr.tdep = 0)) 0x0E (BitVec.ofNat 64 (n % 16))

/-- A push to a tile queue is outstanding from one of these streams or the engines (R24, R114, R223): an LDT or GATHER in flight. -/
def Job.tilePushPending (j : Job) (n : Nat) : Bool := j.ops.any (fun o => match o.kind with
  | .ldt _ _ _ q => decide (q = tileIdx n)
  | .gather _ _ _ _ _ q => decide (q = tileIdx n)
  | _ => false)

/-- What reading an empty tile queue does: a fed (or drained) queue waits until the streams that may push onto it are at RDV. -/
def emptyTile {α : Type} (n : Nat) (waits : Bool) (feeders : List StreamId) : M α := do
  let j ← getJob
  if waits && !(feeders.all (fun x => (j.stream x).phase = .rdv) && !j.tilePushPending n) then stall 2
  else trap 0x03 (tileInfo n)

/-- Read the head of a tile queue for an instruction with coordinate `cur` and number `seq` (R21, R24, R26, R36, R102). -/
def takeTile (n : Nat) (peek waits : Bool) (feeders : List StreamId) (cur : Coord) (seq : Nat) : M Tile := do
  let j ← getJob
  let q := j.tiles.get (tileIdx n)
  match q.items with
  | [] => emptyTile n waits feeders
  | e :: _ =>
    match e.val with
    | none => stall 1
    | some v =>
      checkEntry cur e
      if peek then return v
      if 16 ≤ j.holding then
        if j.tiles.toList.all (fun q => q.popped.all (fun p => p.2.1 = cur)) then trap 0x04 (tileInfo n) else stall 7
      else
        setJob { j with tiles := j.tiles.set (tileIdx n) (q.pop cur seq) }
        return v

/-- A tile source of a V instruction (R114, R184): a drained queue may not be popped by V. -/
def popTile (f : BitVec 5) : M Tile := do
  let n := f.toNat % 16
  let pk := f.getLsbD 4
  let j ← getJob
  let t ← getStream
  trapIf (!pk && j.drained n) 0x03 (tileInfo n)
  takeTile n pk (j.fed n) [.c, .a, .s] t.coord j.seq

/-- The tile source of STT and SCATTER (R114): only a drained queue, which may be empty for a while; `word` is the instruction's first
word. -/
def popDrained (word : Word) (d : Spec) : M Tile := do
  let n := d.toNat % 16
  let j ← getJob
  let t ← getStream
  needTiles n
  trapIf (!j.drained n) 0x02 word
  takeTile n false true (if j.fed n then [.a] else [.v]) t.coord j.seq

/-- What a tile leaves in a slot of its queue (R146, R148). -/
def leaveTile (n : Fin 16) (slot : Nat) (v : Tile) (l : List (Fin 16 × Nat × Tile)) : List (Fin 16 × Nat × Tile) :=
  (n, slot, v) :: l.filter (fun x => !decide (x.1 = n ∧ x.2.1 = slot))
/-- The slot of place i of a tile queue (R146). -/
def Job.tileSlot (j : Job) (n : Fin 16) (i : Nat) : Nat :=
  let d := Nat.max 1 j.hdr.tdep
  (j.tileTail.get n + 8 * d + i - (j.tiles.get n).items.length) % d
/-- The job with an entry appended to a tile queue, in the slot after its newest (R146). -/
def Job.addTile (j : Job) (n : Fin 16) (e : QEntry Tile) : Job :=
  let q := j.tiles.get n
  { j with
    tiles := j.tiles.set n { q with items := q.items ++ [e] }
    tileTail := j.tileTail.set n ((j.tileTail.get n + 1) % Nat.max 1 j.hdr.tdep)
    tileLeft := match e.val with
      | some v => leaveTile n (j.tileSlot n q.items.length) v j.tileLeft
      | none => j.tileLeft }
/-- Append a tile to a queue that has room; a full queue traps (private) or stalls (fed or drained by another) (R21, R24). -/
def pushTileAt (n : Nat) (e : QEntry Tile) (waits : Bool) : M Unit := do
  let j ← getJob
  if j.hdr.tdep ≤ (j.tiles.get (tileIdx n)).items.length then
    if waits then stall 3 else trap 0x04 (tileInfo n)
  else setJob (j.addTile (tileIdx n) e)

/-- A tile destination of a V instruction (R21, R24, R184): a fed queue traps; so does a full one, but for a V-form, which waits on a
drained queue (R206). -/
def pushTile (h : Hdr) (td : BitVec 4) (v : Tile) (form : Bool) : M Unit := do
  let n := td.toNat
  let j ← getJob
  let t ← getStream
  trapIf (j.fed n) 0x04 (tileInfo n)
  pushTileAt n ⟨some v, ⟨t.coord, h.stage⟩, .none, false, j.seq, none⟩ (form && j.drained n)

/-- Reserve the tile entry that an LDT or GATHER fills (R24, R104): an unfed queue traps and a full one stalls A. -/
def reserveTile (h : Hdr) (d : Spec) : M Unit := do
  let n := d.toNat % 16
  needTiles n
  let j ← getJob
  let t ← getStream
  trapIf (!j.fed n) 0x04 (tileInfo n)
  pushTileAt n ⟨none, ⟨t.coord, h.stage⟩, .none, false, j.seq, none⟩ true

/-! ### Masks and network registers (R27, R202) -/

/-- Write a mask of the executing stream, saving the old value (R27). -/
def writeMask (m : Fin 8) (v : BitVec 1024) : M Unit := do
  let t ← getStream
  if 16 ≤ t.maskHist.length then
    if t.maskHist.all (fun x => x.2.2 = t.coord) then trap 0x04 0x104 else stall 7
  else modifyStream (fun t => { t with masks := t.masks.set m v, maskHist := t.maskHist ++ [(m, t.masks.get m, t.coord)] })

/-- Write a network register, saving the old value (R202). -/
def writeNet (n : Fin 8) (v : BitVec 352) : M Unit := do
  let t ← getStream
  if 8 ≤ t.netHist.length then
    if t.netHist.all (fun x => x.2.2 = t.coord) then trap 0x04 0x104 else stall 7
  else modifyStream (fun t => { t with nets := t.nets.set n v, netHist := t.netHist ++ [(n, t.nets.get n, t.coord)] })

/-- An index of one of eight registers. -/
def fin8 (n : Nat) : Fin 8 := ⟨n % 8, Nat.mod_lt _ (by decide)⟩
/-- An index of one of thirty-two. -/
def fin32 (n : Nat) : Fin 32 := ⟨n % 32, Nat.mod_lt _ (by decide)⟩

/-! ### Tokens (R28, R30, R36) -/

/-- The FIFO that leaves a stream towards its next stream or its previous stream (R17). -/
def fifoIdx (st : StreamId) (toNext : Bool) : Fin 8 := match st, toNext with
  | .c, false => 0
  | .c, true => 1
  | .a, false => 2
  | .a, true => 3
  | .v, false => 4
  | .v, true => 5
  | .s, false => 6
  | .s, true => 7

/-- Pop one token from the FIFO that `src` fills (R28): an empty FIFO stalls, or traps once `src` has executed RDV (R30). DESIGN CHOICE
(log 72): a stream at RDV that still has a push to make onto that FIFO has not left it empty for good, so the pop stalls. The spec gives
the trap's information word for registers and tile queues only: it is free here (log 11). -/
def popToken (src : StreamId) (toNext : Bool) : M Unit := do
  let j ← getJob
  let t ← getStream
  let q := j.toks.get (fifoIdx src toNext)
  match q.items with
  | [] =>
    if (j.stream src).phase = .rdv && !(j.stream src).pushes.any (fun p => p.toNext = toNext) then
      trap 0x03 (Config.freeWord (← get).tick 50)
    else stall 4
  | e :: _ =>
    checkEntry t.coord e
    setJob { j with toks := j.toks.set (fifoIdx src toNext) (q.pop t.coord j.seq) }

/-- The token pops of an instruction (R28): from the previous stream's forward FIFO and the next stream's backward FIFO. -/
def popTokens (h : Hdr) : M Unit := do
  let st ← curStream
  if h.pbp then popToken st.prev true
  if h.pbn then popToken st.next false

/-- The token pushes an instruction leaves to be made after its completion (R28, R29). -/
def addPushes (h : Hdr) (seq : Nat) (t : Stream) : Stream :=
  { t with pushes := t.pushes ++ (if h.pap then [⟨seq, t.coord, h.stage, t.pc, false, false⟩] else []) ++
      (if h.pan then [⟨seq, t.coord, h.stage, t.pc, true, false⟩] else []) }
/-- Slots of a token FIFO in use: its tokens, and those popped by instructions that FRONT has not reached (R26, R28, R127). -/
def Queue.slots {α : Type} (q : Queue α) : Nat := q.items.length + q.popped.length

end Sys2Proof.Machine
end

