-- ==== Sys2Proof/Machine/Access.lean ====
section
/-!
DEFINITION. Addresses: the pool windows (R145, R146, R152, R153), the physical map (R274 to R276, R354), the page-table walk and the
permissions (R277 to R281, R419), PUBLISH images (R287, R288), poison (R290 to R292), and reading and writing through them.
-/
namespace Sys2Proof.Machine

/-- Why an access traps: cause and information word; for poison also the virtual address of the access (R293). -/
structure AFault where
  cause : BitVec 8
  info : Word
  va : Word
  deriving DecidableEq, Repr

/-- Why an access does not take place: it traps, or it needs a line of another die's DRAM that the die has not fetched (R318). -/
inductive AStop where
  | fault (f : AFault)
  | fetch (line : Nat)
  /-- a path that fails at its target: the global address and the target's reason (R281, R367) -/
  | fabric (ga : Word) (reason : BitVec 16)
  /-- a CXL window whose group drains with DPOL 0: the access stalls (R361) -/
  | drains
  deriving DecidableEq, Repr

/-- An access fault. -/
def afault (cause : BitVec 8) (a : Nat) : AStop := .fault ⟨cause, BitVec.ofNat 64 a, 0⟩
/-- Poison met by an access (R292). -/
def apoison (pa a : Nat) : AStop := .fault ⟨0x0A, BitVec.ofNat 64 pa, BitVec.ofNat 64 a⟩

/-- What an access does, by R281. -/
inductive Perm where
  | r | w | rw | x
  deriving DecidableEq, Repr

/-- What a byte address reaches: a byte of a core's pool, a byte of an accumulator tile of another core through a page (R281), or
memory: the package physical address, whether the page is PUBLISH with the pair number of the buffer's bit, the atomic place, and
whether it is CXL memory. -/
inductive Loc where
  | pool (core : CoreId) (p : Nat)
  | foreign (core : CoreId) (tile off : Nat)
  | mem (pa : Nat) (pub : Option Nat) (sys cxl : Bool)
  deriving DecidableEq, Repr

/-- Who makes an access: the core, its job's partition and grant, the launch, and whether it is the partition's supervisor. -/
structure Who where
  core : CoreId
  part : PartId
  handle : Handle
  tdep : Nat
  acg : Nat
  spg : Nat
  sup : Bool
  deriving DecidableEq, Repr

/-- The requester that a job on a core is. -/
def State.who (s : State) (c : CoreId) (j : Job) : Who :=
  ⟨c, j.part, j.handle, j.hdr.tdep, j.hdr.acg, j.hdr.spg, match s.part j.part with
    | some p => decide (p.supcore = c ∧ p.supHandle = j.handle)
    | none => false⟩

/-! ### The windows (R152, R153) -/

/-- The address lies in the range reserved for windows. -/
def inWindow (a : Nat) : Bool := decide (0x40000000 ≤ a ∧ a < 0x44000000)
/-- The pool offset of the scratchpad region (R146). -/
def Who.spBase (w : Who) : Nat := (w.tdep + w.acg) * 0x10000
/-- The pool offset of the accumulator region. -/
def Who.acBase (w : Who) : Nat := w.tdep * 0x10000
/-- The core with a number in the requester's cluster. -/
def Who.sibling (w : Who) (n : Nat) : CoreId := coreOf (w.core.val / 4 * 4 + n % 4)
/-- A core runs a job of the same team (R153, R262): the same launch. -/
def State.sameTeam (s : State) (w : Who) (c : CoreId) : Bool :=
  decide (c = w.core) || (s.job c).any (fun j => decide (j.handle = w.handle))

/-- Resolve a window address (R152, R153): the core, whether it is the accumulator, and the offset in the region. -/
def windowOf (w : Who) (a : Nat) : Option (CoreId × Bool × Nat) :=
  if a < 0x40000000 then none
  else if a < 0x40400000 then some (w.core, false, a - 0x40000000)
  else if a < 0x40600000 then some (w.core, true, a - 0x40400000)
  else if a < 0x41000000 then none
  else if a < 0x42000000 then some (w.sibling ((a - 0x41000000) / 0x400000), false, (a - 0x41000000) % 0x400000)
  else if a < 0x42800000 then some (w.sibling ((a - 0x42000000) / 0x200000), true, (a - 0x42000000) % 0x200000)
  else none

/-- A window access of n bytes: cause 0x07 outside every window, 0x08 for another core that runs no job of the team or for a fetch, and
0x0E beyond the grant. -/
def State.window (s : State) (w : Who) (x : Perm) (a n : Nat) : Except AStop Loc :=
  match windowOf w a with
  | none => .error (afault 0x07 a)
  | some (c, acc, o) =>
    if x = .x || !s.sameTeam w c then .error (afault 0x08 a)
    else if (if acc then w.acg else w.spg) * 0x10000 < o + n then .error (afault 0x0E a)
    else .ok (.pool c ((if acc then w.acBase else w.spBase) + o))

/-! ### Physical addresses (R275, R276, R354) -/

/-- What a package physical address reaches. -/
inductive Region where
  | dram (die : DieId) (q : Nat)
  | host (h : Nat)
  | edge (g : Nat) (dev : Nat)
  | spad (core : CoreId) (o : Nat)
  | acc (core : CoreId) (tile o : Nat)
  | unmapped
  deriving DecidableEq, Repr

/-- The map of R275 over the package physical address of R276. -/
def regionOf (pa : Nat) : Region :=
  let d := pa / 2 ^ 48 % 4
  let q := pa % 2 ^ 48
  if q < 0x1800000000 then .dram ⟨d % 4, Nat.mod_lt _ (by decide)⟩ q
  else if q < 0x100000000000 then .unmapped
  else if q < 0x200000000000 then (if d = 0 then .host (q - 0x100000000000) else .unmapped)
  else if q < 0x400000000000 then .edge ((q - 0x200000000000) / 2 ^ 41) ((q - 0x200000000000) % 2 ^ 41)
  else if q < 0x400000000000 + 64 * 0x400000 then
    .spad (coreOf (64 * d + (q - 0x400000000000) / 0x400000)) ((q - 0x400000000000) % 0x400000)
  else if q < 0x600000000000 then .unmapped
  else if q < 0x600000000000 + 64 * 0x200000 then
    .acc (coreOf (64 * d + (q - 0x600000000000) / 0x200000)) ((q - 0x600000000000) % 0x200000 / 0x10000) ((q - 0x600000000000) % 0x10000)
  else .unmapped

/-- A partition owns a die when it holds a cluster of it (R321). -/
def Partition.ownsDie (p : Partition) (d : Nat) : Bool := decide (p.clmask.toNat / 2 ^ (16 * d) % 2 ^ 16 ≠ 0)
/-- A partition owns a core when it owns its cluster. -/
def Partition.ownsCore (p : Partition) (c : CoreId) : Bool := p.clmask.getLsbD (c.val / 4)
/-- DRAM of a die that a partition owns. -/
def Partition.ownDram (p : Partition) (pa : Nat) : Bool := match regionOf pa with
  | .dram d _ => p.ownsDie d.val
  | _ => false

/-- The 32-byte sectors that a run of bytes touches, as keys divided by 32. -/
def sectorsOf (key n : Nat) : List Nat :=
  if n = 0 then [] else (List.range ((key + n - 1) / 32 - key / 32 + 1)).map (fun i => key / 32 + i)
/-- The first poisoned sector that a run of bytes touches, as the package physical address of its line or sector (R292): a DRAM line is
64 bytes, a pool sector 32. -/
def State.poisonAt (s : State) (key n : Nat) : Option Nat := (sectorsOf key n).find? (fun x => s.poison.contains x) |>.map (fun x =>
  if x * 32 < 2 ^ 50 then x * 32 / 64 * 64 else x * 32)
/-- The address a poisoned sector is reported by (R292, R275): a pool sector by its package physical address, a sector of the accumulator
region in the accumulator range and any other in the scratchpad range. -/
def State.poisonInfo (s : State) (key : Nat) : Nat :=
  if key < 2 ^ 50 then key
  else
    let c := (key - 2 ^ 50) / 2 ^ 22 % 256
    let p := (key - 2 ^ 50) % 2 ^ 22
    let ac := ((s.job (coreOf c)).map (fun j => j.hdr.tdep * 0x10000)).getD 0
    let sp := ((s.job (coreOf c)).map (fun j => (j.hdr.tdep + j.hdr.acg) * 0x10000)).getD 0
    if ac ≤ p ∧ p < sp then c / 64 * 2 ^ 48 + 0x600000000000 + c % 64 * 0x200000 + (p - ac)
    else c / 64 * 2 ^ 48 + 0x400000000000 + c % 64 * 0x400000 + (p - sp)

/-! ### Reading DRAM from a die (R316, R318) -/

/-- The ends of a die link (R315). -/
def linkEnds (l : Fin 8) : DieId × DieId := match l.val / 2 with
  | 0 => (0, 1)
  | 1 => (2, 3)
  | 2 => (0, 2)
  | _ => (1, 3)
/-- A group or an end of a die link is up or degraded (R360). -/
def Group16.present (g : Group16) : Bool := decide (g.state = 2 ∨ g.state = 3)
/-- Data flits flow through a group or an end of a die link: not while it retrains, nor before the descriptors of a link that exchanges them
agree (R364). -/
def Group16.up (x : Group16) : Bool := (decide (x.state = 2 ∨ x.state = 4) || decide (x.state = 3 ∧ (x.peer ≠ [] ∨ x.pers ≠ 1))) && decide (x.width ≠ 0)
/-- The eight die links. -/
def dieLinkIds : List (Fin 8) := [0, 1, 2, 3, 4, 5, 6, 7]
/-- The end of a die link at its lower-numbered die, or its other end (R315). -/
def State.linkEnd (s : State) (l : Fin 8) (high : Bool) : Group16 := s.dieLinks.get ⟨l.val + (if high then 8 else 0), by split <;> omega⟩
/-- Both ends of a die link pass a test. -/
def State.linkBoth (s : State) (f : Group16 → Bool) (l : Fin 8) : Bool := f (s.linkEnd l false) && f (s.linkEnd l true)
/-- Two dies share a die link that is up or degraded at both ends. -/
def State.adjacent (s : State) (d e : DieId) : Bool :=
  dieLinkIds.any (fun l => decide (linkEnds l = (d, e) ∨ linkEnds l = (e, d)) && s.linkBoth Group16.present l)
/-- Two dies share a die link whose data flits flow. -/
def State.flowing (s : State) (d e : DieId) : Bool :=
  dieLinkIds.any (fun l => decide (linkEnds l = (d, e) ∨ linkEnds l = (e, d)) && s.linkBoth Group16.up l)
/-- Links that `next` gives lead from a die to another, through dies that `own` allows. -/
def pathBy (next : DieId → DieId → Bool) (own : DieId → Bool) (d e : DieId) : Bool :=
  let mid : List DieId := ([0, 1, 2, 3] : List DieId).filter own
  decide (d = e) || next d e || mid.any (fun m => next d m && (next m e || mid.any (fun n => next m n && next n e)))
/-- A path over die links joins two dies, through dies that `own` allows (R367). -/
def State.joined (s : State) (own : DieId → Bool) (d e : DieId) : Bool := pathBy s.adjacent own d e
/-- Data passes from a die to another now, through dies that `own` allows: it waits while every link of the way retrains (R364). -/
def State.carries (s : State) (own : DieId → Bool) (d e : DieId) : Bool := pathBy s.flowing own d e
/-- An access to a line homed across a split (R367): the global address is reported, with LINKDOWN. -/
def State.splitFault (s : State) (pa : Nat) : AStop := .fabric (BitVec.ofNat 64 (s.module.node.toNat * 2 ^ 50 + pa)) 0x0004
/-- At most 64 bytes of one DRAM line, read from a die: at home, or from the die's fleet cache. Units of the package (d = none) read at
home. -/
def State.lineBytes (s : State) (r : Option DieId) (pa n : Nat) : Except AStop (List Byte) :=
  match r, regionOf pa with
  | some d, .dram home _ =>
    if home = d then .ok (memBytes s.mem pa n)
    else if (s.dies.get d).cut.contains home then .error (s.splitFault pa)
    else match (s.dies.get d).cache.find? (fun l => l.line = pa / 64) with
      | some l => .ok ((l.bytes.drop (pa % 64)).take n)
      | none => .error (.fetch (pa / 64))
  | _, _ => .ok (memBytes s.mem pa n)
/-- Poison in at most 64 bytes of one DRAM line as a die reads them: at home, or that of the line's copy (R292, R318). -/
def State.linePoison (s : State) (r : Option DieId) (pa n : Nat) : Option Nat :=
  match r, regionOf pa with
  | some d, .dram home _ =>
    if home = d then s.poisonAt pa n
    else match (s.dies.get d).cache.find? (fun l => l.line = pa / 64) with
      | some l => if l.bad then some (pa / 64 * 64) else none
      | none => none
  | _, _ => s.poisonAt pa n
/-- Send the fetch of a line, unless one is on its way (R318). -/
def State.sendFetch (s : State) (d : DieId) (line : Nat) : State :=
  let home : DieId := ⟨line * 64 / 2 ^ 48 % 4, Nat.mod_lt _ (by decide)⟩
  if s.fleet.any (fun m => match m with
    | .fetch src _ l _ => decide (src = d ∧ l = line)
    | .line dst _ l _ _ _ => decide (dst = d ∧ l = line)
    | _ => false) then s
  else { s with fleet := s.fleet ++ [.fetch d home line (s.dies.get d).clock] }

/-! ### The walk (R277 to R280, R419) -/

/-- The index and the table size of a level (R277). -/
def walkIndex (lvl a : Nat) : Nat := match lvl with
  | 3 => a / 2 ^ 39 % 2 ^ 17
  | 2 => a / 2 ^ 30 % 512
  | 1 => a / 2 ^ 21 % 512
  | _ => a / 2 ^ 16 % 32
/-- The size and alignment of a table of a level. -/
def tableSize : Nat → Nat
  | 3 => 2 ^ 20
  | 2 | 1 => 4096
  | _ => 256
/-- The size of the page a leaf of a level maps. -/
def pageSize : Nat → Nat
  | 2 => 2 ^ 30
  | 1 => 2 ^ 21
  | _ => 2 ^ 16

/-- Bits hi:lo of a table entry. -/
def pteBits (e : Word) (hi lo : Nat) : Nat := e.toNat / 2 ^ lo % 2 ^ (hi - lo + 1)
/-- APL of a leaf. -/
def ptApl (e : Word) : Nat := pteBits e 6 5
/-- PA of a leaf as an address. -/
def ptPa (e : Word) : Nat := pteBits e 49 16 * 2 ^ 16
/-- HCORE of a leaf. -/
def ptHcore (e : Word) : Nat := pteBits e 62 55
/-- HTILE of a leaf. -/
def ptHtile (e : Word) : Nat := pteBits e 54 50
/-- PUBLISH of a leaf. -/
def ptPub (e : Word) : Bool := e.getLsbD 8
/-- HOST of a leaf. -/
def ptHost (e : Word) : Bool := e.getLsbD 63
/-- The leaf maps an accumulator tile of its home core (R281). -/
def ptTile (e : Word) : Bool := decide (ptApl e = 1 ∨ (ptApl e = 2 ∧ ptPa e = 0))

/-- The leaf passes every test of R280 but its owner. A PGRP other than 0 needs PUBLISH (R279), and a PUBLISH pair is 128 KiB aligned. -/
def leafOk (e : Word) (lvl : Nat) : Bool :=
  let pa := ptPa e
  let apl := ptApl e
  let region := regionOf pa
  let isDram := match region with
    | .dram _ _ => true
    | _ => false
  let isHost := match region with
    | .host _ => true
    | _ => false
  let mapped := match region with
    | .dram _ _ | .host _ | .edge _ _ => true
    | _ => false
  decide (lvl ≠ 3) && (ptPub e || decide (pteBits e 15 14 = 0)) &&
  decide (pa % (if ptPub e then 2 ^ 17 else pageSize lvl) = 0) && decide (apl ≠ 3) && (decide (apl = 0) || decide (lvl = 0)) &&
  (decide (apl ≠ 1) || decide (pa = 0)) && (decide (apl ≠ 2) || decide (pa = 0) || isHost) &&
  (decide (ptHcore e = 0 ∧ ptHtile e = 0) || ptTile e) && (!ptPub e || decide (lvl = 0 ∧ apl = 0)) &&
  (!e.getLsbD 7 || (!ptPub e && decide (apl = 0))) && mapped &&
  (!ptHost e || (apl = 0 && isDram) || decide (apl = 2 ∧ pa = 0))

/-- The walk of R280 with `fuel` levels to go: the entry and its level, or the fault. -/
def State.walk (s : State) (d : Option DieId) (pn : PartId) (p : Partition) (a : Nat) : Nat → Nat → Nat → Except AStop (Word × Nat)
  | 0, _, _ => .error (afault 0x07 a)
  | fuel + 1, t, lvl =>
    if !p.ownDram t || t % tableSize lvl != 0 then .error (afault 0x07 a)
    else
      let at_ := t + 8 * walkIndex lvl a
      match s.linePoison d at_ 8 with
      | some line => .error (apoison line a)
      | none =>
        match s.lineBytes d at_ 8 with
        | .error x => .error x
        | .ok bs =>
        let e := BitVec.ofNat 64 (leNat bs)
        if !e.getLsbD 0 then .error (afault 0x07 a)
        else if !e.getLsbD 1 then
          if lvl = 0 || pteBits e 63 50 ≠ 0 || pteBits e 7 2 ≠ 0 then .error (afault 0x07 a)
          else s.walk d pn p a fuel (pteBits e 49 8 * 256) (lvl - 1)
        else if !leafOk e lvl then .error (afault 0x07 a)
        else if pteBits e 13 9 ≠ pn.val then .error (afault 0x08 a)
        else .ok (e, lvl)

/-- The size of the range that a table of a level serves: what the non-leaf entry naming it covers (R277). -/
def tableSpan : Nat → Nat
  | 3 => 2 ^ 56
  | 2 => 2 ^ 39
  | 1 => 2 ^ 30
  | _ => 2 ^ 21
/-- A non-leaf entry covers an address. -/
def WalkEntry.covers (e : WalkEntry) (a : Nat) : Bool := decide (e.va ≤ a ∧ a < e.va + tableSpan e.lvl)
/-- Where the walker of a die begins a walk: at the table that a non-leaf entry it holds names, if a free value finds one there (R282),
otherwise at the root. The table and its level. -/
def State.walkStart (s : State) (d : DieId) (pn : PartId) (p : Partition) (a : Nat) : Nat × Nat :=
  match s.walker.find? (fun e => decide (e.die = d ∧ e.part = pn) && e.covers a && Config.freeWalkHit s.tick a e.lvl e.next) with
  | some e => (e.next, e.lvl)
  | none => (p.root, 3)
/-- The walk that the walker of a die makes (R280, R282). -/
def State.walkFor (s : State) (d : DieId) (pn : PartId) (p : Partition) (a : Nat) : Except AStop (Word × Nat) :=
  s.walk (some d) pn p a ((s.walkStart d pn p a).2 + 1) (s.walkStart d pn p a).1 (s.walkStart d pn p a).2
/-- The table of level `stop` that a walk of an address reaches by valid non-leaf entries (R280). -/
def State.walkTo (s : State) (d : DieId) (p : Partition) (a stop : Nat) : Nat → Nat → Nat → Option Nat
  | 0, _, _ => none
  | fuel + 1, t, lvl =>
    if !p.ownDram t || t % tableSize lvl != 0 then none
    else if lvl = stop then some t
    else
      let at_ := t + 8 * walkIndex lvl a
      match s.linePoison (some d) at_ 8, s.lineBytes (some d) at_ 8 with
      | none, .ok bs =>
        let e := BitVec.ofNat 64 (leNat bs)
        if e.getLsbD 0 && !e.getLsbD 1 && decide (lvl ≠ 0 ∧ pteBits e 63 50 = 0 ∧ pteBits e 7 2 = 0) then
          s.walkTo d p a stop fuel (pteBits e 49 8 * 256) (lvl - 1)
        else none
      | _, _ => none

/-- A translation that a TLB in reach of the core still holds and that a free value finds there (R282, R283); otherwise the walk. -/
def State.translate (s : State) (c : CoreId) (pn : PartId) (p : Partition) (a : Nat) : Except AStop (Word × Nat) :=
  match s.tlb.find? (fun t => decide (t.part = pn ∧ t.va ≤ a ∧ a < t.va + t.size) &&
      (if t.l2 then decide (clusterOf t.core = clusterOf c) else decide (t.core = c))) with
  | some t =>
    if Config.freeTlbHit s.tick a then .ok (t.pte, if t.size = 2 ^ 30 then 2 else if t.size = 2 ^ 21 then 1 else 0)
    else s.walkFor (dieOf c) pn p a
  | none => s.walkFor (dieOf c) pn p a

/-- The permission a leaf grants (R281). -/
def grants (e : Word) : Perm → Bool
  | .r => e.getLsbD 2
  | .w => e.getLsbD 3
  | .rw => e.getLsbD 2 && e.getLsbD 3
  | .x => e.getLsbD 4

/-- The number of a buffer's bit in the flip tables: its first pair, counted over the four dies (R287, R288). -/
def flipOf (e : Word) : Nat :=
  let pair := ptPa e / 2 ^ 17
  let n := 8 ^ pteBits e 15 14
  pair / n * n

/-- An edge-group target that the partition's EMAP gives it (R354). -/
def Partition.edgeOk (p : Partition) (pa g dev : Nat) : Bool :=
  decide (pa / 2 ^ 48 % 4 = g / 4) && p.emap.toList.any (fun e =>
    e.getLsbD 63 && decide (pteBits e 61 60 = 0 ∧ pteBits e 15 0 = 2 ^ g ∧ dev < pteBits e 43 32 * 2 ^ 30))

/-- A 56-bit address that is in no window, through its leaf. -/
def pageLoc (w : Who) (p : Partition) (x : Perm) (a : Nat) (e : Word) (lvl : Nat) : Except AStop Loc :=
  if !grants e x then .error (afault 0x08 a)
  else if ptTile e then
    let c := coreOf (ptHcore e)
    let o := a % 2 ^ 16
    if c = w.core then
      if w.acg ≤ ptHtile e then .error (afault 0x0E a)
      else .ok (.pool c (w.acBase + ptHtile e * 0x10000 + o))
    else .ok (.foreign c (ptHtile e) o)
  else
    let pa := ptPa e + a % pageSize lvl
    match regionOf pa with
    | .edge g dev => if p.edgeOk pa g dev then .ok (.mem pa none false true) else .error (afault 0x07 a)
    | .dram _ _ => .ok (.mem pa (if ptPub e then some (flipOf e) else none) false false)
    | .host _ => .ok (.mem pa none (decide (ptApl e = 2)) false)
    | _ => .error (afault 0x07 a)

/-- The package physical address of a location in memory. -/
def Loc.pa : Loc → Nat
  | .mem pa _ _ _ => pa
  | _ => 0
/-- A location in DRAM that is homed across a split from a core's die: no path over dies of the partition joins them (R367). -/
def State.acrossSplit (s : State) (p : Partition) (c : CoreId) : Loc → Bool
  | .mem pa _ _ _ => match regionOf pa with
    | .dram home _ => (s.dies.get (dieOf c)).cut.contains home || !s.joined (fun d => p.ownsDie d.val) (dieOf c) home
    | _ => false
  | _ => false
/-- A run of bytes meets the keep window while a restore is in progress (R372). -/
def Partition.restoring (p : Partition) (a n : Nat) : Bool := p.ckBusy.any (fun x => decide (x.1 = 2)) &&
  decide (p.ckBlock.getD 1 0 < a + n ∧ a < p.ckBlock.getD 1 0 + p.ckBlock.getD 2 0)
/-- Where the 512 bytes of a partition's Mitten command page lie: DRAM of the partition that its tables map at MCMDVA with W (R331). -/
def State.commandPage (s : State) (pn : PartId) : Option Nat := match s.part pn with
  | some p =>
    if p.mcmdva = 0 then none
    else match s.walk none pn p p.mcmdva.toNat 4 p.root 3 with
      | .ok (e, lvl) =>
        let pa := ptPa e + p.mcmdva.toNat % pageSize lvl
        if ptTile e || !grants e .w || !p.ownDram pa then none else some pa
      | .error _ => none
  | none => none
/-- A write of n bytes at an address meets a partition's Mitten command page (R331). -/
def State.meetsCommands (s : State) (pn : PartId) (pa n : Nat) : Bool :=
  (s.commandPage pn).any (fun k => decide (pa < k + 512 ∧ k < pa + n))
/-- The offset in its partition's Mitten command page that a write to DRAM falls at (R331). -/
def State.mittenOffset (s : State) (pn : PartId) (pa : Nat) : Option Nat := match s.commandPage pn with
  | some k => if k ≤ pa ∧ pa < k + 512 then some (pa - k) else none
  | none => none
/-- Only the supervisor's stores are accepted in the Mitten command page, whatever page maps it (R331). -/
def State.refuses (s : State) (w : Who) (x : Perm) (n : Nat) : Loc → Bool
  | .mem pa _ _ _ => !w.sup && (x = .w || x = .rw) && s.meetsCommands w.part pa n
  | _ => false
/-- The group drains, or has dropped its link and not changed yet, so that new requests through it stall or fail by DPOL (R361). -/
def Group16.drains (g : Group16) : Bool := g.changing && decide (g.state = 4 ∨ g.state = 5)
/-- What stops an access to a place that its page allows: the command page (R331), a split (R367), or a CXL window whose group drains
(R359, R361). -/
def State.barred (s : State) (w : Who) (p : Partition) (x : Perm) (a : Word) (n : Nat) (l : Loc) : Option AStop :=
  if s.refuses w x n l then some (.fault ⟨0x08, a, 0⟩)
  else if s.acrossSplit p w.core l then some (s.splitFault l.pa)
  else match regionOf l.pa with
    | .edge g _ =>
      let y := s.groups.get ⟨g % 16, Nat.mod_lt _ (by decide)⟩
      if !y.drains then none
      else if y.dpol then some (.fabric (BitVec.ofNat 64 (s.module.node.toNat * 2 ^ 50 + l.pa)) 0x0002)
      else some .drains
    | _ => none
/-- What a veil waits for has still to happen: effects of the job from before the FENCE are held back, or, at fleet scope and wider, its fleet
writes have still to be applied (R87, R320). -/
def State.veilOn (s : State) (c : CoreId) (j : Job) (v : Veil) : Bool :=
  j.held.any (fun h => decide (h.id < v.fence)) || (decide (5 ≤ v.scope) &&
    s.fleet.any (fun m => m.writer.any (fun x => decide (x.core = c ∧ x.handle = j.handle ∧ x.org.seq < v.fence))))
/-- Bytes of core k's pool may not be seen yet by a job on another core: cores of k's cluster write there, and a FENCE of team scope is for
the jobs of the launch (R87). -/
def State.veiled (s : State) (x : CoreId) (hd : Handle) (k : CoreId) (p n : Nat) : Bool := [0, 1, 2, 3].any (fun i =>
  let y := coreOf (k.val / 4 * 4 + i)
  y ≠ x && (s.job y).any (fun j => j.veils.any (fun v =>
    decide (v.core = k) && (sectorsOf p n).contains v.sector && (decide (4 ≤ v.scope) || decide (j.handle = hd)) && s.veilOn y j v)))
/-- What an access of n bytes that do not cross a page reaches (R98, R152, R153, R280, R281). -/
def State.reach (s : State) (w : Who) (x : Perm) (a : Word) (n : Nat) : Except AStop Loc :=
  if a.toNat / 2 ^ 56 ≠ 0 then .error (.fault ⟨0x07, a, 0⟩)
  else if inWindow a.toNat then s.window w x a.toNat n
  else match s.part w.part with
    | none => .error (.fault ⟨0x07, a, 0⟩)
    | some p => match s.translate w.core w.part p a.toNat with
      | .error f => .error f
      | .ok (e, lvl) =>
        -- the keep window is closed until a restore has verified (R372)
        if p.restoring a.toNat n then .error (.fault ⟨0x08, a, 0⟩) else pageLoc w p x a.toNat e lvl
/-- Resolve an access of n bytes that do not cross a page: what it reaches, unless something stops it there. -/
def State.resolve (s : State) (w : Who) (x : Perm) (a : Word) (n : Nat) : Except AStop Loc :=
  match s.reach w x a n with
  | .error f => .error f
  | .ok l => match (s.part w.part).bind (fun p => s.barred w p x a n l) with
    | some f => .error f
    | none => .ok l

/-- The leaf of an address in a partition's tables at their homes. -/
def State.homeLeaf (s : State) (pn : PartId) (a : Nat) : Except AStop (Word × Nat) := match s.part pn with
  | none => .error (afault 0x07 a)
  | some p => s.walk none pn p a 4 p.root 3
/-- What an access will reach, found before it is made (R157, R295): where a line of the tables has still to be fetched, what the tables
hold at their homes. DEDUCED (log 69). -/
def State.resolveAhead (s : State) (w : Who) (x : Perm) (a : Word) (n : Nat) : Except AStop Loc := match s.resolve w x a n with
  | .error (.fetch _) => match s.part w.part, s.homeLeaf w.part a.toNat with
    | some p, .ok (e, lvl) => pageLoc w p x a.toNat e lvl
    | _, .error f => .error f
    | none, _ => .error (.fault ⟨0x07, a, 0⟩)
  | r => r

/-- The leaf of an address outside the windows, for PUB and for the atomic place (R112, R240). -/
def State.leafAt (s : State) (w : Who) (a : Word) : Except AStop Word :=
  if a.toNat / 2 ^ 56 ≠ 0 then .error (.fault ⟨0x07, a, 0⟩)
  else if inWindow a.toNat then .error (.fault ⟨0x08, a, 0⟩)
  else match s.part w.part with
    | none => .error (.fault ⟨0x07, a, 0⟩)
    | some p => match s.translate w.core w.part p a.toNat with
      | .error f => .error f
      | .ok (e, _) => .ok e

/-! ### Images and bytes (R111, R288) -/

/-- The flip bit of a buffer (R288). -/
def State.flip (s : State) (n : Nat) : Bool := (s.dies.get ⟨n / 2 ^ 31 % 4, Nat.mod_lt _ (by decide)⟩).flips.contains n
/-- Exchange a buffer's images (R112, R288). -/
def State.flipImages (s : State) (n : Nat) : State :=
  let i : Fin 4 := ⟨n / 2 ^ 31 % 4, Nat.mod_lt _ (by decide)⟩
  let d := s.dies.get i
  { s with dies := s.dies.set i { d with flips := if d.flips.contains n then d.flips.filter (· ≠ n) else n :: d.flips } }
/-- Where a read of a location reads: the visible image of a PUBLISH page. -/
def State.readPa (s : State) : Loc → Nat
  | .pool c p => poolKey c p
  | .foreign _ _ _ => 0
  | .mem pa pub _ _ => match pub with
    | some n => pa + (if s.flip n then 0x10000 else 0)
    | none => pa
/-- Where a write of a location writes: the shadow image of a PUBLISH page. -/
def State.writePa (s : State) : Loc → Nat
  | .pool c p => poolKey c p
  | .foreign _ _ _ => 0
  | .mem pa pub _ _ => match pub with
    | some n => pa + (if s.flip n then 0 else 0x10000)
    | none => pa

/-- The key of a byte of an accumulator tile of a core for a partition's access: none where the core runs no job of the partition (reason
NOPART), and false where the tile lies beyond that job's grant (reason GRANT) (R276, R281). -/
def State.tileKey (s : State) (p : PartId) (c : CoreId) (tile off : Nat) : Option Nat × BitVec 16 :=
  match s.job c with
  | some j =>
    if j.part ≠ p then (none, 0x0005)
    else if j.hdr.acg ≤ tile then (none, 0x0008)
    else (some (poolKey c ((j.hdr.tdep + tile) * 0x10000 + off)), 0)
  | none => (none, 0x0005)

/-- The global address of a byte of a core's accumulator tile in this package (R276). -/
def State.accGa (s : State) (c : CoreId) (tile off : Nat) : Word :=
  BitVec.ofNat 64 (s.module.node.toNat * 2 ^ 50 + c.val / 64 * 2 ^ 48 + 0x600000000000 + c.val % 64 * 0x200000 + tile * 0x10000 + off)
/-- n bytes at a location as a core of a die reads them for a partition (R111, R281, R318, R383): PUBLISH pages are read at home, and a page
of another core's tile at that core, where the path may fail. -/
def State.locBytes (s : State) (d : DieId) (pn : PartId) (l : Loc) (n : Nat) : Except AStop (List Byte) := match l with
  | .pool c p => .ok (memBytes s.mem (poolKey c p) n)
  | .foreign c t o => match s.tileKey pn c t o with
    | (some k, _) => .ok (memBytes s.mem k n)
    | (none, r) => .error (.fabric (s.accGa c t o) r)
  | .mem pa pub _ _ => if pub.isSome then .ok (memBytes s.mem (s.readPa l) n) else s.lineBytes (some d) pa n
/-- Poison that a core of a die meets in n bytes at a location of memory (R292): of a PUBLISH page at home. -/
def State.locPoison (s : State) (d : DieId) (l : Loc) (n : Nat) : Option Nat := match l with
  | .mem pa none _ _ => s.linePoison (some d) pa n
  | _ => s.poisonAt (s.readPa l) n

/-- Cut a run of n bytes from an address on into pieces that stay in one 32-byte sector, lowest first. -/
def piecesFrom (a : Nat) : Nat → Nat → List (Nat × Nat)
  | 0, _ => []
  | fuel + 1, n =>
    if n = 0 then []
    else
      let k := min n (32 - a % 32)
      (a, k) :: piecesFrom (a + k) fuel (n - k)
/-- The sector pieces of a run of bytes (R101). -/
def pieces (a n : Nat) : List (Nat × Nat) := piecesFrom a (n / 32 + 2) n

/-- A held store writes some of the 64 bytes of a line: its command and how it writes them. -/
def Held.onLine (h : Held) (line : Nat) : Option (Nat × Nat × Bool) := match h.kind with
  | .store q bs bad => if q / 64 = line then some (q, bs.length, bad) else none
  | _ => none
/-- The held stores of one command write all 64 bytes of a line, none of them poisoned (R290). -/
def wholeLine (held : List Held) (id line : Nat) : Bool :=
  let l := (held.filter (fun h => h.id = id)).filterMap (fun h => h.onLine line)
  l.all (fun x => !x.2.2) && (List.range 64).all (fun i => l.any (fun x => decide (x.1 ≤ line * 64 + i ∧ line * 64 + i < x.1 + x.2.1)))

/-- Poisoned sectors that one whole-line or whole-sector write clears (R290, R291): a pool sector, or both sectors of a DRAM line that the
write covers. -/
def clearPoison (poison : List Nat) (key n : Nat) : List Nat := poison.filter (fun x =>
  !(if x * 32 < 2 ^ 50 then decide (key ≤ x / 2 * 64 ∧ x / 2 * 64 + 64 ≤ key + n) else decide (key ≤ x * 32 ∧ x * 32 + 32 ≤ key + n)))
/-- Write bytes at a key: the bytes, and the poison that the write clears. -/
def State.pokeClear (s : State) (key : Nat) (bs : List Byte) : State :=
  { s with mem := memWrite s.mem key bs, poison := if s.poison.isEmpty then [] else clearPoison s.poison key bs.length }
/-- The poison of a DRAM line goes: one command or access has written all 64 bytes of it (R290). -/
def State.cleanLine (s : State) (line : Nat) : State := { s with poison := s.poison.filter (fun x => x / 2 ≠ line) }
/-- A write at home by a unit that is no fleet writer (the host, Mitten, a ring, a PUBLISH page): no die keeps an old copy of the lines it
touches (R318, R383). -/
def State.pokeHome (s : State) (key : Nat) (bs : List Byte) : State :=
  let s := s.pokeClear key bs
  let hit (l : Nat) : Bool := decide (key < l * 64 + 64 ∧ l * 64 < key + bs.length)
  if key < 2 ^ 50 && s.dies.toList.any (fun d => !d.cache.isEmpty) || !s.fleet.isEmpty then
    { s with
      dies := s.dies.map (fun d => { d with cache := d.cache.filter (fun l => !hit l.line) })
      fleet := s.fleet.filter (fun m => match m with
        | .line _ _ l _ _ _ => !hit l
        | _ => true) }
  else s
/-- Mark the sectors or lines of a run of bytes poisoned (R292): a DRAM line lists both of its sectors. -/
def State.poisonRun (s : State) (key n : Nat) : State :=
  let xs := sectorsOf key n
  let xs := if key < 2 ^ 50 then xs.flatMap (fun x => [x / 2 * 2, x / 2 * 2 + 1]) else xs
  { s with poison := xs.foldl (fun l x => if l.contains x then l else x :: l) s.poison }

/-- The sector accesses a run of n bytes makes, each resolved, lowest address first; the first fault found is the access's. Addresses wrap
at 2^64. -/
def State.resolveRun (s : State) (w : Who) (x : Perm) (a : Word) (n : Nat) : Except AStop (List (Loc × Nat)) :=
  (pieces a.toNat n).foldlM (fun l p => (s.resolve w x (BitVec.ofNat 64 p.1) p.2).map (fun q => l ++ [(q, p.2)])) []

/-- The DRAM address that a partition's tables give a unit of the package (R280, R281, R418): rings, context areas, control blocks. Only DRAM
of an owned die is reached. -/
def State.partLoc (s : State) (pn : PartId) (x : Perm) (a : Nat) : Except AFault Nat :=
  match s.part pn with
  | none => .error ⟨0x07, BitVec.ofNat 64 a, 0⟩
  | some p =>
    if 2 ^ 56 ≤ a ∨ inWindow a then .error ⟨0x07, BitVec.ofNat 64 a, 0⟩
    else match s.walk none pn p a 4 p.root 3 with
      | .error (.fault f) => .error f
      | .error (.fetch _) | .error (.fabric _ _) | .error .drains => .error ⟨0x07, BitVec.ofNat 64 a, 0⟩
      | .ok (e, lvl) =>
        if !grants e x then .error ⟨0x08, BitVec.ofNat 64 a, 0⟩
        else if ptTile e || !p.ownDram (ptPa e + a % pageSize lvl) then .error ⟨0x07, BitVec.ofNat 64 a, 0⟩
        else
          let l : Loc := .mem (ptPa e + a % pageSize lvl) (if ptPub e then some (flipOf e) else none) false false
          .ok (if x = .w then s.writePa l else s.readPa l)
/-- As `partLoc`, where the line that is reached is not poisoned (R292). -/
def State.partPa (s : State) (pn : PartId) (x : Perm) (a : Nat) : Except AFault Nat := match s.partLoc pn x a with
  | .error e => .error e
  | .ok k => match s.poisonAt k 8 with
    | some line => .error ⟨0x0A, BitVec.ofNat 64 line, BitVec.ofNat 64 a⟩
    | none => .ok k
/-- A word that a unit reads for a partition. -/
def State.partWord (s : State) (pn : PartId) (a : Nat) : Except AFault Word :=
  (s.partPa pn .r a).map (fun k => BitVec.ofNat 64 (leNat (memBytes s.mem k 8)))
/-- Bytes of one page that a unit writes for a partition. -/
def State.partWrite (s : State) (pn : PartId) (a : Nat) (bs : List Byte) : Except AFault State :=
  (s.partPa pn .w a).map (fun k => s.pokeHome k bs)

/-- The four words of TRAPREC read back: reserved bits read as zero (R9, R31, R256). -/
def recordBack (w : Nat → Word) : Vector Word 4 := #v[w 0 &&& 0x80FFFFF00000FFFF, w 1 &&& 0xBFFFFFFFFFFFFFFF, w 2, w 3]
/-- Words as bytes, little-endian (R6). -/
def wordBytes (ws : List Word) : List Byte := ws.flatMap (fun w => leBytes 8 w.toNat)

/-- An entry for a ring in a partition's memory with the control block of R293: the entry, then the count in word 0, and word 1 where an
entry is overwritten before it was read. None where the block or the slot cannot be written. -/
def State.ringPut (s : State) (pn : PartId) (base size : Nat) (ws : List Word) : Option State :=
  match s.partPa pn .w base, s.partPa pn .r base with
  | .ok cw, .ok cr =>
    let n := leNat (memBytes s.mem cr 8)
    let lost := leNat (memBytes s.mem (cr + 8) 8)
    let read := leNat (memBytes s.mem (cr + 16) 8)
    match s.partWrite pn (base + 64 + 32 * (n % size)) (wordBytes ws) with
    | .ok s =>
      let s := s.pokeHome cw (leBytes 8 (n + 1))
      some (if size < n + 1 - read then s.pokeHome (cw + 8) (leBytes 8 (lost + 1)) else s)
    | .error _ => none
  | _, _ => none

/-- An MSI-X vector of a virtual function, or of function 0, is raised at the host (R324, R339). -/
def State.msix (s : State) (fn : Option PartId) (v : BitVec 1) : State := { s with module := { s.module with msix := s.module.msix ++ [(fn, v)] } }
/-- A report to Brim's telemetry (R293, R306). -/
def State.report (s : State) (r : Report) : State := { s with module := { s.module with telemetry := s.module.telemetry ++ [r] } }
/-- An error event of an access, in the ring of its partition (R293, R306): where the ring cannot be written, Brim's telemetry
has it. -/
def State.errorEvent (s : State) (pn : PartId) (kind pa : Nat) (va : Word) (stamp : Option Coord) (hd : Handle) (c : CoreId) : State :=
  match s.part pn with
  | some p =>
    let lost := s.report (.errorEvent pn kind)
    if p.errva = 0 then lost
    else (s.ringPut pn p.errva.toNat 256 [BitVec.ofNat 64 (kind * 2 ^ 56 + pa % 2 ^ 50), va, optCoordWord stamp,
      BitVec.ofNat 64 (hd.toNat * 2 ^ 32 + c.val * 2 ^ 24)]).getD lost
  | none => s

end Sys2Proof.Machine
end

