-- ==== Sys2Proof/Machine/Run.lean ====
section
/-!
DEFINITION. How one instruction executes around its own meaning: the checks of R63 in their order, the stage predicate of R74, the token
pops and pushes of R28, the program counter, and what a trap or a stall leaves.
-/
namespace Sys2Proof.Machine

/-- The streams of an opcode pair (R61): a set of streams as C, A, V, S. -/
def opStreams (major minor : Nat) : List StreamId :=
  match major with
  | 0x01 | 0x02 | 0x03 | 0x08 | 0x0C | 0x0D | 0x0E | 0x16 => [.c, .a, .v, .s]
  | 0x09 => if minor = 0 then [.c, .a, .v, .s] else [.c]
  | 0x10 => if minor ≤ 2 then [.c, .a, .v, .s] else [.c]
  | 0x11 => if minor ≤ 2 then [.c, .a, .v, .s] else [.c]
  | 0x12 => if minor = 1 then [.c, .a, .v, .s] else [.c]
  | 0x13 | 0x15 | 0x3C | 0x3D => [.c]
  | 0x14 => if minor = 2 then [.s] else [.c]
  | 0x18 | 0x19 | 0x1A | 0x1B | 0x1C => [.a]
  | 0x20 | 0x21 | 0x22 => [.s]
  | 0x28 => [.c, .a, .s]
  | 0x30 | 0x31 | 0x32 | 0x33 | 0x34 | 0x35 | 0x38 => [.v]
  | _ => []

/-- The register number of an SWR (R80). -/
def swrFn (e : Enc) : Option Nat :=
  if e.major = 0x10 ∧ e.minor = 1 then (match e.f with
    | .rr f => some f.fn.toNat
    | _ => none) else none

/-- The streams in which an instruction may execute (R61, and check 6 of R63 for SWR to MSEED, MCONST and MSTAT). -/
def encStreams (e : Enc) : List StreamId := match swrFn e with
  | some n => if 3 ≤ n ∧ n ≤ 5 then [.c] else opStreams e.major.toNat e.minor.toNat
  | none => opStreams e.major.toNat e.minor.toNat

/-- The system registers that only the supervisor writes (R81). -/
def supReg (n : Nat) : Bool := [13, 17, 18, 19, 20, 21, 22, 23, 25, 26].contains n

/-- The instruction is reserved to the supervisor whatever its operands hold (R96, R255). EGSTAT is read only. -/
def supOnly (e : Enc) : Bool := match e.major.toNat, e.minor.toNat with
  | 0x10, 1 => (match swrFn e with
    | some n => supReg n && n != 20
    | none => false)
  | 0x10, 3 => true
  | 0x10, 4 => true
  | 0x12, 2 => true
  | 0x11, 3 => true
  | _, _ => false

/-- The innermost running loop and its level (R72). -/
def Stream.innermost (t : Stream) : Option (Fin 5 × Loop) :=
  [(0 : Fin 5), 1, 2, 3, 4].findSome? (fun l => (t.loops.get l).map (fun lp => (l, lp)))

/-- The stage check of R46, part of check 5 of R63. -/
def Stream.stageOk (t : Stream) (stage : Nat) : Bool := decide (stage = 0) || (match t.innermost with
  | some (_, lp) => decide (stage < lp.s)
  | none => false)

/-- Stage s of a loop is active in kernel iteration k (R74, R137). -/
def Loop.active (lp : Loop) (k s : Nat) : Bool := decide (lp.f + s ≤ k ∧ k - s < lp.t)

/-- The instruction's stage is inactive in the innermost running loop, so it is skipped (R74). DESIGN CHOICE (log 74): an instruction outside
the body's addresses that a branch or a call reaches while the loop runs counts as in the loop's body. -/
def Stream.skips (t : Stream) (stage : Nat) : Bool := match t.innermost with
  | some (l, lp) => !lp.active (Coord.ix t.coord l) stage
  | none => false

/-- At the end address of the innermost running loop the kernel iteration ends: the stream waits to advance at the loop's level (R73). -/
def Stream.settle (t : Stream) : Stream :=
  if t.adv.isSome then t
  else match t.innermost with
    | some (l, lp) => if t.pc = lp.endo then
        { t with adv := some ⟨(advanceAt t.coord l).1, some l, (advanceAt t.coord l).2⟩ } else t
    | none => t

/-- The stream may issue: it is issuing, waits at no advance, waits for no token push, and lies inside the cut of any landing (R28, R37,
R125). -/
def Job.mayIssue (j : Job) (st : StreamId) : Bool :=
  let t := j.stream st
  decide (t.phase = .issuing) && t.adv.isNone && !t.pushes.any (fun p => p.blocked) &&
    (match j.landing with
      | some l => l.inside t.coord
      | none => true)

/-- Something of the job has moved, so that a stream that stalled may find what it waits for (R125). -/
def Job.stir (j : Job) : Job := j.onStreams (fun t => { t with tried := false })

/-- The job when a stream leaves an instruction: the next number in program order, the program counter, no stall, and the end of a kernel
iteration. -/
def Job.retire (j : Job) (st : StreamId) (pc : Word) (h : Hdr) (skipped : Bool) : Job :=
  let t := j.stream st
  let t := if skipped then t else addPushes h j.seq t
  let t := { t with pc := pc, cause := 0, last := ⟨st, ⟨t.coord, h.stage⟩, j.seq, t.pc⟩ }
  let k := Job.stir { j.setStream st t.settle with seq := j.seq + 1 }
  if skipped then k else k.count ⟨st.num % 16, Nat.mod_lt _ (by decide)⟩ 1
/-- Leave the instruction. -/
def retire (pc : Word) (h : Hdr) (skipped : Bool) : M Unit := do
  let st ← curStream
  modifyJob (fun j => j.retire st pc h skipped)

/-- One instruction: checks 5 to 7 of R63, the stage predicate, the token pops, the body, and the retirement. The body answers the next
program counter where it is not the next instruction's address. -/
def attempt (i : Instr) (e : Enc) (body : M (Option Word)) : M Unit := do
  let j ← getJob
  let st ← curStream
  let t := j.stream st
  if !j.mayIssue st then stall (if t.pushes.any (fun p => p.blocked) then 5 else if t.adv.isSome then 6 else t.cause)
  let w := i.firstWord
  trapIf (!i.wf || !t.stageOk e.h.stage.toNat) 0x01 w
  trapIf (!(encStreams e).contains st) 0x02 w
  trapIf (supOnly e && !(← get).isSup) 0x13 w
  let next := t.pc + BitVec.ofNat 64 i.bytes
  if t.skips e.h.stage.toNat then retire next e.h true
  else
    if t.prog.isNone then popTokens e.h
    let r ← body
    retire (r.getD next) e.h false

/-- The job's slot enters a state (R304). -/
def State.setJState (s : State) (c : CoreId) (x : JState) : State :=
  let k := s.core c
  match k.on with
  | some i => s.setCore c { k with slots := k.slots.set i ((k.slots.get i).map (fun q => { q with state := x })) }
  | none => s

/-- A job with a landing is LANDING (R304). -/
def State.markLanding (s : State) (c : CoreId) : State := match s.job c with
  | some j => if j.landing.isSome then s.setJState c .landing else s
  | none => s

/-- A trap of a stream's instruction or of a command, taken by the job on a core (R133). -/
def State.raise (s : State) (c : CoreId) (t : TrapRec) : State :=
  let s := match s.job c with
    | some j => if t.cause = 0x0A then s.errorEvent j.part 3 t.info.toNat t.va (some t.org.stamp.coord) j.handle c else s
    | none => s
  (s.onJob c (fun j => j.takeTrap t)).markLanding c

/-- The trap record of a trap raised by an operation with an origin (R256). -/
def trapRec (cause : BitVec 8) (info : Word) (reason : BitVec 16) (unit : BitVec 3) (o : Origin) : TrapRec :=
  ⟨cause, o, unit, reason, info, 0⟩

/-- Where the executing instruction stands (R33). -/
def State.origin (s : State) (h : Hdr) : Origin := match s.job s.cur.1 with
  | some j =>
    let t := j.stream s.cur.2
    ⟨s.cur.2, ⟨t.coord, h.stage⟩, j.seq, t.pc⟩
  | none => ⟨s.cur.2, ⟨0, h.stage⟩, 0, 0⟩

/-- A stream shows a stall's cause (R41); a new stall of A for work of A's own or a token is a loss of decoupling (R120). -/
def Job.stalled (j : Job) (st : StreamId) (c : BitVec 4) (stage : BitVec 2) : Job :=
  let k := j.onStream st (fun t => { t with cause := c, tried := true, waitStage := stage })
  if st = .a && (c = 1 || c = 2 || c = 4) && decide ((j.stream st).cause ≠ c) then k.count 10 1 else k

/-- Execute an instruction: completion and traps are next states; a stall leaves the state as it was, with the stall's cause shown
(R41). -/
def runInstr (i : Instr) (body : M (Option Word)) (s : State) : Host.Outcome State Fault Refusal :=
  match i.enc with
  | none => .next s
  | some e =>
    match (attempt i e body).run s with
    | .ok _ s' => .next s'
    | .error (.stall c) _ => .next (s.onJob s.cur.1 (fun j => j.stalled s.cur.2 c e.h.stage))
    | .error (.wait c w waiter arr) _ =>
      .next ((s.enlist w waiter arr).onJob s.cur.1 (fun j => j.stalled s.cur.2 c e.h.stage))
    | .error (.pause c) s' => .next (s'.onJob s.cur.1 (fun j => j.stalled s.cur.2 c e.h.stage))
    | .error (.poison pa va) s' =>
      .next (s'.raise s.cur.1 { trapRec 0x0A (BitVec.ofNat 64 pa) 0 0 (s.origin e.h) with va := va })
    | .error (.fetch line) _ => .next (s.sendFetch (dieOf s.cur.1) line)
    | .error (.diverge k) s' => .next ((s'.onJob s.cur.1 (fun j => j.diverge (s.origin e.h) k)).markLanding s.cur.1)
    | .error (.trap c info reason) s' => .next (s'.raise s.cur.1 (trapRec c info reason 0 (s.origin e.h)))

/-- An instruction that falls through to the next one. -/
def straight (body : M Unit) : M (Option Word) := do
  body
  return none

end Sys2Proof.Machine
end

