-- ==== Sys2Proof/Machine/Trace.lean ====
section
/-!
DEFINITION. Trace records, the core's trace buffer and the partition's ring (R388 to R394), recorded arrivals and replay (R400 to R402).
-/
namespace Sys2Proof.Machine

/-- LOOPID of the innermost loop running in a stream, 0 when none is (R270, R388). -/
def Job.loopId (j : Job) (t : Stream) : Nat := match t.innermost with
  | some (_, lp) => (lp.at_ - j.image).toNat / 8 % 2 ^ 32
  | none => 0

/-- The four words of a record (R388). -/
def traceWords (kind st tag : Nat) (c : CoreId) (stage : Nat) (mark : Bool) (loopid : Nat) (stamp : Option Coord) (hd : Handle)
    (time value : Word) : List Word :=
  [BitVec.ofNat 64 (kind * 2 ^ 60 + st * 2 ^ 57 + tag % 32 * 2 ^ 52 + c.val * 2 ^ 44 + stage % 4 * 2 ^ 42 + bitNat mark * 2 ^ 41 + loopid),
    optCoordWord stamp, BitVec.ofNat 64 (hd.toNat * 2 ^ 32 + time.toNat % 2 ^ 32), value]

/-- The kinds that TCTL and SMASK enable (R393). -/
def Partition.traces (p : Partition) (kind st : Nat) : Bool := match kind with
  | 1 => p.tctl.getLsbD 2 && p.tctl.getLsbD (8 + st)
  | 2 | 15 => p.tctl.getLsbD 3
  | 3 => p.tctl.getLsbD 4 && p.tctl.getLsbD (8 + st)
  | 4 => p.tctl.getLsbD 5 && p.tctl.getLsbD (8 + st)
  | 6 => p.tctl.getLsbD 6
  | _ => false

/-! ### The ring (R391 to R394) -/

/-- Whether record a, made before record b, leaves the buffer before it: VALID 0 first, then by stamp, stream and program order (R391). -/
def traceBefore (a b : TraceRec) : Bool := match a.coord, b.coord with
  | none, _ => true
  | some _, none => false
  | some x, some y => decide (x < y ∨ (x = y ∧ (a.st < b.st ∨ (a.st = b.st ∧ a.seq ≤ b.seq))))
/-- Insert a record in the order in which records leave. -/
def traceInsert (r : TraceRec) : List TraceRec → List TraceRec
  | [] => [r]
  | x :: l => if traceBefore r x then r :: x :: l else x :: traceInsert r l
/-- The records of a buffer in the order in which they leave; records with one key keep their order. -/
def traceSort (l : List TraceRec) : List TraceRec := l.foldr traceInsert []

/-- A record leaves the buffer (R391 to R394): it is discarded with EN = 0 or no ring, and held back by a full ring without WRAP (none). -/
def State.traceOut (s : State) (pn : PartId) (ws : List Word) : Option State := match s.part pn with
  | none => some s
  | some p =>
    if !p.tctl.getLsbD 63 || p.trsize = 0 then some s
    else
      let base := p.trbase.toNat
      let size := p.trsize.toNat
      match s.partWord pn base, s.partWord pn (base + 16) with
      | .ok n, .ok read =>
        if !p.tctl.getLsbD 62 && decide (size ≤ (n - read).toNat) then none
        else match s.ringPut pn base size ws with
          | some t => match t.partWrite pn (base + 24) (wordBytes [p.trLost]) with
            | .ok u => some u
            | .error _ => some t
          | none => some s
      | _, _ => some s

/-- Send records straight to the ring, all or none of them. -/
def State.sendGroup (s : State) (pn : PartId) (l : List (List Word)) : Option State := l.foldlM (fun (s : State) ws => s.traceOut pn ws) s
/-- The records of jobs that have left their cores go to the ring as far as it takes them (R394). -/
def State.sendHeld (s : State) (pn : PartId) : List (List (List Word)) → State × List (List (List Word))
  | [] => (s, [])
  | g :: l => match s.sendGroup pn g with
    | some t => t.sendHeld pn l
    | none => (s, g :: l)
/-- The same for a partition. -/
def State.traceHeld (s : State) (pn : PartId) : State := match s.part pn with
  | some p => if p.trHeld.isEmpty then s else
    let (t, l) := s.sendHeld pn p.trHeld
    t.onPart pn (fun p => { p with trHeld := l })
  | none => s
/-- Send out records in order, a snapshot's group as one (R394), until one is held back; the records that stay. -/
def State.traceDrain (s : State) (pn : PartId) : Nat → List TraceRec → State × List TraceRec
  | 0, l => (s, l)
  | _ + 1, [] => (s, [])
  | n + 1, r :: l =>
    let k := (l.takeWhile TraceRec.body).length
    match s.sendGroup pn (r.words :: (l.take k).map TraceRec.words) with
    | some t => t.traceDrain pn n (l.drop k)
    | none => (s, r :: l)
/-- A record may leave once FRONT has reached its stamp, or has none (R391). -/
def TraceRec.ready (front : Option Coord) (r : TraceRec) : Bool := r.coord.all (fun x => front.any (fun f => decide (x ≤ f)))
/-- The records of a core that may leave do so in order (R391), up to one whose answer is still to come, which keeps its place (R400). -/
def State.traceRelease (s : State) (c : CoreId) : State := match s.job c with
  | some j =>
    if j.trace.isEmpty then s
    else
      let s := s.traceHeld j.part
      let l := traceSort j.trace
      let go := (l.filter (TraceRec.ready j.front)).takeWhile (fun r => r.awaits.isNone)
      let stay := (l.filter (TraceRec.ready j.front)).drop go.length ++ l.filter (fun r => !r.ready j.front)
      let (t, kept) := s.traceDrain j.part go.length go
      t.onJob c (fun j => { j with trace := kept ++ stay })
  | none => s

/-- The records that may leave do so at once (R391): one that enters with a stamp that FRONT has reached among them. -/
def State.settleTrace (s : State) (c : CoreId) : State := match s.job c with
  | some j => if j.trace.any (fun r => r.ready j.front) then s.traceRelease c else s
  | none => s
/-- A record of a partition is dropped (R391, R394): it is counted, in the ring's control block too. -/
def State.countLost (s : State) (pn : PartId) : State :=
  let s := s.onPart pn (fun p => { p with trLost := p.trLost + 1 })
  match s.part pn with
  | some p => if p.tctl.getLsbD 63 ∧ p.trsize ≠ 0 then (s.partWrite pn (p.trbase.toNat + 24) (wordBytes [p.trLost])).toOption.getD s else s
  | none => s
/-- The job on a core runs or lands. -/
def Core.busy (k : Core) : Bool := k.on.any (fun i => (k.slots.get i).any (fun q => q.state = .running || q.state = .landing))
/-- Put a record into the buffer of a core's job; a full buffer drops it, which counter 15 counts while the job runs or lands (R391, R398,
R399). -/
def State.addTrace (s : State) (c : CoreId) (r : TraceRec) : State := match s.job c with
  | some j =>
    if 64 ≤ j.trace.length then State.countLost (if (s.core c).busy then s.setJob c (j.count 15 1) else s) j.part
    else s.setJob c { j with trace := j.trace ++ [r] }
  | none => s
/-- Make a record of an enabled kind on a core, with the stamp, the stage and the place in program order of what it records. One of kind 6
is of no stream and of no loop (R388, R393). -/
def State.trace (s : State) (c : CoreId) (kind : Nat) (st : StreamId) (tag : Nat) (stamp : Option Coord) (stage seq : Nat)
    (value : Word) : State := match s.job c with
  | some j => match s.part j.part with
    | some p =>
      if p.traces kind st.num then
        State.settleTrace (s.addTrace c ⟨traceWords kind st.num tag c stage false (if kind = 6 then 0 else j.loopId (j.stream st)) stamp j.handle s.ftime value, stamp, st.num, seq, false, none⟩) c
      else s
    | none => s
  | none => s
/-- A record of the executing instruction. -/
def traceOwn (h : Hdr) (kind tag : Nat) (value : Word) : M Unit := do
  let o ← originOf h
  let c ← curCore
  modify (fun s => s.trace c kind o.st tag (some o.stamp.coord) o.stamp.stage.toNat o.seq value)

/-- The records of a buffer, each with the bodies that follow it. -/
def traceGroups : List TraceRec → List (List (List Word))
  | [] => []
  | r :: l => match traceGroups l with
    | [] => [[r.words]]
    | g :: gs => if l.head?.any TraceRec.body then (r.words :: g) :: gs else [r.words] :: g :: gs
/-- The records that a full ring holds back when a job leaves its core wait on for the ring; one whose answer has not come is not made. -/
def State.keepTrace (s : State) (j : Job) : State :=
  if j.trace.isEmpty then s
  else s.onPart j.part (fun p => { p with trHeld := p.trHeld ++ traceGroups (traceSort (j.trace.filter (fun r => r.awaits.isNone))) })

/-! ### Recorded arrivals and replay (R400 to R402) -/

/-- Room for a kind-7 record, which is never dropped: the operation waits, or traps when every entry is stamped at its coordinate
(R391). -/
def traceRoom (h : Hdr) : M Unit := do
  let j ← getJob
  let o ← originOf h
  if j.replay.recording && decide (64 ≤ j.trace.length) then
    if j.trace.all (fun r => r.coord = some o.stamp.coord) then trap 0x04 0x104 else stall 7
  else pure ()
/-- A record of kind 7 of an arrival on a core (R388, R400). -/
def State.arrivalRec (s : State) (c : CoreId) (j : Job) (o : Origin) (sub : Nat) (v : Word) (mark : Bool) (awaits : Option Nat) : TraceRec :=
  ⟨traceWords 7 o.st.num sub c o.stamp.stage.toNat mark (j.loopId (j.stream o.st)) (some o.stamp.coord) j.handle s.ftime v,
    some o.stamp.coord, o.st.num, o.seq, false, awaits⟩
/-- An instruction whose value comes later keeps the place of its record in a recording job's buffer (R391, R400). -/
def State.recordPlace (s : State) (c : CoreId) (o : Origin) (sub : Nat) : State := match s.job c with
  | some j => if j.replay.recording then s.setJob c { j with trace := j.trace ++ [s.arrivalRec c j o sub 0 false (some o.seq)] } else s
  | none => s
/-- The kind-7 record of an arrival, made for a job that records (R400): in the place that its instruction has kept, or as the newest. -/
def State.recordArrival (s : State) (c : CoreId) (o : Origin) (sub : Nat) (v : Word) (mark : Bool) : State := match s.job c with
  | some j =>
    if j.replay.recording then
      let r := s.arrivalRec c j o sub v mark none
      let filled := j.trace.map (fun x => if x.awaits = some o.seq then { r with coord := x.coord } else x)
      let kept := j.trace.any (fun x => x.awaits = some o.seq)
      State.settleTrace (s.setJob c { j with trace := if kept then filled else j.trace ++ [r] }) c
    else s
  | none => s
/-- The executing instruction, whose value comes later, keeps the place of its record, when there is room. DESIGN CHOICE (log 87): the
entry of the buffer is taken at issue, so that the stall and the trap of a full buffer are the instruction's (R391). -/
def recordLater (h : Hdr) (sub : Nat) : M Unit := do
  traceRoom h
  let o ← originOf h
  let c ← curCore
  modify (fun s => s.recordPlace c o sub)

/-- Entry n of the replayed array: its four words. -/
def State.replayEntry (s : State) (w : Who) (j : Job) (n : Nat) : Except AStop (List Nat) :=
  match s.resolve w .r (BitVec.ofNat 64 (j.replay.base.toNat % 2 ^ 56 + 32 * n)) 32 with
  | .ok l => (s.locBytes (dieOf w.core) w.part l 32).map (fun bs =>
      [leNat (bs.take 8), leNat ((bs.drop 8).take 8), leNat ((bs.drop 16).take 8), leNat (bs.drop 24)])
  | .error x => .error x
/-- The index of a stream's next entry at or after n: entries of other streams and retracted ones are skipped. Or the line that has to be
fetched first (R318). -/
def State.replayScan (s : State) (w : Who) (j : Job) (st : Nat) : Nat → Nat → Except Nat Nat
  | 0, n => .ok n
  | fuel + 1, n => match s.replayEntry w j n with
    | .ok (w0 :: _) => if w0 / 2 ^ 57 % 4 = st ∧ w0 / 2 ^ 59 % 2 = 0 then .ok n else s.replayScan w j st fuel (n + 1)
    | .error (.fetch line) => .error line
    | _ => .ok n
/-- Every one of some streams has passed its last entry (R402). -/
def State.replayDone (s : State) (w : Who) (j : Job) : List StreamId → Except Nat Bool
  | [] => .ok true
  | st :: l =>
    let i := j.replay.idx.get (StreamId.fin st)
    match s.replayScan w j st.num (j.replay.count - i) i with
    | .error line => .error line
    | .ok n => if j.replay.count ≤ n then s.replayDone w j l else .ok false

/-- Whether the job is in replay, in which its effects on other jobs are discarded (R401): once every stream has passed its last entry it
runs live (R402). -/
def replaying : M Bool := do
  let j ← getJob
  if !j.replay.replaying then return false
  let s ← get
  match s.replayDone (s.who s.cur.1 j) j StreamId.all with
  | .error line => throw (.fetch line)
  | .ok true =>
    setJob { j with replay := { j.replay with replaying := false } }
    return false
  | .ok false => return true
/-- In replay, the value and the mark of the executing operation's entry; none while the job runs live. An entry that does not exist or
differs is a divergence (R401, R402). -/
def replayTake (h : Hdr) (sub : Nat) : M (Option (Word × Bool)) := do
  if !(← replaying) then return none
  let j ← getJob
  let s ← get
  let o ← originOf h
  let w := s.who s.cur.1 j
  let i := j.replay.idx.get (StreamId.fin o.st)
  let n ← match s.replayScan w j o.st.num (j.replay.count - i) i with
    | .ok n => pure n
    | .error line => throw (.fetch line)
  match s.replayEntry w j n with
  | .error (.fetch line) => throw (.fetch line)
  | .ok [w0, w1, _, v] =>
    if n < j.replay.count ∧ w1 = (coordWord o.stamp.coord).toNat ∧ w0 / 2 ^ 42 % 4 = o.stamp.stage.toNat ∧ w0 / 2 ^ 52 % 32 = sub then
      setJob { j with replay := { j.replay with idx := j.replay.idx.set (StreamId.fin o.st) (n + 1) } }
      return some (BitVec.ofNat 64 v, decide (w0 / 2 ^ 41 % 2 = 1))
    else throw (.diverge n)
  | _ => throw (.diverge n)
/-- The mark of a replayed entry whose record says that it had one (R400, R401); the record holds no address, so it is free (assumption
27). -/
def replayPoison (m : Bool) : M Mark := do
  if m then return .poison ((Config.freeWord (← get).tick 51).toNat % 2 ^ 50) else return .none
/-- The same for the answer of an access to another place at a global address; its reason is free (assumption 27). -/
def replayFabric (m : Bool) (ga : Word) : M Mark := do
  if m then return .fabric ga (BitVec.ofNat 16 (Config.freeWord (← get).tick 51).toNat) else return .none
/-- Push a value with a mark (R102, R401). -/
def pushMarked (h : Hdr) (x : Spec) (v : Word) (m : Mark) : M Unit := do
  push h x v
  match m with
  | .none => pure ()
  | _ => match Spec.reg x with
    | none => pure ()
    | some r => modifyStream (fun t =>
        let q := t.regs.get r
        { t with regs := t.regs.set r { q with items := q.items.dropLast ++ (q.items.getLast?.map (fun e => { e with mark := m })).toList } })

/-- An operation of R400 whose value is at hand: the replayed value, or the live one, which a recording job records. -/
def arrival (h : Hdr) (x : Spec) (sub : Nat) (live : M Word) : M Unit := do
  match (← replayTake h sub) with
  | some (v, m) => pushMarked h x v (← replayPoison m)
  | none =>
    traceRoom h
    let v ← live
    push h x v
    let o ← originOf h
    let c ← curCore
    modify (fun s => s.recordArrival c o sub v false)

end Sys2Proof.Machine
end

