-- ==== Sys2Proof/Machine/Route.lean ====
section
/-!
DEFINITION. Routes (R310, R311, R315, R347 to R353): dies and packages of the torus, the next hop of a packet, the way that a request leaves
this module, and the slots that SEND chunks take.
-/
namespace Sys2Proof.Machine

/-! ### The torus (R348, R349) -/

/-- A direction of the torus: the dimension, 0 X, 1 Y, 2 Z, and whether the coordinate rises. -/
structure Dir where
  dim : Fin 3
  plus : Bool
  deriving DecidableEq, Repr
/-- The other direction of the same dimension. -/
def Dir.back (d : Dir) : Dir := ⟨d.dim, !d.plus⟩
/-- The dies of a dimension (R348). -/
def Module.extent (m : Module) (i : Fin 3) : Nat := match i.val with
  | 0 => m.dx.toNat
  | 1 => m.dy.toNat
  | _ => m.dz.toNat
/-- The packages of the torus: PX × PY × PZ (R348). -/
def Module.packages (m : Module) : Nat := m.dx.toNat / 2 * (m.dy.toNat / 2) * m.dz.toNat
/-- A coordinate of the die with a fabric identifier (R348). -/
def Module.place (m : Module) (f : Nat) (i : Fin 3) : Nat :=
  let (px, py) := (m.dx.toNat / 2, m.dy.toNat / 2)
  let (n, d) := (f / 4, f % 4)
  match i.val with
  | 0 => 2 * (n % px) + d % 2
  | 1 => 2 * (n / px % py) + d / 2
  | _ => n / (px * py)
/-- The fabric identifier of the die at a place (R348). -/
def Module.dieAt (m : Module) (x y z : Nat) : Nat :=
  4 * (x / 2 + m.dx.toNat / 2 * (y / 2 + m.dy.toNat / 2 * z)) + x % 2 + 2 * (y % 2)
/-- A coordinate after one step. -/
def stepCoord (d plus : Nat) (c : Nat) : Nat := (c + (if plus = 1 then 1 else d - 1)) % d
/-- The next die in a direction (R348, R349). -/
def Module.hop (m : Module) (f : Nat) (d : Dir) : Nat :=
  let c (i : Fin 3) : Nat := if i = d.dim then stepCoord (m.extent i) (bitNat d.plus) (m.place f i) else m.place f i
  m.dieAt (c 0) (c 1) (c 2)
/-- The direction that group k of a die serves (R349). -/
def portDir (die k : Nat) : Dir := match k with
  | 0 => ⟨0, decide (die % 2 = 1)⟩
  | 1 => ⟨1, decide (die / 2 % 2 = 1)⟩
  | 2 => ⟨2, true⟩
  | _ => ⟨2, false⟩
/-- The neighbour of a die in the direction of its group k, as a fabric identifier (R349). -/
def neighbour (m : Module) (f k : Nat) : Nat := m.hop f (portDir (f % 4) k)
/-- The group at the other end of group k (R349). -/
def facing (k : Nat) : Nat := match k with
  | 2 => 3
  | 3 => 2
  | n => n
/-- A group that the extents turn off: X and Y groups where the two dies of the package are the whole dimension, and Z groups of a torus one
deep (R349). Where DZ = 2 a −Z group only receives. -/
def Module.groupOff (m : Module) (k : Nat) : Bool := match k % 4 with
  | 0 => decide (m.dx = 2)
  | 1 => decide (m.dy = 2)
  | _ => decide (m.dz = 1)
/-- The group of a die through which a direction leaves, or none for the die links of its package (R349). Where a dimension has two dies,
both directions lead over the die links. -/
def Module.portOf (m : Module) (die : Nat) (d : Dir) : Option Nat := match d.dim.val with
  | 0 => if m.dx = 2 ∨ d.plus ≠ decide (die % 2 = 1) then none else some 0
  | 1 => if m.dy = 2 ∨ d.plus ≠ decide (die / 2 % 2 = 1) then none else some 1
  | _ => some (if d.plus then 2 else 3)

/-- The descriptor of an end of a link (R363): port g is a group, or from 16 on a die link's end at its lower-numbered die, and from 24 on its
other end. -/
def State.descriptor (s : State) (g : BitVec 5) (x : Group16) : List Byte :=
  let ends := linkEnds ⟨g.toNat % 8, Nat.mod_lt _ (by decide)⟩
  let die := if g.toNat < 16 then g.toNat / 4 else if g.toNat < 24 then ends.1.val else ends.2.val
  let port := if g.toNat < 16 then g.toNat else 16 + g.toNat % 8
  (leBytes 2 (4 * s.module.node.toNat + die) ++ leBytes 1 port ++ leBytes 1 x.pers.toNat ++ leBytes 2 x.spsup.toNat ++ leBytes 1 x.speed.toNat ++
    leBytes 1 x.width.toNat ++ leBytes 3 x.laneOk.toNat ++ leBytes 1 x.swapMap.toNat ++ leBytes 1 x.rxSwap.toNat ++ List.replicate 32 0).take 32

/-! ### Dimension order and detours (R350, R351) -/

/-- The directions that bring a packet nearer, by dimension order: + when the distance is at most half the extent (R350). -/
def Module.productive (m : Module) (f to_ : Nat) : List Dir := ([0, 1, 2] : List (Fin 3)).filterMap (fun i =>
  let d := m.extent i
  let delta := (m.place to_ i + d - m.place f i) % d
  if delta = 0 then none else some ⟨i, decide (2 * delta ≤ d)⟩)
/-- A packet as it starts: channel 0 (R351). -/
def Packet.start : Packet := ⟨none, false, false⟩
/-- The virtual channel of a packet (R351): 1 beyond the dateline of its dimension, and two more from its detour on. -/
def Packet.channel (p : Packet) : Nat := bitNat p.crossed + 2 * bitNat p.detoured
/-- The next direction of a packet at a die, or none when it fails there with NOROUTE (R350, R351): the first productive direction; when that
is absent, a detour to the next dimension with nonzero distance, or else in the opposite direction; a second absent direction fails. -/
def Module.nextHop (m : Module) (here : Dir → Bool) (f to_ : Nat) (detoured : Bool) : Option (Dir × Bool) := match m.productive f to_ with
  | [] => none
  | d :: rest =>
    if here d then some (d, detoured)
    else if detoured then none
    else match rest.head?.filter here with
      | some e => some (e, true)
      | none => if here d.back then some (d.back, true) else none
/-- A packet that takes a direction at a die (R351): it returns to the lower channel when it turns, and goes to the upper one at the step
between D − 1 and 0. -/
def Module.move (m : Module) (f : Nat) (p : Packet) (d : Dir) (detoured : Bool) : Packet :=
  let c := m.place f d.dim
  let n := m.extent d.dim
  let dateline := if d.plus then decide (c + 1 = n) else decide (c = 0)
  ⟨some d.dim, (decide (p.dim = some d.dim) && p.crossed) || dateline, detoured⟩

/-! ### The time master (R346) -/

/-- The group is a torus link that is up or degraded. -/
def Group16.torus (g : Group16) : Bool := decide (g.pers = 1) && g.present
/-- The package at the other end of a torus link, by its descriptor (R363). -/
def Group16.peerNode (g : Group16) : Nat := leNat (g.peer.take 2) / 4
/-- A torus link joins the package to others. -/
def State.joinedByTorus (s : State) : Bool := s.groups.toList.any Group16.torus
/-- The package with the lowest node of those that torus links join. DESIGN CHOICE (assumption 79): the packages beyond its neighbours no
single package can see, so that the lowest of them is free. -/
def State.masterNode (s : State) : Nat :=
  (s.groups.toList.filter Group16.torus).foldl (fun n g => Nat.min n g.peerNode) (Nat.min s.module.node.toNat (Config.freeMaster s.tick))
/-- This package is the time master (R346). -/
def State.isMaster (s : State) : Bool := decide (s.masterNode = s.module.node.toNat)

/-! ### The links of this module -/

/-- The die links between two dies whose ends pass a test. -/
def State.linksBetween (s : State) (f : Group16 → Bool) (d e : DieId) : List (Fin 8) :=
  dieLinkIds.filter (fun l => decide (linkEnds l = (d, e) ∨ linkEnds l = (e, d)) && s.linkBoth f l)
/-- The die of a number. -/
def dieNo (n : Nat) : DieId := ⟨n % 4, Nat.mod_lt _ (by decide)⟩
/-- The home die of a line of DRAM (R316). -/
def homeOf (ln : Nat) : DieId := dieNo (ln * 64 / 2 ^ 48)
/-- Group k of a die. -/
def State.groupAt (s : State) (die k : Nat) : Group16 := s.groups.get ⟨(4 * die + k) % 16, Nat.mod_lt _ (by decide)⟩
/-- A direction is present at a die of this module (R351): one of its die links is up, or its group is a torus link up or degraded that the
extents use. A group that drains still is, for what starts here, and is absent for packets in transit (R361). -/
def State.hasDir (s : State) (transit : Bool) (die : Nat) (d : Dir) : Bool := match s.module.portOf die d with
  | some k =>
    let g := s.groupAt die k
    !s.module.groupOff k && decide (g.pers = 1) && (g.present || (g.drains && !transit)) && !(decide (s.module.dz = 2 ∧ k = 3))
  | none => s.adjacent (dieNo die) (dieNo (s.module.hop (4 * s.module.node.toNat + die) d))
/-- The group through which a packet leaves this module on its way to a die of another package, with the packet as it leaves; none when it
fails with NOROUTE at a die of this module (R350, R351). -/
def State.routeOut (s : State) (to_ : Nat) : Nat → Nat → Packet → Option (Nat × Packet)
  | 0, _, _ => none
  | fuel + 1, die, p =>
    let f := 4 * s.module.node.toNat + die
    match s.module.nextHop (s.hasDir false die) f to_ p.detoured with
    | none => none
    | some (d, x) =>
      let q := s.module.move f p d x
      match s.module.portOf die d with
      | some k => some (4 * die + k, q)
      | none => s.routeOut to_ fuel (s.module.hop f d % 4) q
/-- A partition owns a die (R321). -/
def State.ownsDie (s : State) (pn : PartId) (d : DieId) : Bool := (s.part pn).any (fun p => p.ownsDie d.val)
/-- The dies that traffic from a die to another of this package passes, the last included, through dies that `own` allows (R315, R367): X
first, Y first when both X links of the first hop are down, and the long way round when the dies' own links are down; none when no path is
left. -/
def State.diePath (s : State) (own : DieId → Bool) (d e : DieId) : Option (List DieId) :=
  let x (n : DieId) : DieId := dieNo (n.val ^^^ 1)
  let y (n : DieId) : DieId := dieNo (n.val ^^^ 2)
  let up (l : List DieId) : Bool := ((d :: l).zip l).all (fun p => s.adjacent p.1 p.2) && l.dropLast.all own
  if d = e then some []
  else if e = x d then [[e], [y d, y e, e]].find? up
  else if e = y d then [[e], [x d, x e, e]].find? up
  else [[x d, e], [y d, e]].find? up

/-! ### The way of a request (R353, R357, R359, R361) -/

/-- The lowest-numbered valid node range of a partition's EMAP that holds a node (R353). -/
def Partition.rangeOf (p : Partition) (n : Nat) : Option Word := p.emap.toList.find? (fun e =>
  e.getLsbD 63 && decide (pteBits e 61 60 = 1 ∧ pteBits e 45 32 ≤ n ∧ n ≤ pteBits e 59 46))
/-- The group of an EMAP entry that carries the requests of a die to a die (R353). -/
def rangeGroup (e : Word) (src dst : Nat) : Option Nat :=
  let gs := (List.range 16).filter (fun g => e.getLsbD g)
  gs[(4 * src + dst) % gs.length]?
/-- The number of the next Ultra Ethernet message from a die to a die of another module (R353). -/
def Module.nextUe (m : Module) (src : DieId) (dst : Nat) : Nat := ((m.ueSent.find? (fun x => decide (x.1 = src ∧ x.2.1 = dst))).map (fun x => x.2.2)).getD 0
/-- The group of a way. -/
def Way.group : Way → Option (BitVec 4)
  | .torus g _ | .switched g _ | .ether g _ => some g
  | _ => none
/-- The group of a number. -/
def State.groupNo (s : State) (g : Nat) : Group16 := s.groups.get ⟨g % 16, Nat.mod_lt _ (by decide)⟩
/-- Whether new traffic of this end may enter a group now (R359, R361, R364): not while the group drains, when it stalls or fails by DPOL, nor
while the link retrains. DESIGN CHOICE (log 92): over a link that is neither up nor degraded it fails with NOROUTE. -/
def Group16.enter (g : Group16) : Except (BitVec 16) Bool :=
  if g.drains then (if g.dpol then .error 0x0002 else .ok false) else if g.present then .ok g.up else .error 0x0001
/-- The way through its group that a request takes now: none while it stalls. -/
def State.through (s : State) (w : Way) : Option Way := match w.group with
  | none => some w
  | some g => match (s.groups.get g.toFin).enter with
    | .error r => some (.failed r)
    | .ok go => if go then some w else none
/-- The route of a request from a die to a global address for a partition (R353, R315, R367): by the first rule that applies. DESIGN CHOICE
(log 92): a node range over a group of another personality than 2 or 4, which carries no requests (R358), is no route. -/
def State.route (s : State) (pn : PartId) (src : DieId) (ga : Word) : Way :=
  let m := s.module
  let n := ga.toNat / 2 ^ 50
  let d := ga.toNat / 2 ^ 48 % 4
  if n = m.node.toNat then (if (s.diePath (s.ownsDie pn) src (dieNo d)).isSome then .inside else .failed 0x0004)
  else if n < m.packages ∧ s.groups.toList.any (fun g => decide (g.pers = 1)) then match s.routeOut (4 * n + d) 8 src.val Packet.start with
    | some (g, p) => .torus (BitVec.ofNat 4 g) (BitVec.ofNat 2 p.channel)
    | none => .failed 0x0001
  else match (s.part pn).bind (fun p => p.rangeOf n) with
    | none => .failed 0x0001
    | some e => match rangeGroup e src.val d with
      | none => .failed 0x0001
      | some g => match (s.groupNo g).pers.toNat with
        | 2 => .switched (BitVec.ofNat 4 g) (pteBits e 31 16 + 4 * (n - pteBits e 45 32) + d)
        | 4 => .ether (BitVec.ofNat 4 g) (m.nextUe src (4 * n + d))
        | _ => .failed 0x0001
/-- The way that a request takes now (R353, R361); none while it stalls. -/
def State.wayOf (s : State) (pn : PartId) (src : DieId) (ga : Word) : Option Way := s.through (s.route pn src ga)
/-- The same route: messages of one Ultra Ethernet group differ in their numbers only. -/
def Way.same (a b : Way) : Bool := match a, b with
  | .ether g _, .ether h _ => decide (g = h)
  | _, _ => decide (a = b)
/-- A die holds new traffic to a die whose route has changed until what it sent on the old route has been answered, requests and chunks
(R352): of the requests, the first k. -/
def State.holdsNew (s : State) (k : Nat) (src : DieId) (dst : Nat) (w : Way) : Bool :=
  let old (core : CoreId) (ga : Word) (epoch : Nat) (v : Way) : Bool :=
    decide (dieOf core = src ∧ ga.toNat / 2 ^ 48 = dst ∧ epoch ≠ s.module.routeEpoch) && v.group.isSome && !v.same w
  (s.remotes.take k).any (fun x => x.way.any (old x.core x.ga x.epoch)) || s.chunks.any (fun x => old x.core x.ga x.epoch x.way)
/-- A message that leaves over Ultra Ethernet takes the next number of its pair of dies (R353). -/
def State.numbered (s : State) (src : DieId) (dst : Nat) : Way → State
  | .ether _ n => { s with module := { s.module with ueSent := (src, dst, n + 1) :: s.module.ueSent.filter (fun x => !decide (x.1 = src ∧ x.2.1 = dst)) } }
  | _ => s
/-- The k-th request is routed, if it has not been and need not stall. -/
def State.routeAt (s : State) (k : Nat) : State := match s.remotes[k]? with
  | none => s
  | some r =>
    if r.way.isSome then s
    else match s.wayOf r.part (dieOf r.core) r.ga with
      | none => s
      | some w =>
        if s.holdsNew k (dieOf r.core) (r.ga.toNat / 2 ^ 48) w then s
        else State.numbered { s with remotes := s.remotes.set k { r with way := some w, epoch := s.module.routeEpoch } } (dieOf r.core) (r.ga.toNat / 2 ^ 48) w
/-- Requests that have stalled are routed where they can be, oldest first (R352, R361). -/
def State.routeAll (s : State) : State := if s.remotes.all (fun r => r.way.isSome) then s else
  (List.range s.remotes.length).foldl (fun s k => s.routeAt k) s

/-! ### SEND chunks (R310, R311, R315, R347) -/

/-- The ring stop of a core: its cluster within the die (R310). -/
def stopOf (c : CoreId) : Nat := c.val / 4 % 16
/-- Hops from a stop to another (R311). -/
def hopsFrom (ccw : Bool) (a b : Nat) : Nat := if ccw then (a + 16 - b) % 16 else (b + 16 - a) % 16
/-- The slot-table entry that passes a stop at a time (R310). -/
def slotAt (ccw : Bool) (k : Nat) (t : Nat) : Nat := if ccw then (t + 2 * k) % 256 else (t + 512 - 2 * k) % 256
/-- The stop of a target on a die: a pool's cluster, or a DRAM channel's stop (R274, R310). -/
def targetStop (ga : Word) : Nat := match regionOf (ga.toNat % 2 ^ 50) with
  | .spad c _ => stopOf c
  | .acc c _ _ => stopOf c
  | .dram _ q => Nat.xor (q / 2 ^ 6 % 256) (q / 2 ^ 14 % 256) / 16
  | _ => 0
/-- The ring of a die in one sense, as a slot-table number (R323). -/
def ringOf (d : DieId) (ccw : Bool) : Nat := 2 * d.val + bitNat ccw
/-- The table of a die link from one of its ends (R315, R323). -/
def linkTable (l : Fin 8) (from_ : DieId) : Nat := 8 + 2 * l.val + bitNat (decide ((linkEnds l).1 ≠ from_))
/-- The entry of a table is reserved to a partition. -/
def State.reserved (s : State) (table entry : Nat) (pn : PartId) : Bool :=
  s.slotTables.any (fun y => decide (y.1 = table ∧ y.2.1 = entry ∧ y.2.2.valid = true ∧ y.2.2.owner = pn))
/-- The slots that chunks have taken: those on their way, and those that have gone (R311). -/
def State.takenLegs (s : State) : List Leg := s.legs ++ s.chunks.flatMap (fun x => x.legs)
/-- A slot that passes a stop of a table at a time carries an earlier chunk (R311), one that is on its way or has been written. Links have one
stop. -/
def State.slotTaken (s : State) (table stop t : Nat) : Bool :=
  let takes (l : Leg) : Bool :=
    let h := hopsFrom (table % 2 = 1) l.stop stop
    decide (l.table = table) && (if table < 8 then decide (t = l.left + 2 * h) && (decide (h < l.hops) || decide (h = 0)) else decide (t = l.left))
  s.takenLegs.any takes
/-- The first time from one on at which a slot reserved to a partition passes a stop and carries no chunk (R311, R347). -/
def State.firstSlot (s : State) (pn : PartId) (table stop from_ : Nat) : Option Nat :=
  let entry (t : Nat) : Nat := if table < 8 then slotAt (table % 2 = 1) stop t else t % 256
  if (List.range 256).any (fun e => s.reserved table e pn) then
    ((List.range (256 * (s.takenLegs.length + 1))).map (fun i => from_ + i)).find? (fun t => s.reserved table (entry t) pn && !s.slotTaken table stop t)
  else none
/-- What carries a chunk on from a die: a ring to its target, a die link to the next die, or an edge group out of the module; with the stop
where the die's rings meet it. The rings meet group k at stop 4k (R349); where they meet a die link is not given (assumption 78). -/
inductive Leads where
  | target (stop : Nat)
  | link (l : Fin 8) (next : DieId)
  | edge (g : Nat) (free : Bool)
/-- The ring stop of what leads on from a die. -/
def Leads.stop (d : DieId) : Leads → Nat
  | .target k => k
  | .link l _ => Config.linkStop l.val d % 16
  | .edge g _ => 4 * (g % 4)
/-- A die link that leads from a die to the next: one whose data flows, and of those the first on which the partition has a slot (assumption
78); none while they all retrain (R364). -/
def State.linkTo (s : State) (pn : PartId) (d e : DieId) : Option Leads :=
  let ls := s.linksBetween Group16.up d e
  ((ls.find? (fun l => (List.range 256).any (fun i => s.reserved (linkTable l d) i pn))).or ls.head?).map (fun l => Leads.link l e)
/-- An edge group that a chunk is to leave the module by, once it may enter it: what starts here stalls or fails while the group drains, and
what is in transit finds it absent (R361). -/
def State.edgeTo (s : State) (g : Nat) (transit free : Bool) : Except (BitVec 16) (Option Leads) :=
  let x := s.groupNo g
  if transit && !x.present then .error 0x0001
  else x.enter.map (fun go => if go then some (.edge g free) else none)
/-- What leads a packet on its way from a die towards a global address for a partition, with the packet as it goes on (R315, R350, R351, R353,
R367); none while it has to wait, or the reason with which it fails there. -/
def State.leads (s : State) (pn : PartId) (d : DieId) (ga : Word) (w : Way) (p : Packet) (transit : Bool) :
    Except (BitVec 16) (Option (Leads × Packet)) :=
  let to_ := ga.toNat / 2 ^ 48 % 4
  let f := 4 * s.module.node.toNat + d.val
  let onward (l : Option Leads) : Option (Leads × Packet) := l.map (fun x => (x, p))
  let path (l : Option (List DieId)) : Except (BitVec 16) (Option (Leads × Packet)) := match l with
    | none => .error 0x0004
    | some l => .ok (onward (l.head?.bind (s.linkTo pn d)))
  let out (g : BitVec 4) (free : Bool) : Except (BitVec 16) (Option (Leads × Packet)) :=
    if g.toNat / 4 = d.val then (s.edgeTo g.toNat transit free).map onward
    else path (s.diePath (fun _ => true) d (dieNo (g.toNat / 4)))
  match w with
  | .failed r => .error r
  | .inside => if d.val = to_ then .ok (some (.target (targetStop ga), p)) else path (s.diePath (s.ownsDie pn) d (dieNo to_))
  | .torus _ _ => match s.module.nextHop (s.hasDir transit d.val) f (4 * (ga.toNat / 2 ^ 50) + to_) p.detoured with
    | none => .error 0x0001
    | some (dir, det) =>
      let q := s.module.move f p dir det
      match s.module.portOf d.val dir with
      | some k => (s.edgeTo (4 * d.val + k) transit false).map (fun x => x.map (fun x => (x, q)))
      | none => .ok ((s.linkTo pn d (dieNo (s.module.hop f dir))).map (fun x => (x, q)))
  | .switched g _ => out g false
  | .ether g _ => out g true
/-- The slot table of what leads on from a die. -/
def Leads.table (d : DieId) (ccw : Bool) : Leads → Nat
  | .target _ => ringOf d ccw
  | .link l _ => linkTable l d
  | .edge g _ => 24 + g

end Sys2Proof.Machine
end

