-- ==== Sys2Proof/Machine/Effects.lean ====
section
/-!
DEFINITION. Effects on memory and beyond the job: pool writes and the retraction log (R129, R249, R265), DRAM writes across dies (R316 to
R318), semaphore signals (R250), events (R257), edge-group state (R360), held system registers (R82), and the release of a held effect
(R131).
-/
namespace Sys2Proof.Machine

/-! ### Pool writes and the retraction log (R118, R129, R249, R265, R292) -/

/-- The coordinate lies beyond FRONT. -/
def Job.beyond (j : Job) (c : Coord) : Bool := j.front.all (fun f => decide (f < c))

/-- Replace bytes of a saved sector by the bytes that a write puts there. -/
def patch (old : List Byte) (o : Nat) (bs : List Byte) : List Byte :=
  old.take o ++ (bs.take (32 - o)) ++ old.drop (o + bs.length)

/-- A live entry of another core's log for a sector of core k's pool (R249, R265): only cores of k's cluster write there beyond their
FRONT. -/
def State.otherLog (s : State) (c k : CoreId) (sector : Nat) : Bool := [0, 1, 2, 3].any (fun n =>
  let x := coreOf (k.val / 4 * 4 + n)
  x ≠ c && (s.job x).any (fun j => j.rlogMem.any (fun e => decide (e.core = k ∧ e.p = sector * 32))))

/-- How a write to a pool sector came out. -/
inductive Wrote where
  | done (s : State)
  /-- it waits for a live entry of another core -/
  | wait
  /-- the log is full; `never` says that the wait cannot end (R118) -/
  | full (never : Bool)

/-- The tile whose retention copy covers a sector of a pool, and the sector's place in the tile: a sector of the job's own accumulator. -/
def Job.tileSector (j : Job) (c k : CoreId) (base : Nat) : Option (Nat × Nat) :=
  let ac := j.hdr.tdep * 65536
  if k = c ∧ ac ≤ base ∧ base < ac + j.hdr.acg * 65536 then some ((base - ac) / 65536, (base - ac) % 65536) else none
/-- The entry with the lowest coordinate. -/
def lowestLog (l : List LogEntry) : Option LogEntry := l.foldl (fun (r : Option LogEntry) (e : LogEntry) => match r with
  | some x => if e.coord < x.coord then some e else some x
  | none => some e) none
/-- The retention copy with the lowest coordinate. -/
def lowestRetain (l : List Retain) : Option Retain := l.foldl (fun (r : Option Retain) (e : Retain) => match r with
  | some x => if e.coord < x.coord then some e else some x
  | none => some e) none
/-- What a sector held for coordinate `co`: the contents saved by the lowest log entry or retention copy stamped above it, or the sector
itself. A retention copy of the same coordinate as a log entry is the older of the two. -/
def Job.savedFor (j : Job) (co : Coord) (c k : CoreId) (base : Nat) (now : List Byte) (bad : Bool) : List Byte × Bool :=
  let e := lowestLog (j.rlogMem.filter (fun (e : LogEntry) => decide (e.core = k ∧ e.p = base ∧ co < e.coord)))
  let t : Option (Coord × List Byte × Bool) := match j.tileSector c k base with
    | some (n, o) => (lowestRetain (j.retained.filter (fun (x : Retain) => decide (x.tile.toNat = n ∧ co < x.coord)))).map
        (fun (x : Retain) => (x.coord, (x.old.drop o).take 32, x.bad.contains (o / 32)))
    | none => none
  match e, t with
  | none, none => (now, bad)
  | some e, none => (e.old, e.bad)
  | none, some x => x.2
  | some e, some x => if x.1 ≤ e.coord then x.2 else (e.old, e.bad)
/-- The poison of a pool sector after a write of n bytes of it: poisoned data poisons it, and a write of all 32 bytes clears it (R291, R292). -/
def poisonAfter (old : Bool) (n : Nat) (bad : Bool) : Bool := bad || (old && decide (n < 32))
/-- A write stamped `co` changes bytes of a sector: the contents and the poison saved by entries and retention copies stamped above it change
too (R129, R130, R292). -/
def Job.patchAbove (j : Job) (co : Coord) (c k : CoreId) (base o : Nat) (bs : List Byte) (bad : Bool) : Job :=
  { j with
    rlogMem := j.rlogMem.map (fun e => if e.core = k ∧ e.p = base ∧ co < e.coord then
      { e with old := patch e.old o bs, bad := poisonAfter e.bad bs.length bad } else e)
    retained := match j.tileSector c k base with
      | some (n, q) => j.retained.map (fun x => if x.tile.toNat = n ∧ co < x.coord then
          { x with
            old := x.old.take (q + o) ++ bs ++ x.old.drop (q + o + bs.length)
            bad := if poisonAfter (x.bad.contains (q / 32)) bs.length bad then (if x.bad.contains (q / 32) then x.bad else q / 32 :: x.bad)
              else x.bad.filter (· ≠ q / 32) } else x)
      | none => j.retained }

/-- The job with a veil over a sector that one of its instructions writes, for each FENCE before the instruction that what is held back makes
other cores wait for (R87, R382); veils that wait for nothing more are dropped. -/
def State.veil (s : State) (c : CoreId) (j : Job) (o : Origin) (k : CoreId) (sector : Nat) : Job :=
  { j with veils := (j.veils ++ ((j.stream o.st).fences.filter (fun f => decide (f.1 < o.seq))).map (fun (f : Nat × Nat) => (⟨k, sector, f.1, f.2⟩ : Veil))).filter (s.veilOn c j) }

/-- A write of at most one sector into a pool by an operation of the job on core c with this origin. `bad` marks the data poisoned (R292). -/
def State.poolWrite (s : State) (c : CoreId) (o : Origin) (k : CoreId) (p : Nat) (bs : List Byte) (bad : Bool) : Wrote :=
  let base := p / 32 * 32
  let co := o.stamp.coord
  match s.job c with
  | none => .wait
  | some j =>
    if s.otherLog c k (p / 32) then .wait
    else
      let log := j.beyond co
      let old := j.rlogMem.any (fun e => decide (e.core = k ∧ e.p = base ∧ e.coord = co))
      if log && !old && decide (1024 ≤ j.rlogMem.length) then .full (j.rlogMem.all (fun e => decide (co ≤ e.coord)))
      else
        let now := memBytes s.mem (poolKey k base) 32
        let wasBad := s.poison.contains (poolKey k base / 32)
        let saved := j.savedFor co c k base now wasBad
        let j := j.patchAbove co c k base (p - base) bs bad
        let j := s.veil c j o k (p / 32)
        let j := if log && !old then Job.count { j with rlogMem := j.rlogMem ++ [LogEntry.mk k base saved.1 saved.2 co] } 12 1 else j
        let s := (s.setJob c j).pokeClear (poolKey k p) bs
        .done (if bad then s.poisonRun (poolKey k p) bs.length else s)

/-- A write to a pool from outside its cores' jobs, by the fabric or the host: it waits for a live log entry of the sector (R249). -/
def State.foreignPool (s : State) (k : CoreId) (p : Nat) (bs : List Byte) (bad : Bool) : Option State :=
  if s.otherLog (coreOf (k.val / 4 * 4 + (k.val + 1) % 4)) k (p / 32) || s.otherLog k k (p / 32) then none
  else
    let s := s.pokeClear (poolKey k p) bs
    some (if bad then s.poisonRun (poolKey k p) bs.length else s)
/-- As `foreignPool`, with the write queued while it waits, as one of a virtual function's posted writes (R379). -/
def State.foreignWrite (s : State) (k : CoreId) (p : Nat) (bs : List Byte) (by_ : PartId) : State :=
  match s.foreignPool k p bs false with
  | some t => t
  | none => { s with logWaits := s.logWaits ++ [⟨.pool k p, bs, some by_⟩] }

/-! ### DRAM writes (R316 to R318) -/

/-- A die's clock with its own counter moved on (R317, R318). -/
def clockTick (v : Vector (BitVec 32) 4) (d : DieId) : Vector (BitVec 32) 4 := v.set d (v.get d + 1)
/-- Replace the clock of a die. -/
def State.setClock (s : State) (d : DieId) (v : Vector (BitVec 32) 4) : State :=
  { s with dies := s.dies.set d { s.dies.get d with clock := v } }
/-- The messages of forward(V, s) at the home h (R318): an update to each other die whose directory bit is set, with the poison that the
line has now (R292), a tick to the rest. -/
def State.forward (s : State) (home src : DieId) (pa : Nat) (bs : List Byte) (v : Vector (BitVec 32) 4) (o : Option Writer) : State :=
  let dir := (s.dies.get home).directory
  let bad := (s.poisonAt (pa / 64 * 64) 64).isSome
  let msgs := ([0, 1, 2, 3] : List DieId).filterMap (fun e =>
    if e = src ∨ e = home then none
    else if dir.contains (pa / 64, e) then some (FleetMsg.update e src (pa / 64) (pa % 64) bs v bad o)
    else some (FleetMsg.tick e src v o))
  { s with fleet := s.fleet ++ msgs }
/-- A die gives up its copy of a line and a copy on its way to it: its own write makes that copy old. -/
def State.dropCopy (s : State) (d : DieId) (line : Nat) : State :=
  { s with
    dies := s.dies.set d { s.dies.get d with cache := (s.dies.get d).cache.filter (fun l => l.line ≠ line) }
    fleet := s.fleet.filter (fun m => match m with
      | .line dst _ l _ _ _ => !decide (dst = d ∧ l = line)
      | .fetch src _ l _ => !decide (src = d ∧ l = line)
      | _ => true) }

/-- The command a slot's bytes hold (R331): malformed where OP or a reserved bit is wrong or FLAG is not 4-byte aligned. -/
def mittenCmdOf (slot : Nat) (bs : List Byte) : MittenCmd :=
  let w0 := leNat (bs.take 8)
  let flag := leNat ((bs.drop 8).take 8)
  let op := w0 / 2 ^ 56
  ⟨slot, op, BitVec.ofNat 32 w0, BitVec.ofNat 64 flag,
    decide ((op = 1 ∨ op = 2) ∧ w0 / 2 ^ 32 % 2 ^ 24 = 0 ∧ leNat (bs.drop 24) = 0 ∧ flag % 4 = 0), false⟩

/-- A write of the supervisor's at an offset of its command page (R331): one that covers a free slot whole is a command, and any other is
ignored. -/
def State.slotWrite (s : State) (pn : PartId) (pa o : Nat) (bs : List Byte) (bad : Bool) : State :=
  if bs.length ≠ 32 ∨ o % 32 ≠ 0 ∨ (s.part pn).any (fun p => p.mitten.any (fun m => m.slot = o / 32)) then s
  else
    let s := s.pokeClear pa bs
    let s := if bad then s.poisonRun pa bs.length else s
    s.onPart pn (fun p => { p with mitten := p.mitten ++ [mittenCmdOf (o / 32) bs] })

/-- A write of at most one sector of a die to memory (R316, R318). In DRAM of the die's own it takes effect, and goes to the dies that the
directory names; in another die's it is sent to its home, and the writing die gives up its copies. On a PUBLISH page, with the pair of its
buffer's bit, it takes the shadow image as it stands at the home (R111, R288). `whole`: it ends a command's write of all 64 bytes of its
line (R290). -/
def State.fleetOut (s : State) (d : DieId) (pub : Option Nat) (o : Option Writer) (pa : Nat) (bs : List Byte) (bad whole : Bool) : State :=
  let at_ := s.writePa (.mem pa pub false false)
  let put (s : State) : State :=
    let s := s.pokeClear at_ bs
    if bad then s.poisonRun at_ bs.length else if whole then s.cleanLine (at_ / 64) else s
  match regionOf pa with
  | .dram home _ =>
    let v := clockTick (s.dies.get d).clock d
    if home = d then
      if (s.dies.get d).directory.any (fun x => decide (x.1 = at_ / 64 ∧ x.2 ≠ d)) then ((put s).setClock d v).forward d d at_ bs v o
      else put s
    else
      let s := (s.setClock d v).dropCopy d (pa / 64)
      let s := if pub.isSome then s.dropCopy d (pa / 64 + 1024) else s
      { s with fleet := s.fleet ++ [.write d home (pa / 64) (pa % 64) bs v bad whole pub o] }
  | _ => put s
/-- A write to DRAM, host or CXL memory of at most one sector by a core for a partition takes effect: as a write of its die, or as a Mitten
command (R331). -/
def State.storeOut (s : State) (c : CoreId) (pn : PartId) (o : Option Writer) (pa : Nat) (bs : List Byte) (bad whole : Bool) : State :=
  match s.mittenOffset pn pa with
  | some o => s.slotWrite pn pa o bs bad
  | none => s.fleetOut (dieOf c) none o pa bs bad whole
/-- A write of a die to DRAM is a fleet write: the line is another die's, or another die may hold a copy (R317, R318). -/
def State.isFleet (s : State) (d : DieId) (pa : Nat) : Bool := match regionOf pa with
  | .dram home _ => decide (home ≠ d) || (s.dies.get d).directory.any (fun x => decide (x.1 = pa / 64 ∧ x.2 ≠ d))
  | _ => false
/-- A die may make n fleet writes more: its own count stays less than 2^30 ahead of what each other joined die has seen (R319). -/
def State.fleetRoom (s : State) (d : DieId) (n : Nat) : Bool :=
  decide (n = 0) || ([0, 1, 2, 3] : List DieId).all (fun e => decide (e = d) || (s.dies.get d).cut.contains e ||
    decide (((s.dies.get d).clock.get d - (s.dies.get e).clock.get d).toNat + n < 2 ^ 30))
/-- The held stores of a list that are fleet writes. -/
def State.fleetWrites (s : State) (d : DieId) (l : List Held) : Nat := (l.filter (fun h => match h.kind with
  | .store pa _ _ => s.isFleet d pa
  | _ => false)).length
/-! ### Events (R257) -/

/-- A landing or completion entry reaches the supervisor's list of 64, or waits for room. -/
def Partition.addEvent (p : Partition) (w : Event) : Partition :=
  if p.events.length < 64 then { p with events := p.events ++ [w] } else { p with eventsWait := p.eventsWait ++ [w] }
/-- The partition is being torn down or is down (R329). -/
def Partition.down (p : Partition) : Bool := decide (p.tearing ≠ 0 ∨ 3 ≤ p.pstate.toNat)
/-- An event word (R257). -/
def eventWord (kind cause sub num : Nat) (hd : Handle) : Word :=
  BitVec.ofNat 64 (kind * 2 ^ 60 + cause * 2 ^ 52 + sub * 2 ^ 48 + num * 2 ^ 32 + hd.toNat)

/-! ### Edge groups (R359, R360) -/

/-- The EGSTAT word of a group (R360). -/
def egstat (g : Group16) : Word :=
  let assign := if g.pers = 1 ∨ g.pers = 2 then 63 else match g.assigned with
    | some p => p.val
    | none => 62
  BitVec.ofNat 64 (assign * 2 ^ 58 + bitNat g.talign * 2 ^ 57 + bitNat g.enc * 2 ^ 56 + g.reason.toNat * 2 ^ 48 + g.state.toNat * 2 ^ 44 +
    g.pers.toNat % 8 * 2 ^ 41 + g.swapMap.toNat * 2 ^ 36 + g.width.toNat % 32 * 2 ^ 31 + g.speed.toNat % 16 * 2 ^ 27 +
    g.retry.toNat % 8 * 2 ^ 24 + g.epoch.toNat % 2 ^ 24)
/-- The EGCFG word of a group (R359); node and extents are the module's. -/
def egcfg (m : Module) (g : Group16) : Word :=
  BitVec.ofNat 64 (m.node.toNat * 2 ^ 50 + m.dz.toNat * 2 ^ 40 + m.dy.toNat * 2 ^ 32 + m.dx.toNat * 2 ^ 24 + g.tout.toNat % 256 * 2 ^ 8 +
    bitNat g.dpol * 2 ^ 3 + g.persReq.toNat % 8)
/-- The group is shared by every partition: personality 1 or 2 (R358). -/
def Group16.shared (g : Group16) : Bool := decide (g.pers = 1 ∨ g.pers = 2)
/-- Replace a group; a change of its EGSTAT raises its fabric event for the assigned partition, or for every one when it is shared
(R257, R360). -/
def State.setGroup (s : State) (n : Fin 16) (g : Group16) : State :=
  let old := s.groups.get n
  let s := { s with groups := s.groups.set n g }
  if egstat old = egstat g then s
  else { s with parts := Vector.ofFn (fun (i : Fin 32) => (s.parts.get i).map (fun p =>
    if g.shared || decide (g.assigned = some i) then { p with fabFlags := p.fabFlags ||| (1 <<< n.val) } else p)) }

/-! ### Held system registers (R82, R257, R258, R334, R357, R359, R368, R374) -/

/-- Write EVMASK (R257, R258): the timer is armed or disarmed and a pending timer event cleared. -/
def Partition.writeEvmask (p : Partition) (v : Word) : Partition :=
  { p with evmask := BitVec.ofNat 64 (v.toNat / 2 ^ 16 * 2 ^ 16 + v.toNat / 2 ^ 8 % 2 * 2 ^ 8 + v.toNat % 32),
           armed := v.getLsbD 3, timerFlag := false }
/-- Crown countersigns an EMAP entry for a partition (R357). -/
def State.emapOk (s : State) (pn : PartId) (v : Word) : Bool :=
  let kind := pteBits v 61 60
  let groups := (List.range 16).filter (fun g => v.getLsbD g)
  let need (g : Nat) : Bool :=
    let x := s.groups.get ⟨g % 16, Nat.mod_lt _ (by decide)⟩
    decide (x.assigned = some pn) || (x.shared && decide (kind = 1 ∧ x.pers = 2))
  decide (kind < 2) && groups.all need &&
    (if kind = 0 then
      decide (groups.length = 1) && decide (pteBits v 59 44 = 0) && decide (pteBits v 43 32 ≤ 2048) && decide (pteBits v 31 16 = 0) &&
      groups.all (fun g =>
        let x := s.groups.get ⟨g % 16, Nat.mod_lt _ (by decide)⟩
        decide (x.pers = 3 ∧ x.assigned = some pn))
    else decide (pteBits v 31 16 = 0) || groups.any (fun g =>
      decide ((s.groups.get ⟨g % 16, Nat.mod_lt _ (by decide)⟩).pers = 2)))
/-- An EMAP entry with DRAIN as it is: 1 while a group in its GMASK changes personality (R357). -/
def State.withDrain (s : State) (e : Word) : Word :=
  let v := e &&& 0xBFFFFFFFFFFFFFFF
  if v.getLsbD 63 && (List.range 16).any (fun g => v.getLsbD g && (s.groupNo g).changing) then v ||| 0x4000000000000000 else v
/-- Write an EMAP entry: it takes the value if Crown countersigns it, with DRAIN as its groups have it; a draining entry takes it at the flip,
and is countersigned then (R357, R361). -/
def State.writeEmap (s : State) (pn : PartId) (i : Nat) (v : Word) : State :=
  let ok := s.emapOk pn (v &&& 0xBFFFFFFFFFFFFFFF)
  let v := s.withDrain v
  s.onPart pn (fun p =>
    let k : Fin 64 := ⟨i % 64, Nat.mod_lt _ (by decide)⟩
    if (p.emap.get k).getLsbD 62 then { p with emapPending := p.emapPending ++ [(i, v)] }
    else if ok then { p with emap := p.emap.set k v } else p)
/-- Write EGCFG of a group (R359): ignored for a group of another partition; TOUT 0 and PERS 1, 2, 5, 6, 7 leave their field. -/
def State.writeEgcfg (s : State) (pn : PartId) (i : Nat) (v : Word) : State :=
  let n : Fin 16 := ⟨i % 16, Nat.mod_lt _ (by decide)⟩
  let g := s.groups.get n
  if g.assigned ≠ some pn then s
  else
    let tout := if pteBits v 15 8 = 0 then g.tout else BitVec.ofNat 32 (pteBits v 15 8)
    let pers := pteBits v 2 0
    let req := if pers = 0 ∨ pers = 3 ∨ pers = 4 then BitVec.ofNat 4 pers else g.persReq
    s.setGroup n { g with tout := tout, dpol := v.getLsbD 3, persReq := req }

/-- The leaf of an address outside the windows, as a unit walks a partition's tables for it, with its level. -/
def State.unitLeaf (s : State) (pn : PartId) (a : Nat) : Option (Word × Nat) := match s.part pn with
  | none => none
  | some p => if 2 ^ 56 ≤ a ∨ inWindow a then none else (s.walk none pn p a 4 p.root 3).toOption
/-- The address that Cuff reaches through a partition's tables: DRAM of an owned die, or a CXL window (R354, R369). -/
def State.cuffPa (s : State) (pn : PartId) (y : Perm) (a : Nat) : Option Nat := match s.partPa pn y a, s.part pn with
  | .ok k, _ => some k
  | .error _, some p => match s.unitLeaf pn a with
    | some (e, lvl) =>
      let pa := ptPa e + a % pageSize lvl
      match regionOf pa with
      | .edge g dev => if grants e y && p.edgeOk pa g dev then some pa else none
      | _ => none
    | none => none
  | .error _, none => none
/-- The control block of CKPAIR as the partition's memory holds it (R369): the eight words of a page with R and W. -/
def State.cuffBlock (s : State) (pn : PartId) (va : Nat) : Option (List Nat) :=
  match s.cuffPa pn .w va, s.cuffPa pn .r va with
  | some _, some k => some ((List.range 8).map (fun i => leNat (memBytes s.mem (k + 8 * i) 8)))
  | _, _ => none
/-- The checks of R369 that this module can make: a misaligned field or a keeper region that is too small gives BADBLOCK. -/
def cuffOk (ws : List Nat) : Bool :=
  let kw := ws.getD 2 0
  decide (ws.getD 1 0 % 0x10000 = 0 ∧ kw % 0x10000 = 0 ∧ kw ≤ 64 * 2 ^ 30 ∧ ws.getD 3 0 % 0x10000 = 0 ∧ ws.getD 5 0 % 64 = 0 ∧
    3 * (4096 + kw + kw / 64) ≤ ws.getD 4 0)
/-- A node that a partition can reach now (R353): its own package, or one to which a request of one of its dies finds a route over links that
are up. -/
def State.reaches (s : State) (pn : PartId) (n : Nat) : Bool :=
  decide (n = s.module.node.toNat) || ([0, 1, 2, 3] : List DieId).any (fun d => s.ownsDie pn d && (match s.wayOf pn d (BitVec.ofNat 64 (n * 2 ^ 50)) with
    | some (.failed x) => decide (x ≠ 0x0001)
    | _ => true))
/-- A leaf carries KEEP (R279). -/
def ptKeep (e : Word) : Bool := e.getLsbD 7
/-- The keep map (R368): the physical page of each 4 KiB page of the keep window that carries KEEP (R369), from the partition's tables. -/
def State.keepMap (s : State) (pn : PartId) (base size : Nat) : List (Nat × Nat) :=
  (List.range (size / 0x10000)).flatMap (fun i =>
    let a := base + i * 0x10000
    match s.partLoc pn .r a, (s.unitLeaf pn a).any (fun e => ptKeep e.1) with
    | .ok k, true => (List.range 16).map (fun q => (k / 4096 + q, 16 * i + q))
    | _, _ => [])
/-- Write CKPAIR (R368, R369): CBVA 0 unpairs; otherwise the block is read and checked, and pairing begins. -/
def State.writeCkpair (s : State) (pn : PartId) (v : Word) : State :=
  let keep := BitVec.ofNat 64 (v.toNat % 2 ^ 57 / 2 ^ 56 * 2 ^ 56 + v.toNat % 2 ^ 56 / 2 ^ 12 * 2 ^ 12)
  let set (st : Nat) (s : State) : State := s.onPart pn (fun p => { p with ckpair := keep + BitVec.ofNat 64 (st * 2 ^ 60) })
  let va := v.toNat % 2 ^ 56 / 2 ^ 12 * 2 ^ 12
  if va = 0 then (set 0 s).onPart pn (fun p => { p with ckMap := [], ckBlock := [] })
  else match s.cuffBlock pn va with
    | none => (set 5 s).onPart pn (fun p => { p with ckMap := [], ckBlock := [] })
    | some ws =>
      let bad (st : Nat) : State := (set st s).onPart pn (fun p => { p with ckMap := [], ckBlock := ws })
      if !cuffOk ws then bad 5
      else if !s.reaches pn (ws.getD 0 0 % 2 ^ 14) then bad 4
      else (set 1 s).onPart pn (fun p => { p with ckMap := s.keepMap pn (ws.getD 1 0) (ws.getD 2 0), ckBlock := ws })
/-- Write CKSEAL (R374): ignored while busy and with OP 0; otherwise the request is left to begin. -/
def State.writeCkseal (s : State) (pn : PartId) (v : Word) : State := match s.part pn with
  | some p => if pteBits p.ckseal 63 62 = 1 || pteBits v 61 60 = 0 then s else { s with ckReqs := s.ckReqs ++ [(pn, v)] }
  | none => s

/-- The slot of a core's queue that a launch's job has. -/
def State.slotOf (s : State) (c : CoreId) (hd : Handle) : Option (Fin 8 × JobSlot) :=
  [(0 : Fin 8), 1, 2, 3, 4, 5, 6, 7].findSome? (fun i => match (s.core c).slots.get i with
    | some q => if q.handle = hd then some (i, q) else none
    | none => none)
/-- The record of the job that an event names as it stands now (R256): where the job is on its core, off it, or saved in its context area
(R330); once the job has ended, the record that the event brought. -/
def State.recordOf (s : State) (ev : Event) : Vector Word 4 :=
  let hd : Handle := ev.word.setWidth 32
  match (s.job ev.core).filter (fun j => j.handle = hd), s.slotOf ev.core hd with
  | some j, _ => j.traprec
  | none, some (_, q) => match q.savedAt, q.ctx with
    | some a, _ => match s.partPa q.part .r (a.toNat + 0x400038) with
      | .ok k =>
        recordBack (fun i => BitVec.ofNat 64 (leNat (memBytes s.mem (k + 8 * i) 8)))
      | .error _ => ev.trapRec
    | none, some j => j.traprec
    | none, none => ev.trapRec
  | none, none => ev.trapRec
/-- A record with VALID cleared. -/
def clearValid (r : Vector Word 4) : Vector Word 4 := r.set (0 : Fin 4) (r.get 0 &&& 0x7FFFFFFFFFFFFFFF)
/-- VALID of the record of the job that an event names is cleared, wherever the job is (R256). -/
def State.clearRecord (s : State) (ev : Event) : State :=
  let hd : Handle := ev.word.setWidth 32
  let s := s.onJob ev.core (fun j => if j.handle = hd then { j with traprec := clearValid j.traprec } else j)
  match s.slotOf ev.core hd with
  | none => s
  | some (i, q) =>
    let s := s.setCore ev.core { s.core ev.core with slots := (s.core ev.core).slots.set i.val (some
      { q with ctx := q.ctx.map (fun j => { j with traprec := clearValid j.traprec }) }) i.isLt }
    match q.savedAt with
    | none => s
    | some a => match s.partPa q.part .r (a.toNat + 0x400038) with
      | .ok k => match s.partWrite q.part (a.toNat + 0x400038) (leBytes 8 (leNat (memBytes s.mem k 8) % 2 ^ 63)) with
        | .ok t => t
        | .error _ => s
      | .error _ => s

/-- A held SWR takes effect for a partition (R82). -/
def State.applySwr (s : State) (pn : PartId) (fn idx : Nat) (v : Word) : State := match fn with
  | 13 =>
    if idx = 0 ∧ v.getLsbD 63 then
      -- clears VALID of the record that TRAPREC shows (R256)
      match s.part pn with
      | some p => match p.shownRec with
        | some ev => (s.setPart pn { p with shownRec := some { ev with trapRec := clearValid ev.trapRec } }).clearRecord ev
        | none => s.onJob p.supcore (fun j => { j with traprec := clearValid j.traprec })
      | none => s
    else s
  | 17 => s.onPart pn (fun p => { p with tofs := v })
  | 18 => s.onPart pn (fun p => { p with tscl := v })
  | 19 => s.writeEgcfg pn idx v
  | 21 => s.writeEmap pn idx v
  | 22 => s.writeCkpair pn v
  | 23 => s.writeCkseal pn v
  | 25 => s.onPart pn (fun p => { p with tvec := BitVec.ofNat 64 (v.toNat % 2 ^ 56 / 8 * 8) })
  | 26 => s.onPart pn (fun p => p.writeEvmask v)
  | _ => s

/-! ### Release of a held effect (R118, R131) -/

/-- The last FENCE of a scope or wider before an instruction in its stream, 0 when there is none (R87, R320). -/
def Job.lastFence (j : Job) (o : Origin) (scope : Nat) : Nat :=
  (((j.stream o.st).fences.filter (fun f => decide (f.1 < o.seq ∧ scope ≤ f.2))).map Prod.fst).foldl Nat.max 0
/-- Fleet writes of some instructions of a job are still on their way to their homes (R318). -/
def State.fleetBefore (s : State) (c : CoreId) (hd : Handle) (p : Origin → Bool) : Bool :=
  s.fleet.any (fun m => m.isWrite && m.writer.any (fun x => decide (x.core = c ∧ x.handle = hd) && p x.org))
/-- Fleet writes of some instructions of a job have still to be applied: at their homes, or in another die's clock and copy (R318). An effect
that a FENCE, a semaphore, a barrier or a launch releases after them waits, so that no die that it reaches reads an old copy (R320). -/
def State.spreadBefore (s : State) (c : CoreId) (hd : Handle) (p : Origin → Bool) : Bool :=
  s.fleet.any (fun m => m.writer.any (fun x => decide (x.core = c ∧ x.handle = hd) && p x.org))
/-- A request follows the fleet writes that a FENCE put before it, the job's that its stream may have acquired among them: they have still to
be applied (R320). -/
def State.fenced (s : State) (r : Remote) : Bool := s.spreadBefore r.core r.handle (fun o => decide (o.seq < r.fence))
/-- Send a remote request (R116, R246, R353); it is routed at once unless it stalls. -/
def State.request (s : State) (c : CoreId) (j : Job) (id : Nat) (o : Origin) (ga : Word) (k : RemoteKind) : State :=
  State.routeAt { s with remotes := s.remotes ++ [⟨id, c, j.handle, j.part, o, ga, k, s.ftime, j.lastFence o 5, none, 0, s.tick⟩] } s.remotes.length
/-- A request changes a word or bytes of another core's accumulator in this module, so that its own core's cluster may wait for it (R268). -/
def Remote.opens (r : Remote) : Bool := decide (r.way = some .inside ∨ r.way = none) && (match r.kind with
  | .atomic _ _ _ _ | .plain _ _ => true
  | _ => false)
/-- A released signal or launch follows its job's earlier effects (R65, R268, R320): fleet writes, and for a signal what has been sent to
accumulators, have still to be applied. -/
def State.serviceWaits (s : State) (x : Service) : Bool :=
  s.spreadBefore x.core x.handle (fun o => decide (o.seq < x.id)) || (match x.kind with
    | .sems _ _ => s.remotes.any (fun r => decide (r.core = x.core ∧ r.handle = x.handle ∧ r.id < x.id) && r.opens)
    | _ => false)
/-- A released signal is counted, or a launch sent; PUB and TLBI act by events of their own. -/
def State.serve (s : State) (x : Service) : State := match x.kind with
  | .sems phys n => { s with services := s.services.erase x }.setSem (clusterOf x.core) phys ((s.sem (clusterOf x.core) phys).signal n none)
  | .spawn level image target =>
    { s with services := s.services.erase x, launches := s.launches ++ [⟨x.core, x.handle, x.part, x.id, x.org, level, image, target, none⟩] }
  | _ => s
/-- Every released signal and launch that waits for nothing more takes effect, oldest first. -/
def State.serveAll (s : State) : State := s.services.foldl (fun s x => if s.serviceWaits x then s else s.serve x) s

/-- The superstep start of a SEND with coordinate c (R311): the T0 of the latest passage stamped below it. -/
def Job.stepStart (j : Job) (c : Coord) : Word := match (j.passages.filter (fun x => decide (x.1 < c))).getLast? with
  | some x => x.2
  | none => j.t0

/-- The held stores of one command that a line of them is complete with: the last of its stores to a line that they write whole (R290). -/
def endsLine (l : List Held) (h : Held) (pa : Nat) : Bool :=
  decide (((l.filter (fun x => decide (x.id = h.id) && (x.onLine (pa / 64)).isSome)).getLast?) = some h) && wholeLine l h.id (pa / 64)
/-- A held effect of the job on core c is performed, with the others of its release (R131). Signals and launches then wait for what they
follow. -/
def State.release (s : State) (c : CoreId) (j : Job) (l : List Held) (h : Held) : State := match h.kind with
  | .store pa bs bad => s.storeOut c j.part (some ⟨c, j.handle, h.org⟩) pa bs bad (endsLine l h pa)
  | .atomic op ga v x host => match host with
    | some pa => s.request c j h.id h.org ga (.hostAtomic pa op v x)
    | none => s.request c j h.id h.org ga (.atomic op v x false)
  | .plain ga bs bad => s.request c j h.id h.org ga (.plain bs bad)
  | .rst ga bs bad flag acc => s.request c j h.id h.org ga (.store bs bad flag acc)
  | .rat op ga v x => s.request c j h.id h.org ga (.atomic op v x true)
  | .send src ga n ofs ccw =>
    { s with sendings := s.sendings ++ [⟨c, j.handle, j.part, h.id, h.org, src, ga, n, 0,
      Nat.max s.ftime.toNat ((j.stepStart h.org.stamp.coord).toNat + ofs), ccw, j.lastFence h.org 5⟩] }
  | .sems _ _ | .spawn _ _ _ | .pub _ | .tlbi _ _ _ =>
    { s with services := s.services ++ [⟨c, j.handle, j.part, h.id, h.org, h.kind, none⟩] }
  | .swr fn idx v => s.applySwr j.part fn.toNat idx.toNat v
  | .mbox n => s.onPart j.part (fun p => { p with mbxTaken := p.mbxTaken.filter (fun x => !decide (x.1 = n ∧ x.2.2 = h.org.stamp.coord)) })

/-- Insert a held effect in the order of release: by the stamp's coordinate, then in the order of holding (R131). -/
def heldInsert (h : Held) : List Held → List Held
  | [] => [h]
  | x :: l => if x.org.stamp.coord ≤ h.org.stamp.coord then x :: heldInsert h l else h :: x :: l
/-- A held effect joins those of its job (R131): the effects of one stream are held in its program order, so what later instructions of the
stream have left there follows it. -/
def heldAdd (l : List Held) (h : Held) : List Held :=
  let later (x : Held) : Bool := decide (x.org.st = h.org.st ∧ h.org.seq < x.org.seq)
  l.filter (fun x => !later x) ++ [h] ++ l.filter later
/-- Held effects in the order of release. -/
def heldSort (l : List Held) : List Held := l.foldl (fun r h => heldInsert h r) []
/-- Perform held effects of the job on core c in their order. -/
def State.releaseAll (s : State) (c : CoreId) (j : Job) (l : List Held) : State :=
  ((heldSort l).foldl (fun s h => s.release c j (heldSort l) h) s).serveAll

end Sys2Proof.Machine
end

