-- ==== Sys2Proof/Machine/Frontier.lean ====
section
/-!
DEFINITION. The frontier (R37 to R39, R131, R300, R391): when it moves, what its move frees and releases, and the advance of a stream.
-/
namespace Sys2Proof.Machine

/-- The least bound among some. -/
def minBound (l : List Nat) : Option Nat := l.foldl (fun r x => match r with
  | some y => some (Nat.min x y)
  | none => some x) none

/-- The effect completes only after FRONT has released it: a SEND (R311) or a PUB (R112). -/
def HeldKind.afterRelease : HeldKind → Bool
  | .send _ _ _ _ _ | .pub _ => true
  | _ => false
/-- A SEND or PUB of a stream, at or before an instruction, is still held (R112, R311). -/
def Job.holdsLate (j : Job) (st : StreamId) (seq : Nat) : Bool :=
  j.held.any (fun h => decide (h.org.st = st ∧ h.org.seq ≤ seq) && h.kind.afterRelease)
/-- The bound a stream puts on the frontier (R37): none at RDV; its coordinate, or one more while it waits at an advance; and its token
pushes that have not been made, but for those that wait for a SEND or PUB which FRONT has to release first (R112, R311). -/
def Job.doneBound (j : Job) (st : StreamId) : List Nat :=
  let t := j.stream st
  (if t.phase = .rdv then [] else [if t.adv.isSome then t.coord.toNat + 1 else t.coord.toNat]) ++
    (t.pushes.filter (fun p => !j.holdsLate st p.seq)).map (fun p => p.coord.toNat)
/-- Coordinates of operations that have not completed (R28, R37). -/
def Job.pendingCoords (j : Job) : List Nat :=
  j.ops.map (fun o => o.org.stamp.coord.toNat) ++ j.meQ.map (fun q => q.org.stamp.coord.toNat) ++
    j.ceQ.map (fun q => q.org.stamp.coord.toNat) ++ j.seQ.map (fun q => q.org.stamp.coord.toNat)
/-- The least coordinate that the frontier may not reach; `sends` are those of SENDs on their way (R311). -/
def Job.frontLimit (j : Job) (sends : List Nat) : Option Nat :=
  minBound (StreamId.all.flatMap (fun st => j.doneBound st) ++ j.pendingCoords ++ sends ++ (match j.landing with
    | some l => [l.bound]
    | none => []))
/-- The coordinates that the job's streams have held. -/
def Job.heldCoords (j : Job) : List Coord := StreamId.all.flatMap (fun st => (j.stream st).heldCoords)
/-- The greatest of some coordinates. -/
def maxCoord (l : List Coord) : Option Coord := l.foldl (fun r x => match r with
  | some y => if y < x then some x else some y
  | none => some x) none
/-- The frontier by R37: the greatest held coordinate below the limit, never below FRONT. -/
def Job.frontier (j : Job) (sends : List Nat) : Option Coord :=
  match maxCoord (j.heldCoords.filter (fun c => (j.frontLimit sends).all (fun b => decide (c.toNat < b)))) with
  | some f => if j.front.all (fun old => decide (old < f)) then some f else j.front
  | none => j.front

/-- Held coordinates of a stream after FRONT has moved to f: those beyond it, and the newest that is not. -/
def trimHeld (f : Coord) (l : List Coord) : List Coord :=
  (match l.filter (fun c => decide (c ≤ f)) with
    | [] => []
    | a :: r => [(a :: r).getLast (by simp)]) ++ l.filter (fun c => decide (f < c))
/-- Provisional pops that FRONT makes final (R26). -/
def Queue.free {α : Type} (f : Coord) (q : Queue α) : Queue α := { q with popped := q.popped.filter (fun p => decide (f < p.2.1)) }
/-- What a move of FRONT frees in a stream: pops, mask and network history, and the ring entries that no cut can need: the newest at or
before FRONT stays, since a landing at the cut after FRONT restores it (R26, R27, R39, R128, R202). -/
def Stream.free (f : Coord) (t : Stream) : Stream :=
  { t with
    regs := t.regs.map (Queue.free f)
    maskHist := t.maskHist.filter (fun x => decide (f < x.2.2))
    netHist := t.netHist.filter (fun x => decide (f < x.2.2))
    ring := (t.ring.filter (fun x => decide (x.coord ≤ f))).getLast?.toList ++ t.ring.filter (fun x => decide (f < x.coord))
    heldCoords := trimHeld f t.heldCoords
    awaited := t.awaited.filter (fun id => t.regs.toList.any (fun q => q.items.any (fun e => e.id = id) || q.popped.any (fun p => p.1.id = id))) }
/-- The coordinates that a move of FRONT to f reaches (R300). -/
def Job.reached (j : Job) (f : Coord) : Nat :=
  ((j.heldCoords.filter (fun c => j.beyond c && decide (c ≤ f))).dedup).length
/-- What a move of FRONT to f frees in a job (R26, R28, R129, R130, R220); the changes of restored registers at the front of their log
become final (R82); and the iteration budget counts (R300). -/
def Job.moveFront (j : Job) (f : Coord) : Job :=
  let r := foldRlog j.rbase (fun c => decide (c ≤ f)) j.rlog
  { j with
    ibCount := j.ibCount + j.reached f
    front := some f
    streams := j.streams.map (Stream.free f)
    tiles := j.tiles.map (Queue.free f)
    toks := j.toks.map (Queue.free f)
    fmtQ := Queue.free f j.fmtQ
    rlogMem := j.rlogMem.filter (fun e => decide (f < e.coord))
    retained := j.retained.filter (fun e => decide (f < e.coord))
    cbHist := j.cbHist.filter (fun e => decide (f < e.coord))
    semTaken := j.semTaken.filter (fun e => decide (f < e.coord))
    evTaken := j.evTaken.filter (fun e => decide (f < e.coord))
    held := j.held.filter (fun h => decide (f < h.org.stamp.coord))
    rbase := r.1
    rlog := r.2 }

/-- FRONT moves to a coordinate: the held effects it reaches are released in order, trace records leave, and an exhausted budget lands the
job (R131, R300, R391). A release that would put the die's fleet writes too far ahead waits (R319). -/
def State.frontTo (s : State) (c : CoreId) (f : Coord) : State := match s.job c with
  | none => s
  | some j =>
    let rel := j.held.filter (fun h => decide (h.org.stamp.coord ≤ f))
    if j.front = some f ∨ s.fleetRoom (dieOf c) (s.fleetWrites (dieOf c) rel) = false then s
    else
      let k := j.moveFront f
      let k := if k.hdr.ibud ≠ 0 ∧ k.hdr.ibud.toNat ≤ k.ibCount then k.hardStop 0x11 k.hdr.ibud else k
      let s := (s.setJob c k).markLanding c
      (s.releaseAll c k rel).traceRelease c
/-- The instruction of a job whose write to a shadow image of another die is on its way: it completes when the write has reached that image
(R37, R112, R288). -/
def FleetMsg.shadowOf (c : CoreId) (hd : Handle) : FleetMsg → Option Origin
  | .write _ _ _ _ _ _ _ _ (some _) (some x) => if x.core = c ∧ x.handle = hd then some x.org else none
  | _ => none
/-- Coordinates of the SENDs of the job on a core that have been released and not completed (R311), and of its writes on their way to shadow
images. -/
def State.sendCoords (s : State) (c : CoreId) (hd : Handle) : List Nat :=
  s.fleet.filterMap (fun m => (m.shadowOf c hd).map (fun o => o.stamp.coord.toNat)) ++
  (s.sendings.filter (fun x => decide (x.core = c ∧ x.handle = hd))).map (fun x => x.org.stamp.coord.toNat) ++
    (s.chunks.filter (fun x => decide (x.core = c ∧ x.handle = hd))).map (fun x => x.org.stamp.coord.toNat)
/-- The frontier of the job on a core moves as far as R37 lets it. -/
def State.settleFront (s : State) (c : CoreId) : State := match (s.job c).bind (fun j => j.frontier (s.sendCoords c j.handle)) with
  | none => s
  | some f => s.frontTo c f

/-! ### Advances (R39, R72, R73, R128) -/

/-- Advances from the newest coordinate at or before FRONT to the current one (R39). -/
def Stream.lead (j : Job) (t : Stream) : Nat := match j.front with
  | some f => (t.heldCoords.filter (fun c => decide (f < c))).length
  | none => t.advances + 1
/-- The state before an advance, for the iteration ring (R128). -/
def Stream.snap (j : Job) (st : StreamId) (p : Option Partition) (a : Adv) (t : Stream) : Snap :=
  { pc := t.pc, coord := t.coord, adv := some a, loops := t.loops, preds := t.preds, gens := t.gens,
    arrTeam := j.arrTeam, arrCrew := j.arrCrew, arrStep := j.arrStep, delivery := (p.map Partition.delivery).getD true,
    saved := (p.map Partition.savedPc).getD 0, inEntry := (p.map Partition.inEntry).getD false,
    replayIdx := j.replay.idx.get (StreamId.fin st), reopen := t.reopen, seq := j.seq }
/-- The stream in its new coordinate: a loop whose last kernel iteration ended closes and the program goes on at its end; otherwise the
next iteration starts, which an empty body ends at once (R73). -/
def Stream.enterCoord (t : Stream) (a : Adv) : Stream :=
  let t := { t with coord := a.target, adv := none, advances := t.advances + 1, heldCoords := t.heldCoords ++ [a.target], cause := 0 }
  match a.loop with
  | none => t.settle
  | some l => match t.loops.get l with
    | none => t.settle
    | some lp =>
      if Coord.ix a.target l.val = lp.k then Stream.settle { t with loops := t.loops.set l none, pc := lp.endo }
      else Stream.settle { t with pc := lp.start }

/-- The core's profile takes a copy of the live account when a loop closes (R270). -/
def Core.profileCopy (k : Core) (loopid : BitVec 32) : Core :=
  let order := ((k.prof.toList.filterMap (fun x => x.map ProfSlot.order)).foldl Nat.max 0) + 1
  let slot : ProfSlot := ⟨loopid, order, k.bank⟩
  let idx := (List.range 16).map (fun i => (⟨i % 16, Nat.mod_lt _ (by decide)⟩ : Fin 16))
  let pick : Fin 16 := match idx.find? (fun i => (k.prof.get i).any (fun x => x.loopId = loopid)) with
    | some i => i
    | none => match idx.find? (fun i => (k.prof.get i).isNone) with
      | some i => i
      | none => idx.foldl (fun (b : Fin 16) i => if ((k.prof.get i).map ProfSlot.order).getD 0 < ((k.prof.get b).map ProfSlot.order).getD 0 then i else b) 0
  { k with prof := k.prof.set pick.val (some slot) pick.isLt }

/-- The records of a kernel iteration's end, and of the loop's closing (R390), with the profile copy (R270). They carry the coordinate of the
instruction at whose end the event occurs, and no stage. DEDUCED (log 90): the worked example's close record has STAGE 0 after an instruction
of stage 1; the record of the iteration's end is taken alike. -/
def State.iterationEnd (s : State) (c : CoreId) (st : StreamId) (j : Job) (t : Stream) (a : Adv) : State := match a.loop with
  | none => s
  | some l => match t.loops.get l with
    | none => s
    | some lp =>
      let k := Coord.ix t.coord l.val
      let preds := [0, 1, 2, 3].foldl (fun n i => n + if lp.active k i && decide (i < lp.s) then 2 ^ i else 0) 0
      let s := s.trace c 4 st l.val (some t.last.stamp.coord) 0 t.last.seq (BitVec.ofNat 64 (k + preds * 2 ^ 16))
      if Coord.ix a.target l.val = lp.k then
        let s := s.trace c 3 st 1 (some t.last.stamp.coord) 0 t.last.seq (BitVec.ofNat 64 (Coord.ix a.target l.val))
        s.setCore c ((s.core c).profileCopy (BitVec.ofNat 32 ((lp.at_ - j.image).toNat / 8)))
      else s

/-- ADVANCE (R32, R39, R73, R124): the stream that waits at an advance makes it when its lead after it is at most LEADW, it does not leave
the cut of a landing, and no pending request is reached; an advance beyond its field traps. -/
def State.doAdvance (s : State) (c : CoreId) (st : StreamId) : State :=
  match s.job c with
  | none => s
  | some j0 =>
    if (j0.stream st).phase ≠ .issuing || (j0.stream st).adv.isNone then s
    else
      -- a request that the attempted advance reaches starts its landing; FRONT first moves as far as it may
      let s := (s.settleFront c)
      let s := (s.onJob c Job.checkStop).markLanding c
      match s.job c with
      | none => s
      | some j =>
        let t := j.stream st
        match t.adv with
        | none => s
        | some a =>
          if j.landing.any (fun l => !l.inside a.target) then
            s.setJob c (j.setStream st { t with phase := .parked, cause := 0 })
          else if t.pushes.any (fun p => p.blocked) then s
          else if j.hdr.leadw.toNat < (Stream.lead j t) + 1 then s.setJob c (j.stalled st 6 t.last.stamp.stage)
          else match a.tooFar with
            | some w => s.raise c (trapRec 0x05 w 0 0 { t.last with stamp := ⟨t.coord, t.last.stamp.stage⟩ })
            | none =>
              let s := s.iterationEnd c st j t a
              let sn := Stream.snap j st (s.part j.part) a t
              let s := s.onJob c (fun j => j.onStream st (fun t => Stream.enterCoord { t with ring := t.ring ++ [sn] } a))
              s.settleFront c
/-- ADVANCE (R39). -/
def execAdvance (core : CoreId) (st : StreamId) (s : State) : Host.Outcome State Fault Refusal := .next (s.doAdvance core st)

end Sys2Proof.Machine
end

