-- ==== Sys2Proof/Machine/Commands.lean ====
section
/-!
DEFINITION. Handing work to the engines, to the pending operations and to the held effects of the job (R20, R108, R113, R118, R131, R218),
and the supervisor's pending events (R257, R258).
-/
namespace Sys2Proof.Machine

/-- The queue of an engine. -/
def Job.queue (j : Job) : Engine → List Cmd
  | .me => j.meQ
  | .ce => j.ceQ
  | .se => j.seQ
/-- The job with the queue of an engine replaced. -/
def Job.setQueue (j : Job) (e : Engine) (q : List Cmd) : Job := match e with
  | .me => { j with meQ := q }
  | .ce => { j with ceQ := q }
  | .se => { j with seQ := q }
/-- Entries in use of the sixteen that an engine holds: a command leaves the ME's queue when it starts (R218); the copy engine and the
store engine hold their commands until these complete (R108, R113). -/
def Job.queued (j : Job) (e : Engine) : Nat := match e with
  | .me => (j.meQ.filter (fun q => q.started = .none)).length
  | _ => (j.queue e).length
/-- Place a command in an engine's queue; a full queue stalls with cause 10. -/
def enqueue (e : Engine) (h : Hdr) (k : CmdKind) : M Unit := do
  let j ← getJob
  if 16 ≤ j.queued e then stall 10
  let o ← originOf h
  setJob (j.setQueue e (j.queue e ++ [⟨j.seq, o, k, .none, false, 0⟩]))

/-- Leave a direct operation pending: an event performs it and fills its entry (R20). -/
def pend (h : Hdr) (k : OpKind) : M Unit := do
  let o ← originOf h
  let n := (← get).tick
  modifyJob (fun j => { j with ops := j.ops ++ [⟨j.seq, o, k, none, n⟩] })
/-- Hold a cross-job effect until FRONT reaches the instruction's stamp (R131). -/
def hold (h : Hdr) (k : HeldKind) : M Unit := do
  let o ← originOf h
  modifyJob (fun j => { j with held := j.held ++ [⟨j.seq, o, k, none⟩] })

/-- Sectors of the release buffer in use (R118, R136): held stores and blocks. -/
def Held.sectors (h : Held) : Nat := match h.kind with
  | .store _ bs _ => (bs.length + 31) / 32
  | .plain _ bs _ => (bs.length + 31) / 32
  | .rst _ bs _ _ _ => (bs.length + 31) / 32
  | _ => 0
/-- Sectors of the job's release buffer in use. -/
def Job.relSectors (j : Job) : Nat := (j.held.map Held.sectors).sum

/-- Raise an access fault as a trap of the executing instruction. -/
def faultTrap {α : Type} (f : AStop) : M α := match f with
  | .fault x => if x.cause = 0x0A then throw (.poison x.info.toNat x.va) else throw (.trap x.cause x.info 0)
  | .fetch line => throw (.fetch line)
  | .fabric ga r => throw (.trap 0x12 ga r)
  | .drains => throw (.stall 0)
/-- The requester that the executing stream is. -/
def whoNow : M Who := do
  let s ← get
  let j ← getJob
  return s.who s.cur.1 j

/-! ### A job's view of its own stores (R119) -/

/-- The key in the numbering of memory of a byte of this module at a global address, for a partition's access (R275, R276, R281). -/
def State.gaKey (s : State) (pn : PartId) (ga : Nat) : Option Nat :=
  if ga / 2 ^ 50 ≠ s.module.node.toNat then none
  else match regionOf (ga % 2 ^ 50) with
    | .acc c t o => (s.tileKey pn c t o).1
    | .spad c o => (s.job c).bind (fun j =>
        if j.part = pn ∧ o < j.hdr.spg * 0x10000 then some (poolKey c ((j.hdr.tdep + j.hdr.acg) * 0x10000 + o)) else none)
    | .unmapped => none
    | _ => some (ga % 2 ^ 50)
/-- Byte i of a block, with the poison of its sector (R292). -/
def blockByte (bs : List Byte) (bad : List Bool) (i : Nat) : Option (Byte × Bool) := bs[i]?.map (fun b => (b, bad.getD (i / 32) false))
/-- The byte of a key that a store from a global address on writes, when it does. -/
def State.byteAt (s : State) (pn : PartId) (ga : Word) (bs : List Byte) (bad : List Bool) (key : Nat) : Option (Byte × Bool) :=
  match s.gaKey pn ga.toNat with
  | some k => if k ≤ key ∧ key < k + bs.length then blockByte bs bad (key - k) else none
  | none => none
/-- The byte of a key that a held effect writes when it is released: a store, a block of RST, or a store through a foreign page. An RSTA's
sums have no value before they are made. -/
def State.heldAt (s : State) (pn : PartId) (key : Nat) : HeldKind → Option (Byte × Bool)
  | .store q bs bad => if q ≤ key ∧ key < q + bs.length then bs[key - q]?.map (fun b => (b, bad)) else none
  | .plain ga bs bad => s.byteAt pn ga bs [bad] key
  | .rst ga bs bad _ acc => if acc then none else s.byteAt pn ga bs bad key
  | _ => none
/-- The byte of a key that a request on its way writes. -/
def State.sentAt (s : State) (pn : PartId) (key : Nat) (ga : Word) : RemoteKind → Option (Byte × Bool)
  | .plain bs bad => s.byteAt pn ga bs [bad] key
  | .store bs bad _ acc => if acc then none else s.byteAt pn ga bs bad key
  | _ => none
/-- The byte of a key that a fleet write of a job on its way to its home writes, with the number of its instruction (R318). -/
def FleetMsg.byteAt (c : CoreId) (hd : Handle) (key : Nat) : FleetMsg → Option (Nat × Byte)
  | .write _ _ ln off bs _ _ _ none (some w) =>
    if w.core = c ∧ w.handle = hd ∧ ln * 64 + off ≤ key then (bs[key - (ln * 64 + off)]?).map (fun b => (w.org.seq, b)) else none
  | _ => none
/-- The later of two bytes, each with the number of its instruction. -/
def laterByte (r x : Option (Nat × Byte)) : Option (Nat × Byte) := match r, x with
  | some a, some b => if b.1 < a.1 then some a else some b
  | some a, none => some a
  | none, y => y
/-- The newest value that a job's own stores give a byte that they have still to write: those on their way and then those held (R119,
R272). -/
def State.ownByte (s : State) (c : CoreId) (j : Job) (key : Nat) : Option Byte :=
  let sent := s.remotes.foldl (fun r x => if x.core = c ∧ x.handle = j.handle then
    laterByte r ((s.sentAt j.part key x.ga x.kind).map (fun b => (x.id, b.1))) else r) none
  let sent := s.fleet.foldl (fun r m => laterByte r (m.byteAt c j.handle key)) sent
  j.held.foldl (fun r h => ((s.heldAt j.part key h.kind).map Prod.fst).or r) (sent.map Prod.snd)
/-- The job has stores that it has still to write. -/
def State.ownStores (s : State) (c : CoreId) (j : Job) : Bool := !j.held.isEmpty || s.remotes.any (fun x => decide (x.core = c ∧ x.handle = j.handle)) ||
  s.fleet.any (fun m => m.isWrite && m.writer.any (fun w => decide (w.core = c ∧ w.handle = j.handle)))
/-- Bytes from a key on as a job sees them (R119): its own newest stores over what has been written. A line that is poisoned stays so under
a store of a part of it (R290); a poisoned store that has not been written poisons nothing yet (R292). -/
def State.seenBytes (s : State) (c : CoreId) (j : Job) (key : Nat) (l : List (Byte × Option Nat)) : List (Byte × Option Nat) :=
  if s.ownStores c j then l.zipIdx.map (fun x => match s.ownByte c j (key + x.2) with
    | some b => (b, x.1.2)
    | none => x.1)
  else l
/-- Bytes of a core's own pool as its job sees them. -/
def State.ownPool (s : State) (c : CoreId) (p n : Nat) : List Byte :=
  let bs := memBytes s.mem (poolKey c p) n
  match s.job c with
  | some j => (s.seenBytes c j (poolKey c p) (bs.map (fun b => (b, none)))).map Prod.fst
  | none => bs

/-! ### Pending events of the supervisor (R257, R258) -/

/-- The event that WAITEV takes. -/
inductive TakeEv where
  /-- the list entry at this place -/
  | entry (n : Nat) (ev : Event)
  | mailbox (n : Nat)
  | timer
  | fabric (n : Nat)
  deriving DecidableEq, Repr
/-- The event word of a taken event. -/
def TakeEv.word : TakeEv → Word
  | .entry _ ev => ev.word
  | .mailbox n => eventWord 3 0 0 n 0
  | .timer => eventWord 4 0 0 0 0
  | .fabric n => eventWord 5 0 0 n 0
/-- A list entry is enabled in EVMASK. -/
def Partition.entryOn (p : Partition) (ev : Event) : Bool :=
  if pteBits ev.word 63 60 = 1 then p.evmask.getLsbD 0 else p.evmask.getLsbD 1
/-- The oldest enabled list entry with its place, from place n on. -/
def firstOn (p : Partition) : Nat → List Event → Option (Nat × Event)
  | _, [] => none
  | n, ev :: l => if p.entryOn ev then some (n, ev) else firstOn p (n + 1) l
/-- The lowest bit that is 1. -/
def firstBit (b : BitVec 16) : Option Nat := (List.range 16).find? (fun n => b.getLsbD n)
/-- The event that is taken next: the oldest enabled list entry, then mailbox 0 to 15, the timer, fabric 0 to 15. -/
def Partition.nextEvent (p : Partition) : Option TakeEv :=
  match firstOn p 0 p.events with
  | some (n, ev) => some (.entry n ev)
  | none => match (if p.evmask.getLsbD 2 then firstBit p.mbxFlags else none) with
    | some n => some (.mailbox n)
    | none =>
      if p.evmask.getLsbD 3 && p.timerFlag then some .timer
      else match (if p.evmask.getLsbD 4 then firstBit p.fabFlags else none) with
        | some n => some (.fabric n)
        | none => none
/-- Entries that waited for room move into the list of 64 (R257). -/
def Partition.refill (p : Partition) : Partition :=
  let n := 64 - p.events.length
  { p with events := p.events ++ p.eventsWait.take n, eventsWait := p.eventsWait.drop n }
/-- The partition after an event has been taken: its pending state is cleared, and TRAPREC shows the record of the job it names (R85,
R256). -/
def Partition.clearEvent (p : Partition) : TakeEv → Partition
  | .entry n ev => Partition.refill { p with events := p.events.eraseIdx n, shownRec := some ev }
  | .mailbox n => { p with mbxFlags := p.mbxFlags &&& ~~~((1 : BitVec 16) <<< n) }
  | .timer => { p with timerFlag := false }
  | .fabric n => { p with fabFlags := p.fabFlags &&& ~~~((1 : BitVec 16) <<< n) }

end Sys2Proof.Machine
end

