-- ==== Sys2Proof/Machine/Start.lean ====
section
/-!
DEFINITION. The state in which a job starts (R31, R32, R72, R148, R251, R263) and a partition begins (R257, R258, R322, R334, R357,
R392, R393).
-/
namespace Sys2Proof.Machine

/-- An affine generator of zeros (R106). -/
def Gen.zero : Gen := ⟨0, Vector.replicate 5 0⟩

/-- The state of a stream at its start (R124, R128). -/
def Snap.start (pc : Word) (coord : Coord) (arrTeam arrCrew arrStep : Nat) (reopen : Option (Fin 5 × Nat)) (seq : Nat) : Snap :=
  { pc := pc, coord := coord, adv := none, loops := Vector.replicate 5 none, preds := 0, gens := Vector.replicate 8 Gen.zero,
    arrTeam := arrTeam, arrCrew := arrCrew, arrStep := arrStep, delivery := true, saved := 0, inEntry := false, replayIdx := 0,
    reopen := reopen, seq := seq }
/-- A stream at the start of a job: coordinate 0, empty registers, masks and predicates 0, no loop (R18, R32, R148). An entry offset of
0 is an implicit RDV. A place word stands in s30 at team level and above (R263). -/
def Stream.start (pc : Word) (runs : Bool) (place : Option Word) : Stream :=
  let regs : Vector (Queue Word) 31 := Vector.replicate 31 Queue.empty
  let regs := match place with
    | some w => regs.set (30 : Fin 31) ⟨[⟨some w, ⟨0, 0⟩, .none, false, 0, none⟩], []⟩
    | none => regs
  { pc := pc, coord := 0, phase := if runs then .issuing else .rdv, adv := none, regs := regs,
    masks := Vector.replicate 8 0, maskHist := [], preds := 0, loops := Vector.replicate 5 none, ring := [],
    first := if runs then some (Snap.start pc 0 0 0 0 none 0) else none, heldCoords := [0],
    advances := 0, leadcyc := 0, cause := 0, gens := Vector.replicate 8 Gen.zero, nets := Vector.replicate 8 0, netHist := [],
    wait := .none, prog := none, pushes := [], last := ⟨.c, ⟨0, 0⟩, 0, pc⟩, reopen := none, softLevel := none,
    tried := false, waitStage := 0, fences := [], awaited := [] }

/-- The index in the header's tables of a stream: C, A, V, S. -/
def Header.entryOf (h : Header) (st : StreamId) : Word := (h.entry.get (StreamId.fin st)).setWidth 64

/-- A job as it starts from its image (R72, R148, R251, R263). -/
def Job.start (handle : Handle) (part : PartId) (image : Word) (hdr : Header) (level : BitVec 2) (ord : Nat)
    (places : StreamId → Option Word) (map : Vector SemEntry 32) (recording : Bool) (t0 : Word) : Job :=
  let str (st : StreamId) : Stream :=
    Stream.start (image + hdr.entryOf st) (hdr.entryOf st != 0) (places st)
  { handle := handle, part := part, image := image, hdr := hdr, level := level, ord := ord,
    streams := #v[str .c, str .a, str .v, str .s], tiles := Vector.replicate 16 Queue.empty, tileTail := Vector.replicate 16 0, tileLeft := [],
    toks := Vector.replicate 8 Queue.empty, front := none, seq := 1, rbase := ⟨Vector.replicate 6 0, 0, 0⟩, rlog := [],
    stop := none, stopst := 0, traprec := Vector.replicate 4 0, landing := none, ops := [], meQ := [], ceQ := [], seQ := [],
    fmtQ := Queue.empty, openSet := [], committed := [], codebooks := Vector.replicate 4 (List.replicate 16 LogWord.zeroWord), cbv := 0, cbHist := [],
    bindings := [], rlogMem := [], retained := [], held := [], veils := [], arrivals := [], semMap := map, arrTeam := 0, arrCrew := 0, arrStep := 0,
    counters := Vector.replicate 16 0, govstall := 0, ibCount := 0, trace := [],
    replay := ⟨recording, false, 0, 0, Vector.replicate 4 0⟩, t0 := t0, passages := [], clamps := [], semTaken := [], evTaken := [],
    usedcyc := 0, savecyc := 0, scrubcyc := 0, bankKept := [], profKept := Vector.replicate 16 none }

/-- Mailboxes and registers of a new partition; the record's words are those of R322. -/
def Partition.start (clmask : BitVec 64) (root : Nat) (errva cmpva ctxva mcmdva slva : Word) (slcnt : BitVec 16) (recva : Word)
    (supcore : CoreId) (image : Word) (handle : Handle) : Partition :=
  { clmask := clmask, root := root, errva := errva, cmpva := cmpva, ctxva := ctxva, mcmdva := mcmdva, slva := slva, slcnt := slcnt,
    recva := recva, supcore := supcore, supImage := image, supHandle := handle, evmask := 0, tvec := 0, armed := false,
    timerFlag := false, mbxFlags := 0, fabFlags := 0, events := [], eventsWait := [], delivery := true, savedPc := 0,
    inEntry := false, shownRec := none, mailboxes := Vector.replicate 16 [], mbxTaken := [], ovfcnt := 0, badcnt := 0, pstate := 0,
    pcause := 0, pkind := 0, supRec := Vector.replicate 4 0, usedcyc := 0, savecyc := 0, scrubcyc := 0, tofs := 0,
    tscl := 0x100000000, emap := Vector.replicate 64 0, emapPending := [], ckpair := 0, ckseal := 0, ckgen := 0, ckBusy := none,
    ckBlock := [], ckMap := [], ckFirst := 0, sealedGens := [], ckNo := 0, tctl := 0xF00, trbase := 0, trsize := 0, trigat := 0, dbgcore := 0, trigArmed := false,
    trLost := 0, trHeld := [], trigger := none, nonce := [], quoteReady := false, quote := [], mitten := [], seqNext := 1, tearing := 0, restartAsked := false }

/-- The map of a job whose private block is `priv` and whose shared block is `shar` (R251). -/
def semMapOf (priv shar : Nat) : Vector SemEntry 32 := Vector.ofFn (fun i =>
  if i.val < 16 then ⟨true, false, BitVec.ofNat 8 (16 * priv + i.val)⟩ else ⟨true, true, BitVec.ofNat 8 (16 * shar + i.val - 16)⟩)

end Sys2Proof.Machine
end

