-- ==== Sys2Proof/Machine/Context.lean ====
section
/-!
DEFINITION. Saved contexts (R330, R332, R333, R399, R401, R418): the register block as bytes, saving a job with its grant and its semaphore counts,
reading a context back, and the scrub of a core.
-/
namespace Sys2Proof.Machine

/-! ### Registers that are composed for a reader -/

/-- An MMA of the job runs or is the next command to start (R238). -/
def Job.mmaReady (j : Job) : Bool := j.meQ.head?.any (fun q => match q.kind with
  | .mma _ _ _ _ _ _ _ _ => true
  | _ => false)
/-- The governor withholds issue cycles of an MMA that is ready: those of the window have reached the budget, and no landing lets it run on
(R237, R238). -/
def Core.withholds (k : Core) : Bool := k.job.any (fun j => j.mmaReady && j.landing.isNone) && decide (k.budget.toNat ≤ k.issued)
/-- MSTAT (R237): the flags, and the ME's state as it is at the read. -/
def Job.mstat (j : Job) (gwh : Bool) : Word :=
  let busy := (List.range 16).foldl (fun n b => n + if j.committed.any (fun c => decide (c.1.toNat = b) && j.meQ.any (fun q => q.id = c.2.1))
    then 2 ^ b else 0) 0
  BitVec.ofNat 64 (busy * 2 ^ 36 + j.cbv.toNat * 2 ^ 32 + (j.meQ.filter (fun q => q.started = .none)).length % 32 * 2 ^ 27 + j.fmtQ.items.length % 32 * 2 ^ 22 +
    bitNat gwh * 2 ^ 21 + (j.rreg .mstat &&& 0xFC).toNat)
/-- STOPAT (R123): the pending request of a STOPAT or of a register write. -/
def Job.stopatWord (j : Job) : Word := match j.stop with
  | some r => if r.kind = 1 ∨ (r.kind = 5 ∧ r.origin = 1) then coordWord r.coord ||| (if r.brk then 1 <<< 62 else 0) else 0
  | none => 0
/-- The stall cause that a stream shows (R41): 9 at rendezvous, 5 while a token push waits for room, else that of its last attempt. -/
def Stream.stallCause (t : Stream) : BitVec 4 :=
  if t.phase = .rdv then 9 else if t.pushes.any (fun p => p.blocked) then 5 else t.cause
/-- STALLC (R41). -/
def Stream.stallc (t : Stream) (own : Bool) : Word :=
  BitVec.ofNat 64 (t.leadcyc.toNat * 2 ^ 32 + if own then 0 else t.stallCause.toNat)

/-! ### Where a context lies (R330) -/

/-- The ordinal of a core among the cores of a partition. -/
def Partition.coreOrd (p : Partition) (c : CoreId) : Nat := ((List.range c.val).filter (fun n => p.ownsCore (coreOf n))).length
/-- The address of the context area of a queue slot of a core (R330). -/
def Partition.ctxArea (p : Partition) (c : CoreId) (slot : Nat) : Word := p.ctxva + BitVec.ofNat 64 ((8 * p.coreOrd c + slot) * 0x410000)
/-- The word of a grant, as bits 47:32 of the SPAWN status word (R92). -/
def Header.grant (h : Header) : Nat := h.tdep % 8 * 2 ^ 13 + h.spg % 128 * 2 ^ 6 + h.acg % 64
/-- The granules of a grant (R146). -/
def Header.granules (h : Header) : Nat := h.tdep + h.acg + h.spg
/-- Token FIFO e of a context: forward from A, V, S and C, then backward from V, S, C and A (R330). -/
def ctxFifo (e : Nat) : Fin 8 := ⟨[3, 5, 7, 1, 4, 6, 0, 2].getD (e % 8) 0 % 8, Nat.mod_lt _ (by decide)⟩
/-- A semaphore map entry (R251). -/
def SemEntry.bits (e : SemEntry) : Nat := bitNat e.valid * 2 ^ 15 + bitNat e.shared * 2 ^ 14 + e.phys.toNat
/-- The map entry that two bytes hold; one with reserved bits set is not valid (R345). -/
def semEntryOf (n : Nat) : SemEntry := ⟨decide (n / 2 ^ 15 % 2 = 1 ∧ n / 2 ^ 8 % 2 ^ 6 = 0), decide (n / 2 ^ 14 % 2 = 1), BitVec.ofNat 8 n⟩

/-! ### The register block as bytes (R330) -/

/-- A list of words, filled up with zeros to n. -/
def padWords (n : Nat) (l : List Word) : List Word := (l ++ List.replicate n 0).take n
/-- The mark bits of queue entries: bit n + i for a marked entry i. -/
def markBits (n : Nat) (p : Mark → Bool) (l : List Mark) : Nat := (l.zipIdx.map (fun x => if p x.1 then 2 ^ (n + x.2) else 0)).sum
/-- The mark is poison. -/
def Mark.isPoison : Mark → Bool
  | .poison _ => true
  | _ => false
/-- The mark is a fabric error. -/
def Mark.isFabric : Mark → Bool
  | .fabric _ _ => true
  | _ => false
/-- A queue register: its count word and its entries, oldest first. -/
def ctxReg (q : Queue Word) : List Word :=
  let ms := q.items.map QEntry.mark
  BitVec.ofNat 64 (q.items.length % 8 + markBits 8 Mark.isPoison ms + markBits 16 Mark.isFabric ms) ::
    padWords 4 (q.items.map (fun e => e.val.getD 0))
/-- A loop level: T, the state word, start and end. -/
def ctxLoop : Option Loop → List Word
  | some l => [BitVec.ofNat 64 l.t, BitVec.ofNat 64 (2 ^ 63 + (l.s - 1) % 4 * 2 ^ 60 + l.f % 2 ^ 16), l.start, l.endo]
  | none => [0, 0, 0, 0]
/-- The pieces of a stream's block with their offsets in the register block. -/
def Stream.ctx (st : StreamId) (t : Stream) : List (Nat × List Byte) :=
  let base := 0xA000 + 0x1000 * st.num
  let flags := (if t.phase = .parked then 1 else 0) + (if t.phase = .rdv then 2 else 0)
  [(base, wordBytes [coordWord t.coord, t.pc, t.stallc false, BitVec.ofNat 64 flags]),
    (base + 0x20, wordBytes (t.loops.toList.flatMap ctxLoop)),
    (base + 0xC0, leBytes 8 t.preds.toNat),
    (base + 0x100, t.masks.toList.flatMap (fun m => leBytes 128 m.toNat)),
    (base + 0x500, wordBytes (t.regs.toList.flatMap ctxReg)),
    (base + 0xA00, match st with
      | .a => wordBytes (t.gens.toList.flatMap (fun g => g.base :: g.coef.toList))
      | .v => t.nets.toList.flatMap (fun n => leBytes 48 n.toNat)
      | _ => []),
    (base + 0xB80, wordBytes (t.regs.toList.flatMap (fun q => padWords 4 (q.items.map (fun e => coordWord e.stamp.coord)))))]
/-- A tile queue's word with its head slot (R330). -/
def ctxTile (head : Nat) (q : Queue Tile) : Word :=
  BitVec.ofNat 64 (q.items.length % 8 + head % 8 * 2 ^ 8 + markBits 16 Mark.isPoison (q.items.map QEntry.mark))
/-- The count of a semaphore that a map entry names on a core's cluster. -/
def State.semCount (s : State) (c : CoreId) (e : SemEntry) : Nat := (s.sem (clusterOf c) e.phys).count
/-- The bank account as 512 counters. -/
def bankBytes (l : List (Nat × BitVec 32)) : List Byte := (List.range 512).flatMap (fun i =>
  leBytes 4 (((l.find? (fun e => e.1 = i)).map Prod.snd).getD 0).toNat)
/-- A profile slot: the LOOPID word, then its counters. -/
def profBytes : Option ProfSlot → List Byte
  | some p => leBytes 8 p.loopId.toNat ++ bankBytes p.counts
  | none => List.replicate 2056 0
/-- The first words of the register block, up to 0x1000: all that a live-range save keeps of it. -/
def State.ctxHead (s : State) (c : CoreId) (j : Job) (live : Bool) : List (Nat × List Byte) :=
  [(0, wordBytes [BitVec.ofNat 64 ((if live then 2 else 1) * 2 ^ 56 + j.handle.toNat), BitVec.ofNat 64 j.hdr.grant, j.usedcyc, j.savecyc,
      j.scrubcyc, optCoordWord j.front, j.stopst]),
    (0x38, wordBytes j.traprec.toList),
    (0x58, wordBytes [j.stopatWord]),
    (0x60, wordBytes [j.rreg .rmode, j.rreg .fzctl, j.rreg .srseed, j.rreg .mseed, j.rreg .mconst, j.mstat false, j.govstall, BitVec.ofNat 64 j.ibCount]),
    (0xA0, j.semMap.toList.flatMap (fun e => leBytes 2 e.bits)),
    (0xE0, j.semMap.toList.flatMap (fun e => leBytes 4 (s.semCount c e))),
    (0x160, wordBytes [BitVec.ofNat 64 j.arrTeam, BitVec.ofNat 64 j.arrCrew])]
/-- The rest of the register block, with the head slot of each tile queue. -/
def State.ctxRest (s : State) (c : CoreId) (j : Job) (head : Nat → Nat) : List (Nat × List Byte) :=
  let k := s.core c
  [(0x1000, bankBytes k.bank)] ++ (k.prof.toList.zipIdx.map (fun x => (0x1800 + 0x808 * x.2, profBytes x.1))) ++
  StreamId.all.flatMap (fun st => (j.stream st).ctx st) ++
  [(0xE000, (List.range 8).flatMap (fun e =>
      let q := j.toks.get (ctxFifo e)
      wordBytes (BitVec.ofNat 64 q.items.length :: padWords 8 (q.items.map (fun x => coordWord x.stamp.coord))))),
    (0xE400, wordBytes (j.tiles.toList.zipIdx.map (fun x => ctxTile (head x.2) x.1))),
    (0xE600, j.codebooks.toList.flatMap (fun l => l.flatMap (fun w => leBytes 4 w.bits))),
    (0xE700, wordBytes (j.tiles.toList.flatMap (fun q => padWords 4 (q.items.map (fun e => coordWord e.stamp.coord))))),
    (0xF000, wordBytes (j.counters.toList ++ [BitVec.ofNat 64 (bitNat j.replay.replaying * 2 ^ 63 + j.replay.base.toNat % 2 ^ 56),
      BitVec.ofNat 64 j.replay.count] ++ j.replay.idx.toList.map (BitVec.ofNat 64)))]

/-! ### Saving (R332, R418) -/

/-- The check of a context area: each of its 65 pages lies with these permissions in DRAM of an owned die (R418). -/
def State.ctxCheck (s : State) (pn : PartId) (area : Word) (write : Bool) : Except AFault Unit :=
  (List.range 65).forM (fun i =>
    let a := area.toNat + i * 0x10000
    match s.partLoc pn .r a with
    | .error e => .error e
    | .ok _ => if write then (s.partLoc pn .w a).map (fun _ => ()) else .ok ())
/-- Write pieces at offsets from an address on. -/
def State.writePieces (s : State) (pn : PartId) (base : Nat) (l : List (Nat × List Byte)) : Except AFault State :=
  l.foldlM (fun (s : State) x => s.partWrite pn (base + x.1) x.2) s
/-- A granule of a core's pool is copied to the image; a poisoned sector ends the save (R418). -/
def State.saveGranule (s : State) (pn : PartId) (c : CoreId) (area g : Nat) : Except AFault State :=
  match s.poisonAt (poolKey c (g * 0x10000)) 0x10000 with
  | some x => .error ⟨0x0A, BitVec.ofNat 64 (s.poisonInfo x), 0⟩
  | none => s.partWrite pn (area + g * 0x10000) (memBytes s.mem (poolKey c (g * 0x10000)) 0x10000)
/-- The slot that holds the oldest entry of a tile queue (R146, R330). -/
def Job.headSlot (j : Job) (n : Nat) : Nat := j.tileSlot (tileIdx n) 0
/-- A tile in its slot of the tile region: the offset in the pool, and the bytes (R146). -/
def ringSlot (n slot : Nat) (v : Tile) : Nat × List Byte := (slot * 0x10000 + n * 4096, v.toList.flatMap (fun w => leBytes 4 w.toNat))
/-- What the tile region holds beyond the bytes of memory (R146, R148, R330): what the job's tiles have left in their slots, and the entries
of its queues. -/
def Job.tileBytes (j : Job) : List (Nat × List Byte) := j.tileLeft.map (fun x => ringSlot x.1.val x.2.1 x.2.2) ++
  j.tiles.toList.zipIdx.flatMap (fun x => x.1.items.zipIdx.filterMap (fun e =>
    e.1.val.map (ringSlot x.2 (j.tileSlot (tileIdx x.2) e.2))))
/-- The live ranges of the job's SOFT landing as pool offsets and lengths (R141, R149). -/
def Job.liveRanges (j : Job) : List (Nat × Nat) := match StreamId.all.findSome? (fun st => (j.stream st).softLevel) with
  | none => []
  | some (l, _) => match j.hdr.cutSafe.find? (fun e => e.level = l) with
    | none => []
    | some e => e.ranges.map (fun w =>
      ((if w.getLsbD 63 then j.hdr.tdep else j.hdr.tdep + j.hdr.acg) * 0x10000 + w.toNat % 2 ^ 32, w.toNat / 2 ^ 32 % 2 ^ 23))
/-- A live range is copied to the image page by page. -/
def State.saveRange (s : State) (pn : PartId) (c : CoreId) (area : Nat) (x : Nat × Nat) : Except AFault State :=
  (pieces x.1 x.2).foldlM (fun (s : State) p => match s.poisonAt (poolKey c p.1) p.2 with
    | some k => .error ⟨0x0A, BitVec.ofNat 64 (s.poisonInfo k), 0⟩
    | none => s.partWrite pn (area + p.1) (memBytes s.mem (poolKey c p.1) p.2)) s
/-- The bytes that a save copies. -/
def Job.saveBytes (j : Job) (live : Bool) : Nat := if live then (j.liveRanges.map Prod.snd).sum else j.hdr.granules * 0x10000
/-- The cycles of a save or a restore (R332): 512 bytes a cycle, and 128 for the register block. -/
def saveCycles (n : Nat) : Nat := (n + 511) / 512 + 128
/-- The cycles of a scrub (R333). -/
def scrubCycles : Nat := 2048 + 64

/-- A job's context goes to its area (R330, R332): `live` keeps only the live ranges. Nothing is written when the check fails. -/
def State.saveContext (s : State) (pn : PartId) (c : CoreId) (area : Word) (j : Job) (live : Bool) : Except AFault State :=
  match s.ctxCheck pn area true with
  | .error e => .error e
  | .ok _ =>
    let head := s.ctxHead c j live
    let base := area.toNat + 0x400000
    if live then do
      let t ← j.liveRanges.foldlM (fun (s : State) x => s.saveRange pn c area.toNat x) s
      t.writePieces pn base head
    else do
      let t ← (List.range j.hdr.granules).foldlM (fun (s : State) g => s.saveGranule pn c area.toNat g) s
      let t ← t.writePieces pn area.toNat j.tileBytes
      t.writePieces pn base (head ++ s.ctxRest c j j.headSlot)

/-! ### Scrubbing (R333) -/

/-- The first granules of a core's pool as at power-up: every byte 0 and no poison. -/
def State.clearPool (s : State) (c : CoreId) (granules : Nat) : State :=
  let lo := poolKey c 0
  let hi := lo + granules * 0x10000
  { s with mem := s.mem.filter (fun x => x.1 < lo || hi ≤ x.1), poison := s.poison.filter (fun x => x * 32 < lo || hi ≤ x * 32) }
/-- Mitten scrubs a core (R333): its pool, the account and the profile, its L1 TLB, and the entries of a partition in its cluster's L2 and
its die's walker cache. -/
def State.scrub (s : State) (c : CoreId) (pn : PartId) : State :=
  let s := s.clearPool c 64
  let s := s.setCore c { s.core c with bank := [], prof := Vector.replicate 16 none }
  let s := { s with
    tlb := s.tlb.filter (fun t => !(if t.l2 then decide (clusterOf t.core = clusterOf c ∧ t.part = pn) else decide (t.core = c)))
    walker := s.walker.filter (fun e => !decide (e.die = dieOf c ∧ e.part = pn)) }
  s.onPart pn (fun p => { p with scrubcyc := p.scrubcyc + BitVec.ofNat 64 scrubCycles })

/-! ### Reading a context back (R330, R418) -/

/-- A reader of a context area: n bytes at an offset, as a number. -/
def State.ctxRead (s : State) (pn : PartId) (area : Word) (o n : Nat) : Nat := match s.partPa pn .r (area.toNat + o) with
  | .ok k => leNat (memBytes s.mem k n)
  | .error _ => 0
/-- The parts of a context area that a restore reads, each in one page: the grant's granules and the register block, or the first words of the
block and the live ranges (R142, R330). -/
def Job.restoreParts (j : Job) (live : Bool) : List (Nat × Nat) :=
  if live then (0x400000, 0x170) :: j.liveRanges.flatMap (fun x => pieces x.1 x.2)
  else (List.range j.hdr.granules ++ [64]).map (fun i => (i * 0x10000, 0x10000))
/-- A poisoned line among parts of a context area. -/
def State.ctxPoison (s : State) (pn : PartId) (area : Word) (l : List (Nat × Nat)) : Option Nat :=
  l.findSome? (fun x => match s.partLoc pn .r (area.toNat + x.1) with
    | .ok k => s.poisonAt k x.2
    | .error _ => none)
/-- A mark read back: the mark that the entry had, or one of the saved kind whose address the context does not hold. -/
def markBack (old : Mark) (poison fabric : Bool) (a : Word) : Mark :=
  if fabric then (if old.isFabric then old else .fabric a 0) else if poison then (if old.isPoison then old else .poison a.toNat) else .none
/-- The entries of a queue register read back over those that were saved. -/
def regBack (old : Queue Word) (count : Nat) (vals stamps : Nat → Nat) (a : Word) : Queue Word :=
  ⟨(List.range (Nat.min 4 (count % 8))).map (fun i =>
    let m := markBack ((old.items[i]?.map QEntry.mark).getD .none) (count / 2 ^ (8 + i) % 2 = 1) (count / 2 ^ (16 + i) % 2 = 1) a
    ⟨some (BitVec.ofNat 64 (vals i)), ⟨BitVec.ofNat 62 (stamps i), 0⟩, m, false, 0, none⟩), []⟩
/-- A loop read back; its LOOP stands one word before its body. -/
def loopBack (old : Option Loop) (t w start endo : Nat) : Option Loop :=
  if w / 2 ^ 63 % 2 = 0 then none
  else
    let s := w / 2 ^ 60 % 4 + 1
    some ⟨t, s, if t = 0 then 0 else t + s - 1, w % 2 ^ 16, BitVec.ofNat 64 start, BitVec.ofNat 64 endo, BitVec.ofNat 64 start - 8,
      (old.map Loop.num).getD 0⟩
/-- A stream read back over the one that was saved: what the block does not hold is kept; an advance that waits is kept where the stream
stands where it stood. -/
def Stream.back (st : StreamId) (old : Stream) (rd : Nat → Nat → Nat) (a : Word) : Stream :=
  let o := 0xA000 + 0x1000 * st.num
  let w (x : Nat) : Nat := rd (o + x) 8
  let coord : Coord := BitVec.ofNat 62 (w 0)
  let pc := BitVec.ofNat 64 (w 8)
  let flags := w 0x18
  let t : Stream := { old with
    coord := coord
    pc := pc
    leadcyc := BitVec.ofNat 32 (w 0x10 / 2 ^ 32)
    cause := 0
    phase := if flags / 2 % 2 = 1 then .rdv else if flags % 2 = 1 then .parked else .issuing
    adv := if coord = old.coord ∧ pc = old.pc then old.adv else none
    loops := Vector.ofFn (fun l => loopBack (old.loops.get l) (w (0x20 + 32 * l.val)) (w (0x28 + 32 * l.val)) (w (0x30 + 32 * l.val))
      (w (0x38 + 32 * l.val)))
    preds := BitVec.ofNat 8 (w 0xC0)
    masks := Vector.ofFn (fun n => BitVec.ofNat 1024 (rd (o + 0x100 + 128 * n.val) 128))
    regs := Vector.ofFn (fun n => regBack (old.regs.get n) (w (0x500 + 40 * n.val)) (fun i => w (0x508 + 40 * n.val + 8 * i))
      (fun i => w (0xB80 + 32 * n.val + 8 * i)) a)
    gens := if st = .a then Vector.ofFn (fun n => ⟨BitVec.ofNat 64 (w (0xA00 + 48 * n.val)),
      Vector.ofFn (fun k => BitVec.ofNat 64 (w (0xA08 + 48 * n.val + 8 * k.val)))⟩) else old.gens
    nets := if st = .v then Vector.ofFn (fun n => BitVec.ofNat 352 (rd (o + 0xA00 + 48 * n.val) 44)) else old.nets
    ring := []
    heldCoords := [coord] }
  if t.phase = .rdv then t else t.settle
/-- A tile queue read back with its data from the pool image. -/
def tileBack (old : Queue Tile) (d n word : Nat) (stamp : Nat → Nat) (rd : Nat → Nat → Nat) (a : Word) : Queue Tile :=
  let head := word / 2 ^ 8 % 8
  ⟨(List.range (Nat.min d (word % 8))).map (fun i =>
    let base := (head + i) % Nat.max 1 d * 0x10000 + n * 4096
    let m := markBack ((old.items[i]?.map QEntry.mark).getD .none) (word / 2 ^ (16 + i) % 2 = 1) false a
    ⟨some (Vector.ofFn (fun e => BitVec.ofNat 32 (rd (base + 4 * e.val) 4))), ⟨BitVec.ofNat 62 (stamp i), 0⟩, m, false, 0, none⟩), []⟩
/-- A log word read back (R167). -/
def logWordOf (n : Nat) : LogWord :=
  ⟨decide (n / 2 ^ 31 % 2 = 1), decide (n / 2 ^ 30 % 2 = 1), decide (n / 2 ^ 29 % 2 = 1), decide (n / 2 ^ 23 % 2 = 1), toSigned 23 n⟩
/-- The counters of a bank account read back. -/
def bankBack (rd : Nat → Nat → Nat) (o : Nat) : List (Nat × BitVec 32) := (List.range 512).filterMap (fun i =>
  let v := rd (o + 4 * i) 4
  if v = 0 then none else some (i, BitVec.ofNat 32 v))
/-- The pending request of a saved context (R123): the one that was saved where its word is unchanged. -/
def stopBack (old : Job) (w : Word) : Option StopReq :=
  if w = old.stopatWord then old.stop
  else if w.getLsbD 63 then some ⟨wordCoord w, w.getLsbD 62, if w.getLsbD 62 then 5 else 1, 2, .c, 5, 0, 0, 0, none⟩
  else none
/-- A job read back from the register block over the one that was saved. `rd` reads from the area's start. -/
def Job.back (old : Job) (rd : Nat → Nat → Nat) (a : Word) : Job :=
  let blk (o n : Nat) : Nat := rd (0x400000 + o) n
  let w (o : Nat) : Word := BitVec.ofNat 64 (blk o 8)
  let front : Option Coord := if (w 0x28).getLsbD 63 then some (wordCoord (w 0x28)) else none
  let seed := w 0x70
  let mseed := w 0x78
  let str (st : StreamId) : Stream := Stream.back st (old.stream st) blk a
  { old with
    usedcyc := w 0x10
    savecyc := w 0x18
    scrubcyc := w 0x20
    front := front
    stopst := w 0x30
    traprec := recordBack (fun i => w (0x38 + 8 * i))
    stop := stopBack old (w 0x58)
    rbase := ⟨#v[w 0x60 &&& 0xFF, w 0x68 &&& 0xFFFF, seed, mseed, w 0x80 &&& 0xFFFFFFFF, w 0x88 &&& 0xFC],
      if seed = old.rreg .srseed then old.rnow.vdraws else 0, if mseed = old.rreg .mseed then old.rnow.mdraws else 0⟩
    rlog := []
    cbv := BitVec.ofNat 4 ((w 0x88).toNat / 2 ^ 32)
    govstall := w 0x90
    ibCount := (w 0x98).toNat
    semMap := Vector.ofFn (fun v => semEntryOf (blk (0xA0 + 2 * v.val) 2))
    arrTeam := (w 0x160).toNat
    arrCrew := (w 0x168).toNat
    streams := #v[str .c, str .a, str .v, str .s]
    toks := Vector.ofFn (fun i =>
      let e := ((List.range 8).find? (fun e => ctxFifo e = i)).getD 0
      ⟨(List.range (Nat.min 8 (blk (0xE000 + 72 * e) 8 % 16))).map (fun n =>
        ⟨some (), ⟨BitVec.ofNat 62 (blk (0xE008 + 72 * e + 8 * n) 8), 0⟩, .none, false, 0, none⟩), []⟩)
    tiles := Vector.ofFn (fun n => tileBack (old.tiles.get n) old.hdr.tdep n.val (blk (0xE400 + 8 * n.val) 8)
      (fun i => blk (0xE700 + 32 * n.val + 8 * i) 8) rd a)
    tileTail := Vector.ofFn (fun n =>
      let x := blk (0xE400 + 8 * n.val) 8
      (x / 2 ^ 8 % 8 + Nat.min old.hdr.tdep (x % 8)) % Nat.max 1 old.hdr.tdep)
    tileLeft := []
    counters := Vector.ofFn (fun i => w (0xF000 + 8 * i.val))
    replay := ⟨old.replay.recording, (w 0xF080).getLsbD 63, BitVec.ofNat 64 ((w 0xF080).toNat % 2 ^ 56), (w 0xF088).toNat,
      Vector.ofFn (fun i => (w (0xF090 + 8 * i.val)).toNat)⟩
    codebooks := Vector.ofFn (fun n => (List.range 16).map (fun i => logWordOf (blk (0xE600 + 64 * n.val + 4 * i) 4))) }
/-- The saved job of a core's slot as its context area now holds it; a live-range save holds only the first words (R142, R330). -/
def State.loadJob (s : State) (pn : PartId) (area : Word) (old : Job) : Job :=
  let rd (o n : Nat) : Nat := s.ctxRead pn area o n
  let a := Config.freeWord s.tick 40
  if rd 0x400007 1 = 2 then
    let w (o : Nat) : Word := BitVec.ofNat 64 (rd (0x400000 + o) 8)
    { old with usedcyc := w 0x10, savecyc := w 0x18, scrubcyc := w 0x20, stopst := w 0x30, stop := stopBack old (w 0x58), ibCount := (w 0x98).toNat,
               traprec := recordBack (fun i => w (0x38 + 8 * i))
               rbase := ⟨#v[w 0x60 &&& 0xFF, w 0x68 &&& 0xFFFF, w 0x70, w 0x78, w 0x80 &&& 0xFFFFFFFF, w 0x88 &&& 0xFC],
                 if w 0x70 = old.rreg .srseed then old.rnow.vdraws else 0, if w 0x78 = old.rreg .mseed then old.rnow.mdraws else 0⟩
               rlog := []
               govstall := w 0x90
               arrTeam := (w 0x160).toNat
               arrCrew := (w 0x168).toNat
               semMap := Vector.ofFn (fun v => semEntryOf (rd (0x4000A0 + 2 * v.val) 2)) }
  else Job.back old rd a

end Sys2Proof.Machine
end

