-- ==== Sys2Proof/Machine/Control.lean ====
section
/-!
DEFINITION. Hardware loops, coordinates, tokens, queue management, BIND, TRAP, YIELD, BKPT and the stop requests of STOPAT
(R72 to R79, R83, R86, R88, R95, R109).
-/
namespace Sys2Proof.Machine

/-- A loop level as an index. -/
def fin5 (n : Nat) : Fin 5 := ⟨n % 5, Nat.mod_lt _ (by decide)⟩
/-- A loop with level at most n is running. -/
def Stream.loopUpTo (t : Stream) (n : Nat) : Bool := [0, 1, 2, 3, 4].any (fun l => decide (l ≤ n) && (t.loops.get (fin5 l)).isSome)
/-- The kernel count K of T source iterations in S stages (R72). -/
def kernelCount (t s : Nat) : Nat := if t = 0 then 0 else t + s - 1

/-- The trip count of LOOP or the operand of LCLAMP: the TRIP field, or the whole popped word (R54, R72). -/
def tripValue (f : FLP) : M Word := if f.tsrc then pop (f.trip.setWidth 7) else return f.trip.setWidth 64

/-! ### LOOP (R72, R142) -/

/-- LOOP's effect. A stream that a soft resumption restarted opens its first loop at the declared level at source iteration T'; a cut between
the LOOP's own coordinate and that one leaves the stream before the iteration with its loop open, since the LOOP lies inside it (R126). -/
def loopBody (h : Hdr) (f : FLP) : M (Option Word) := do
  let v ← tripValue f
  let t ← getStream
  let lvl := f.level.toNat
  trapIf (t.loopUpTo lvl) 0x05 (coordWord t.coord)
  trapIf (t.coord.toNat % 2 ^ (levelLo lvl + levelWidth lvl) != 0) 0x05 (coordWord t.coord)
  let stages := f.nst.toNat + 1
  let k := kernelCount v.toNat stages
  let start := t.pc + 8
  let endo := t.pc + (f.endo.setWidth 64 <<< 3)
  let first := match t.reopen with
    | some (l, n) => if l.val = lvl then n else 0
    | none => 0
  let again := t.reopen.any (fun x => x.1.val = lvl)
  if k ≤ first then
    modifyStream (fun t => { t with reopen := if again then none else t.reopen, softLevel := if again then none else t.softLevel })
    return some endo
  else
    let j ← getJob
    let st ← curStream
    let c := BitVec.ofNat 62 (t.coord.toNat + first * 2 ^ levelLo lvl)
    let loops := t.loops.set (fin5 lvl) (some ⟨v.toNat, stages, k, first, start, endo, t.pc, j.seq⟩)
    modifyStream (fun t => { t with loops := loops })
    traceOwn h 3 0 (BitVec.ofNat 64 k)
    if again then
      modifyStream (fun t => { t with
        coord := c
        reopen := none
        softLevel := none
        ring := t.ring ++ [{ Snap.start start t.coord j.arrTeam j.arrCrew j.arrStep none (j.seq + 1) with
          adv := some ⟨c, none, none⟩, loops := loops, preds := t.preds, gens := t.gens, replayIdx := j.replay.idx.get (StreamId.fin st) }]
        heldCoords := t.heldCoords ++ [c] })
    return some start
/-- LOOP (R72). -/
def execLoop (h : Hdr) (f : FLP) (s : State) := runInstr (.loop h f) (loopBody h f) s

/-! ### Coordinates (R76, R77) -/

/-- The highest level in which two coordinates differ; 0 when they are equal. -/
def highestChanged (a b : Coord) : Nat :=
  if Coord.ix a 4 ≠ Coord.ix b 4 then 4 else if Coord.ix a 3 ≠ Coord.ix b 3 then 3 else if Coord.ix a 2 ≠ Coord.ix b 2 then 2
  else if Coord.ix a 1 ≠ Coord.ix b 1 then 1 else 0

/-- SETC to a coordinate (R76, R77): a greater coordinate is one advance, which the stream then waits to make. -/
def setcTo (c : Coord) : M Unit := do
  let t ← getStream
  trapIf (decide (c < t.coord)) 0x05 (coordWord c)
  if c = t.coord then pure ()
  else
    trapIf (t.loopUpTo (highestChanged t.coord c)) 0x05 (coordWord c)
    modifyStream (fun t => { t with adv := some ⟨c, none, none⟩ })
/-- The register form's effect: the popped word needs VALID = 1 and bit 62 = 0; the information word of the trap is the first word. -/
def setcRegBody (h : Hdr) (f : FRR) : M Unit := do
  let w ← pop f.a
  trapIf (!w.getLsbD 63 || w.getLsbD 62) 0x01 (Instr.setcRegister h f).firstWord
  setcTo (wordCoord w)
/-- SETC, register form (R76). -/
def execSetcRegister (h : Hdr) (f : FRR) (s : State) := runInstr (.setcRegister h f) (straight (setcRegBody h f)) s
/-- SETC, immediate form (R76). -/
def execSetcImmediate (h : Hdr) (f : FCI) (s : State) := runInstr (.setcImmediate h f) (straight (setcTo (wordCoord f.cw))) s

/-- ADVC's effect (R32, R76, R77). -/
def advcBody (f : FRR) : M Unit := do
  let t ← getStream
  let n := f.fn.toNat
  let a := advanceAt t.coord n
  trapIf (t.loopUpTo n) 0x05 (coordWord a.1)
  match a.2 with
  | some w => trap 0x05 w
  | none => modifyStream (fun t => { t with adv := some ⟨a.1, none, none⟩ })
/-- ADVC (R76). -/
def execAdvc (h : Hdr) (f : FRR) (s : State) := runInstr (.advc h f) (straight (advcBody f)) s
/-- GETC's effect (R76). -/
def getcBody (h : Hdr) (f : FRR) : M Unit := do
  let t ← getStream
  push h f.d (if f.fn.toNat < 5 then BitVec.ofNat 64 (Coord.ix t.coord f.fn.toNat) else coordWord t.coord)
/-- GETC (R76). -/
def execGetc (h : Hdr) (f : FRR) (s : State) := runInstr (.getc h f) (straight (getcBody h f)) s
/-- GETFR's effect (R38, R76). -/
def getfrBody (h : Hdr) (f : FRR) : M Unit := do
  arrival h f.d 1 (do return optCoordWord (← getJob).front)
/-- GETFR (R76). -/
def execGetfr (h : Hdr) (f : FRR) (s : State) := runInstr (.getfr h f) (straight (getfrBody h f)) s

/-! ### LCLAMP (R75, R141) -/

/-- The cores whose job a handle names: every job of the launch (R92). -/
def State.coresOf (s : State) (hd : Handle) : List CoreId := match s.jobs.find? (fun g => g.handle = hd) with
  | some g => g.cores
  | none => []
/-- The partition of a launch that has not ended. -/
def State.partOfHandle (s : State) (hd : Handle) : Option PartId := (s.jobs.find? (fun g => g.handle = hd)).map Group.part

/-- LCLAMP's effect: the clamp is issued; LCLAMP_APPLY applies it to the target's four streams at one instant. Naming another job needs
the supervisor (R96), and a job outside the partition traps; both tests precede that of the reserved bits (R63, R255). -/
def lclampBody (h : Hdr) (f : FLP) : M Unit := do
  let w ← tripValue f
  let j ← getJob
  let s ← get
  let fw := (Instr.lclamp h f).firstWord
  let lvl := fin5 f.level.toNat
  let c := s.cur.1
  if f.tsrc then
    let hd : Handle := BitVec.ofNat 32 (w.toNat / 2 ^ 16)
    trapIf (w.getLsbD 63 && (!s.isSup || (s.partOfHandle hd).any (fun p => decide (p ≠ j.part)))) 0x13 fw
    trapIf (decide (w.toNat / 2 ^ 48 % 2 ^ 15 ≠ 0)) 0x01 fw
    let limit := w.toNat % 2 ^ 16
    if w.getLsbD 63 then
      modify (fun s => { s with clamps := s.clamps ++ (s.coresOf hd).map (fun k => ⟨k, hd, lvl, limit, true⟩) })
    else modify (fun s => { s with clamps := s.clamps ++ [⟨c, j.handle, lvl, limit, false⟩] })
  else modify (fun s => { s with clamps := s.clamps ++ [⟨c, j.handle, lvl, f.trip.toNat, false⟩] })
/-- LCLAMP (R75). -/
def execLclamp (h : Hdr) (f : FLP) (s : State) := runInstr (.lclamp h f) (straight (lclampBody h f)) s

/-! ### Tokens and queues (R78, R79) -/

/-- TOK (R78): its header's token pops and pushes and nothing else. -/
def execTok (h : Hdr) (f : FRR) (s : State) := runInstr (.tok h f) (straight (pure ())) s

/-- n pops that discard (R79, R102). -/
def dropN (x : Spec) : Nat → M Unit
  | 0 => pure ()
  | n + 1 => do
    let _ ← readScalar x true
    dropN x n
/-- QDROP (R79). -/
def execQdrop (h : Hdr) (f : FRR) (s : State) := runInstr (.qdrop h f) (straight (dropN f.a f.fn.toNat)) s
/-- Filled and reserved entries of a scalar register, or the arrived elements of a bound one; 0 for s31 (R79). -/
def depthOf (x : Spec) (t : Stream) : Nat := match Spec.reg x with
  | some r => (t.regs.get r).items.length
  | none => 0
/-- QDEPTH's effect. -/
def qdepthBody (h : Hdr) (f : FRR) : M Unit := do
  let t ← getStream
  let j ← getJob
  let st ← curStream
  let bound := (Spec.reg f.a).any (fun r => (j.bound st r).isSome)
  if bound then arrival h f.d 6 (return BitVec.ofNat 64 (depthOf f.a t)) else push h f.d (BitVec.ofNat 64 (depthOf f.a t))
/-- QDEPTH (R79). -/
def execQdepth (h : Hdr) (f : FRR) (s : State) := runInstr (.qdepth h f) (straight (qdepthBody h f)) s
/-- QCLR's effect: the pops stall at the first entry that has not arrived, before any is taken for good. -/
def qclrBody (f : FRR) : M Unit := do
  let t ← getStream
  dropN f.a (depthOf f.a t)
/-- QCLR (R79). -/
def execQclr (h : Hdr) (f : FRR) (s : State) := runInstr (.qclr h f) (straight (qclrBody f)) s

/-- BIND's effect (R109, R25): the register becomes a stream register fed from the channel. -/
def bindBody (h : Hdr) (f : FRR) : M Unit := do
  let j ← getJob
  let st ← curStream
  match Spec.reg f.d with
  | none => pure ()
  | some r =>
    let q := (j.stream st).regs.get r
    trapIf (!q.items.isEmpty || (j.bound st r).isSome) 0x04 (specInfo f.d)
    let ch := fin8 f.fn.toNat
    trapIf (j.bindings.any (fun b => decide (b.ch = ch) && j.bindingLive b)) 0x04 (specInfo f.d)
    let sp ← stampOf h
    setJob { j with bindings := j.bindings ++ [⟨j.seq, ch, st, r, sp, none⟩] }
/-- BIND (R109). -/
def execBind (h : Hdr) (f : FRR) (s : State) := runInstr (.bind h f) (straight (bindBody h f)) s

/-! ### TRAP, YIELD, BKPT and STOPAT (R83, R86, R88, R89, R95) -/

/-- TRAP's effect: the popped value is the information word. -/
def trapBody (f : FRI) : M Unit := do
  let v ← pop f.a
  trap (BitVec.ofNat 8 f.imm.toNat) v
/-- TRAP (R83). -/
def execTrap (h : Hdr) (f : FRI) (s : State) := runInstr (.trap h f) (straight (trapBody f)) s

/-- A stop request of the executing instruction (R122, R256). -/
def ownRequest (h : Hdr) (c : Coord) (brk : Bool) (kind : BitVec 4) (origin : BitVec 2) (tag : BitVec 5) : M StopReq := do
  let o ← originOf h
  return ⟨c, brk, kind, origin, o.st, 0, h.stage, tag, o.pc, none⟩

/-- Place a request on the executing job, which may start its landing at once (R124). -/
def placeOwn (r : StopReq) : M Unit := do
  modifyJob (fun j => j.requestStop r)
  let c ← curCore
  modify (fun s => s.markLanding c)

/-- YIELD's effect: a request at the current coordinate, marked as a yield. -/
def yieldBody (h : Hdr) : M Unit := do
  let t ← getStream
  placeOwn (← ownRequest h t.coord false 8 0 0)
/-- YIELD (R86). -/
def execYield (h : Hdr) (f : FRR) (s : State) := runInstr (.yield h f) (straight (yieldBody h)) s

/-- BKPT's effect: a breakpoint at the current coordinate with the tag. -/
def bkptBody (h : Hdr) (f : FRR) : M Unit := do
  let t ← getStream
  placeOwn (← ownRequest h t.coord true 5 0 f.fn)
/-- BKPT (R95). -/
def execBkpt (h : Hdr) (f : FRR) (s : State) := runInstr (.bkpt h f) (straight (bkptBody h f)) s

/-- A request or a cancel written as a coordinate word (R88, R123). -/
def stopWord (w : Word) (brk : Bool) (origin : BitVec 2) (h : Hdr) : M Unit := do
  if w.getLsbD 63 then placeOwn (← ownRequest h (wordCoord w) brk (if brk then 5 else 1) origin 0)
  else modifyJob (fun j => { j with stop := none })

/-- A request or a cancel reaches a job that is not on its core: it is held pending, and a cut below FRONT of a job that is STOPPED or SAVED
is consumed at once (R89). DESIGN CHOICE (log 71): one that is consumed leaves a higher request pending as it was. -/
def JobSlot.stopAt (q : JobSlot) (w : Word) (r : StopReq) : JobSlot :=
  let now := match q.pend with
    | some x => x
    | none => q.ctx.bind Job.stop
  if !w.getLsbD 63 then { q with pend := some none }
  else if decide (q.state = .stopped ∨ q.state = .saved) && (q.ctx.bind Job.front).any (fun f => decide (r.coord < f)) then q
  else if now.all (fun p => decide (r.coord < p.coord)) then { q with pend := some (some r) }
  else q
/-- The request or cancel reaches the job on another core, whatever its state (R89). DESIGN CHOICE (log 71): a cut below FRONT that a stopped
job consumes leaves a higher request pending as it was. -/
def State.stopAt (s : State) (c : CoreId) (hd : Handle) (w : Word) (r : StopReq) : State :=
  let k := s.core c
  match k.job with
  | some j =>
    if j.handle = hd then
      if !w.getLsbD 63 then s.setJob c { j with stop := none }
      else
        let stopped := k.on.any (fun i => (k.slots.get i).any (fun q => q.state = .stopped))
        if stopped then
          -- a cut below FRONT is consumed at once; any other request is held pending (R89)
          if j.front.any (fun f => decide (r.coord < f)) then s
          else if j.stop.all (fun p => decide (r.coord < p.coord)) then s.setJob c { j with stop := some r } else s
        else (s.setJob c (j.requestStop r)).markLanding c
    else s.setCore c { k with slots := k.slots.map (fun x => x.map (fun q => if q.handle = hd then q.stopAt w r else q)) }
  | none => s.setCore c { k with slots := k.slots.map (fun x => x.map (fun q => if q.handle = hd then q.stopAt w r else q)) }

/-- STOPAT's effect on the job a handle names: the issuing job for 0 or its own handle, another job for the supervisor only; the tests of
privilege precede that of bit 62 (R63, R88, R255). DESIGN CHOICE (log 71): a launch's own handle names the issuing core's job of it, and a word of any register whose low 32 bits are
0 names the issuing job as s31 does. -/
def stopatBody (h : Hdr) (fw : Word) (w : Word) (hd : Handle) : M Unit := do
  let j ← getJob
  let s ← get
  let own := decide (hd = 0 ∨ hd = j.handle)
  trapIf (!own && (!s.isSup || (s.partOfHandle hd).any (fun p => decide (p ≠ j.part)))) 0x13 fw
  trapIf (w.getLsbD 63 && w.getLsbD 62) 0x01 fw
  if own then stopWord w false 0 h
  else
    let r : StopReq := ⟨wordCoord w, false, 1, 2, .c, 5, h.stage, 0, 0, none⟩
    modify (fun s => (s.coresOf hd).foldl (fun s c => s.stopAt c hd w r) s)
/-- The register form pops the coordinate word and the word that holds the handle. -/
def stopatRegBody (h : Hdr) (f : FRR) : M Unit := do
  let w ← pop f.a
  let b ← pop f.b
  stopatBody h (Instr.stopatRegister h f).firstWord w (b.setWidth 32)
/-- STOPAT, register form (R88). -/
def execStopatRegister (h : Hdr) (f : FRR) (s : State) := runInstr (.stopatRegister h f) (straight (stopatRegBody h f)) s
/-- STOPAT, immediate form (R88). -/
def execStopatImmediate (h : Hdr) (f : FCI) (s : State) :=
  runInstr (.stopatImmediate h f) (straight (stopatBody h (Instr.stopatImmediate h f).firstWord f.cw 0)) s

end Sys2Proof.Machine
end

