-- ==== Sys2Proof/Machine/Resume.lean ====
section
/-!
DEFINITION. Continuing a stopped job (R90, R139, R142) and triggers (R396).
-/
namespace Sys2Proof.Machine

/-- Continue a job from its cut (R139): every parked stream goes on to make its pending advance. -/
def Job.resume (j : Job) : Job :=
  j.onStreams (fun t => if t.phase = .parked then { t with phase := .issuing } else t)

/-- Restart a job that landed SOFT through the loop's prologue (R142): streams with a resume address start there at the landed levels
above the loop's; the others are at RDV; FRONT restarts. LSTATE shows T' until the loop reopens (R137). DESIGN CHOICE (log 84): the job keeps
its live channel bindings and its popped format words, which R142 does not list among what is cleared. -/
def Job.softRestart (j : Job) : Job :=
  match StreamId.all.findSome? (fun st => (j.stream st).softLevel) with
  | none => j.resume
  | some (l, first) => match j.hdr.cutSafe.find? (fun e => e.level = l) with
    | none => j.resume
    | some e =>
      let c0 : Coord := BitVec.ofNat 62 (clearBelow (j.front.getD 0) (l.val + 1))
      let c0 := if l.val = 4 then 0 else c0
      let str (st : StreamId) : Stream :=
        let r := (e.resume.get (StreamId.fin st)).setWidth 64
        { Stream.start (j.image + r) (r != 0) none with
          coord := c0, heldCoords := [c0], leadcyc := (j.stream st).leadcyc,
          first := if r = 0 then none else some (Snap.start (j.image + r) c0 j.arrTeam j.arrCrew j.arrStep (some (l, first)) j.seq)
          reopen := if r = 0 then none else some (l, first)
          softLevel := (j.stream st).softLevel }
      { j with streams := #v[str .c, str .a, str .v, str .s], tiles := Vector.replicate 16 Queue.empty,
               toks := Vector.replicate 8 Queue.empty, front := none, clamps := [] }

/-- Continue a stopped job as its last landing asks. -/
def Job.continueFrom (j : Job) : Job := if j.stopst.toNat / 2 ^ 60 = 7 then j.softRestart else j.resume

/-- A stopped job of a launch on a core waits to be saved without a command: a hard pre-emption has landed it (R299, R300, R304). -/
def State.savePending (s : State) (c : CoreId) (hd : Handle) : Bool :=
  s.saves.any (fun x => decide (x.handle = hd) && x.slot.isNone && x.cores.contains c)
/-- A job that goes on is not one that a command of the supervisor still has to save (R331). DESIGN CHOICE (log 91). -/
def State.unsaved (s : State) (c : CoreId) (hd : Handle) : State :=
  { s with saves := s.saves.map (fun x => if x.handle = hd ∧ x.slot.isSome then { x with cores := x.cores.filter (fun y => y ≠ c) } else x) }
/-- RESUME on one core for a handle: a stopped job runs again, a saved one waits again at its base level (R90, R297, R304). One that has
still to be saved without a command is on its way to SAVED, and not to be resumed yet. -/
def State.resumeOn (s : State) (c : CoreId) (hd : Handle) : State × Bool :=
  let k := s.core c
  [(0 : Fin 8), 1, 2, 3, 4, 5, 6, 7].foldl (fun (r : State × Bool) i => match (r.1.core c).slots.get i with
    | some q =>
      if q.handle = hd then
        if q.state = .stopped && k.on = some i && s.savePending c hd then r
        else if q.state = .stopped && k.on = some i then
          let s := (((r.1.unsaved c hd).onJob c Job.continueFrom).setJState c .running).markLanding c
          (s, true)
        else if q.state = .saved then
          let k := r.1.core c
          (r.1.setCore c { k with slots := k.slots.set i (some { q with state := .waiting, cur := q.base, entryTime := s.ftime }) }, true)
        else r
      else r
    | none => r) (s, false)

/-- RESUME of a launch: the state, and 0, 1 or 2 by R90. -/
def State.resumeLaunch (s : State) (hd : Handle) : State × Word :=
  match s.jobs.find? (fun g => g.handle = hd) with
  | none => (s, 2)
  | some g =>
    let r := g.cores.foldl (fun (r : State × Bool) c =>
      let x := r.1.resumeOn c hd
      (x.1, r.2 || x.2)) (s, false)
    (r.1, if r.2 then 0 else 1)

/-! ### Triggers (R396) -/

/-- The cores of a partition. -/
def Partition.cores (p : Partition) : List CoreId := ((List.range 256).map coreOf).filter (fun c => p.ownsCore c)
/-- A trigger fires now (R396): it is merged with an earlier one whose capture time is not 256 cycles past; otherwise every core of the
partition captures 64 cycles later. The capture it belongs to. -/
def State.fireTrigger (s : State) (pn : PartId) (tag : BitVec 5) (by_ : Option (CoreId × Handle × Origin)) : State × Option Word :=
  match s.part pn with
  | none => (s, none)
  | some p =>
    let merged := match p.trigger with
      | some t => if s.ftime.toNat ≤ t.time.toNat + 256 then some t.time else none
      | none => none
    match merged with
    | some t => (s, some t)
    | none => (s.setPart pn { p with trigger := some ⟨tag, s.ftime + 64, by_, p.cores, false⟩ }, none)

end Sys2Proof.Machine
end

