-- ==== Sys2Proof/Machine/System.lean ====
section
/-!
DEFINITION. System registers, the supervisor's instructions, FENCE, RESUME, SPAWN, RDV, MBOX and the debug marks (R80 to R97, R137,
R237, R238, R256 to R260, R271, R334, R357 to R360, R374, R395, R396).
-/
namespace Sys2Proof.Machine

/-! ### Reading system registers (R80 to R82) -/

/-- The greatest index of a system register (R81). -/
def sysIndexMax (fn : Nat) : Nat := match fn with
  | 12 => 4
  | 13 | 14 => 3
  | 19 | 20 => 15
  | 21 => 63
  | 24 => 8191
  | _ => 0

/-- LSTATE of a loop level (R137): a running loop, and the level of a SOFT landing. -/
def lstate (j : Job) (t : Stream) (l : Fin 5) : Word :=
  let csafe := j.hdr.cutSafe.any (fun e => e.level = l)
  match t.loops.get l with
  | some lp =>
    let k := Coord.ix t.coord l.val
    let spred := [0, 1, 2, 3].foldl (fun n i => n + if lp.active k i && decide (i < lp.s) then 2 ^ i else 0) 0
    BitVec.ofNat 64 (2 ^ 63 + (lp.s - 1) % 4 * 2 ^ 61 + spred * 2 ^ 57 + bitNat csafe * 2 ^ 56 + lp.f % 2 ^ 16 * 2 ^ 40 +
      Nat.min 0x3FFFF (lp.k - k))
  | none => match t.softLevel with
    | some (m, first) => if m = l then BitVec.ofNat 64 (2 ^ 56 + first % 2 ^ 16 * 2 ^ 40) else 0
    | none => 0
/-- MSEED (R235): the value last written in C's program order. -/
def Job.mseed (j : Job) : Word := match (j.meQ.filterMap (fun q => match q.kind with
    | .mseed v => some v
    | _ => none)).getLast? with
  | some v => v
  | none => j.rreg .mseed
/-- BANKACC (R271): one counter of a profile slot. -/
def Core.bankacc (k : Core) (i : Nat) : Word := match k.prof.get ⟨i / 512 % 16, Nat.mod_lt _ (by decide)⟩ with
  | some p => BitVec.ofNat 64 (p.loopId.toNat * 2 ^ 32 + (((p.counts.find? (fun e => e.1 = i % 512)).map Prod.snd).getD 0).toNat)
  | none => 0
/-- GTIME (R334). -/
def gtime (p : Partition) (ftime : Word) : Word := p.tofs + BitVec.ofNat 64 (ftime.toNat * p.tscl.toNat / 2 ^ 32)

/-- A register as its writer sees it with one held write made (R82): the fields that the write may change. -/
def State.heldView (s : State) (pn : PartId) (fn idx : Nat) (old v : Word) : Word := match fn with
  | 13 => if idx = 0 && v.getLsbD 63 then old &&& 0x7FFFFFFFFFFFFFFF else old
  | 17 | 18 => v
  | 19 => match s.groups.toList[idx]? with
    | some g =>
      if g.assigned = some pn then
        let tout := if pteBits v 15 8 = 0 then pteBits old 15 8 else pteBits v 15 8
        let p := pteBits v 2 0
        let pers := if p = 0 ∨ p = 3 ∨ p = 4 then p else pteBits old 2 0
        BitVec.ofNat 64 (old.toNat / 2 ^ 24 * 2 ^ 24 + tout * 2 ^ 8 + bitNat (v.getLsbD 3) * 2 ^ 3 + pers)
      else old
    | none => old
  | 21 => (v &&& 0xBFFFFFFFFFFFFFFF) ||| (old &&& 0x4000000000000000)
  | 22 => (old &&& 0xF800000000000000) ||| (v &&& 0x01FFFFFFFFFFF000)
  | 23 => (old &&& 0xC0FF000000000000) ||| (v &&& 0x3000FFFFFFFFFFFF)
  | 25 => v &&& 0x00FFFFFFFFFFFFF8
  | 26 => v &&& 0xFFFFFFFFFFFF011F
  | _ => old
/-- The values that a stream's held writes of a register would give it, oldest first. -/
def Job.heldSwr (j : Job) (st : StreamId) (fn idx : Nat) : List Word := j.held.filterMap (fun h => match h.kind with
  | .swr f i v => if h.org.st = st ∧ f.toNat = fn ∧ i.toNat = idx then some v else none
  | _ => none)

/-- The value of a system register of the partition, without held writes. -/
def State.partReg (s : State) (j : Job) (p : Partition) (fn idx : Nat) : Word := match fn with
  | 13 => (if s.isSup then (p.shownRec.map s.recordOf).getD j.traprec else j.traprec).get ⟨idx % 4, Nat.mod_lt _ (by decide)⟩
  | 16 => gtime p s.ftime
  | 17 => p.tofs
  | 18 => p.tscl
  | 19 => egcfg s.module (s.groups.get ⟨idx % 16, Nat.mod_lt _ (by decide)⟩)
  | 20 => egstat (s.groups.get ⟨idx % 16, Nat.mod_lt _ (by decide)⟩)
  | 21 => p.emap.get ⟨idx % 64, Nat.mod_lt _ (by decide)⟩
  | 22 => p.ckpair
  | 23 => (p.ckseal &&& 0xFFFF000000000000) ||| (p.ckgen &&& 0x0000FFFFFFFFFFFF)
  | 25 => p.tvec
  | 26 => p.evmask
  | _ => 0
/-- The value that SRD returns (R81, R82). -/
def State.sysReg (s : State) (j : Job) (fn idx : Nat) : Word :=
  let t := j.stream s.cur.2
  match fn with
  | 0 => j.rreg .rmode
  | 1 => j.rreg .fzctl
  | 2 => j.rreg .srseed
  | 3 => j.mseed
  | 4 => j.rreg .mconst
  | 5 => j.mstat (s.core s.cur.1).withholds
  | 6 => BitVec.ofNat 64 ((s.core s.cur.1).govsrc.toNat * 2 ^ 16 + (s.core s.cur.1).budget.toNat)
  | 7 => j.govstall
  | 8 => optCoordWord j.front
  | 9 => j.stopatWord
  | 10 => j.stopst
  | 11 => j.hdr.leadw.setWidth 64
  | 12 => lstate j t ⟨idx % 5, Nat.mod_lt _ (by decide)⟩
  | 14 =>
    let st := streamOf ⟨idx % 4, Nat.mod_lt _ (by decide)⟩
    (j.stream st).stallc (st = s.cur.2)
  | 15 => s.ftime
  | 24 => (s.core s.cur.1).bankacc idx
  | n => match s.part j.part with
    | some p => (j.heldSwr s.cur.2 n idx).foldl (s.heldView j.part n idx) (s.partReg j p n idx)
    | none => 0

/-- SRD's effect: the popped index is checked, then the value is pushed, as a recorded arrival (R80, R400). -/
def srdBody (h : Hdr) (f : FRR) : M Unit := do
  let i ← pop f.a
  let fn := f.fn.toNat
  trapIf (decide (26 < fn ∨ sysIndexMax fn < i.toNat)) 0x01 (Instr.srd h f).firstWord
  arrival h f.d 1 (do
    let j ← getJob
    return (← get).sysReg j fn i.toNat)
/-- SRD (R80). -/
def execSrd (h : Hdr) (f : FRR) (s : State) := runInstr (.srd h f) (straight (srdBody h f)) s

/-! ### Writing system registers -/

/-- A write of a system register (R80 to R82, R89, R123, R235): read-only registers ignore it, restored ones change at once, MSEED is an
ME command, STOPAT places or cancels a request, and the supervisor's are held. -/
def swrTo (h : Hdr) (fn idx : Nat) (v : Word) : M Unit := do
  let o ← originOf h
  let change (r : RReg) : M Unit := modifyJob (fun j => j.rchange o.stamp.coord r (.write v))
  match fn with
  | 0 => change .rmode
  | 1 => change .fzctl
  | 2 => change .srseed
  | 3 => enqueue .me h (.mseed v)
  | 4 => change .mconst
  | 5 => change .mstat
  | 9 => stopWord v (v.getLsbD 62) 1 h
  | _ =>
    if supReg fn && fn != 20 then
      if fn = 13 ∧ idx ≠ 0 then pure ()
      else if (← replaying) then pure ()
      else hold h (.swr (BitVec.ofNat 5 fn) (BitVec.ofNat 64 idx) v)
    else pure ()
/-- SWR's effect: the index, then the value. -/
def swrBody (h : Hdr) (f : FRR) (fw : Word) : M Unit := do
  let i ← pop f.a
  let v ← pop f.b
  trapIf (decide (26 < f.fn.toNat ∨ sysIndexMax f.fn.toNat < i.toNat)) 0x01 fw
  swrTo h f.fn.toNat i.toNat v
/-- SWR (R80). -/
def execSwr (h : Hdr) (f : FRR) (s : State) := runInstr (.swr h f) (straight (swrBody h f (Instr.swr h f).firstWord)) s
/-- SWR STOPAT (R123). -/
def execSwrStopat (h : Hdr) (f : FRR) (s : State) := runInstr (.swrStopat h f) (straight (swrBody h f (Instr.swrStopat h f).firstWord)) s
/-- SWR EVMASK (R258). -/
def execSwrEvmask (h : Hdr) (f : FRR) (s : State) := runInstr (.swrEvmask h f) (straight (swrBody h f (Instr.swrEvmask h f).firstWord)) s
/-- SWR RMODE (R171). -/
def execSwrRmode (h : Hdr) (f : FRR) (s : State) := runInstr (.swrRmode h f) (straight (swrBody h f (Instr.swrRmode h f).firstWord)) s
/-- SWR SRSEED (R175). -/
def execSwrSrseed (h : Hdr) (f : FRR) (s : State) := runInstr (.swrSrseed h f) (straight (swrBody h f (Instr.swrSrseed h f).firstWord)) s
/-- SWR MSEED (R235). -/
def execSwrMseed (h : Hdr) (f : FRR) (s : State) := runInstr (.swrMseed h f) (straight (swrBody h f (Instr.swrMseed h f).firstWord)) s
/-- SWR TRAPREC (R256). -/
def execSwrTraprec (h : Hdr) (f : FRR) (s : State) := runInstr (.swrTraprec h f) (straight (swrBody h f (Instr.swrTraprec h f).firstWord)) s
/-- SWR EMAP (R357). -/
def execSwrEmap (h : Hdr) (f : FRR) (s : State) := runInstr (.swrEmap h f) (straight (swrBody h f (Instr.swrEmap h f).firstWord)) s
/-- SWR EGCFG (R359). -/
def execSwrEgcfg (h : Hdr) (f : FRR) (s : State) := runInstr (.swrEgcfg h f) (straight (swrBody h f (Instr.swrEgcfg h f).firstWord)) s
/-- SWR CKPAIR (R368). -/
def execSwrCkpair (h : Hdr) (f : FRR) (s : State) := runInstr (.swrCkpair h f) (straight (swrBody h f (Instr.swrCkpair h f).firstWord)) s

/-! ### The supervisor's instructions (R84, R85, R90, R94) -/

/-- The partition of the executing job. -/
def getPart : M Partition := do
  let j ← getJob
  match (← get).part j.part with
  | some p => return p
  | none => stall 0
/-- Replace the partition of the executing job. -/
def putPart (p : Partition) : M Unit := do
  let j ← getJob
  modify (fun s => s.setPart j.part p)

/-- ERET's effect: outside an entry it traps; inside, the program counter becomes the saved address and delivery is enabled (R84). -/
def eretBody (h : Hdr) (f : FRR) : M (Option Word) := do
  let p ← getPart
  trapIf (!p.inEntry) 0x01 (Instr.eret h f).firstWord
  putPart p.leaveEntry
  return some p.savedPc
/-- ERET (R84). -/
def execEret (h : Hdr) (f : FRR) (s : State) := runInstr (.eret h f) (eretBody h f) s

/-- WAITEV's effect: the next enabled event is taken, or 0 is pushed with NB, or the stream waits with cause 12 (R41, R85). -/
def waitevBody (h : Hdr) (f : FRR) : M Unit := do
  let p ← getPart
  let o ← originOf h
  match p.nextEvent with
  | some ev =>
    push h f.d ev.word
    putPart (p.clearEvent ev)
    modifyJob (fun j => { j with evTaken := j.evTaken ++ [⟨o.stamp.coord, ev.word, (match ev with
      | .entry n e => some (e, n)
      | _ => none), p.shownRec⟩] })
  | none => if f.fn.getLsbD 0 then push h f.d 0 else stall 12
/-- WAITEV (R85). -/
def execWaitev (h : Hdr) (f : FRR) (s : State) := runInstr (.waitev h f) (straight (waitevBody h f)) s

/-- RESUME's effect (R90): a handle of another partition traps (R96, R255). -/
def resumeBody (h : Hdr) (f : FRR) : M Unit := do
  let v ← pop f.a
  let j ← getJob
  let hd : Handle := v.setWidth 32
  let other := ((← get).partOfHandle hd).any (fun p => decide (p ≠ j.part))
  trapIf other 0x13 (Instr.resume h f).firstWord
  let (s, r) := (← get).resumeLaunch hd
  set s
  push h f.d r
/-- RESUME (R90). -/
def execResume (h : Hdr) (f : FRR) (s : State) := runInstr (.resume h f) (straight (resumeBody h f)) s

/-- n bytes of the executing core's scratchpad from a window address, when all of them lie in the grant (R94): through the local window, or
the core's own slot of the cluster window (R152, R153). -/
def ownScratch (w : Who) (a n : Nat) : Option Nat :=
  [0x40000000, 0x41000000 + w.core.val % 4 * 0x400000].findSome? (fun lo =>
    if lo ≤ a ∧ a + n ≤ lo + w.spg * 0x10000 then some (w.spBase + (a - lo)) else none)

/-- Write one sector piece of a pool for the executing instruction (R129, R265): it waits for another core's log with cause 14 and for
room with cause 7. -/
def writePool (h : Hdr) (k : CoreId) (p : Nat) (bs : List Byte) (bad : Bool) : M Unit := do
  let o ← originOf h
  let s ← get
  match s.poolWrite s.cur.1 o k p bs bad with
  | .done t => set t
  | .wait => stall 14
  | .full never => if never then trap 0x04 0x100 else stall 7

/-- A pending direct access of C to the pool of its own core: an MRD, or an atomic on the own path (R377). -/
def State.ownPoolOps (s : State) (w : Who) (j : Job) : Bool := j.ops.any (fun o => decide (o.org.st = .c) && (match o.kind with
  | .mrd _ _ => true
  | .atomic _ a _ _ => match s.reach w .rw a 4 with
    | .ok (.pool c _) => decide (c = w.core)
    | _ => false
  | _ => false))
/-- MBOX's effect (R94): the head message of the mailbox goes to the scratchpad and is removed provisionally. Its writes follow C's earlier
accesses to the core's pool (R377). DESIGN CHOICE (log 88): the stall for those has cause 1, since each of them has an entry to fill. -/
def mboxBody (h : Hdr) (f : FRR) : M Unit := do
  let n ← pop f.a
  let b ← pop f.b
  let w ← whoNow
  trapIf (decide (15 < n.toNat)) 0x01 (Instr.mbox h f).firstWord
  trapIf (decide (b.toNat % 64 ≠ 0)) 0x09 b
  match ownScratch w b.toNat 64 with
  | none => trap 0x0E b
  | some off =>
    let p ← getPart
    let i : Fin 16 := ⟨n.toNat % 16, Nat.mod_lt _ (by decide)⟩
    match p.mailboxes.get i with
    | [] => if f.fn.getLsbD 0 then push h f.d 0 else stall 12
    | msg :: rest =>
      if (← get).ownPoolOps w (← getJob) then stall 1
      writePool h w.core off (msg.take 32) false
      writePool h w.core (off + 32) (msg.drop 32) false
      let o ← originOf h
      putPart { p with mailboxes := p.mailboxes.set i rest, mbxTaken := p.mbxTaken ++ [(i.val, msg, o.stamp.coord)] }
      hold h (.mbox i.val)
      push h f.d (BitVec.ofNat 64 (2 ^ 63 + rest.length))
/-- MBOX (R94). -/
def execMbox (h : Hdr) (f : FRR) (s : State) := runInstr (.mbox h f) (straight (mboxBody h f)) s

/-! ### FENCE (R87, R320) -/

/-- The FENCEs of a stream that effects of the job may still wait behind: none once every effect has been released and its fleet writes have
been applied. -/
def State.fencesKept (s : State) (c : CoreId) (j : Job) (st : StreamId) : List (Nat × Nat) :=
  if j.held.isEmpty && !s.fleet.any (fun m => m.writer.any (fun x => decide (x.core = c ∧ x.handle = j.handle))) then []
  else (j.stream st).fences
/-- FENCE's effect: the stream waits with cause 13 until they have been performed; at team scope and wider the effects of the job that are
held back keep the order when they are released (R320). DESIGN CHOICE (log 86): those of its other streams among them, since the stream may
have acquired these. -/
def fenceBody (f : FRR) : M Unit := do
  let j ← getJob
  let s ← get
  if s.fencePending s.cur.1 j s.cur.2 f.fn.toNat then stall 13
  if 3 ≤ f.fn.toNat then
    modifyStream (fun t => { t with fences := s.fencesKept s.cur.1 j s.cur.2 ++ [(j.seq, f.fn.toNat)] })
/-- FENCE (R87). -/
def execFence (h : Hdr) (f : FRR) (s : State) := runInstr (.fence h f) (straight (fenceBody f)) s

/-! ### SPAWN and RDV (R91, R93) -/

/-- SPAWN's effect: the launch is held, and its status entry reserved, which cannot be read at SPAWN's own coordinate (R343); in replay it is
not sent (R401). -/
def spawnBody (h : Hdr) (f : FRR) : M Unit := do
  let a ← pop f.a
  let b ← pop f.b
  trapIf (decide (a.toNat % 64 ≠ 0)) 0x09 a
  match (← replayTake h 7) with
  | some (v, m) => pushMarked h f.d v (← replayPoison m)
  | none =>
    recordLater h 7
    reserve h f.d true
    hold h (.spawn (f.fn.setWidth 2) a b)
/-- SPAWN (R91). -/
def execSpawn (h : Hdr) (f : FRR) (s : State) := runInstr (.spawn h f) (straight (spawnBody h f)) s

/-- RDV's effect: the stream stops issuing (R93). -/
def rdvBody : M Unit := modifyStream (fun t => { t with phase := .rdv, loops := Vector.replicate 5 none, adv := none })
/-- RDV (R93): the stream is done through every coordinate, so the frontier may move (R37). -/
def execRdv (h : Hdr) (f : FRR) (s : State) : Host.Outcome State Fault Refusal :=
  match runInstr (.rdv h f) (straight rdvBody) s with
  | .next t => .next (if (t.job s.cur.1).any (fun j => (j.stream s.cur.2).phase = .rdv) then t.settleFront s.cur.1 else t)
  | .fault x => .fault x
  | .refused x => .refused x

/-! ### Debug marks (R95, R395, R396) -/

/-- SNAP's effect: the trigger fires, or joins an earlier capture, which its header then names. -/
def snapBody (h : Hdr) (f : FRR) : M Unit := do
  let o ← originOf h
  let j ← getJob
  let c ← curCore
  let (s, merged) := (← get).fireTrigger j.part f.fn (some (c, j.handle, o))
  set s
  match merged with
  | some t => traceOwn h 2 f.fn.toNat t
  | none => pure ()
/-- SNAP (R395). -/
def execSnap (h : Hdr) (f : FRR) (s : State) := runInstr (.snap h f) (straight (snapBody h f)) s
/-- TMARK's effect: the popped value goes into a kind-1 record. -/
def tmarkBody (h : Hdr) (f : FRR) : M Unit := do
  let v ← pop f.a
  traceOwn h 1 f.fn.toNat v
/-- TMARK (R395). -/
def execTmark (h : Hdr) (f : FRR) (s : State) := runInstr (.tmark h f) (straight (tmarkBody h f)) s

end Sys2Proof.Machine
end

