-- ==== Sys2Proof/Machine/Sync.lean ====
section
/-!
DEFINITION. Semaphores, barriers, supersteps, SEND and TLBI (R250 to R253, R266, R267, R285, R286, R307 to R312).
-/
namespace Sys2Proof.Machine

/-! ### Semaphores (R250 to R253) -/

/-- A semaphore's block is allocated to a job of a partition (R251). -/
def State.blockOf (s : State) (c : CoreId) (phys : BitVec 8) : SemBlock :=
  (s.clusters.get (clusterOf c)).blocks.get ⟨phys.toNat / 16 % 16, Nat.mod_lt _ (by decide)⟩
/-- The shared block that a launch has on a cluster (R250). -/
def State.sharedBlock (s : State) (cl : Fin 64) (hd : Handle) : Option (Fin 16) :=
  ((List.range 16).map (fun n => (⟨n % 16, Nat.mod_lt _ (by decide)⟩ : Fin 16))).find? (fun b =>
    let x := (s.clusters.get cl).blocks.get b
    x.shared && x.users.any (fun u => u.1 = hd))
/-- The map entry of a virtual semaphore, when its use does not trap (R251). -/
def State.semEntry (s : State) (c : CoreId) (j : Job) (v : BitVec 5) : Option SemEntry :=
  let e := j.semMap.get v.toFin
  if e.valid && (s.blockOf c e.phys).users.any (fun u => s.partOfHandle u.1 = some j.part) then some e else none
/-- The map entry, or the trap of its use. -/
def semOf (v : BitVec 5) : M SemEntry := do
  let s ← get
  let j ← getJob
  match s.semEntry s.cur.1 j v with
  | some e => return e
  | none => trap 0x0D (v.setWidth 64)

/-- The status of a wait that is served now (R253, R309). -/
def servedStatus (ftime : Word) (deadline : Option Word) : Nat := if deadline = some ftime then 3 else 1
/-- The first unit of some whose stamp lies above a coordinate (R36, R252). -/
def unitAbove (us : List SemUnits) (c : Coord) : Option Coord := us.findSome? (fun u => match u.owner with
  | some (_, _, k) => if c < k.coord then some k.coord else none
  | none => none)

/-- A semaphore wait of n units (R252): served at once when no other waiter is ahead and the count suffices; otherwise the stream becomes
a waiter, and the event that serves it leaves the status. A deadline that has passed gives status 0. -/
def semAcquire (h : Hdr) (v : BitVec 5) (n : Word) (deadline : Option Word) : M Word := do
  let e ← semOf v
  let s ← get
  let j ← getJob
  let o ← originOf h
  let k := n.toNat % 2 ^ 32
  match (← getStream).wait with
  | .semServed st =>
    modifyStream (fun t => { t with wait := .none })
    return BitVec.ofNat 64 st
  | .sem _ => stall 8
  | _ =>
    let c := s.cur.1
    let m := s.sem (clusterOf c) e.phys
    if k = 0 then return BitVec.ofNat 64 (servedStatus s.ftime deadline)
    else if m.waiters.isEmpty && decide (k ≤ m.count) then
      let (us, rest) := takeUnits k m.units
      if !e.shared then
        match unitAbove us o.stamp.coord with
        | some x => trap 0x06 (coordWord x)
        | none => pure ()
      set (s.setSem (clusterOf c) e.phys { m with units := rest })
      modifyJob (fun j => { j with semTaken := j.semTaken ++ [⟨e.phys, us.map (fun u => (u.n, u.owner)), o.stamp.coord⟩] })
      return BitVec.ofNat 64 (servedStatus s.ftime deadline)
    else if deadline.any (fun t => decide (t < s.ftime)) then return 0
    else throw (.wait 8 (.sem j.seq) (some (e.phys, ⟨j.seq, c, k, none, o, deadline, e.shared⟩)) none)

/-- SEMW's effect; in replay a wait on a shared semaphore is served at once and consumes nothing (R401). -/
def semwBody (h : Hdr) (f : FRR) : M Unit := do
  let n ← pop f.a
  let e ← semOf f.fn
  if (← replaying) && e.shared then pure ()
  else
    let _ ← semAcquire h f.fn n none
    pure ()
/-- SEMW (R252). -/
def execSemw (h : Hdr) (f : FRR) (s : State) := runInstr (.semw h f) (straight (semwBody h f)) s
/-- SEMS's effect (R135, R252): at once on a private semaphore, held on a shared one. -/
def semsBody (h : Hdr) (f : FRR) : M Unit := do
  let n ← pop f.a
  let e ← semOf f.fn
  let o ← originOf h
  let k := n.toNat % 2 ^ 32
  if k = 0 then pure ()
  else if e.shared then
    if (← replaying) then pure () else hold h (.sems e.phys k)
  else
    let j ← getJob
    modify (fun s => s.setSem (clusterOf s.cur.1) e.phys
      ((s.sem (clusterOf s.cur.1) e.phys).signal k (some (j.handle, s.cur.1, o.stamp))))
/-- SEMS (R252). -/
def execSems (h : Hdr) (f : FRR) (s : State) := runInstr (.sems h f) (straight (semsBody h f)) s
/-- SEMWT's effect: the status is a recorded arrival (R253, R400). -/
def semwtBody (h : Hdr) (f : FRR) : M Unit := do
  let n ← pop f.a
  let t ← pop f.b
  let _ ← semOf f.fn
  pushRoom f.d
  arrival h f.d 5 (semAcquire h f.fn n (some t))
/-- SEMWT (R252, R253). -/
def execSemwt (h : Hdr) (f : FRR) (s : State) := runInstr (.semwt h f) (straight (semwtBody h f)) s

/-! ### Barriers (R266, R307 to R309) -/

/-- PHASE of the barrier context that the job on a core uses (R266, R307). -/
def State.phase (s : State) (c : CoreId) (j : Job) (crew : Bool) : Nat :=
  if crew then match (s.dies.get (dieOf c)).crews.find? (fun x => x.handle = j.handle) with
    | some x => x.phase.toNat
    | none => 0
  else match s.sharedBlock (clusterOf c) j.handle with
    | some b => ((s.clusters.get (clusterOf c)).blocks.get b).phase.toNat
    | none => 0

/-- The wait of BARR: an arrival is left to be counted, or with W the last one is waited for; a phase that has passed already is not waited
for (R308, R309). -/
def barrWait (h : Hdr) (f : FRR) (crew w : Bool) (deadline : Option Word) : M Word := do
  let s ← get
  let j ← getJob
  let o ← originOf h
  let a := if crew then j.arrCrew else j.arrTeam
  match (← getStream).wait with
  | .barrServed st =>
    modifyStream (fun t => { t with wait := .none })
    return BitVec.ofNat 64 st
  | .barr _ _ _ => stall 9
  | _ =>
    if w then
      if a = 0 ∨ a - 1 < s.phase s.cur.1 j crew then return BitVec.ofNat 64 (servedStatus s.ftime deadline)
      else if deadline.any (fun t => decide (t < s.ftime)) then return 0
      else throw (.wait 9 (.barr crew (some (a - 1)) deadline) none none)
    else if a < s.phase s.cur.1 j crew then
      -- a repeat of a phase that has passed
      modifyJob (fun j => j.arrive ⟨o, crew, false, a⟩)
      return BitVec.ofNat 64 (servedStatus s.ftime deadline)
    else throw (.wait 9 (.barr crew (some a) deadline) none (some ⟨o, crew, false, a⟩))
/-- In replay a barrier is not arrived at; its arrival number moves on (R401). -/
def barrSkip (crew w : Bool) : M Unit := modifyJob (fun j =>
  if w then j else { j with arrTeam := j.arrTeam + bitNat (!crew), arrCrew := j.arrCrew + bitNat crew })
/-- BARR's effect (R308). -/
def barrBody (h : Hdr) (f : FRR) : M Unit := do
  let crew := f.fn.getLsbD 0
  let timed := f.fn.getLsbD 1
  let w := f.fn.getLsbD 2
  let j ← getJob
  trapIf (crew && decide (j.level.toNat < 2)) 0x01 (Instr.barr h f).firstWord
  if timed then
    let dl ← pop f.a
    pushRoom f.d
    if (← replaying) then barrSkip crew w
    arrival h f.d 5 (barrWait h f crew w (some dl))
  else if (← replaying) then barrSkip crew w
  else
    let _ ← barrWait h f crew w none
    pure ()
/-- BARR (R308). -/
def execBarr (h : Hdr) (f : FRR) (s : State) := runInstr (.barr h f) (straight (barrBody h f)) s

/-! ### Supersteps (R311, R312) -/

/-- The wait of SSTEP: a repeat of a passed superstep passes at once with its T0 (R266). -/
def sstepWait (h : Hdr) : M Word := do
  let s ← get
  let j ← getJob
  let o ← originOf h
  match (← getStream).wait with
  | .sstepPassed t0 =>
    modifyStream (fun t => { t with wait := .none })
    return t0
  | .sstep => stall 9
  | _ => match (s.jobs.find? (fun g => g.handle = j.handle)).bind (fun g => g.t0s[j.arrStep]?) with
    | some t0 =>
      if s.ftime < t0 then stall 9
      modifyJob (fun j => { j with arrStep := j.arrStep + 1 })
      return t0
    | none => throw (.wait 9 .sstep none (some ⟨o, false, true, j.arrStep⟩))
/-- SSTEP's effect: T0 is pushed as a recorded arrival and starts the job's next superstep. -/
def sstepBody (h : Hdr) (f : FRR) : M Unit := do
  let o ← originOf h
  match (← replayTake h 8) with
  | some (v, m) =>
    modifyJob (fun j => { j with arrStep := j.arrStep + 1, passages := j.passages ++ [(o.stamp.coord, v)] })
    pushMarked h f.d v (← replayPoison m)
  | none =>
    traceRoom h
    pushRoom f.d
    let v ← sstepWait h
    modifyJob (fun j => { j with passages := j.passages ++ [(o.stamp.coord, v)] })
    push h f.d v
    let c ← curCore
    modify (fun s => s.recordArrival c o 8 v false)
/-- SSTEP (R312). -/
def execSstep (h : Hdr) (f : FRR) (s : State) := runInstr (.sstep h f) (straight (sstepBody h f)) s

/-- The count and alignment checks of RST and SEND (R116). DESIGN CHOICE (log 84): a count above 16,384 that is no multiple of 32 either raises
0x01, which comes before 0x09. -/
def checkBlock (fw src ga n : Word) : M Unit := do
  trapIf (decide (n.toNat = 0 ∨ 16384 < n.toNat)) 0x01 fw
  trapIf (decide (n.toNat % 32 ≠ 0)) 0x09 n
  trapIf (decide (src.toNat % 32 ≠ 0)) 0x09 src
  trapIf (decide (ga.toNat % 32 ≠ 0)) 0x09 ga
/-- A run of bytes in a scratchpad window, local or cluster: its core and its place in that pool, or the fault (R152, R153). -/
def State.scratchRun (s : State) (w : Who) (a : Word) (n : Nat) : Except AStop (CoreId × Nat) :=
  if a.toNat / 2 ^ 56 ≠ 0 then .error (.fault ⟨0x07, a, 0⟩)
  else match windowOf w a.toNat with
    | some (_, false, _) => match s.window w .r a.toNat n with
      | .ok (.pool c p) => .ok (c, p)
      | .ok _ => .error (.fault ⟨0x08, a, 0⟩)
      | .error x => .error x
    | some _ => .error (.fault ⟨0x08, a, 0⟩)
    | none => .error (.fault ⟨if inWindow a.toNat then 0x07 else 0x08, a, 0⟩)
/-- SEND's effect (R311): the block is held; in replay it is discarded. -/
def sendBody (h : Hdr) (f : FM) : M Unit := do
  let src ← pop f.d
  let ga ← pop f.base
  let n ← pop f.idx
  let dep ← pop f.aux
  let w ← whoNow
  let fw := (Instr.send h f).firstWord
  trapIf (decide (dep.toNat / 2 ^ 32 ≠ 0)) 0x01 fw
  checkBlock fw src ga n
  match (← get).scratchRun w src n.toNat with
  | .error x => faultTrap x
  | .ok _ => if (← replaying) then pure () else hold h (.send src ga n.toNat dep.toNat (f.opt.getLsbD 0))
/-- SEND (R311). -/
def execSend (h : Hdr) (f : FM) (s : State) := runInstr (.send h f) (straight (sendBody h f)) s

/-! ### TLBI (R285, R286) -/

/-- TLBI's effect: the completion word's entry is reserved, and the invalidation held; in replay it is discarded and D receives 1. -/
def tlbiBody (h : Hdr) (f : FRR) (tenant : Bool) (a : Word) : M Unit := do
  if (← replaying) then push h f.d 1
  else
    reserve h f.d true
    hold h (.tlbi tenant (f.fn.setWidth 3) a)
/-- The page kind pops the virtual address. -/
def tlbiPageBody (h : Hdr) (f : FRR) : M Unit := do
  let a ← pop f.a
  tlbiBody h f false a
/-- TLBI, page kind (R285). -/
def execTlbiPage (h : Hdr) (f : FRR) (s : State) := runInstr (.tlbiPage h f) (straight (tlbiPageBody h f)) s
/-- TLBI, tenant kind (R285). -/
def execTlbiTenant (h : Hdr) (f : FRR) (s : State) := runInstr (.tlbiTenant h f) (straight (tlbiBody h f true 0)) s

end Sys2Proof.Machine
end

