-- ==== Sys2Proof/Machine/Memory.lean ====
section
/-!
DEFINITION. The access and store instructions and the atomics at their issue (R98 to R117, R240 to R247). What they leave pending is
performed by the events of the engines and of the pending operations.
-/
namespace Sys2Proof.Machine

/-! ### Addresses at issue (R98, R103, R153) -/

/-- The bytes of an element of a type code. -/
def tyBytes (ty : BitVec 5) : Nat := tyWidth ty.toNat / 8
/-- The address b + i × n. -/
def indexed (b i : Word) (n : Nat) : Word := b + i * BitVec.ofNat 64 n
/-- The checks that a local address passes at issue: its upper bits and its alignment. -/
def checkAddr (a : Word) (n : Nat) : M Unit := do
  trapIf (decide (a.toNat / 2 ^ 56 ≠ 0)) 0x07 a
  trapIf (decide (a.toNat % n ≠ 0)) 0x09 a
/-- A direct access through a window is checked against the grant and the team at issue (R153). -/
def checkWindow (x : Perm) (a : Word) (n : Nat) : M Unit := do
  if inWindow a.toNat then
    let w ← whoNow
    match (← get).window w x a.toNat n with
    | .error f => faultTrap f
    | .ok _ => pure ()
/-- A value that must be a multiple of n. -/
def checkMultiple (v : Word) (n : Nat) : M Unit := trapIf (decide (v.toNat % n ≠ 0)) 0x09 v

/-! ### Loads (R103 to R105) -/

/-- LD's effect: the entry is reserved and the read left pending. -/
def ldBody (h : Hdr) (f : FM) : M Unit := do
  let b ← pop f.base
  let i ← pop f.idx
  let n := tyBytes f.ty
  let a := indexed b i n
  checkAddr a n
  checkWindow .r a n
  reserve h f.d false
  pend h (.ld a f.ty)
/-- LD (R103). -/
def execLd (h : Hdr) (f : FM) (s : State) := runInstr (.ld h f) (straight (ldBody h f)) s
/-- LDT's effect: the tile entry is reserved and the reads left pending. -/
def ldtBody (h : Hdr) (f : FM) : M Unit := do
  let a ← pop f.base
  let p ← pop f.idx
  checkMultiple a 16
  checkMultiple p 16
  reserveTile h f.d
  pend h (.ldt a p f.ty (tileIdx f.d.toNat))
/-- LDT (R104). -/
def execLdt (h : Hdr) (f : FM) (s : State) := runInstr (.ldt h f) (straight (ldtBody h f)) s
/-- GATHER's effect. -/
def gatherBody (h : Hdr) (f : FM) : M Unit := do
  let t ← pop f.base
  let l ← pop f.idx
  let p ← pop f.aux
  checkMultiple l 64
  checkMultiple t 16
  checkMultiple p 16
  reserveTile h f.d
  pend h (.gather t l p f.ty (f.opt = 1) (tileIdx f.d.toNat))
/-- GATHER (R105). -/
def execGather (h : Hdr) (f : FM) (s : State) := runInstr (.gather h f) (straight (gatherBody h f)) s
/-- RLD's effect: the request is sent, and the entry waits for its answer; in replay nothing is read (R401). -/
def rldBody (h : Hdr) (f : FM) : M Unit := do
  let b ← pop f.base
  let i ← pop f.idx
  let n := tyBytes f.ty
  let a := indexed b i n
  checkMultiple a n
  match (← replayTake h 4) with
  | some (v, m) => pushMarked h f.d v (← replayFabric m a)
  | none =>
    recordLater h 4
    reserve h f.d false
    pend h (.rld a f.ty)
    let o ← originOf h
    let j ← getJob
    modify (fun s => s.request s.cur.1 j j.seq o a (.read f.ty))
/-- RLD (R103). -/
def execRld (h : Hdr) (f : FM) (s : State) := runInstr (.rld h f) (straight (rldBody h f)) s

/-! ### Affine generators (R106, R107) -/

/-- The generator that FN names. -/
def genIdx (f : FRR) : Fin 8 := fin8 (f.fn.toNat % 8)
/-- The source-iteration coordinate of an instruction: ix[j], less the stage at the level of the innermost running loop (R107). -/
def Stream.sourceIx (t : Stream) (stage j : Nat) : Int :=
  (Coord.ix t.coord j : Int) - (match t.innermost with
    | some (l, _) => if l.val = j then (stage : Int) else 0
    | none => 0)
/-- A generator's value: base + Σ coef[j] × y[j], modulo 2^64. -/
def Gen.value (g : Gen) (y : Nat → Int) : Word :=
  [(0 : Fin 5), 1, 2, 3, 4].foldl (fun a j => a + g.coef.get j * BitVec.ofInt 64 (y j.val)) g.base
/-- GEN's effect. -/
def genBody (h : Hdr) (f : FRR) : M Unit := do
  let t ← getStream
  push h f.d ((t.gens.get (genIdx f)).value (t.sourceIx h.stage.toNat))
/-- GEN (R107). -/
def execGen (h : Hdr) (f : FRR) (s : State) := runInstr (.gen h f) (straight (genBody h f)) s
/-- GEN.base's effect. -/
def genBaseBody (f : FRR) : M Unit := do
  let v ← pop f.a
  modifyStream (fun t => { t with gens := t.gens.set (genIdx f) { t.gens.get (genIdx f) with base := v } })
/-- GEN.base (R107). -/
def execGenBase (h : Hdr) (f : FRR) (s : State) := runInstr (.genBase h f) (straight (genBaseBody f)) s
/-- GEN.coef's effect. -/
def genCoefBody (h : Hdr) (f : FRR) : M Unit := do
  let j ← pop f.a
  let v ← pop f.b
  trapIf (decide (4 < j.toNat)) 0x01 (Instr.genCoef h f).firstWord
  modifyStream (fun t =>
    let g := t.gens.get (genIdx f)
    { t with gens := t.gens.set (genIdx f) { g with coef := g.coef.set (fin5 j.toNat) v } })
/-- GEN.coef (R107). -/
def execGenCoef (h : Hdr) (f : FRR) (s : State) := runInstr (.genCoef h f) (straight (genCoefBody h f)) s

/-! ### Copies (R108, R110) -/

/-- A copy with its popped words: a channel or a memory destination. -/
def cpyBody (h : Hdr) (fw : Word) (ty : BitVec 5) (d : Word) (g : CopyGeo) : M Unit := do
  let w := tyWidth ty.toNat
  if d.getLsbD 63 then
    trapIf (decide (pteBits d 62 3 ≠ 0)) 0x01 fw
    trapIf (!(decide (0x0D ≤ ty.toNat ∧ ty.toNat ≤ 0x14)) || decide (g.n0 * 8 % w ≠ 0)) 0x01 fw
    enqueue .ce h (.copyChan g (fin8 (d.toNat % 8)) ty)
  else
    trapIf (decide (ty ≠ 0x11)) 0x01 fw
    enqueue .ce h (.copy g)
/-- CPY's effect, one-level form. -/
def cpyOneBody (h : Hdr) (f : FM) : M Unit := do
  let d ← pop f.d
  let b ← pop f.base
  let n ← pop f.aux
  let fw := (Instr.cpy h f).firstWord
  trapIf (decide (2 ^ 24 ≤ n.toNat)) 0x01 fw
  cpyBody h fw f.ty d ⟨b, d, n.toNat, 1, 1, 0, 0, 0, 0⟩
/-- CPY (R108). -/
def execCpy (h : Hdr) (f : FM) (s : State) := runInstr (.cpy h f) (straight (cpyOneBody h f)) s
/-- A half of a stride word as a signed number. -/
def strideLo (w : Word) : Int := (w.setWidth 32).toInt
/-- The upper half of a stride word as a signed number. -/
def strideHi (w : Word) : Int := ((w >>> 32).setWidth 32).toInt
/-- CPY's effect, three-level form. -/
def cpyThreeBody (h : Hdr) (f : FME) : M Unit := do
  let d ← pop f.m.d
  let b ← pop f.m.base
  let n ← pop f.m.aux
  let ds ← pop f.m.idx
  let os ← pop f.e1
  cpyBody h (Instr.cpyThreeLevels h f).firstWord f.m.ty d
    ⟨b, d, pteBits n 23 0, pteBits n 43 24, pteBits n 63 44, strideLo ds, strideHi ds, strideLo os, strideHi os⟩
/-- CPY with three levels (R108). -/
def execCpyThreeLevels (h : Hdr) (f : FME) (s : State) := runInstr (.cpyThreeLevels h f) (straight (cpyThreeBody h f)) s

/-- PUB's effect (R112): a page without PUBLISH traps; the flip of its buffer is held; in replay it is discarded. -/
def pubBody (h : Hdr) (f : FM) : M Unit := do
  let a ← pop f.base
  let w ← whoNow
  match (← get).leafAt w a with
  | .error x => faultTrap x
  | .ok e =>
    trapIf (!ptPub e) 0x08 a
    if (← replaying) then pure () else hold h (.pub (flipOf e))
/-- PUB (R112). -/
def execPub (h : Hdr) (f : FM) (s : State) := runInstr (.pub h f) (straight (pubBody h f)) s

/-! ### Stores (R113, R114) -/

/-- STT's effect. -/
def sttBody (h : Hdr) (f : FM) : M Unit := do
  let t ← popDrained (Instr.stt h f).firstWord f.d
  let a ← pop f.base
  let p ← pop f.idx
  checkMultiple a 16
  checkMultiple p 16
  enqueue .se h (.stt a p f.ty t)
/-- STT (R113). -/
def execStt (h : Hdr) (f : FM) (s : State) := runInstr (.stt h f) (straight (sttBody h f)) s
/-- SCATTER's effect. -/
def scatterBody (h : Hdr) (f : FM) : M Unit := do
  let v ← popDrained (Instr.scatter h f).firstWord f.d
  let t ← pop f.base
  let l ← pop f.idx
  let p ← pop f.aux
  checkMultiple l 64
  checkMultiple t 16
  checkMultiple p 16
  enqueue .se h (.scatter t l p f.ty v)
/-- SCATTER (R113). -/
def execScatter (h : Hdr) (f : FM) (s : State) := runInstr (.scatter h f) (straight (scatterBody h f)) s

/-! ### Remote stores and atomics (R115, R116) -/

/-- The effect of RST and RSTA; in replay it is discarded (R401). -/
def rstBody (h : Hdr) (f : FM) (fw : Word) (acc : Bool) : M Unit := do
  let src ← pop f.d
  let ga ← pop f.base
  let n ← pop f.idx
  let flag ← pop f.aux
  checkBlock fw src ga n
  checkMultiple flag 4
  if (← replaying) then pure () else enqueue .se h (.rst src ga n.toNat flag acc)
/-- RST (R115). -/
def execRst (h : Hdr) (f : FM) (s : State) := runInstr (.rst h f) (straight (rstBody h f (Instr.rst h f).firstWord false)) s
/-- RSTA (R115). -/
def execRsta (h : Hdr) (f : FM) (s : State) := runInstr (.rsta h f) (straight (rstBody h f (Instr.rsta h f).firstWord true)) s
/-- The operation of a RAT (R115). -/
def ratOp (o : BitVec 3) : AOp := match o.toNat with
  | 0 => .addF
  | 1 => .xch
  | 2 => .cas
  | 3 => .incw
  | _ => .faddb
/-- RAT's effect: AUX is an operand of acas and faddb only (R115); the entry of D cannot be read at RAT's own coordinate (R247); in replay it
is not sent (R401). -/
def ratBody (h : Hdr) (f : FM) : M Unit := do
  let ga ← pop f.base
  let v ← pop f.idx
  let c ← if f.opt = 2 ∨ f.opt = 4 then pop f.aux else pure 0
  checkMultiple ga 4
  match (← replayTake h 2) with
  | some (x, m) => pushMarked h f.d x (← replayFabric m ga)
  | none =>
    recordLater h 2
    reserve h f.d true
    enqueue .se h (.rat (ratOp f.opt) ga (v.setWidth 32) (c.setWidth 32))
/-- RAT (R115). -/
def execRat (h : Hdr) (f : FM) (s : State) := runInstr (.rat h f) (straight (ratBody h f)) s

/-! ### Atomics (R240 to R248) -/

/-- The new word of an atomic and whether AFADDB refuses (R242, R243). -/
def atomicNew (op : AOp) (old v c : BitVec 32) : BitVec 32 × Bool := match op with
  | .addF => (BitVec.ofNat 32 (addF32 old.toNat v.toNat), false)
  | .addN => (old + v, false)
  | .xch => (v, false)
  | .cas => (if old = c then v else old, false)
  | .incw => (if v ≤ old then 0 else old + 1, false)
  | .faddb => if c < old then (old, true) else (BitVec.ofNat 32 (Nat.min (old.toNat + v.toNat) c.toNat), false)
  | .await _ => (old, false)
/-- What D receives: the old word, with BOUNDX in bit 32. -/
def atomicOld (old : BitVec 32) (x : Bool) : Word := BitVec.ofNat 64 (old.toNat + 2 ^ 32 * bitNat x)
/-- The condition of an AWAIT (R244). -/
def awaitHolds (cc : BitVec 2) (w v : BitVec 32) : Bool := match cc.toNat with
  | 0 => w = v
  | 1 => w ≠ v
  | 2 => decide (v ≤ w)
  | _ => decide (w < v)

/-- Where an atomic executes (R240, R241). -/
inductive APlace where
  /-- the accumulator word of a core through a window, at this place of its pool; own when the core is the requester's -/
  | word (core : CoreId) (p : Nat)
  /-- the accumulator word of another core through a page -/
  | home (core : CoreId) (tile off : Nat)
  | host (pa : Nat)
  deriving DecidableEq, Repr
/-- An atomic operation that the host carries out (R241). -/
def AOp.hostOk : AOp → Bool
  | .addN | .xch | .cas => true
  | _ => false
/-- Resolve the address of an atomic, AWAIT among them (R240): it needs R and W (R281). A place that takes no atomic traps whatever its memory
does. DESIGN CHOICE (log 23): an atomic at a scratchpad window that the checks of the windows stop has their cause (R153). -/
def State.atomicPlace (s : State) (w : Who) (op : AOp) (a : Word) : Except AStop APlace :=
  match s.reach w .rw a 4 with
  | .error e => .error e
  | .ok l =>
    if inWindow a.toNat then match windowOf w a.toNat, l with
      | some (_, true, _), .pool c p => .ok (.word c p)
      | _, _ => .error (.fault ⟨0x08, a, 0⟩)
    else match l with
      | .pool c p => .ok (.word c p)
      | .foreign c t o => .ok (.home c t o)
      | .mem pa _ sys _ => if sys && op.hostOk then .ok (.host pa) else .error (.fault ⟨0x08, a, 0⟩)

/-- An atomic in replay (R401): on the own path the new value is computed from the recorded old value and written; a foreign one is not
sent. -/
def atomicReplay (h : Hdr) (op : AOp) (a : Word) (v c : BitVec 32) (x : Word) : M Unit := do
  let w ← whoNow
  match (← get).atomicPlace w op a with
  | .error e => faultTrap e
  | .ok (.word k p) =>
    if k = w.core then writePool h k p (leBytes 4 (atomicNew op (x.setWidth 32) v c).1.toNat) false else pure ()
  | .ok _ => pure ()
/-- The effect of an atomic or AWAIT with its popped operands: checked at issue and left pending; the read of an AWAIT's entry will order
the stream (R378). In replay it is done with the recorded value. -/
def atomicBody (h : Hdr) (d : Spec) (op : AOp) (sub : Nat) (a : Word) (v c : BitVec 32) : M Unit := do
  checkAddr a 4
  let w ← whoNow
  if inWindow a.toNat then match (← get).atomicPlace w op a with
    | .error e => faultTrap e
    | .ok _ => pure ()
  match (← replayTake h sub) with
  | some (x, m) =>
    match op with
    | .await _ => pure ()
    | _ => atomicReplay h op a v c x
    pushMarked h d x (← replayFabric m a)
  | none =>
    recordLater h sub
    reserve h d false
    match op with
    | .await _ => do
      let n := (← getJob).seq
      modifyStream (fun t => { t with awaited := t.awaited ++ [n] })
    | _ => pure ()
    pend h (.atomic op a v c)
/-- The operands of an atomic without a third operand. -/
def atomic2 (h : Hdr) (f : FM) (op : AOp) (sub : Nat) : M Unit := do
  let a ← pop f.base
  let v ← pop f.idx
  atomicBody h f.d op sub a (v.setWidth 32) 0
/-- The operands of an atomic with a compare value or a bound. -/
def atomic3 (h : Hdr) (f : FM) (op : AOp) : M Unit := do
  let a ← pop f.base
  let v ← pop f.idx
  let c ← pop f.aux
  atomicBody h f.d op 2 a (v.setWidth 32) (c.setWidth 32)
/-- AADD (R242, R243). -/
def execAadd (h : Hdr) (f : FM) (s : State) :=
  runInstr (.aadd h f) (straight (atomic2 h f (if f.ty = 0 then .addF else .addN) 2)) s
/-- AXCH (R242). -/
def execAxch (h : Hdr) (f : FM) (s : State) := runInstr (.axch h f) (straight (atomic2 h f .xch 2)) s
/-- ACAS (R242). -/
def execAcas (h : Hdr) (f : FM) (s : State) := runInstr (.acas h f) (straight (atomic3 h f .cas)) s
/-- AINCW (R242). -/
def execAincw (h : Hdr) (f : FM) (s : State) := runInstr (.aincw h f) (straight (atomic2 h f .incw 2)) s
/-- AFADDB (R242). -/
def execAfaddb (h : Hdr) (f : FM) (s : State) := runInstr (.afaddb h f) (straight (atomic3 h f .faddb)) s
/-- AWAIT (R244). -/
def execAwait (h : Hdr) (f : FM) (s : State) := runInstr (.await h f) (straight (atomic2 h f (.await (f.opt.setWidth 2)) 3)) s

end Sys2Proof.Machine
end

