-- ==== Sys2Proof/Machine/Lanes.lean ====
section
/-!
DEFINITION. What the vector engine computes on elements, tiles and groups (R183 to R201), as functions of raw slots.
-/
namespace Sys2Proof.Machine

/-- OPF of a format in FZCTL (R173). -/
def opfOf (fz t : Nat) : Bool := tyFloat t && decide (fz / 2 ^ (2 * t) % 2 = 1)
/-- RSF of a format in FZCTL (R173). -/
def rsfOf (fz t : Nat) : Bool := tyFloat t && decide (fz / 2 ^ (2 * t + 1) % 2 = 1)

/-- The slot of a result code of type t (R100, R185): signed integers are sign-extended, other types zero-extended. -/
def slotOf (t raw : Nat) : BitVec 32 :=
  if tySigned t then BitVec.ofInt 32 (toSigned (tyWidth t) raw) else BitVec.ofNat 32 (raw % 2 ^ tyWidth t)

/-- The element-wise operations of R189, R194, R195 and R198. -/
inductive EOp where
  | add | sub | mul | fma | div | abs | neg | min | max | minp | maxp | and | or | xor | shl | shr | exp2 | log2 | rcp | rsq | tanh
  | cvt (s : Nat)
  deriving DecidableEq, Repr

/-- A float code after operand flushing (R174). -/
def flushRaw (t : Nat) (opf : Bool) (raw : Nat) : Nat :=
  let f := FFmt.ofTy t
  if opf && decide (raw % 2 ^ (f.w - 1) < 2 ^ f.mb) then raw % 2 ^ f.w / 2 ^ (f.w - 1) * 2 ^ (f.w - 1) else raw % 2 ^ f.w

/-- An order key of a float code that is no NaN, with -0 below +0 (R191). -/
def floatKey (t raw : Nat) : Int :=
  let w := (FFmt.ofTy t).w
  if raw / 2 ^ (w - 1) % 2 = 1 then -((raw % 2 ^ (w - 1) : Nat) : Int) - 1 else (raw % 2 ^ (w - 1) : Nat)

/-- An order key of an integer code: signed for the i types (R191, R192). -/
def intKey (t raw : Nat) : Int := if tySigned t then toSigned (tyWidth t) raw else (raw % 2 ^ tyWidth t : Nat)

/-- VMIN, VMAX, VMINP or VMAXP of two float codes (R191): `big` takes the greater, `prop` propagates NaN. -/
def floatPick (t : Nat) (opf big prop : Bool) (a b : Nat) : Nat × Fl :=
  let va := decodeFloat t false a
  let vb := decodeFloat t false b
  let qn := (FFmt.ofTy t).qnan.getD 0
  if va.isSig || vb.isSig then (qn, Fl.inv true)
  else if va.isNan || vb.isNan then
    (if prop || (va.isNan && vb.isNan) then qn else if va.isNan then flushRaw t opf b else flushRaw t opf a, Fl.clear)
  else
    let a := flushRaw t opf a
    let b := flushRaw t opf b
    (if (decide (floatKey t a < floatKey t b)) = big then b else a, Fl.clear)

/-- The lesser or greater of two integer codes. -/
def intPick (t : Nat) (big : Bool) (a b : Nat) : Nat := if (decide (intKey t a < intKey t b)) = big then b else a

/-- A float result rounded once with d = 64 (R187): `r` is the exact result with its NV. -/
def floatResult (t fz : Nat) (m : Rm) (z : Nat) (r : Val × Bool) : Nat × Fl :=
  let q := encFloat t (rsfOf fz t) ⟨m, z, none⟩ r.1
  (q.1, q.2.or (Fl.inv r.2))

/-- One element of an element-wise operation on codes a, b and c of type t (R185, R187 to R195, R198). -/
def elemOp (op : EOp) (t fz : Nat) (m : Rm) (z a b c : Nat) : Nat × Fl :=
  let w := tyWidth t
  let dec := decodeFloat t (opfOf fz t)
  let rdn := decide (m = .rdn)
  let fl := tyFloat t
  let ia := intKey t a
  let ib := intKey t b
  match op with
  | .add => if fl then floatResult t fz m z (Val.add rdn (dec a) (dec b)) else (wrapInt w (ia + ib), Fl.clear)
  | .sub => if fl then floatResult t fz m z (Val.add rdn (dec a) (dec b).negate) else (wrapInt w (ia - ib), Fl.clear)
  | .mul => if fl then floatResult t fz m z (Val.mul (dec a) (dec b)) else (wrapInt w (ia * ib), Fl.clear)
  | .fma => floatResult t fz m z (Val.fma rdn (dec a) (dec b) (dec c))
  | .div =>
    let r := Val.div (dec a) (dec b)
    let q := floatResult t fz m z (r.1, r.2.1)
    (q.1, q.2.or ⟨false, r.2.2, false, false, false⟩)
  | .abs => if fl then (a % 2 ^ (w - 1), Fl.clear) else (wrapInt w ia.natAbs, Fl.clear)
  | .neg => if fl then ((a % 2 ^ w) ^^^ 2 ^ (w - 1), Fl.clear) else (wrapInt w (-ia), Fl.clear)
  | .min => if fl then floatPick t (opfOf fz t) false false a b else (intPick t false a b, Fl.clear)
  | .max => if fl then floatPick t (opfOf fz t) true false a b else (intPick t true a b, Fl.clear)
  | .minp => floatPick t (opfOf fz t) false true a b
  | .maxp => floatPick t (opfOf fz t) true true a b
  | .and => (a &&& b, Fl.clear)
  | .or => (a ||| b, Fl.clear)
  | .xor => (a ^^^ b, Fl.clear)
  | .shl => (a * 2 ^ (b % 32) % 2 ^ 32, Fl.clear)
  | .shr => (wrapInt 32 (ia / (2 ^ (b % 32) : Nat)), Fl.clear)
  | .exp2 => specFinish t (rsfOf fz t) m z (specExp2 (dec a))
  | .log2 => specFinish t (rsfOf fz t) m z (specLog2 (dec a))
  | .rcp => specFinish t (rsfOf fz t) m z (specRcp (dec a))
  | .rsq => specFinish t (rsfOf fz t) m z (specRsq (dec a))
  | .tanh => specFinish t (rsfOf fz t) m z (specTanh (dec a))
  | .cvt s => convert t s (opfOf fz s) (rsfOf fz t) m z a

/-- What an instruction samples at issue for its arithmetic (R50, R82, R176): FZCTL, the mode, the seed and the draws made before. -/
structure LaneCtx where
  fz : Nat
  mode : Rm
  seed : Nat
  draws : Nat
  deriving DecidableEq, Repr

/-- The stochastic output of position e (R176). -/
def LaneCtx.z (x : LaneCtx) (e : Nat) : Nat := match x.mode with
  | .sr => splitMix x.seed (e % 256) (x.draws + e / 256 + 1)
  | _ => 0

/-- All flags of a list of results. -/
def allFlags (l : List Fl) : Fl := l.foldl Fl.or Fl.clear

/-- A tile computed slot by slot, with the flags of all slots. -/
def tileMap (f : Fin 1024 → BitVec 32 × Fl) : Tile × Fl :=
  let rs := Vector.ofFn f
  (rs.map Prod.fst, allFlags (rs.toList.map Prod.snd))

/-- Bit e of a mask when MEN is set; every element is on otherwise (R183, R186). -/
def isOn (men : Bool) (mask : BitVec 1024) (e : Nat) : Bool := !men || mask.getLsbD e

/-- An element-wise operation on whole tiles (R186): an element that is off receives TA's slot. `e0` is the traversal position of the
tile's first element (R176). -/
def tileOp (op : EOp) (t : Nat) (x : LaneCtx) (e0 : Nat) (men : Bool) (mask : BitVec 1024) (a b c : Tile) : Tile × Fl :=
  tileMap (fun i =>
    if isOn men mask i then
      let r := elemOp op t x.fz x.mode (x.z (e0 + i)) (a.get i).toNat (b.get i).toNat (c.get i).toNat
      (slotOf t r.1, r.2)
    else (a.get i, Fl.clear))

/-- VSEL (R193). -/
def tileSel (mask : BitVec 1024) (a b : Tile) : Tile := Vector.ofFn (fun i => if mask.getLsbD i then a.get i else b.get i)

/-- One element of VCMP (R192): the bit and whether NV is set. -/
def cmpElem (cc t fz : Nat) (a b : Nat) : Bool × Bool :=
  let fl := tyFloat t
  let va := decodeFloat t (opfOf fz t) a
  let vb := decodeFloat t (opfOf fz t) b
  let un := fl && (va.isNan || vb.isNan)
  let sig := fl && (va.isSig || vb.isSig)
  let d : Int := if fl then (Dy.add va.dy vb.negate.dy).x else intKey t a - intKey t b
  -- infinities compare by their codes
  let lt := if fl && (va.isInf || vb.isInf) then decide (floatKey t a < floatKey t b) else decide (d < 0)
  let eq := if fl && (va.isInf || vb.isInf) then decide (floatKey t a = floatKey t b) else decide (d = 0)
  let bit := match cc with
    | 0 => !un && eq
    | 1 => un || !eq
    | 2 => !un && lt
    | 3 => !un && (lt || eq)
    | 4 => !un && !(lt || eq)
    | 5 => !un && !lt
    | 6 => un
    | _ => !un
  (bit, sig || (un && decide (2 ≤ cc ∧ cc ≤ 5)))

/-- VCMP on tiles (R192): the mask and the flags; an element that is off gives bit 0 and sets no flag. -/
def tileCmp (cc t fz : Nat) (men : Bool) (mask : BitVec 1024) (a b : Tile) : BitVec 1024 × Fl :=
  let rs := (List.finRange 1024).map (fun (i : Fin 1024) =>
    if isOn men mask i then cmpElem cc t fz (a.get i).toNat (b.get i).toNat else (false, false))
  (BitVec.ofBoolListLE (rs.map Prod.fst) |>.setWidth 1024, Fl.inv (rs.any Prod.snd))

/-- The axis moves (R199) and VNET's rows, as maps of positions. -/
def tileMove (src : Fin 1024 → Fin 1024) (men : Bool) (mask : BitVec 1024) (a : Tile) : Tile :=
  Vector.ofFn (fun i => if isOn men mask i then a.get (src i) else a.get i)
/-- Position of element (r, c), taken modulo the tile. -/
def pos (r c : Nat) : Fin 1024 := ⟨(64 * (r % 16) + c % 64) % 1024, Nat.mod_lt _ (by decide)⟩
/-- VROTR (R199). -/
def srcRotr (n : Nat) (i : Fin 1024) : Fin 1024 := pos (i / 64) (i % 64 + n % 64)
/-- VROTC (R199). -/
def srcRotc (n : Nat) (i : Fin 1024) : Fin 1024 := pos (i / 64 + n % 16) (i % 64)
/-- VBCR (R199). -/
def srcBcr (n : Nat) (i : Fin 1024) : Fin 1024 := pos (i / 64) (n % 64)
/-- VBCC (R199). -/
def srcBcc (n : Nat) (i : Fin 1024) : Fin 1024 := pos (n % 16) (i % 64)
/-- VTRN (R199). -/
def srcTrn (i : Fin 1024) : Fin 1024 := pos (i % 64 % 16) (16 * (i % 64 / 16) + i / 64)

/-- The stage of the Beneš network (R201): the position in a row that reaches position p through stage s. -/
def netStage (cfg : BitVec 352) (s p : Nat) : Nat :=
  let b := if s ≤ 5 then 5 - s else s - 5
  let j := p / 2 ^ (b + 1) * 2 ^ b + p % 2 ^ b
  if cfg.getLsbD (32 * s + j) then p ^^^ 2 ^ b else p
/-- The source position of position p after all eleven stages (R201): the stages are applied in order, so the source is found from
the last stage back. -/
def netSource (cfg : BitVec 352) (p : Nat) : Nat := (List.range 11).foldr (netStage cfg) p |> fun q =>
  -- foldr applies stage 10 first, which is the last stage the slot passed
  q % 64
/-- VNET (R201, R203). -/
def srcNet (cfg : BitVec 352) (i : Fin 1024) : Fin 1024 := pos (i / 64) (netSource cfg (i % 64))

/-- VGEN (R205). -/
def tileGen (pat : Word) (men : Bool) (mask : BitVec 1024) : Tile :=
  Vector.ofFn (fun i =>
    if isOn men mask i then
      BitVec.ofInt 32 ((pat.toNat % 2 ^ 32 : Nat) + ((i : Nat) / 64 : Nat) * toSigned 16 (pat.toNat / 2 ^ 48) +
        ((i : Nat) % 64 : Nat) * toSigned 16 (pat.toNat / 2 ^ 32))
    else 0)

/-- The result of a reduction over the codes of a group's participants (R200): op 0 add, 1 max, 2 min, 3 maxp, 4 minp. -/
def reduce (op t fz : Nat) (m : Rm) (z : Nat) (l : List Nat) : Nat × Fl :=
  if tyFloat t then
    let f := FFmt.ofTy t
    let dec := decodeFloat t (opfOf fz t)
    let big := decide (op = 1 ∨ op = 3)
    let vs := l.map dec
    if l.isEmpty then
      (if op = 0 then 0 else signBit big f.w + f.infCode.getD 0, Fl.clear)
    else if op = 0 then floatResult t fz m z (groupSum (decide (m = .rdn)) vs)
    else if vs.any Val.isSig then (f.qnan.getD 0, Fl.inv true)
    else if (2 < op && vs.any Val.isNan) || vs.all Val.isNan then (f.qnan.getD 0, Fl.clear)
    else
      let ks := (l.filter (fun r => !(dec r).isNan)).map (flushRaw t (opfOf fz t))
      (ks.foldl (fun acc r => if (decide (floatKey t acc < floatKey t r)) = big then r else acc) (ks.headD 0), Fl.clear)
  else
    let w := tyWidth t
    if op = 0 then (wrapInt w ((l.map (intKey t)).sum), Fl.clear)
    else
      let big := decide (op = 1)
      let least : Nat := if tySigned t then 2 ^ (w - 1) else 0
      let greatest : Nat := if tySigned t then 2 ^ (w - 1) - 1 else 2 ^ w - 1
      (l.foldl (fun acc r => intPick t big acc (r % 2 ^ w)) (if big then least else greatest), Fl.clear)

/-- VREDR (R200): each row reduced over its columns, under the draw of the row's first position. -/
def tileRedr (op t : Nat) (x : LaneCtx) (men : Bool) (mask : BitVec 1024) (a : Tile) : Tile × Fl :=
  let rows := (List.range 16).map (fun r =>
    reduce op t x.fz x.mode (x.z (64 * r))
      (((List.range 64).filter (fun c => isOn men mask (64 * r + c))).map (fun c => (a.get (pos r c)).toNat)))
  (Vector.ofFn (fun i => slotOf t (rows[(i : Nat) / 64]?.getD (0, Fl.clear)).1), allFlags (rows.map Prod.snd))
/-- VREDC (R200): each column reduced over its rows, under the draw of the column's first position. -/
def tileRedc (op t : Nat) (x : LaneCtx) (men : Bool) (mask : BitVec 1024) (a : Tile) : Tile × Fl :=
  let cols := (List.range 64).map (fun c =>
    reduce op t x.fz x.mode (x.z c)
      (((List.range 16).filter (fun r => isOn men mask (64 * r + c))).map (fun r => (a.get (pos r c)).toNat)))
  (Vector.ofFn (fun i => slotOf t (cols[(i : Nat) % 64]?.getD (0, Fl.clear)).1), allFlags (cols.map Prod.snd))

/-! ### MX tiles (R196, R197) -/

/-- The 32 codes of block b of row r. -/
def blockOf (a : Tile) (r b : Nat) : List Nat := (List.range 32).map (fun j => (a.get (pos r (32 * b + j))).toNat)

/-- The 32 scale bytes of VQMX, byte 2r + b for block b of row r (R196). -/
def qmxScales (t s fz : Nat) (up : Bool) (a : Tile) : List Nat :=
  (List.range 32).map (fun n => mxScale t up ((blockOf a (n / 2) (n % 2)).map (decodeFloat s (opfOf fz s))))
/-- VQMX (R196): the tile of codes, under the scale bytes. -/
def tileQmx (t s : Nat) (x : LaneCtx) (e0 : Nat) (scales : List Nat) (a : Tile) : Tile × Fl :=
  let fs := tileMap (fun i =>
    let v := decodeFloat s (opfOf x.fz s) (a.get i).toNat
    let r := mxEncode t (rsfOf x.fz t) x.mode (x.z (e0 + i)) (scales[2 * ((i : Nat) / 64) + (i : Nat) % 64 / 32]?.getD 0) v
    (slotOf t r.1, r.2.or (Fl.inv v.isSig)))
  fs
/-- VDQMX (R197): the decoded tile. -/
def tileDqmx (t s : Nat) (x : LaneCtx) (e0 : Nat) (scales : List Nat) (a : Tile) : Tile × Fl :=
  tileMap (fun i =>
    let v := mxDecode s (opfOf x.fz s) (scales[2 * ((i : Nat) / 64) + (i : Nat) % 64 / 32]?.getD 0) (a.get i).toNat
    let r := encFloat t (rsfOf x.fz t) ⟨x.mode, x.z (e0 + i), v.quantum⟩ v
    (slotOf t r.1, r.2))

end Sys2Proof.Machine
end

