-- ==== Sys2Proof/Machine/Pack.lean ====
section
/-!
DEFINITION. Tiles in memory (R100, R204), and the direct accesses of V and C to the pool windows (R129, R204, R209).
-/
namespace Sys2Proof.Machine

/-! ### Packed rows (R100) -/

/-- A tile from a function of row and column. -/
def tileOf (g : Nat → Nat → BitVec 32) : Tile := Vector.ofFn (fun i => g (i.val / 64) (i.val % 64))
/-- The bytes of one packed row of an element type. -/
def rowBytes (ty : Nat) : Nat := 8 * tyWidth ty
/-- Element e of a row read as a little-endian number: its slot (R100). -/
def unpackElem (ty row e : Nat) : BitVec 32 := slotOf ty (row / 2 ^ (e * tyWidth ty) % 2 ^ tyWidth ty)
/-- A tile from its sixteen rows as numbers. -/
def unpackRows (ty : Nat) (rows : List Nat) : Tile := tileOf (fun r c => unpackElem ty (rows.getD r 0) c)
/-- Row r of a tile as a number: the low w bits of each slot, packed. -/
def packRow (ty : Nat) (t : Tile) (r : Nat) : Nat :=
  (List.range 64).foldl (fun n c => n + (t.get (pos r c)).toNat % 2 ^ tyWidth ty * 2 ^ (c * tyWidth ty)) 0
/-- The bytes of row r of a tile. -/
def packRowBytes (ty : Nat) (t : Tile) (r : Nat) : List Byte := leBytes (rowBytes ty) (packRow ty t r)
/-- The bytes of a row after a write of the elements that are on: none where no element that is on covers the byte (R204). -/
def maskRowBytes (ty : Nat) (t : Tile) (r : Nat) (on : Nat → Bool) (old : List Byte) : List (Option Byte) :=
  let w := tyWidth ty
  let cover := (List.range 64).foldl (fun n c => n + if on (64 * r + c) then (2 ^ w - 1) * 2 ^ (c * w) else 0) 0
  let bits := packRow ty t r &&& cover
  let was := leNat old
  (List.range (rowBytes ty)).map (fun i =>
    let m := cover / 2 ^ (8 * i) % 256
    if m = 0 then none else some (BitVec.ofNat 8 ((bits / 2 ^ (8 * i) % 256) + (was / 2 ^ (8 * i) % 256 &&& (255 - m)))))
/-- Runs of bytes to write, from place p on: cut at bytes that are not written and at sector boundaries (R101). -/
def byteRuns : Nat → List (Option Byte) → List (Nat × List Byte)
  | _, [] => []
  | p, none :: l => byteRuns (p + 1) l
  | p, some b :: l => match byteRuns (p + 1) l with
    | (q, bs) :: rest => if q = p + 1 ∧ q % 32 ≠ 0 then (p, b :: bs) :: rest else (p, [b]) :: (q, bs) :: rest
    | [] => [(p, [b])]

/-! ### Direct accesses to a pool -/

/-- The first poisoned sector of a run of bytes of a pool, by the address it is reported with (R292). -/
def State.poolPoison (s : State) (k : CoreId) (p n : Nat) : Option Nat := (s.poisonAt (poolKey k p) n).map s.poisonInfo
/-- A read of a pool waits for what other cores have written there and must not show yet (R87). DESIGN CHOICE (log 86): with cause 14. -/
def unveiled (k : CoreId) (p n : Nat) : M Unit := do
  let s ← get
  let j ← getJob
  stallIf (s.veiled s.cur.1 j.handle k p n) 14
/-- Bytes of a pool that an operand reads, with the job's own stores over them (R119): poison traps (R292). -/
def readPool (k : CoreId) (p n : Nat) (va : Word) : M (List Byte) := do
  unveiled k p n
  let s ← get
  match s.poolPoison k p n with
  | some pa => throw (.poison pa va)
  | none =>
    let l := s.seenBytes s.cur.1 (← getJob) (poolKey k p) ((memBytes s.mem (poolKey k p) n).map (fun b => (b, none)))
    match l.findSome? Prod.snd with
    | some pa => throw (.poison pa va)
    | none => return l.map Prod.fst
/-- Write runs of bytes to a pool, in order. -/
def writeRuns (h : Hdr) (k : CoreId) : List (Nat × List Byte) → M Unit
  | [] => pure ()
  | (p, bs) :: l => do
    writePool h k p bs false
    writeRuns h k l
/-- Write bytes to a pool sector by sector in ascending order (R101, R204). -/
def writeBytes (h : Hdr) (k : CoreId) (p : Nat) (bs : List Byte) : M Unit := writeRuns h k (byteRuns p (bs.map some))
/-- The place of a scratchpad operand of V: inside a scratchpad window (0x08), aligned (0x09), inside the grant (R204). -/
def scratchPlace (a : Word) (align n : Nat) : M (CoreId × Nat) := do
  let w ← whoNow
  trapIf (decide (a.toNat / 2 ^ 56 ≠ 0)) 0x07 a
  match windowOf w a.toNat with
  | some (_, false, _) =>
    trapIf (decide (a.toNat % align ≠ 0)) 0x09 a
    match (← get).scratchRun w a n with
    | .ok r => return r
    | .error x => faultTrap x
  | _ => trap 0x08 a

end Sys2Proof.Machine
end

