-- ==== Sys2Proof/Machine/Checker.lean ====
section
/-!
DEFINITION. The addresses that commands and pending operations touch, the range checker (R157, R158), the busy tiles of R229, and the
order of one stream's accesses (R42, R295, R377).
-/
namespace Sys2Proof.Machine

/-! ### Copies (R108) -/

/-- The (i1, i2) pairs of a copy's traversal, i2 outermost. -/
def CopyGeo.loops (g : CopyGeo) : List (Nat × Nat) := (List.range g.n2).flatMap (fun i2 => (List.range g.n1).map (fun i1 => (i1, i2)))
/-- Where a segment of the origin begins. -/
def CopyGeo.from (g : CopyGeo) (i : Nat × Nat) : Word := g.src + BitVec.ofInt 64 (i.1 * g.os1 + i.2 * g.os2)
/-- Where a segment of the destination begins. -/
def CopyGeo.to (g : CopyGeo) (i : Nat × Nat) : Word := g.dst + BitVec.ofInt 64 (i.1 * g.ds1 + i.2 * g.ds2)
/-- A copy that moves nothing. -/
def CopyGeo.empty (g : CopyGeo) : Bool := decide (g.n0 = 0 ∨ g.n1 = 0 ∨ g.n2 = 0)
/-- The lowest byte and the byte after the highest of one side of a copy. -/
def copyHull (g : CopyGeo) (base : Word) (s1 s2 : Int) : List (Int × Int) :=
  if g.empty then []
  else
    let a := ((g.n1 : Int) - 1) * s1
    let b := ((g.n2 : Int) - 1) * s2
    [((base.toNat : Int) + min 0 a + min 0 b, (base.toNat : Int) + max 0 a + max 0 b + g.n0)]

/-! ### Matrix operands (R154, R222) -/

/-- A scratchpad operand of MMA: base, row pitch, tile pitch, rotation code. -/
structure MOperand where
  base : Word
  rp : Nat
  tp : Nat
  rot : Nat
  deriving DecidableEq, Repr
/-- The operand that two registers name. -/
def mOperand (x1 x2 : Word) : MOperand := ⟨BitVec.ofNat 64 (x1.toNat % 2 ^ 56), pteBits x2 31 0, pteBits x2 63 32, pteBits x1 63 60⟩
/-- The address e of sector q of row i of operand tile t (R154). -/
def MOperand.addr (m : MOperand) (t i q : Nat) : Word :=
  (m.base + BitVec.ofNat 64 (t * m.tp + i * m.rp + 32 * q)) ^^^ BitVec.ofNat 64 (i * m.rot % 64 * 32)
/-- The rows of an operand: operand tile, row and number of elements (R222); `along` says that K runs along the row. -/
def operandRows (along : Bool) (outer k : Nat) : List (Nat × Nat × Nat) :=
  (List.range ((k + 127) / 128)).flatMap (fun t =>
    let kt := min 128 (k - 128 * t)
    if along then (List.range outer).map (fun i => (t, i, kt)) else (List.range kt).map (fun i => (t, i, outer)))
/-- The sectors of a row of n elements of a type. -/
def rowSectors (ty n : Nat) : Nat := ((n * tyWidth ty + 7) / 8 + 31) / 32
/-- The sector addresses of an operand. -/
def operandSectors (m : MOperand) (along : Bool) (outer k ty : Nat) : List Word :=
  (operandRows along outer k).flatMap (fun r => (List.range (rowSectors ty r.2.2)).map (fun q => m.addr r.1 r.2.1 q))
/-- The sizes and modes of an MMA's operands. -/
def FMX_m (f : FMX) : Nat := f.mm1.toNat + 1
/-- N. -/
def FMX_n (f : FMX) : Nat := f.nm1.toNat + 1
/-- K. -/
def FMX_k (f : FMX) : Nat := f.km1.toNat + 1
/-- The type of A in a format word (R219). -/
def fmtA (w : Word) : Nat := pteBits w 4 0
/-- The type of B. -/
def fmtB (w : Word) : Nat := pteBits w 9 5

/-! ### Pool intervals (R157) -/

/-- The windows that reach the requester's own pool: base, span and the pool offset of the region. -/
def Who.ownWindows (w : Who) : List (Nat × Nat × Nat) :=
  let n := w.core.val % 4
  [(0x40000000, 0x400000, w.spBase), (0x40400000, 0x200000, w.acBase), (0x41000000 + n * 0x400000, 0x400000, w.spBase),
    (0x42000000 + n * 0x200000, 0x200000, w.acBase)]
/-- The intersection of two intervals. -/
def meet (a b : Int × Int) : Option (Int × Int) := if max a.1 b.1 < min a.2 b.2 then some (max a.1 b.1, min a.2 b.2) else none
/-- The intervals of the requester's own pool that an access to a range of addresses covers: through a window, or through a page of one of its
own accumulator tiles that grants the access. -/
def State.poolIntervals (s : State) (w : Who) (acc : Perm) (r : Int × Int) : List (Int × Int) :=
  w.ownWindows.filterMap (fun x => (meet r ((x.1 : Int), (x.1 : Int) + x.2.1)).map (fun (m : Int × Int) => (m.1 - (x.1 : Int) + (x.2.2 : Int), m.2 - (x.1 : Int) + (x.2.2 : Int)))) ++
  (if r.1 < 0 ∨ r.2 ≤ r.1 then []
   else (List.range ((r.2 - 1).toNat / 65536 - r.1.toNat / 65536 + 1)).filterMap (fun i =>
    let pg := (r.1.toNat / 65536 + i) * 65536
    if inWindow pg then none
    else match s.resolveAhead w acc (BitVec.ofNat 64 pg) 1 with
      | .ok (.pool c p) => if c = w.core then (meet r ((pg : Int), (pg : Int) + 65536)).map (fun (m : Int × Int) => (m.1 - (pg : Int) + (p : Int), m.2 - (pg : Int) + (p : Int))) else none
      | _ => none))
/-- The interval of an accumulator tile. -/
def Who.tile (w : Who) (t : Nat) : Int × Int := ((w.acBase + t * 65536 : Nat), (w.acBase + (t + 1) * 65536 : Nat))
/-- The hull of some pool offsets of sectors, widened to 2 KiB blocks where the operand rotates. -/
def sectorHull (rot : Nat) (l : List Nat) : List (Int × Int) := match l with
  | [] => []
  | a :: r =>
    let lo := r.foldl Nat.min a
    let hi := r.foldl Nat.max a + 32
    if rot = 0 then [(lo, hi)] else [((lo / 2048 * 2048 : Nat), ((hi + 2047) / 2048 * 2048 : Nat))]
/-- The own-pool offset of a window address. -/
def Who.ownOff (w : Who) (a : Word) : Option Nat := match windowOf w a.toNat with
  | some (c, acc, o) => if c = w.core then some ((if acc then w.acBase else w.spBase) + o) else none
  | none => none
/-- The intervals of a scratchpad operand. -/
def Who.operandSet (w : Who) (x1 x2 : Word) (along : Bool) (outer k ty : Nat) : List (Int × Int) :=
  let m := mOperand x1 x2
  sectorHull m.rot ((operandSectors m along outer k ty).filterMap w.ownOff)
/-- The interval of a scale area (R213). -/
def Who.scaleSet (w : Who) (sofs outer k : Nat) : Int × Int :=
  ((w.spBase + sofs * 64 : Nat), (w.spBase + sofs * 64 + 128 * (outer - 1) + (k + 31) / 32 : Nat))
/-- The bytes from BASE to the end of the last of n rows with a signed pitch. -/
def rowsRange (a pitch : Word) (n bytes : Nat) : Int × Int :=
  let d := ((n : Int) - 1) * pitch.toInt
  ((a.toNat : Int) + min 0 d, (a.toNat : Int) + max 0 d + bytes)
/-- The bytes of one row of MSTL or MSTF. -/
def StoreWord.rowBytes (w : StoreWord) (ty : BitVec 5) : Nat := w.cols * tyWidth ty.toNat / 8

/-- The rows of a gather or a scatter: the addresses of the rows that its index list names. -/
def indexRows (t p : Word) (idx : List Nat) : List (Nat × Word) :=
  idx.zipIdx.filterMap (fun x => if x.1 = 0xFFFFFFFF then none else some (x.2, t + BitVec.ofNat 64 x.1 * p))

/-- The read set of a command (R157). -/
def State.readSet (s : State) (w : Who) (q : Cmd) : List (Int × Int) := match q.kind with
  | .mma f fmt a1 a2 b1 b2 _ _ =>
    (if f.ak then w.operandSet a1 a2 (!f.ta) (FMX_m f) (FMX_k f) (fmtA fmt) else []) ++
    (if f.bk then w.operandSet b1 b2 f.tb (FMX_n f) (FMX_k f) (fmtB fmt) else []) ++
    (if fmt.getLsbD 14 then [w.scaleSet (pteBits fmt 47 32) (FMX_m f) (FMX_k f)] else []) ++
    (if fmt.getLsbD 15 then [w.scaleSet (pteBits fmt 63 48) (FMX_n f) (FMX_k f)] else []) ++
    (if f.wm then [w.tile f.acc.toNat] else [])
  | .mcb _ a _ => s.poolIntervals w .r (a.toNat, a.toNat + 32)
  | .mst _ sw _ _ _ _ _ _ => [((w.acBase + sw.acc.toNat * 65536 + sw.row0 * 512 : Nat), (w.acBase + sw.acc.toNat * 65536 + (sw.row0 + sw.rows) * 512 : Nat))]
  | .mzero _ | .mseed _ => []
  | .copy g | .copyChan g _ _ => (copyHull g g.src g.os1 g.os2).flatMap (s.poolIntervals w .r)
  | .st _ _ _ | .stt _ _ _ _ => []
  | .scatter _ l _ _ _ => s.poolIntervals w .r (l.toNat, l.toNat + 64)
  | .rst src _ n _ _ => s.poolIntervals w .r (src.toNat, src.toNat + n)
  | .rat _ _ _ _ | .send _ _ _ _ _ => []
/-- The write set of a command (R157). -/
def State.writeSet (s : State) (w : Who) (q : Cmd) : List (Int × Int) := match q.kind with
  | .mma f _ _ _ _ _ _ _ => [w.tile f.acc.toNat]
  | .mzero t => [w.tile t.toNat]
  | .mcb _ _ _ | .mseed _ => []
  | .mst _ sw a p ty mx _ _ => s.poolIntervals w .w (rowsRange a p sw.rows (sw.rowBytes ty)) ++ (match mx with
    | some x => s.poolIntervals w .w (x.toNat, x.toNat + 4 * sw.rows)
    | none => [])
  | .copy g => (copyHull g g.dst g.ds1 g.ds2).flatMap (s.poolIntervals w .w)
  | .copyChan _ _ _ => []
  | .st a _ ty => s.poolIntervals w .w (a.toNat, a.toNat + tyBytes ty)
  | .stt a p ty _ => s.poolIntervals w .w (rowsRange a p 16 (rowBytes ty.toNat))
  | .scatter t _ p ty _ => match q.started with
    | some (.elems ws) =>
      let rs := (indexRows t p (ws.map BitVec.toNat)).map (fun r => (r.2.toNat : Int))
      (match rs with
        | [] => []
        | a :: r => s.poolIntervals w .w (r.foldl min a, r.foldl max a + rowBytes ty.toNat))
    | _ => [((w.spBase : Nat), (w.spBase + w.spg * 65536 : Nat))]
  | .rst _ _ _ _ _ | .rat _ _ _ _ | .send _ _ _ _ _ => []

/-- Two sets overlap. -/
def setsMeet (a b : List (Int × Int)) : Bool := a.any (fun x => b.any (fun y => (meet x y).isSome))
/-- Two commands conflict (R158). -/
def State.conflict (s : State) (w : Who) (e l : Cmd) : Bool :=
  let we := s.writeSet w e
  let wl := s.writeSet w l
  setsMeet we (s.readSet w l) || setsMeet (s.readSet w e) wl || setsMeet we wl
/-- All commands of a job. -/
def Job.cmds (j : Job) : List Cmd := j.ceQ ++ j.meQ ++ j.seQ
/-- The range checker lets a command begin: no earlier command that it conflicts with is still there (R158). -/
def State.rangeOk (s : State) (w : Who) (j : Job) (q : Cmd) : Bool :=
  !j.cmds.any (fun e => decide (e.id < q.id) && s.conflict w e q)

/-! ### Busy tiles (R229) -/

/-- The command is committed and not completed. -/
def Job.isCommitted (j : Job) (q : Cmd) : Bool := j.committed.any (fun c => c.2.1 = q.id)
/-- A committed command that has not completed writes into a byte range of the job's own pool. -/
def State.busyTile (s : State) (w : Who) (j : Job) (r : Int × Int) : Bool :=
  j.meQ.any (fun q => j.isCommitted q && setsMeet (s.writeSet w q) [r])
/-- A command of an open set, or an MZERO, that has not completed writes it. -/
def State.openTile (s : State) (w : Who) (j : Job) (r : Int × Int) : Bool :=
  j.meQ.any (fun q => !j.isCommitted q && setsMeet (s.writeSet w q) [r])
/-- A place of the job's own pool lies in an accumulator tile: its tile number. -/
def Who.tileOf (w : Who) (k : CoreId) (p : Nat) : Option Nat :=
  if k = w.core ∧ w.acBase ≤ p ∧ p < w.acBase + w.acg * 65536 then some ((p - w.acBase) / 65536) else none
/-- The trap of a direct access at a place of a pool (R156, R229): the tile of the place is busy, whichever of its bytes the command writes. -/
def State.busyFault (s : State) (w : Who) (j : Job) (k : CoreId) (p : Nat) : Option AFault :=
  match w.tileOf k p with
  | some t => if s.busyTile w j (w.tile t) then some ⟨0x0C, BitVec.ofNat 64 t, 0⟩ else none
  | none => none

/-- A plain store through a window of the core's own accumulator meets a busy tile at its issue (R156, R229). -/
def checkBusy (a : Word) : M Unit := do
  let w ← whoNow
  if inWindow a.toNat then match windowOf w a.toNat with
    | some (c, true, o) => match (← get).busyFault w (← getJob) c (w.acBase + o) with
      | some f => throw (.trap f.cause f.info 0)
      | none => pure ()
    | _ => pure ()
/-- ST's effect (R113); it stands here because it is checked against busy tiles at its issue. -/
def stBody (h : Hdr) (f : FM) : M Unit := do
  let v ← pop f.d
  let b ← pop f.base
  let i ← pop f.idx
  let n := tyBytes f.ty
  let a := indexed b i n
  checkAddr a n
  checkBusy a
  enqueue .se h (.st a v f.ty)
/-- ST (R113). -/
def execSt (h : Hdr) (f : FM) (s : State) := runInstr (.st h f) (straight (stBody h f)) s

/-! ### Order of one stream's accesses (R42, R295, R377) -/

/-- Byte ranges of memory that a pending operation touches. -/
def opRanges (idx : List Nat) : OpKind → List (Nat × Nat)
  | .ld a ty => [(a.toNat, tyBytes ty)]
  | .ldt a p ty _ => (List.range 16).map (fun r => ((a + BitVec.ofNat 64 r * p).toNat, rowBytes ty.toNat))
  | .gather t l p ty _ _ => (l.toNat, 64) :: (indexRows t p idx).map (fun r => (r.2.toNat, rowBytes ty.toNat))
  | .mrd tile posn => [(0x40400000 + tile.toNat * 65536 + posn.toNat / 128 * 512 + posn.toNat % 128 * 4, 4)]
  | .rld _ _ => []
  | .atomic _ a _ _ => [(a.toNat, 4)]
/-- The index list of a gather or a scatter as memory holds it. -/
def State.indexList (s : State) (w : Who) (l : Word) : List Nat := match s.resolve w .r l 32, s.resolve w .r (l + 32) 32 with
  | .ok x, .ok y => match s.locBytes (dieOf w.core) w.part x 32, s.locBytes (dieOf w.core) w.part y 32 with
    | .ok a, .ok b => (List.range 16).map (fun i => leNat (((a ++ b).drop (4 * i)).take 4))
    | _, _ => []
  | _, _ => []
/-- Byte ranges of memory that a command touches. -/
def State.cmdRanges (s : State) (w : Who) (q : Cmd) : List (Nat × Nat) := match q.kind with
  | .copy g => g.loops.flatMap (fun i => [((g.from i).toNat, g.n0), ((g.to i).toNat, g.n0)])
  | .copyChan g _ _ => g.loops.map (fun i => ((g.from i).toNat, g.n0))
  | .st a _ ty => [(a.toNat, tyBytes ty)]
  | .stt a p ty _ => (List.range 16).map (fun r => ((a + BitVec.ofNat 64 r * p).toNat, rowBytes ty.toNat))
  | .scatter t l p ty _ => (l.toNat, 64) :: (indexRows t p (s.indexList w l)).map (fun r => (r.2.toNat, rowBytes ty.toNat))
  | .rst src _ n _ _ => [(src.toNat, n)]
  | .mst _ sw a p ty mx _ _ => (List.range sw.rows).map (fun r => ((a + BitVec.ofNat 64 r * p).toNat, sw.rowBytes ty)) ++ (match mx with
    | some x => [(x.toNat, 4 * sw.rows)]
    | none => [])
  | _ => []
/-- Two ranges share a 32-byte sector. -/
def shareSector (a b : Nat × Nat) : Bool :=
  decide (a.2 ≠ 0 ∧ b.2 ≠ 0 ∧ a.1 / 32 ≤ (b.1 + b.2 - 1) / 32 ∧ b.1 / 32 ≤ (a.1 + a.2 - 1) / 32)
/-- Where an access of the requester's lands, in the numbering of memory; a place reached at another core by its global address beyond that
numbering, and an address that is not translated beyond both. A PUBLISH page counts by its first image. -/
def State.placeOf (s : State) (w : Who) (a : Nat) : Nat :=
  let at_ : Loc → Nat
    | .pool c p => poolKey c p
    | .foreign c t o => 2 ^ 65 + (s.accGa c t o).toNat
    | .mem pa _ _ _ => pa
  match s.resolveAhead w .r (BitVec.ofNat 64 a) 1, s.resolveAhead w .w (BitVec.ofNat 64 a) 1 with
  | .ok l, _ => at_ l
  | .error _, .ok l => at_ l
  | .error _, .error _ => 2 ^ 66 + a
/-- The places of a range of addresses, page by page. -/
def State.places (s : State) (w : Who) (r : Nat × Nat) : List (Nat × Nat) :=
  if r.2 = 0 then []
  else (List.range ((r.1 + r.2 - 1) / 65536 - r.1 / 65536 + 1)).map (fun i =>
    let lo := Nat.max r.1 ((r.1 / 65536 + i) * 65536)
    let hi := Nat.min (r.1 + r.2) ((r.1 / 65536 + i + 1) * 65536)
    (s.placeOf w lo, hi - lo))
/-- The core whose pool a place lies in. -/
def poolOfPlace (r : Nat × Nat) : Option CoreId := if 2 ^ 50 ≤ r.1 ∧ r.1 < 2 ^ 51 then some (coreOf ((r.1 - 2 ^ 50) / 2 ^ 22)) else none
/-- Direct accesses of a stream reach one core's pool. -/
def samePool (a b : Nat × Nat) : Bool := (poolOfPlace a).isSome && decide (poolOfPlace a = poolOfPlace b)
/-- The ranges of a pending operation, a gather's rows by its index list. -/
def State.rangesOf (s : State) (w : Who) (o : PendOp) : List (Nat × Nat) := match o.kind with
  | .gather _ l _ _ _ _ => opRanges (s.indexList w l) o.kind
  | _ => opRanges [] o.kind
/-- The places that a pending operation touches. -/
def State.opPlaces (s : State) (w : Who) (o : PendOp) : List (Nat × Nat) := (s.rangesOf w o).flatMap (s.places w)
/-- The places that a command touches. -/
def State.cmdPlaces (s : State) (w : Who) (q : Cmd) : List (Nat × Nat) := (s.cmdRanges w q).flatMap (s.places w)
/-- The command is a direct store of its stream (R377). -/
def Cmd.direct (q : Cmd) : Bool := match q.kind with
  | .st _ _ _ => true
  | _ => false
/-- A later access of a stream must follow an earlier one: they share a sector outside the pools (R295), or both are direct and reach one
core's pool (R377). -/
def mustFollow (direct : Bool) (a b : Nat × Nat) : Bool :=
  (direct && samePool a b) || ((poolOfPlace a).isNone && shareSector a b)
/-- An operation waits for earlier accesses of its stream (R42, R248, R295, R377): an atomic or a direct pool access also waits behind an
AWAIT of the same stream on the same core. -/
def State.opWaits (s : State) (w : Who) (j : Job) (o : PendOp) : Bool :=
  let rs := s.opPlaces w o
  j.ops.any (fun e => decide (e.id < o.id ∧ e.org.st = o.org.st) && (s.opPlaces w e).any (fun a => rs.any (mustFollow true a))) ||
  j.cmds.any (fun q => decide (q.id < o.id ∧ q.org.st = o.org.st) && (s.cmdPlaces w q).any (fun a => rs.any (mustFollow q.direct a)))
/-- A command waits for earlier accesses of its stream (R264, R295, R377): to one of its sectors outside the pools, direct ones to one pool,
and those that the stream's engines make to the pool of another core, in issue order. -/
def State.cmdWaits (s : State) (w : Who) (j : Job) (q : Cmd) : Bool :=
  let rs := s.cmdPlaces w q
  let other (a b : Nat × Nat) : Bool := samePool a b && decide (poolOfPlace a ≠ some w.core)
  j.ops.any (fun e => decide (e.id < q.id ∧ e.org.st = q.org.st) && (s.opPlaces w e).any (fun a => rs.any (mustFollow q.direct a))) ||
  j.cmds.any (fun e => decide (e.id < q.id ∧ e.org.st = q.org.st) && (s.cmdPlaces w e).any (fun a => rs.any (fun b =>
    mustFollow (e.direct && q.direct) a b || other a b)))

end Sys2Proof.Machine
end

