-- ==== Sys2Proof/Machine/Crypto.lean ====
section
/-!
DEFINITION. The digests that the spec names (R335, R336, R371): SHA-384 of FIPS 180-4, and GHASH of NIST SP 800-38D.
-/
namespace Sys2Proof.Machine

/-! ### SHA-384 -/

/-- Round constants 0 to 19 of SHA-512 (FIPS 180-4). -/
def shaK0 : List Word :=
  [0x428A2F98D728AE22, 0x7137449123EF65CD, 0xB5C0FBCFEC4D3B2F, 0xE9B5DBA58189DBBC,
   0x3956C25BF348B538, 0x59F111F1B605D019, 0x923F82A4AF194F9B, 0xAB1C5ED5DA6D8118,
   0xD807AA98A3030242, 0x12835B0145706FBE, 0x243185BE4EE4B28C, 0x550C7DC3D5FFB4E2,
   0x72BE5D74F27B896F, 0x80DEB1FE3B1696B1, 0x9BDC06A725C71235, 0xC19BF174CF692694,
   0xE49B69C19EF14AD2, 0xEFBE4786384F25E3, 0x0FC19DC68B8CD5B5, 0x240CA1CC77AC9C65]
/-- Round constants 20 to 39 of SHA-512 (FIPS 180-4). -/
def shaK1 : List Word :=
  [0x2DE92C6F592B0275, 0x4A7484AA6EA6E483, 0x5CB0A9DCBD41FBD4, 0x76F988DA831153B5,
   0x983E5152EE66DFAB, 0xA831C66D2DB43210, 0xB00327C898FB213F, 0xBF597FC7BEEF0EE4,
   0xC6E00BF33DA88FC2, 0xD5A79147930AA725, 0x06CA6351E003826F, 0x142929670A0E6E70,
   0x27B70A8546D22FFC, 0x2E1B21385C26C926, 0x4D2C6DFC5AC42AED, 0x53380D139D95B3DF,
   0x650A73548BAF63DE, 0x766A0ABB3C77B2A8, 0x81C2C92E47EDAEE6, 0x92722C851482353B]
/-- Round constants 40 to 59 of SHA-512 (FIPS 180-4). -/
def shaK2 : List Word :=
  [0xA2BFE8A14CF10364, 0xA81A664BBC423001, 0xC24B8B70D0F89791, 0xC76C51A30654BE30,
   0xD192E819D6EF5218, 0xD69906245565A910, 0xF40E35855771202A, 0x106AA07032BBD1B8,
   0x19A4C116B8D2D0C8, 0x1E376C085141AB53, 0x2748774CDF8EEB99, 0x34B0BCB5E19B48A8,
   0x391C0CB3C5C95A63, 0x4ED8AA4AE3418ACB, 0x5B9CCA4F7763E373, 0x682E6FF3D6B2B8A3,
   0x748F82EE5DEFB2FC, 0x78A5636F43172F60, 0x84C87814A1F0AB72, 0x8CC702081A6439EC]
/-- Round constants 60 to 79 of SHA-512 (FIPS 180-4). -/
def shaK3 : List Word :=
  [0x90BEFFFA23631E28, 0xA4506CEBDE82BDE9, 0xBEF9A3F7B2C67915, 0xC67178F2E372532B,
   0xCA273ECEEA26619C, 0xD186B8C721C0C207, 0xEADA7DD6CDE0EB1E, 0xF57D4F7FEE6ED178,
   0x06F067AA72176FBA, 0x0A637DC5A2C898A6, 0x113F9804BEF90DAE, 0x1B710B35131C471B,
   0x28DB77F523047D84, 0x32CAAB7B40C72493, 0x3C9EBE0A15C9BEBC, 0x431D67C49C100D4C,
   0x4CC5D4BECB3E42B6, 0x597F299CFC657E2A, 0x5FCB6FAB3AD6FAEC, 0x6C44198C4A475817]
/-- The round constants. -/
def shaK : List Word := shaK0 ++ shaK1 ++ shaK2 ++ shaK3
/-- The initial hash value of SHA-384. -/
def sha384Init : List Word :=
  [0xCBBB9D5DC1059ED8, 0x629A292A367CD507, 0x9159015A3070DD17, 0x152FECD8F70E5939,
   0x67332667FFC00B31, 0x8EB44A8768581511, 0xDB0C2E0D64F98FA7, 0x47B5481DBEFA4FA4]
/-- A word of bytes, the first most significant. -/
def beWord (bs : List Byte) : Word := bs.foldl (fun w b => (w <<< 8) ||| b.setWidth 64) 0
/-- The bytes of a number, the first most significant. -/
def beBytes (n w : Nat) : List Byte := (leBytes n w).reverse
/-- The message with its padding: a 1 bit, zeros, and the length in bits as 128 bits. -/
def shaPad (bs : List Byte) : List Byte :=
  bs ++ [0x80] ++ List.replicate ((239 - bs.length % 128) % 128) 0 ++ beBytes 16 (8 * bs.length)
/-- The message schedule, newest word first. -/
def shaSchedule : Nat → List Word → List Word
  | 0, ws => ws
  | n + 1, ws =>
    let w (i : Nat) : Word := ws.getD (i - 1) 0
    let s0 := (w 15).rotateRight 1 ^^^ (w 15).rotateRight 8 ^^^ (w 15 >>> 7)
    let s1 := (w 2).rotateRight 19 ^^^ (w 2).rotateRight 61 ^^^ (w 2 >>> 6)
    shaSchedule n ((s1 + w 7 + s0 + w 16) :: ws)
/-- One round on the eight working variables. -/
def shaRound (v : List Word) (kw : Word × Word) : List Word := match v with
  | [a, b, c, d, e, f, g, h] =>
    let s1 := e.rotateRight 14 ^^^ e.rotateRight 18 ^^^ e.rotateRight 41
    let t1 := h + s1 + ((e &&& f) ^^^ (~~~e &&& g)) + kw.1 + kw.2
    let s0 := a.rotateRight 28 ^^^ a.rotateRight 34 ^^^ a.rotateRight 39
    let t2 := s0 + ((a &&& b) ^^^ (a &&& c) ^^^ (b &&& c))
    [t1 + t2, a, b, c, d + t1, e, f, g]
  | l => l
/-- One block of 128 bytes. -/
def shaBlock (h : List Word) (bs : List Byte) : List Word :=
  let ws := (List.range 16).map (fun i => beWord ((bs.drop (8 * i)).take 8))
  let sched := (shaSchedule 64 ws.reverse).reverse
  List.zipWith (· + ·) h ((shaK.zip sched).foldl shaRound h)
/-- Fold a function over the blocks of n bytes of a list. -/
def blocks {α : Type} (n : Nat) (f : α → List Byte → α) : Nat → α → List Byte → α
  | 0, a, _ => a
  | k + 1, a, bs => blocks n f k (f a (bs.take n)) (bs.drop n)
/-- SHA-384: 48 bytes. -/
def sha384 (bs : List Byte) : List Byte :=
  let m := shaPad bs
  ((blocks 128 shaBlock (m.length / 128) sha384Init m).take 6).flatMap (fun w => beBytes 8 w.toNat)

/-! ### GHASH -/

/-- One step of the product in the field of 2^128 elements: bit i of X, counted from the most significant, adds V to Z. -/
def ghashStep (x : BitVec 128) (zv : BitVec 128 × BitVec 128) (i : Nat) : BitVec 128 × BitVec 128 :=
  let z := if x.getLsbD (127 - i) then zv.1 ^^^ zv.2 else zv.1
  let v := zv.2 >>> 1
  (z, if zv.2.getLsbD 0 then v ^^^ 0xE1000000000000000000000000000000 else v)
/-- The product of two blocks. -/
def ghashMul (x y : BitVec 128) : BitVec 128 := ((List.range 128).foldl (ghashStep x) (0, y)).1
/-- A block of 16 bytes, filled with zeros. -/
def block128 (bs : List Byte) : BitVec 128 :=
  (bs ++ List.replicate (16 - bs.length) 0).foldl (fun w (b : Byte) => (w <<< 8) ||| b.setWidth 128) 0
/-- GHASH under H with additional data and ciphertext: 16 bytes. -/
def ghash (h : BitVec 128) (aad ct : List Byte) : List Byte :=
  let f (y : BitVec 128) (bs : List Byte) : BitVec 128 := ghashMul (y ^^^ block128 bs) h
  let y := blocks 16 f ((aad.length + 15) / 16) 0 aad
  let y := blocks 16 f ((ct.length + 15) / 16) y ct
  beBytes 16 (f y (beBytes 8 (8 * aad.length) ++ beBytes 8 (8 * ct.length))).toNat

end Sys2Proof.Machine
end

