-- ==== Sys2Proof/Machine/Matrix.lean ====
section
/-!
DEFINITION. The instructions of the matrix engine at their issue (R218 to R235); their commands are performed by the engine's events.
-/
namespace Sys2Proof.Machine

/-! ### Format words (R218, R219) -/

/-- An operand type of the ME (R211). -/
def meTy (t : Nat) : Bool := [0x01, 0x02, 0x03, 0x04, 0x05, 0x06, 0x07, 0x09, 0x0A, 0x0B, 0x0C, 0x0D].contains t
/-- A type that may carry block scales (R211). -/
def meScaled (t : Nat) : Bool := [0x03, 0x04, 0x05, 0x06, 0x07, 0x0D].contains t
/-- A format word that MFMT accepts (R219). -/
def fmtOk (w : Word) : Bool :=
  let a := fmtA w
  let b := fmtB w
  decide (pteBits w 31 16 = 0) && meTy a && meTy b && (!w.getLsbD 14 || meScaled a) && (!w.getLsbD 15 || meScaled b) &&
    (decide (a = 0x0B) || decide (pteBits w 11 10 = 0)) && (decide (b = 0x0B) || decide (pteBits w 13 12 = 0)) &&
    (w.getLsbD 14 || decide (pteBits w 47 32 = 0)) && (w.getLsbD 15 || decide (pteBits w 63 48 = 0))
/-- MFMT's effect: sixteen live words, thirty-two physical slots. -/
def mfmtBody (h : Hdr) (f : FRR) : M Unit := do
  let w ← pop f.a
  trapIf (!fmtOk w) 0x01 (Instr.mfmt h f).firstWord
  let j ← getJob
  let t ← getStream
  let q := j.fmtQ
  if 32 ≤ q.items.length + q.popped.length then
    if q.popped.all (fun p => p.2.1 = t.coord) then trap 0x04 0x105 else stall 7
  if 16 ≤ q.items.length then stall 10
  modifyJob (fun j => { j with fmtQ := { j.fmtQ with items := j.fmtQ.items ++ [⟨some w, ⟨t.coord, h.stage⟩, .none, false, j.seq, none⟩] } })
/-- MFMT (R219). -/
def execMfmt (h : Hdr) (f : FRR) (s : State) := runInstr (.mfmt h f) (straight (mfmtBody h f)) s
/-- Pop one format word for an MMA (R218). -/
def popFmt : M Word := do
  let j ← getJob
  let t ← getStream
  match j.fmtQ.items with
  | [] => trap 0x0B 0
  | e :: _ =>
    checkEntry t.coord e
    setJob { j with fmtQ := j.fmtQ.pop t.coord j.seq }
    return e.val.getD 0

/-! ### Commands -/

/-- FZCTL as sampled at issue (R82). -/
def sampleFz : M (BitVec 16) := do return ((← getJob).rreg .fzctl).setWidth 16
/-- An accumulator tile lies in the job's grant. -/
def checkTile (t : BitVec 5) : M Unit := do trapIf (decide ((← getJob).hdr.acg ≤ t.toNat)) 0x0E (t.setWidth 64)
/-- The command just queued joins the open set of a batch (R228). -/
def joinBatch (b : BitVec 4) : M Unit := modifyJob (fun j => { j with openSet := j.openSet ++ [(b, j.seq)] })

/-- MCB's effect (R220). -/
def mcbBody (h : Hdr) (f : FM) : M Unit := do
  let a ← pop f.base
  checkMultiple a 32
  enqueue .me h (.mcb ⟨f.opt.toNat % 4, Nat.mod_lt _ (by decide)⟩ a (← sampleFz))
/-- MCB (R220). -/
def execMcb (h : Hdr) (f : FM) (s : State) := runInstr (.mcb h f) (straight (mcbBody h f)) s

/-- MMA's effect (R221): its scalar sources, its format word and MCONST, then the queue. -/
def mmaBody (h : Hdr) (f : FMX) : M Unit := do
  let two (on : Bool) (x y : Spec) : M (Word × Word) := do
    if on then
      let a ← pop x
      let b ← pop y
      return (a, b)
    else return (0, 0)
  let a ← two f.ak f.a1 f.a2
  let b ← two f.bk f.b1 f.b2
  if !f.ak then needTiles (f.a1.toNat % 16)
  if !f.bk then needTiles (f.b1.toNat % 16)
  checkTile f.acc
  let w ← popFmt
  let c := ((← getJob).rreg .mconst).setWidth 32
  enqueue .me h (.mma f w a.1 a.2 b.1 b.2 c (← sampleFz))
  joinBatch f.batch
/-- MMA (R221). -/
def execMma (h : Hdr) (f : FMX) (s : State) := runInstr (.mma h f) (straight (mmaBody h f)) s

/-- MCOMMIT's effect (R228). -/
def mcommitBody (f : FRR) : M Unit := do
  let t ← getStream
  let b : BitVec 4 := f.fn.setWidth 4
  modifyJob (fun j => { j with
    openSet := j.openSet.filter (fun x => x.1 ≠ b)
    committed := j.committed ++ (j.openSet.filter (fun x => x.1 = b)).map (fun x => (b, x.2, t.coord, j.seq)) })
/-- MCOMMIT (R228). -/
def execMcommit (h : Hdr) (f : FRR) (s : State) := runInstr (.mcommit h f) (straight (mcommitBody f)) s
/-- MWAIT's effect: it waits with cause 11 until the committed set has completed, then clears it (R228). -/
def mwaitBody (f : FRR) : M Unit := do
  let j ← getJob
  let b : BitVec 4 := f.fn.setWidth 4
  if j.committed.any (fun c => decide (c.1 = b) && j.meQ.any (fun q => q.id = c.2.1)) then stall 11
  setJob { j with committed := j.committed.filter (fun c => c.1 ≠ b) }
/-- MWAIT (R228). -/
def execMwait (h : Hdr) (f : FRR) (s : State) := runInstr (.mwait h f) (straight (mwaitBody f)) s

/-! ### MRD, MWR, MZERO (R229, R230) -/

/-- The pool offset of an element at a position word. -/
def Who.elemOff (w : Who) (tile : BitVec 5) (posn : Nat) : Nat := w.acBase + tile.toNat * 65536 + posn / 128 * 512 + posn % 128 * 4
/-- The checks of MRD and MWR: the tile's grant, the position word, a busy tile and C's own commands. -/
def checkElem (fw : Word) (tile : BitVec 5) (posn : Word) : M Unit := do
  checkTile tile
  trapIf (decide (2 ^ 14 ≤ posn.toNat)) 0x01 fw
  let s ← get
  let j ← getJob
  let w ← whoNow
  trapIf (s.busyTile w j (w.tile tile.toNat)) 0x0C (tile.setWidth 64)
  if s.openTile w j (w.tile tile.toNat) then stall 11
/-- MRD's effect: the entry is reserved and the read left pending. -/
def mrdBody (h : Hdr) (f : FRR) : M Unit := do
  let a ← pop f.a
  checkElem (Instr.mrd h f).firstWord f.fn a
  reserve h f.d false
  pend h (.mrd f.fn (a.setWidth 14))
/-- MRD (R230). -/
def execMrd (h : Hdr) (f : FRR) (s : State) := runInstr (.mrd h f) (straight (mrdBody h f)) s
/-- MWR's effect: it follows C's earlier accesses to the core's pool (R377) and writes the element under the retraction log. -/
def mwrBody (h : Hdr) (f : FRR) : M Unit := do
  let a ← pop f.a
  let v ← pop f.b
  checkElem (Instr.mwr h f).firstWord f.fn a
  let s ← get
  let j ← getJob
  let w ← whoNow
  let off := w.elemOff f.fn a.toNat
  if s.opWaits w j ⟨j.seq, ⟨.c, ⟨0, 0⟩, j.seq, 0⟩, .mrd f.fn (a.setWidth 14), none, 0⟩ then stall 11
  writeBytes h w.core off (leBytes 4 (v.toNat % 2 ^ 32))
/-- MWR (R230). -/
def execMwr (h : Hdr) (f : FRR) (s : State) := runInstr (.mwr h f) (straight (mwrBody h f)) s
/-- MZERO's effect. -/
def mzeroBody (h : Hdr) (f : FRR) : M Unit := do
  checkTile f.fn
  enqueue .me h (.mzero f.fn)
/-- MZERO (R230). -/
def execMzero (h : Hdr) (f : FRR) (s : State) := runInstr (.mzero h f) (straight (mzeroBody h f)) s

/-! ### MSTL, MSTF, MSEED (R231 to R235) -/

/-- The fields of a store word (R231). -/
def storeWord (w : Word) : StoreWord :=
  { batch := BitVec.ofNat 4 (pteBits w 40 37), up := w.getLsbD 36, rm := BitVec.ofNat 3 (pteBits w 35 33), cols := pteBits w 32 26 + 1,
    col0 := pteBits w 25 19, rows := pteBits w 18 12 + 1, row0 := pteBits w 11 5, acc := BitVec.ofNat 5 (pteBits w 4 0) }
/-- The effect of MSTL and MSTF: the checks at issue, then the queue and the batch's open set. -/
def mstBody (h : Hdr) (f : FM) (fw : Word) (lns mx : Bool) : M Unit := do
  let w ← pop f.d
  let a ← pop f.base
  let p ← pop f.idx
  let x ← if mx then pop f.aux else pure 0
  let sw := storeWord w
  trapIf (decide (pteBits w 63 41 ≠ 0) || (sw.up && !mx) || decide (sw.rm = 7) || decide (128 < sw.row0 + sw.rows ∨ 128 < sw.col0 + sw.cols) ||
    decide (sw.cols * tyWidth f.ty.toNat % 8 ≠ 0) || (mx && decide (sw.col0 % 32 ≠ 0 ∨ sw.cols % 32 ≠ 0))) 0x01 fw
  checkTile sw.acc
  checkMultiple a 32
  checkMultiple p 32
  if mx then checkMultiple x 4
  let j ← getJob
  enqueue .me h (.mst lns sw a p f.ty (if mx then some x else none) (Rm.select sw.rm ((j.rreg .rmode).toNat % 8)) (← sampleFz))
  joinBatch sw.batch
/-- MSTL (R233). -/
def execMstl (h : Hdr) (f : FM) (s : State) := runInstr (.mstl h f) (straight (mstBody h f (Instr.mstl h f).firstWord true false)) s
/-- MSTF (R234). -/
def execMstf (h : Hdr) (f : FM) (s : State) :=
  runInstr (.mstf h f) (straight (mstBody h f (Instr.mstf h f).firstWord false (decide (f.opt = 1)))) s
/-- MSEED's effect (R235). -/
def mseedBody (h : Hdr) (f : FRR) : M Unit := do
  let v ← pop f.a
  enqueue .me h (.mseed v)
/-- MSEED (R235). -/
def execMseed (h : Hdr) (f : FRR) (s : State) := runInstr (.mseed h f) (straight (mseedBody h f)) s

end Sys2Proof.Machine
end

