-- ==== Sys2Proof/Machine/Perform.lean ====
section
/-!
DEFINITION. What the events of the engines and of the pending operations share: how such an event stops, reading for a stream or an
engine (R101, R102, R119, R281, R292), writing one sector (R111, R118, R129, R249, R281), and filling entries (R20).
-/
namespace Sys2Proof.Machine

/-! ### Events -/

/-- An operation of the job on a core performs its body: a trap is raised with the operation's origin and unit (R98, R256); a wait leaves
the state as it was. -/
def State.perform (s : State) (c : CoreId) (o : Origin) (unit : BitVec 3) (body : M Unit) : State :=
  match body.run { s with cur := (c, o.st) } with
  | .ok _ t => State.settleFront (State.onJob { t with cur := s.cur } c Job.stir) c
  | .error (.trap cause info reason) t => State.raise { t with cur := s.cur } c (trapRec cause info reason unit o)
  | .error (.poison pa va) t => State.raise { t with cur := s.cur } c { trapRec 0x0A (BitVec.ofNat 64 pa) 0 unit o with va := va }
  | .error (.fetch line) _ => s.sendFetch (dieOf c) line
  | .error (.diverge k) t => (State.onJob { t with cur := s.cur } c (fun j => j.diverge o k)).markLanding c
  | .error _ _ => s
/-- A command of an engine performs its body as `perform` says; one whose body traps has come to its end (R125, R239). -/
def State.performCmd (s : State) (c : CoreId) (e : Engine) (q : Cmd) (unit : BitVec 3) (body : M Unit) : State :=
  let gone (t : State) : State := t.onJob c (fun j => j.setQueue e ((j.queue e).filter (fun x => x.id ≠ q.id)))
  match body.run { s with cur := (c, q.org.st) } with
  | .error (.trap _ _ _) _ | .error (.poison _ _) _ => gone (s.perform c q.org unit body)
  | _ => s.perform c q.org unit body
/-- The operation may go on: no landing, or it lies inside the landing's cut (R125). -/
def Job.lives (j : Job) (c : Coord) : Bool := j.landing.all (fun l => l.inside c)
/-- The job on a core with the requester its stream is, when it has one. -/
def State.jobWho (s : State) (c : CoreId) (st : StreamId) : Option (Job × Who) := (s.job c).map (fun j => (j, s.who c j))

/-! ### Reading (R101, R102, R119, R281, R292) -/

/-- What a read returned: its bytes, a poisoned one with the address that its poison is reported by, and the error of a foreign path. -/
structure Got where
  bytes : List (Byte × Option Nat)
  fab : Option (Word × BitVec 16)
  deriving DecidableEq, Repr
/-- The address of the first poison met. -/
def Got.bad (g : Got) : Option Nat := g.bytes.findSome? Prod.snd
/-- The mark that an entry filled with it carries. -/
def Got.mark (g : Got) : Mark := match g.fab with
  | some (ga, r) => .fabric ga r
  | none => match g.bad with
    | some pa => .poison pa
    | none => .none
/-- The bytes as a number. -/
def Got.nat (g : Got) : Nat := leNat (g.bytes.map Prod.fst)
/-- Two reads, one after the other; the first error counts. -/
def Got.append (a b : Got) : Got := ⟨a.bytes ++ b.bytes, match a.fab with
  | some x => some x
  | none => b.fab⟩

/-- Bytes at a key that lie in one sector, with their poison. -/
def State.keyBytes (s : State) (key n : Nat) : Got :=
  let bad := (s.poisonAt key n).map s.poisonInfo
  ⟨(memBytes s.mem key n).map (fun b => (b, bad)), none⟩
/-- Bytes of a location that lie in one sector, as the executing job sees them. -/
def readLoc (l : Loc) (n : Nat) : M Got := do
  let s ← get
  let j ← getJob
  let c := s.cur.1
  let seen (key : Nat) (g : Got) : Got := { g with bytes := s.seenBytes c j key g.bytes }
  match l with
  | .pool k p =>
    unveiled k p n
    return seen (poolKey k p) (s.keyBytes (poolKey k p) n)
  | .foreign k t o =>
    match s.tileKey j.part k t o with
    | (some key, _) =>
      unveiled k (key - poolKey k 0) n
      return seen key (s.keyBytes key n)
    | (none, r) => return ⟨(List.range n).map (fun i => (BitVec.ofNat 8 (Config.freeWord s.tick i).toNat, none)), some (s.accGa k t o, r)⟩
  | .mem pa pub _ _ =>
    match s.locBytes (dieOf c) j.part l n with
    | .error x => faultTrap x
    | .ok bs =>
      let bad := s.locPoison (dieOf c) l n
      let g : Got := ⟨bs.map (fun b => (b, bad)), none⟩
      return (if pub.isSome then g else seen pa g)
/-- Read n bytes sector by sector (R101); `direct` says that the access is checked against busy tiles (R229). -/
def readPieces (direct : Bool) : List (Nat × Nat) → M Got
  | [] => return ⟨[], none⟩
  | (a, n) :: l => do
    let w ← whoNow
    match (← get).resolve w .r (BitVec.ofNat 64 a) n with
    | .error x => faultTrap x
    | .ok x =>
      if direct then match x with
        | .pool k p => match (← get).busyFault w (← getJob) k p with
          | some f => throw (.trap f.cause f.info 0)
          | none => pure ()
        | _ => pure ()
      let g ← readLoc x n
      let r ← readPieces direct l
      return g.append r
/-- Read n bytes from an address on. -/
def readMem (direct : Bool) (a : Word) (n : Nat) : M Got := readPieces direct (pieces a.toNat n)

/-! ### Writing (R111, R118, R129, R249, R281, R292) -/

/-- Room in the release buffer for some sectors: a full one makes the engine wait, or traps when the wait cannot end (R118). -/
def releaseRoom (o : Origin) (n : Nat) : M Unit := do
  let j ← getJob
  if 2048 < j.relSectors + n then
    if j.held.all (fun h => decide (h.sectors = 0) || decide (o.stamp.coord ≤ h.org.stamp.coord)) then trap 0x04 0x101 else stall 7
/-- An effect of an engine's command enters the place that holds it (R118, R131), with the address that was translated for it. -/
def holdFor (o : Origin) (id : Nat) (k : HeldKind) (page : Option Nat) : M Unit := do
  let h : Held := ⟨id, o, k, page⟩
  releaseRoom o h.sectors
  modifyJob (fun j => { j with held := heldAdd j.held h }.count 13 h.sectors)
/-- A write of at most one sector by an operation with this origin to a virtual address (R118). `whole`: it ends a write of all 64 bytes of
its line (R290). -/
def writeSector (o : Origin) (id : Nat) (a : Nat) (bs : List Byte) (bad whole : Bool) : M Unit := do
  let w ← whoNow
  let s ← get
  let wr : Option Writer := some ⟨s.cur.1, w.handle, o⟩
  match s.resolve w .w (BitVec.ofNat 64 a) bs.length with
  | .error x => faultTrap x
  | .ok l => match l with
    | .pool c p => match s.poolWrite s.cur.1 o c p bs bad with
      | .done t => set t
      | .wait => stall 14
      | .full never => if never then trap 0x04 0x100 else stall 7
    | .foreign c t off => holdFor o id (.plain (s.accGa c t off) bs bad) (some a)
    | .mem pa pub _ _ =>
      if pub.isSome then
        let d := dieOf s.cur.1
        if s.isFleet d (s.writePa l) && !s.fleetRoom d 1 then stall 14 else set (s.fleetOut d pub wr pa bs bad whole)
      else if (← getJob).beyond o.stamp.coord then holdFor o id (.store pa bs bad) (some a)
      else if s.isFleet (dieOf s.cur.1) pa && !s.fleetRoom (dieOf s.cur.1) 1 then stall 14
      else set (s.storeOut s.cur.1 w.part wr pa bs bad whole)
/-- A piece of a command's writes: its virtual address and its bytes with their poison. -/
abbrev WPiece := Nat × List (Byte × Option Nat)
/-- The pieces of a run of bytes from an address on, each in one sector, in ascending order (R101, R113). -/
def piecesOf (bs : List (Byte × Option Nat)) : List (Nat × Nat) → List WPiece
  | [] => []
  | (a, n) :: l => (a, bs.take n) :: piecesOf (bs.drop n) l
/-- The pieces of the runs that a command writes, in order. -/
def runPieces (runs : List (Word × List (Byte × Option Nat))) : List WPiece :=
  runs.flatMap (fun r => piecesOf r.2 (pieces r.1.toNat r.2.length))
/-- Pieces of one command write all 64 bytes of a line, none of them poisoned (R290). -/
def linePieces (l : List WPiece) (line : Nat) : Bool :=
  let l := l.filter (fun p => p.1 / 64 = line)
  l.all (fun p => p.2.all (fun x => x.2.isNone)) && (List.range 64).all (fun i => l.any (fun p => decide (p.1 ≤ line * 64 + i ∧ line * 64 + i < p.1 + p.2.length)))
/-- Write the pieces that are left of a command's writes `all`, sector by sector in order. -/
def writePiecesOf (o : Origin) (id : Nat) (all : List WPiece) : List WPiece → M Unit
  | [] => pure ()
  | p :: l => do
    writeSector o id p.1 (p.2.map Prod.fst) (p.2.any (fun y => y.2.isSome)) (!l.any (fun x => x.1 / 64 = p.1 / 64) && linePieces all (p.1 / 64))
    writePiecesOf o id all l
/-- Write the runs of bytes of one command. -/
def writeCmdRuns (o : Origin) (id : Nat) (runs : List (Word × List (Byte × Option Nat))) : M Unit :=
  writePiecesOf o id (runPieces runs) (runPieces runs)
/-- Unmarked bytes. -/
def plainBytes (bs : List Byte) : List (Byte × Option Nat) := bs.map (fun b => (b, none))

/-! ### Filling entries (R20) -/

/-- The reserved entry of an operation receives its value and mark. -/
def Queue.fill {α : Type} (id : Nat) (v : α) (m : Mark) (q : Queue α) : Queue α :=
  { q with items := q.items.map (fun e => if e.id = id && e.val.isNone then { e with val := some v, mark := m } else e) }
/-- The scalar entry that an operation of a stream reserved is filled; s31 reserved none. -/
def Job.fill (j : Job) (st : StreamId) (id : Nat) (v : Word) (m : Mark) : Job :=
  j.onStream st (fun t => { t with regs := t.regs.map (Queue.fill id v m) })
/-- The tile entry that an LDT or a GATHER reserved is filled, and with it the entry's slot (R146). -/
def Job.fillTile (j : Job) (q : Fin 16) (id : Nat) (v : Tile) (m : Mark) : Job :=
  let i := (j.tiles.get q).items.findIdx (fun e => e.id = id && e.val.isNone)
  { j with
    tiles := j.tiles.set q ((j.tiles.get q).fill id v m)
    tileLeft := if i < (j.tiles.get q).items.length then leaveTile q (j.tileSlot q i) v j.tileLeft else j.tileLeft }
/-- The operation is no longer pending. -/
def Job.dropOp (j : Job) (id : Nat) : Job := { j with ops := j.ops.filter (fun o => o.id ≠ id) }
/-- The reserved entry of a foreign atomic is held from now on (R246, R247). -/
def Job.markHeld (j : Job) (st : StreamId) (id : Nat) : Job :=
  j.onStream st (fun t => { t with regs := t.regs.map (fun q => { q with items := q.items.map (fun e => if e.id = id then { e with held := true } else e) }) })
end Sys2Proof.Machine
end

