-- ==== Sys2Proof/Machine/Product.lean ====
section
/-!
DEFINITION. The arithmetic of the matrix engine: entry into the log domain (R211 to R213), products (R214 to R216), dot groups (R217),
triangular output (R225), and the conversions of MSTL and MSTF (R233 to R235).
-/
namespace Sys2Proof.Machine

/-! ### Entry (R211 to R213) -/

/-- An element's log word and whether it sets NV: `scaled` says that it has a block scale, `cb` is the codebook slot of a cb4 operand. -/
def logEntry (ty fz : Nat) (scaled : Bool) (cb : List LogWord) (raw : Nat) : LogWord × Bool :=
  if tyFloat ty then
    let v := decodeFloat ty (opfOf fz ty) raw
    (log4096 v, v.isSig)
  else if ty = 0x0B then (cb.getD (raw % 16) LogWord.zeroWord, false)
  else if ty = 0x09 ∨ ty = 0x0A then match Lns.decode ty raw with
    | .nan => (⟨true, false, false, false, 0⟩, false)
    | .zero => (LogWord.zeroWord, false)
    | .fin neg l => (⟨false, false, false, neg, 16 * l⟩, false)
  else
    let x := log4096 (Val.ofInt (toSigned (tyWidth ty) raw))
    (if scaled && !x.zero then { x with l := x.l - 24576 } else x, false)

/-- An operand as it enters: the log words of its elements by outer index and k, the scale bytes by outer index and block (none without
block scales), and whether an element set NV. -/
structure Operand where
  words : List (List LogWord)
  scales : Option (List (List Nat))
  nv : Bool
  deriving DecidableEq, Repr

/-! ### Products (R214 to R216) -/

/-- A product with what it sets: NV, LSAT, LUND. -/
structure Prod where
  v : Val
  nv : Bool
  lsat : Bool
  lund : Bool
  deriving DecidableEq, Repr
/-- The linear value of a finite product with log p (R215). -/
def linear (neg : Bool) (p : Int) : Prod :=
  let e := p.fdiv 4096
  let f := (p - 4096 * e).toNat
  if 127 < e then ⟨.fin neg (2 ^ 24 - 1) 104 false, false, true, false⟩
  else if e < -149 then ⟨.zero neg, false, false, true⟩
  else ⟨.fin neg (exp2t f) (e - 23) false, false, false, false⟩
/-- The product of two words under their scale bytes (R213, R214). -/
def product (a b : LogWord) (sa sb : Option Nat) : Prod :=
  let neg := a.neg != b.neg
  let bad := fun (s : Option Nat) => s = some 0xFF
  let log := fun (s : Option Nat) => match s with
    | some x => ((x : Int) - 127) * 4096
    | none => 0
  if a.nan || b.nan || bad sa || bad sb then ⟨.qnan, false, false, false⟩
  else if (a.inf && b.zero) || (a.zero && b.inf) then ⟨.qnan, true, false, false⟩
  else if a.inf || b.inf then ⟨.inf neg, false, false, false⟩
  else if a.zero || b.zero then ⟨.zero neg, false, false, false⟩
  else linear neg (a.l + b.l + log sa + log sb)

/-! ### Dot groups (R217) -/

/-- What an output element has set so far. -/
structure MFlags where
  fl : Fl
  lsat : Bool
  lund : Bool
  deriving DecidableEq, Repr
/-- The flags of either. -/
def MFlags.or (a b : MFlags) : MFlags := ⟨a.fl.or b.fl, a.lsat || b.lsat, a.lund || b.lund⟩
/-- No flag. -/
def MFlags.clear : MFlags := ⟨Fl.clear, false, false⟩
/-- The bits of MSTAT (R237). -/
def MFlags.bits (m : MFlags) : Nat := m.fl.mstatBits + (if m.lsat then 8 else 0) + (if m.lund then 4 else 0)
/-- gsum of a group: the FP32 code and the flags; UF is set for a subnormal inexact result. -/
def gsum (vs : List Val) : Nat × Fl :=
  let s := groupSum false vs
  let r := rne32 s.1
  (r.1, ⟨s.2, false, r.2.of, r.2.nx && decide (r.1 / 2 ^ 23 % 256 = 0 ∧ r.1 % 2 ^ 23 ≠ 0), r.2.nx⟩)
/-- Groups of 32 products applied in ascending order to an accumulator (none: the first group starts afresh). -/
def groups : Nat → Option Nat → List Prod → Nat × MFlags
  | 0, c, _ => (c.getD 0, MFlags.clear)
  | fuel + 1, c, ps =>
    match ps with
    | [] => (c.getD 0, MFlags.clear)
    | _ =>
      let g := ps.take 32
      let r := gsum (g.map Prod.v ++ (match c with
        | some x => [decodeFloat 0 false x]
        | none => []))
      let now : MFlags := ⟨r.2.or (Fl.inv (g.any Prod.nv)), g.any Prod.lsat, g.any Prod.lund⟩
      let rest := groups fuel (some r.1) (ps.drop 32)
      (rest.1, now.or rest.2)
/-- The K products of an output element. -/
def products (a b : List LogWord) (sa sb : Option (List Nat)) : List Prod :=
  (a.zip b).zipIdx.map (fun x => product x.1.1 x.1.2 (sa.map (fun l => l.getD (x.2 / 32) 0)) (sb.map (fun l => l.getD (x.2 / 32) 0)))
/-- Output element (i, j) from an accumulator value in add mode. -/
def outElement (a b : Operand) (i j : Nat) (c : Option Nat) : Nat × MFlags :=
  let ps := products (a.words.getD i []) (b.words.getD j []) (a.scales.map (fun l => l.getD i [])) (b.scales.map (fun l => l.getD j []))
  groups (ps.length / 32 + 1) c ps

/-! ### The output of an MMA (R224, R225) -/

/-- The constant of masked elements. -/
def maskedConst (mcs : BitVec 2) (mconst : BitVec 32) : Nat := match mcs.toNat with
  | 0 => 0
  | 1 => 0xFF800000
  | 2 => 0xFF7FFFFF
  | _ => mconst.toNat
/-- Element (i, j) is masked. -/
def maskedAt (f : FMX) (i j : Nat) : Bool := f.tri && decide (f.diag.toInt < (j : Int) - i)
/-- The sub-tile of element (i, j) is skipped. -/
def skippedAt (f : FMX) (i j : Nat) : Bool := f.tri && decide (f.diag.toInt < 32 * ((j / 32 : Nat) : Int) - 32 * ((i / 32 : Nat) : Int) - 31)
/-- Row i of the output: the elements from column 0 on that are written (skipped sub-tiles are a row's tail), and their flags. -/
def outRow (f : FMX) (mconst : BitVec 32) (a b : Operand) (acc : Nat → Nat → Option Nat) (i : Nat) : List (BitVec 32) × MFlags :=
  ((List.range (FMX_n f)).filter (fun j => !skippedAt f i j)).foldl (fun r j =>
    if maskedAt f i j then (r.1 ++ [BitVec.ofNat 32 (maskedConst f.mcs mconst)], r.2)
    else
      let x := outElement a b i j (acc i j)
      (r.1 ++ [BitVec.ofNat 32 x.1], r.2.or x.2)) ([], MFlags.clear)
/-- The rows of the output with their numbers, and all flags. -/
def outRows (f : FMX) (mconst : BitVec 32) (a b : Operand) (acc : Nat → Nat → Option Nat) : List (Nat × List (BitVec 32)) × MFlags :=
  let rs := (List.range (FMX_m f)).map (fun i => (i, outRow f mconst a b acc i))
  (rs.map (fun r => (r.1, r.2.1)), rs.foldl (fun m r => m.or r.2.2) ⟨Fl.inv (a.nv || b.nv), false, false⟩)

/-! ### MSTL and MSTF (R231 to R235) -/

/-- The stochastic output of position e of a command of the store path (R235): lane e mod 128. -/
def storeDraw (seed : Nat) (draws : Nat) (mode : Rm) (e : Nat) : Nat := match mode with
  | .sr => splitMix seed (e % 128) (draws + e / 128 + 1)
  | _ => 0
/-- One element converted for MSTL (R233), without flushing (R174), or for MSTF without block scales (R234): code and flags. -/
def storeElem (lns : Bool) (ty fz : Nat) (mode : Rm) (z raw : Nat) : Nat × MFlags :=
  let r := convert ty 0 (!lns && opfOf fz 0) (rsfOf fz ty) mode z raw
  if lns then (r.1, ⟨⟨r.2.nv, false, false, false, r.2.nx⟩, r.2.of, r.2.uf⟩) else (r.1, ⟨r.2, false, false⟩)
/-- A row of element codes packed from bit 0 (R100). -/
def packCodes (w : Nat) (l : List Nat) : List Byte :=
  leBytes (l.length * w / 8) (l.zipIdx.foldl (fun n x => n + x.1 % 2 ^ w * 2 ^ (x.2 * w)) 0)
/-- A region row converted without block scales: the packed bytes and the flags; `e` is the position of its first element. -/
def storeRow (lns : Bool) (ty fz : Nat) (mode : Rm) (seed draws e : Nat) (row : List Nat) : List Byte × MFlags :=
  let xs := row.zipIdx.map (fun x => storeElem lns ty fz mode (storeDraw seed draws mode (e + x.2)) x.1)
  (packCodes (tyWidth ty) (xs.map (fun x => x.1)), xs.foldl (fun m x => m.or x.2) MFlags.clear)
/-- The scale bytes of a region row (R181, R234). -/
def storeScales (ty fz : Nat) (up : Bool) (row : List Nat) : List Nat :=
  (List.range (row.length / 32)).map (fun n => mxScale ty up (((row.drop (32 * n)).take 32).map (decodeFloat 0 (opfOf fz 0))))
/-- A region row converted to MX blocks: the packed bytes, the scale bytes and the flags. -/
def storeRowMx (ty fz : Nat) (up : Bool) (mode : Rm) (seed draws e : Nat) (row : List Nat) : List Byte × List Nat × MFlags :=
  let sc := storeScales ty fz up row
  let xs := row.zipIdx.map (fun x =>
    let v := decodeFloat 0 (opfOf fz 0) x.1
    let r := mxEncode ty (rsfOf fz ty) mode (storeDraw seed draws mode (e + x.2)) (sc.getD (x.2 / 32) 0) v
    (r.1, r.2.or (Fl.inv v.isSig)))
  (packCodes (tyWidth ty) (xs.map (fun x => x.1)), sc, xs.foldl (fun m x => m.or ⟨x.2, false, false⟩) MFlags.clear)

end Sys2Proof.Machine
end

