-- ==== Sys2Proof/Machine/Engines.lean ====
section
/-!
DEFINITION. The engines: a command starts (R108, R110, R112, R113, R116, R130, R158, R218, R220, R222 to R226, R232, R261), completes
(R28, R118, R224, R228), or delivers an element to a channel (R110). A started command has read what it reads; it writes when it completes.
-/
namespace Sys2Proof.Machine

/-! ### Commands in their queues -/

/-- A command that has begun. -/
def Cmd.begun (q : Cmd) : Bool := q.started.isSome
/-- The command of an engine with a number. -/
def Job.cmd (j : Job) (e : Engine) (id : Nat) : Option Cmd := (j.queue e).find? (fun q => q.id = id)
/-- The unit of an engine in a trap record (R256). -/
def engineUnit : Engine → BitVec 3
  | .me => 1
  | .ce => 2
  | .se => 3
/-- A command changed in its queue. -/
def Job.onCmd (j : Job) (e : Engine) (id : Nat) (f : Cmd → Cmd) : Job :=
  j.setQueue e ((j.queue e).map (fun q => if q.id = id then f q else q))
/-- The executing job's command has begun with what it has read. -/
def begin_ (e : Engine) (id : Nat) (x : Started) : M Unit :=
  modifyJob (fun j => j.onCmd e id (fun q => { q with started := some x }))
/-- The executing job's command has completed. -/
def finish (e : Engine) (id : Nat) : M Unit :=
  modifyJob (fun j => j.setQueue e ((j.queue e).filter (fun q => q.id ≠ id)))
/-- Flags that an ME command sets in MSTAT (R237). -/
def mstatFlags (o : Origin) (bits : Nat) : M Unit :=
  if bits = 0 then pure () else modifyJob (fun j => j.rchange o.stamp.coord .mstat (.flags (BitVec.ofNat 64 bits)))

/-! ### Semaphores of an MMA (R226, R252) -/

/-- A command's virtual semaphore, or the trap of its use (R251). -/
def cmdSem (v : BitVec 5) : M SemEntry := do
  let s ← get
  let j ← getJob
  match s.semEntry s.cur.1 j v with
  | some e => return e
  | none => trap 0x0D (v.setWidth 64)
/-- The head MMA's wait: served at once, or the command joins the waiters. Whether it has been served. -/
def mmaWait (q : Cmd) (v : BitVec 5) (n : Nat) : M Bool := do
  if q.semDone then return true
  let e ← cmdSem v
  let s ← get
  let c := s.cur.1
  let m := s.sem (clusterOf c) e.phys
  if m.waiters.any (fun x => decide (x.cmd = some q.id ∧ x.core = c)) then return false
  else if m.waiters.isEmpty && decide (n ≤ m.count) then
    let (us, rest) := takeUnits n m.units
    if !e.shared then match unitAbove us q.org.stamp.coord with
      | some x => trap 0x06 (coordWord x)
      | none => pure ()
    set (s.setSem (clusterOf c) e.phys { m with units := rest })
    modifyJob (fun j => { j.onCmd .me q.id (fun q => { q with semDone := true }) with
      semTaken := j.semTaken ++ [⟨e.phys, us.map (fun u => (u.n, u.owner)), q.org.stamp.coord⟩] })
    return true
  else
    set (s.setSem (clusterOf c) e.phys { m with waiters := m.waiters ++ [⟨q.id, c, n, some q.id, q.org, none, e.shared⟩] })
    return false
/-- The units of the job that an MMA has consumed stay consumed while it goes on waiting for its operands (R226). -/
def Cmd.mustWait (q : Cmd) (f : FMX) : Bool := f.swe && !q.semDone
/-- The signal of a completing MMA (R135, R226); in replay a signal on a shared semaphore is discarded (R401). -/
def mmaSignal (q : Cmd) (v : BitVec 5) : M Unit := do
  let e ← cmdSem v
  let j ← getJob
  if e.shared then
    if (← replaying) then pure () else modifyJob (fun j => { j with held := heldAdd j.held ⟨q.id, q.org, .sems e.phys 1, none⟩ })
  else modify (fun s => s.setSem (clusterOf s.cur.1) e.phys
    ((s.sem (clusterOf s.cur.1) e.phys).signal 1 (some (j.handle, s.cur.1, q.org.stamp))))

/-! ### Operands of an MMA (R154, R213, R222, R223) -/

/-- Bytes of a scratchpad sector for an operand: outside the scratchpad windows 0x08, beyond a grant 0x0E, poison 0x0A (R154, R292). -/
def operandSector (a : Word) : M (List Byte) := do
  let w ← whoNow
  match (← get).scratchRun w a 32 with
  | .error x => faultTrap x
  | .ok (k, p) => readPool k p 32 a
/-- The sectors of an operand row, in order. -/
def operandRow (m : MOperand) (t i : Nat) : Nat → M (List Byte)
  | 0 => return []
  | n + 1 => do
    let before ← operandRow m t i n
    let bs ← operandSector (m.addr t i n)
    return before ++ bs
/-- Element p of a row of bytes, of width w bits (R100). -/
def rowElem (w : Nat) (bs : List Byte) (p : Nat) : Nat := leNat bs / 2 ^ (p * w) % 2 ^ w
/-- The rows of an operand, with tile, row and bytes. -/
def operandBytes (m : MOperand) (ty : Nat) : List (Nat × Nat × Nat) → M (List (Nat × Nat × List Byte))
  | [] => return []
  | (t, i, n) :: l => do
    let bs ← operandRow m t i (rowSectors ty n)
    let rest ← operandBytes m ty l
    return (t, i, bs) :: rest
/-- The raw elements of a scratchpad operand by outer index and k (R222), with the checks of R154. -/
def scratchOperand (x1 x2 : Word) (along : Bool) (outer k ty : Nat) : M (List (List Nat)) := do
  trapIf (decide (pteBits x1 59 56 ≠ 0)) 0x07 x1
  let m := mOperand x1 x2
  trapIf (decide (m.base.toNat % 32 ≠ 0)) 0x09 m.base
  trapIf (decide (m.rp % 32 ≠ 0)) 0x09 (BitVec.ofNat 64 m.rp)
  trapIf (decide (m.tp % 32 ≠ 0)) 0x09 (BitVec.ofNat 64 m.tp)
  let rows ← operandBytes m ty (operandRows along outer k)
  let look (t i p : Nat) : Nat := match rows.find? (fun r => decide (r.1 = t ∧ r.2.1 = i)) with
    | some r => rowElem (tyWidth ty) r.2.2 p
    | none => 0
  return (List.range outer).map (fun x => (List.range k).map (fun e =>
    if along then look (e / 128) x (e % 128) else look (e / 128) (e % 128) x))
/-- The raw elements of a tile operand (R223): `rows` says that the outer index is the tile's row. -/
def tileOperand (q : Cmd) (field : Spec) (rows : Bool) (outer k : Nat) (ty : Nat) : M (List (List Nat)) := do
  let n := field.toNat % 16
  let t ← takeTile n (field.getLsbD 4) true [.v] q.org.stamp.coord q.org.seq
  return (List.range outer).map (fun x => (List.range k).map (fun e =>
    (if rows then t.get (pos x e) else t.get (pos e x)).toNat % 2 ^ tyWidth ty))
/-- The scale bytes of an operand (R213): a byte outside the scratchpad grant traps. -/
def scaleRows (sofs outer k : Nat) : M (List (List Nat)) := do
  let w ← whoNow
  let blocks := (k + 31) / 32
  let top := sofs * 64 + 128 * (outer - 1) + blocks
  trapIf (decide (w.spg * 65536 < top)) 0x0E (BitVec.ofNat 64 (0x40000000 + top - 1))
  let s ← get
  let row (x : Nat) : Option (List Nat) × Option Nat :=
    let p := w.spBase + sofs * 64 + 128 * x
    match s.poolPoison w.core p blocks with
    | some pa => (none, some pa)
    | none => (some ((s.ownPool w.core p blocks).map BitVec.toNat), none)
  match ((List.range outer).map row).findSome? Prod.snd with
  | some pa => throw (.poison pa 0)
  | none => return (List.range outer).map (fun x => ((row x).1).getD [])
/-- One operand of an MMA as it enters (R211 to R213). -/
def enterOperand (q : Cmd) (scratch : Bool) (x1 x2 : Word) (field : Spec) (along : Bool) (outer k ty : Nat) (scaled : Bool) (sofs slot fz : Nat) :
    M Operand := do
  let raws ← if scratch then scratchOperand x1 x2 along outer k ty else tileOperand q field along outer k ty
  let scales ← if scaled then some <$> scaleRows sofs outer k else pure none
  let cb := (← getJob).codebooks.get ⟨slot % 4, Nat.mod_lt _ (by decide)⟩
  let xs := raws.map (fun r => r.map (logEntry ty fz scaled cb))
  return ⟨xs.map (fun r => r.map (fun x => x.1)), scales, xs.any (fun r => r.any (fun x => x.2))⟩

/-- The words of an accumulator tile row by row; poison traps (R292). -/
def accWord (w : Who) (s : State) (tile i j : Nat) : Nat := leNat (s.ownPool w.core (w.acBase + tile * 65536 + i * 512 + j * 4) 4)
/-- Poison in the words that a command reads of rows and columns of an accumulator tile (R292). -/
def accPoison (tile row n col m : Nat) : M Unit := do
  let w ← whoNow
  let s ← get
  match (List.range n).findSome? (fun i => s.poolPoison w.core (w.acBase + tile * 65536 + (row + i) * 512 + col * 4) (m * 4)) with
  | some pa => throw (.poison pa 0)
  | none => pure ()

/-! ### Retention (R130) -/

/-- Before a command first writes a tile beyond FRONT, the tile is copied into a free retention buffer, unless a buffer holds it at that
coordinate: it waits for a buffer, or traps when the wait cannot end. -/
def retain (o : Origin) (tile : Nat) : M Unit := do
  let s ← get
  let j ← getJob
  let w ← whoNow
  if !j.beyond o.stamp.coord || j.retained.any (fun r => decide (r.tile.toNat = tile ∧ r.coord = o.stamp.coord)) then pure ()
  else if 4 ≤ j.retained.length then
    if j.retained.all (fun r => decide (o.stamp.coord ≤ r.coord)) then trap 0x04 0x102 else stall 7
  else
    let base := w.acBase + tile * 65536
    let now := memBytes s.mem (poolKey w.core base) 65536
    let bad := (List.range 2048).filter (fun i => s.poison.contains (poolKey w.core base / 32 + i))
    -- a sector that a direct write of this coordinate or a later one has changed is kept as it was before
    let olds := j.rlogMem.filter (fun e => decide (e.core = w.core ∧ base ≤ e.p ∧ e.p < base + 65536 ∧ o.stamp.coord ≤ e.coord))
    let olds := olds.filter (fun e => !olds.any (fun x => decide (x.p = e.p ∧ x.coord < e.coord)))
    let old := olds.foldl (fun b e => b.take (e.p - base) ++ e.old ++ b.drop (e.p - base + 32)) now
    let bad := olds.foldl (fun l e => let i := (e.p - base) / 32; if e.bad then (if l.contains i then l else i :: l) else l.filter (· ≠ i)) bad
    setJob { j with retained := j.retained ++ [⟨BitVec.ofNat 5 tile, old, bad, o.stamp.coord⟩] }
/-- Write a run of words of a tile row by an ME command (R130, R224); it waits for a live entry of another core's log (R265). -/
def writeTileRow (o : Origin) (tile row : Nat) (ws : List (BitVec 32)) : M Unit := do
  let w ← whoNow
  let p := w.acBase + tile * 65536 + row * 512
  let bs := ws.flatMap (fun x => leBytes 4 x.toNat)
  let s ← get
  if (pieces p bs.length).any (fun x => s.otherLog w.core w.core (x.1 / 32)) then stall 14
  modifyJob (fun j => (pieces p bs.length).foldl (fun j x =>
    j.patchAbove o.stamp.coord w.core w.core (x.1 / 32 * 32) (x.1 % 32) ((bs.drop (x.1 - p)).take x.2) false) j)
  modify (fun s => s.pokeClear (poolKey w.core p) bs)
/-- Write rows of a tile. -/
def writeTileRows (o : Origin) (tile : Nat) : List (Nat × List (BitVec 32)) → M Unit
  | [] => pure ()
  | (i, ws) :: l => do
    writeTileRow o tile i ws
    writeTileRows o tile l

/-! ### Starting (R112, R158, R218) -/

/-- The command's place in its engine lets it begin: the ME starts one command at a time in queue order; a copy to a channel waits behind
earlier ones of its channel (R110, R218). -/
def Job.turn (j : Job) (e : Engine) (q : Cmd) : Bool := match e, q.kind with
  | .me, _ => !j.meQ.any (fun x => decide (x.id < q.id) || x.begun)
  | .ce, .copyChan _ ch _ =>
    !j.ceQ.any (fun x => decide (x.id < q.id) && (match x.kind with
      | .copyChan _ c _ => c = ch
      | _ => false))
  | _, _ => true
/-- Buffers of PUBLISH pages that a run of bytes from an address reaches, one address a page. -/
def State.buffersOf (s : State) (w : Who) (r : Int × Int) : List Nat :=
  if r.1 < 0 ∨ r.2 ≤ r.1 then []
  else (List.range ((r.2 - 1).toNat / 65536 - r.1.toNat / 65536 + 1)).filterMap (fun i =>
    let a := (r.1.toNat / 65536 + i) * 65536
    let e : Option Word := match s.leafAt w (BitVec.ofNat 64 a) with
      | .ok e => some e
      | .error (.fetch _) => ((s.homeLeaf w.part a).toOption).map Prod.fst
      | .error _ => none
    e.bind (fun e => if ptPub e then some (flipOf e) else none))
/-- A copy waits for an earlier PUB of its stream on a buffer that it writes (R112). -/
def State.pubWaits (s : State) (w : Who) (j : Job) (q : Cmd) : Bool := match q.kind with
  | .copy g =>
    let pubs := (j.held.filterMap (fun h => match h.kind with
        | .pub n => if h.id < q.id then some n else none
        | _ => none)) ++
      (s.services.filterMap (fun x => match x.kind with
        | .pub n => if x.core = w.core ∧ x.handle = j.handle ∧ x.id < q.id then some n else none
        | _ => none))
    !pubs.isEmpty && g.loops.any (fun i => (s.buffersOf w ((g.to i).toNat, (g.to i).toNat + g.n0)).any (fun n => pubs.contains n))
  | _ => false
/-- A command waits for an earlier MRD of C that has still to read a tile it writes, so that C reads its own results in order (R229). -/
def State.mrdWaits (s : State) (w : Who) (j : Job) (q : Cmd) : Bool := j.ops.any (fun o => decide (o.id < q.id) && (match o.kind with
  | .mrd tile _ => setsMeet (s.writeSet w q) [w.tile tile.toNat]
  | _ => false))
/-- The command may begin. -/
def State.mayBegin (s : State) (w : Who) (j : Job) (e : Engine) (q : Cmd) : Bool :=
  !q.begun && !(decide (q.org.st = .c) && s.mrdWaits w j q) && j.lives q.org.stamp.coord && j.turn e q && s.rangeOk w j q && !s.cmdWaits w j q && !s.pubWaits w j q

/-- The bytes that a copy reads, in traversal order; a path that fails at its target traps (R281). -/
def readCopy (g : CopyGeo) : List (Nat × Nat) → M (List (Byte × Option Nat))
  | [] => return []
  | i :: l => do
    let x ← readMem false (g.from i) g.n0
    match x.fab with
    | some (ga, r) => throw (.trap 0x12 ga r)
    | none => pure ()
    let rest ← readCopy g l
    return x.bytes ++ rest
/-- A sixteen-entry index list with the error of the path it is read by (R281); poison traps (R105, R113, R292). -/
def readIndices (direct : Bool) (a : Word) : M (List Word × Option (Word × BitVec 16)) := do
  let g ← readMem direct a 64
  match g.bad, g.fab with
  | some pa, none => throw (.poison pa a)
  | _, some x => return ([], some x)
  | none, none => return ((List.range 16).map (fun i => BitVec.ofNat 64 (leNat (((g.bytes.map Prod.fst).drop (4 * i)).take 4))), none)
/-- What MSTL or MSTF reads and converts when it starts: the rows to write with their addresses (R231 to R235). -/
def startStore (q : Cmd) (lns : Bool) (w : StoreWord) (a pitch : Word) (ty : BitVec 5) (mx : Option Word) (mode : Rm) (fz : BitVec 16) : M Started := do
  let who ← whoNow
  accPoison w.acc.toNat w.row0 w.rows w.col0 w.cols
  let s ← get
  let j ← getJob
  let seed := (j.rreg .mseed).toNat
  let draws := j.rnow.mdraws
  let row (r : Nat) : List Nat := (List.range w.cols).map (fun c => accWord who s w.acc.toNat (w.row0 + r) (w.col0 + c))
  let at_ (r : Nat) : Word := a + BitVec.ofNat 64 r * pitch
  let n := if mode = .sr then (w.rows * w.cols + 127) / 128 else 0
  match mx with
  | none =>
    let xs := (List.range w.rows).map (fun r => (r, storeRow lns ty.toNat fz.toNat mode seed draws (r * w.cols) (row r)))
    let m := xs.foldl (fun m x => m.or x.2.2) MFlags.clear
    return .stores (xs.map (fun x => (at_ x.1, x.2.1))) m.fl m.lsat m.lund n
  | some sa =>
    let xs := (List.range w.rows).map (fun r => (r, storeRowMx ty.toNat fz.toNat w.up mode seed draws (r * w.cols) (row r)))
    let m := xs.foldl (fun m x => m.or x.2.2.2) MFlags.clear
    return .stores (xs.flatMap (fun x => [(at_ x.1, x.2.1), (sa + BitVec.ofNat 64 (4 * x.1), x.2.2.1.map (BitVec.ofNat 8))])) m.fl m.lsat m.lund n
/-- What an MMA does when it starts: its semaphore wait first, which stays served (R226), and once that is over what it reads and computes
(R222 to R225). -/
def startMma (q : Cmd) (f : FMX) (fmt a1 a2 b1 b2 : Word) (mconst : BitVec 32) (fz : BitVec 16) : M Unit := do
  if q.mustWait f then
    let _ ← mmaWait q f.swv f.swc.toNat
    pure ()
  else
    let a ← enterOperand q f.ak a1 a2 f.a1 (!f.ta) (FMX_m f) (FMX_k f) (fmtA fmt) (fmt.getLsbD 14) (pteBits fmt 47 32) (pteBits fmt 11 10) fz.toNat
    let b ← enterOperand q f.bk b1 b2 f.b1 f.tb (FMX_n f) (FMX_k f) (fmtB fmt) (fmt.getLsbD 15) (pteBits fmt 63 48) (pteBits fmt 13 12) fz.toNat
    if f.wm then accPoison f.acc.toNat 0 (FMX_m f) 0 (FMX_n f)
    retain q.org f.acc.toNat
    let w ← whoNow
    let s ← get
    let out := outRows f mconst a b (fun i j => if f.wm then some (accWord w s f.acc.toNat i j) else none)
    begin_ .me q.id (.acc out.1 out.2.fl out.2.lsat out.2.lund)
/-- Room in the codebook history for an MCB beyond FRONT (R220). -/
def codebookRoom (o : Origin) (slot : Fin 4) : M Unit := do
  let j ← getJob
  if j.beyond o.stamp.coord && !j.cbHist.any (fun x => decide (x.slot = slot ∧ x.coord = o.stamp.coord)) && decide (4 ≤ j.cbHist.length) then
    if j.cbHist.all (fun x => x.coord = o.stamp.coord) then trap 0x04 0x104 else stall 7
/-- What MCB reads when it starts (R220). -/
def startMcb (q : Cmd) (slot : Fin 4) (a : Word) (fz : BitVec 16) : M Unit := do
  codebookRoom q.org slot
  let bs ← operandSector a
  let vs := (List.range 16).map (fun i => decodeFloat 2 (opfOf fz.toNat 2) (leNat ((bs.drop (2 * i)).take 2)))
  begin_ .me q.id (.codebook (vs.map log4096) (vs.any Val.isSig))
/-- A command begins: what it reads. -/
def startBody (e : Engine) (q : Cmd) : M Unit := match q.kind with
  | .copy g => do begin_ e q.id (.bytes (← readCopy g g.loops))
  | .copyChan g _ _ => do begin_ e q.id (.bytes (← readCopy g g.loops))
  | .st _ _ _ | .stt _ _ _ _ => begin_ e q.id .none
  | .scatter _ l _ _ _ => do
    let x ← readIndices false l
    match x.2 with
    | some (ga, r) => throw (.trap 0x12 ga r)
    | none => begin_ e q.id (.elems x.1)
  | .rst src _ n _ _ => do
    let w ← whoNow
    match (← get).scratchRun w src n with
    | .error x => faultTrap x
    | .ok _ => do begin_ e q.id (.bytes (← readMem false src n).bytes)
  | .rat _ _ _ _ | .send _ _ _ _ _ => begin_ e q.id .none
  | .mma f fmt a1 a2 b1 b2 mc fz => startMma q f fmt a1 a2 b1 b2 mc fz
  | .mcb slot a fz => startMcb q slot a fz
  | .mzero tile => do
    retain q.org tile.toNat
    begin_ e q.id .none
  | .mst lns w a p ty mx mode fz => do begin_ e q.id (← startStore q lns w a p ty mx mode fz)
  | .mseed _ => begin_ e q.id .none
/-- ENGINE_COMMAND_START (R108, R113, R218). -/
def State.startCommand (s : State) (c : CoreId) (e : Engine) (id : Nat) : State := match s.job c with
  | none => s
  | some j => match j.cmd e id with
    | none => s
    | some q =>
      if s.mayBegin (s.who c j) j e q then s.performCmd c e q (engineUnit e) (startBody e q) else s
/-- ENGINE_COMMAND_START (R108, R113, R218). -/
def execEngineCommandStart (core : CoreId) (e : Engine) (id : Nat) (s : State) : Host.Outcome State Fault Refusal :=
  .next (s.startCommand core e id)

/-! ### Completing (R28, R118, R220, R224, R228, R235) -/

/-- The segments of a copy with their destinations, in traversal order (R108). -/
def copyRuns (g : CopyGeo) (bs : List (Byte × Option Nat)) : List (Nat × Nat) → List (Word × List (Byte × Option Nat))
  | [] => []
  | i :: l => (g.to i, bs.take g.n0) :: copyRuns g (bs.drop g.n0) l
/-- Write runs of unmarked bytes at addresses, in order. -/
def writeRunsAt (q : Cmd) (l : List (Word × List Byte)) : M Unit := writeCmdRuns q.org q.id (l.map (fun x => (x.1, plainBytes x.2)))
/-- The poison of each sector of a block (R292). -/
def sectorFlags (bs : List (Byte × Option Nat)) : List Bool :=
  (List.range ((bs.length + 31) / 32)).map (fun i => ((bs.drop (32 * i)).take 32).any (fun y => y.2.isSome))
/-- A remote effect of the store engine enters the release buffer (R116, R118). -/
def sendHeld (q : Cmd) (k : HeldKind) : M Unit := holdFor q.org q.id k none
/-- A command completes: what it writes. -/
def completeBody (e : Engine) (q : Cmd) (x : Started) : M Unit := do
  match q.kind, x with
  | .copy g, .bytes bs => writeCmdRuns q.org q.id (copyRuns g bs g.loops)
  | .st a v ty, _ => writeRunsAt q [(a, leBytes (tyBytes ty) v.toNat)]
  | .stt a p ty t, _ => writeRunsAt q ((List.range 16).map (fun r => (a + BitVec.ofNat 64 r * p, packRowBytes ty.toNat t r)))
  | .scatter t _ p ty v, .elems ws =>
    writeRunsAt q ((indexRows t p (ws.map BitVec.toNat)).map (fun r => (r.2, packRowBytes ty.toNat v r.1)))
  | .rst _ ga _ flag acc, .bytes bs => sendHeld q (.rst ga (bs.map Prod.fst) (sectorFlags bs) flag acc)
  | .rat op ga v c, _ => sendHeld q (.rat op ga v c)
  | .mma f _ _ _ _ _ _ _, .acc rows fl lsat lund =>
    if f.sse then mmaSignal q f.ssv
    writeTileRows q.org f.acc.toNat rows
    mstatFlags q.org (MFlags.bits ⟨fl, lsat, lund⟩)
  | .mzero tile, _ => writeTileRows q.org tile.toNat ((List.range 128).map (fun i => (i, List.replicate 128 0)))
  | .mcb slot _ _, .codebook ws nv =>
    modifyJob (fun j =>
      let save := j.beyond q.org.stamp.coord && !j.cbHist.any (fun x => decide (x.slot = slot ∧ x.coord = q.org.stamp.coord))
      { j with
        cbHist := if save then j.cbHist ++ [⟨slot, j.codebooks.get slot, j.cbv.getLsbD slot.val, q.org.stamp.coord⟩] else j.cbHist
        codebooks := j.codebooks.set slot ws
        cbv := j.cbv ||| (1 <<< slot.val) })
    mstatFlags q.org (MFlags.bits ⟨Fl.inv nv, false, false⟩)
  | .mst _ _ _ _ _ _ _ _, .stores ws fl lsat lund n =>
    writeRunsAt q ws
    mstatFlags q.org (MFlags.bits ⟨fl, lsat, lund⟩)
    if n = 0 then pure () else modifyJob (fun j => j.rchange q.org.stamp.coord .mseed (.draws n))
  | .mseed v, _ => modifyJob (fun j => j.rchange q.org.stamp.coord .mseed (.write v))
  | _, _ => pure ()
  finish e q.id
/-- A command that has begun runs to its end whatever cut lands: one of the ME but for MSTL and MSTF (R125, R239). -/
def Cmd.runsOn (q : Cmd) : Bool := match q.kind with
  | .mma _ _ _ _ _ _ _ _ | .mcb _ _ _ | .mzero _ | .mseed _ => true
  | _ => false
/-- The command may complete: it has begun, is no copy to a channel with elements to deliver, and one that stops beyond a landing's cut has
not stopped (R125, R239). -/
def Job.mayFinish (j : Job) (q : Cmd) : Bool :=
  (q.runsOn || j.lives q.org.stamp.coord) && (match q.kind, q.started with
    | .copyChan _ _ ty, some (.bytes bs) =>
      decide (bs.length / tyBytes ty ≤ q.delivered) && j.bindings.any (fun (b : Binding) => b.copy.any (fun (x : Nat × Nat) => x.1 = q.id))
    | _, _ => true)
/-- ENGINE_COMMAND_COMPLETE (R28). -/
def State.completeCommand (s : State) (c : CoreId) (e : Engine) (id : Nat) : State := match s.job c with
  | none => s
  | some j => match j.cmd e id with
    | none => s
    | some q => match q.started with
      | none => s
      | some x => if j.mayFinish q then s.performCmd c e q (engineUnit e) (completeBody e q x) else s
/-- ENGINE_COMMAND_COMPLETE (R28). -/
def execEngineCommandComplete (core : CoreId) (e : Engine) (id : Nat) (s : State) : Host.Outcome State Fault Refusal :=
  .next (s.completeCommand core e id)

/-! ### Channels (R25, R110) -/

/-- The binding of a copy at a channel: its own, or the channel's live binding that has taken no copy, with the elements to come (R110). -/
def Job.pairCopy (j : Job) (ch : Fin 8) (id total : Nat) : Option Binding :=
  match j.bindings.find? (fun b => b.copy.any (fun x => x.1 = id)) with
  | some b => some b
  | none => (j.bindings.find? (fun b => decide (b.ch = ch ∧ b.copy = none))).map (fun b => { b with copy := some (id, total) })
/-- A binding replaced under its number. -/
def Job.setBinding (j : Job) (b : Binding) : Job :=
  { j with bindings := j.bindings.map (fun (y : Binding) => if y.id = b.id then b else y) }
/-- An element of type ty as a channel or a scalar load delivers it (R100): signed integers are sign-extended. -/
def extendElem (ty raw : Nat) : Word := if tySigned ty then BitVec.ofInt 64 (toSigned (tyWidth ty) raw) else BitVec.ofNat 64 raw
/-- The command is a copy to a channel. -/
def Cmd.toChannel (q : Cmd) (ch : Fin 8) : Bool := match q.kind with
  | .copyChan _ k _ => k = ch
  | _ => false
/-- The entry that the next element of a copy at a channel makes, with its poison (R100, R110, R292). -/
def Cmd.element (q : Cmd) (b : Binding) (ty : BitVec 5) (bs : List (Byte × Option Nat)) : QEntry Word :=
  let n := tyBytes ty
  let x := (bs.drop (q.delivered * n)).take n
  let m : Mark := match x.findSome? Prod.snd with
    | some pa => .poison pa
    | none => .none
  ⟨some (extendElem ty.toNat (leNat (x.map Prod.fst))), q.org.stamp, m, false, q.id, some b.id⟩
/-- The copy at a channel takes its binding and delivers its next element to the bound register: at most four arrived elements stay
unpopped, and the register needs a physical slot (R26, R110). -/
def State.deliver (s : State) (c : CoreId) (ch : Fin 8) : State := match s.job c with
  | none => s
  | some j =>
    match j.ceQ.find? (fun q => q.begun && q.toChannel ch) with
    | none => s
    | some q => match q.kind, q.started with
      | .copyChan _ _ ty, some (.bytes bs) =>
        let n := tyBytes ty
        let total := bs.length / n
        match j.pairCopy ch q.id total with
        | none => s
        | some b =>
          let r := (j.stream b.st).regs.get b.reg
          if !j.lives q.org.stamp.coord then s
          else if total ≤ q.delivered then s.setJob c (j.setBinding b)
          else if decide (4 ≤ r.items.length) || decide (8 ≤ r.items.length + r.popped.length) then s
          else
            let j := j.onStream b.st (fun t => { t with regs := t.regs.set b.reg { r with items := r.items ++ [q.element b ty bs] } })
            let j := j.setBinding { b with copy := b.copy.map (fun (z : Nat × Nat) => (z.1, z.2 - 1)) }
            s.setJob c (j.onCmd .ce q.id (fun q => { q with delivered := q.delivered + 1 })).stir
      | _, _ => s
/-- CHANNEL_ELEMENT_DELIVERY (R110). -/
def execChannelElementDelivery (core : CoreId) (ch : BitVec 3) (s : State) : Host.Outcome State Fault Refusal :=
  .next (s.deliver core ch.toFin)

end Sys2Proof.Machine
end

