-- ==== Sys2Proof/Machine/Pending.lean ====
section
/-!
DEFINITION. Pending operations of the streams: loads and MRD fill their entries (R20, R103 to R105, R230), atomics and AWAIT are applied
(R240 to R248, R292), and token pushes are made (R28, R29).
-/
namespace Sys2Proof.Machine

/-! ### Loads (R103 to R105, R230) -/

/-- A load's read: the entry's value and its mark. -/
def ldRead (o : PendOp) (a : Word) (ty : BitVec 5) : M Unit := do
  let g ← readMem true a (tyBytes ty)
  modifyJob (fun j => (j.dropOp o.id).fill o.org.st o.id (extendElem ty.toNat g.nat) g.mark)
/-- The rows of a tile read from addresses; an absent address gives a row of zeros (R105). -/
def readRows (n : Nat) : List (Option Word) → M (List Got)
  | [] => return []
  | none :: l => do
    let rest ← readRows n l
    return ⟨List.replicate n (0, none), none⟩ :: rest
  | some a :: l => do
    let g ← readMem true a n
    let rest ← readRows n l
    return g :: rest
/-- The mark of a tile: a fabric error, or the first poison of its rows. -/
def rowsMark (l : List Got) : Mark := match l.find? (fun g => g.mark ≠ .none) with
  | some g => g.mark
  | none => .none
/-- LDT's read (R104). -/
def ldtRead (o : PendOp) (a p : Word) (ty : BitVec 5) (q : Fin 16) : M Unit := do
  let rows ← readRows (rowBytes ty.toNat) ((List.range 16).map (fun r => some (a + BitVec.ofNat 64 r * p)))
  modifyJob (fun j => (j.dropOp o.id).fillTile q o.id (unpackRows ty.toNat (rows.map Got.nat)) (rowsMark rows))
/-- The rows of a GATHER by its index list: with the zero policy a poisoned row is replaced by zeros and logged as an error event of kind 4
(R293). -/
def gatherRows (o : PendOp) (t p : Word) (ty : BitVec 5) (zero : Bool) (q : Fin 16) (idx : List Word) : M Unit := do
  let addrs := idx.map (fun i => if i = 0xFFFFFFFF then none else some (t + i * p))
  let rows ← readRows (rowBytes ty.toNat) addrs
  let rows' := if zero then rows.map (fun g => if g.bad.isSome then ⟨g.bytes.map (fun _ => (0, none)), g.fab⟩ else g) else rows
  modifyJob (fun j => (j.dropOp o.id).fillTile q o.id (unpackRows ty.toNat (rows'.map Got.nat)) (rowsMark rows'))
  if zero then modify (fun s => (rows.zip addrs).foldl (fun s x => match x.1.bad, x.2, s.job s.cur.1 with
    | some pa, some a, some j => s.errorEvent j.part 4 pa a (some o.org.stamp.coord) j.handle s.cur.1
    | _, _, _ => s) s)
/-- GATHER's read (R105): an index list by a path that fails at its target marks the tile (R281). -/
def gatherRead (o : PendOp) (t l p : Word) (ty : BitVec 5) (zero : Bool) (q : Fin 16) : M Unit := do
  let x ← readIndices true l
  let n := (← get).tick
  match x.2 with
  | some (ga, r) => modifyJob (fun j => (j.dropOp o.id).fillTile q o.id (Vector.ofFn (fun i => (Config.freeWord n i.val).setWidth 32)) (.fabric ga r))
  | none => gatherRows o t p ty zero q x.1
/-- MRD's read (R230): the element's bits. -/
def mrdRead (o : PendOp) (tile : BitVec 5) (posn : BitVec 14) : M Unit := do
  let w ← whoNow
  let g ← readLoc (.pool w.core (w.elemOff tile posn.toNat)) 4
  modifyJob (fun j => (j.dropOp o.id).fill o.org.st o.id (BitVec.ofNat 64 g.nat) g.mark)
/-- The operation with a number. -/
def Job.op (j : Job) (id : Nat) : Option PendOp := j.ops.find? (fun o => o.id = id)
/-- ENTRY_FILL (R20): the pending load with this number reads and fills its entry. -/
def State.fillEntry (s : State) (c : CoreId) (id : Nat) : State := match s.job c with
  | none => s
  | some j => match j.op id with
    | none => s
    | some o =>
      if !j.lives o.org.stamp.coord || s.opWaits (s.who c j) j o then s
      else match o.kind with
        | .ld a ty => s.perform c o.org 0 (ldRead o a ty)
        | .ldt a p ty q => s.perform c o.org 0 (ldtRead o a p ty q)
        | .gather t l p ty z q => s.perform c o.org 0 (gatherRead o t l p ty z q)
        | .mrd tile posn => s.perform c o.org 0 (mrdRead o tile posn)
        | .rld _ _ | .atomic _ _ _ _ => s
/-- ENTRY_FILL (R20). -/
def execEntryFill (core : CoreId) (id : Nat) (s : State) : Host.Outcome State Fault Refusal := .next (s.fillEntry core id)

/-! ### Atomics (R240 to R248) -/

/-- The core at whose accumulator an atomic executes. -/
def APlace.core : APlace → Option CoreId
  | .word c _ => some c
  | .home c _ _ => some c
  | .host _ => none
/-- The core whose accumulator an atomic of the job reaches. -/
def State.atomicCore (s : State) (w : Who) (x : PendOp) : Option CoreId := match x.kind with
  | .atomic op a _ _ => match s.atomicPlace w op a with
    | .ok p => p.core
    | .error _ => none
  | _ => none
/-- The core whose accumulator a global address of this module lies in. -/
def State.gaCore (s : State) (ga : Word) : Option CoreId :=
  if ga.toNat / 2 ^ 50 ≠ s.module.node.toNat then none
  else match regionOf (ga.toNat % 2 ^ 50) with
    | .acc c _ _ => some c
    | _ => none
/-- An atomic that has left the streams for another core's accumulator and has still to be applied there: one held, or one on its way. -/
def State.foreignBefore (s : State) (w : Who) (j : Job) (o : PendOp) (c : CoreId) : Bool :=
  j.held.any (fun h => decide (h.id < o.id) && (match h.kind with
    | .atomic _ ga _ _ none => decide (s.gaCore ga = some c)
    | _ => false)) ||
  s.remotes.any (fun r => decide (r.core = w.core ∧ r.handle = j.handle ∧ r.id < o.id) && (match r.kind with
    | .atomic _ _ _ false => decide (s.gaCore r.ga = some c)
    | _ => false))
/-- A pending operation is an AWAIT. -/
def PendOp.isAwait (o : PendOp) : Bool := match o.kind with
  | .atomic (.await _) _ _ _ => true
  | _ => false
/-- An atomic waits in its core behind an earlier one to the same core's accumulator (R248): at the own core behind one of its stream; at
another core behind one of the whole core. There an atomic other than AWAIT enters the release buffer past an AWAIT (R246, R273), and an AWAIT
waits for the earlier atomics that have left too. -/
def State.waitsAtHome (s : State) (w : Who) (j : Job) (o : PendOp) (c : CoreId) : Bool :=
  if c = w.core then j.ops.any (fun e => decide (e.id < o.id ∧ e.org.st = o.org.st) && decide (s.atomicCore w e = some c))
  else
    j.ops.any (fun e => decide (e.id < o.id) && (o.isAwait || !e.isAwait) && decide (s.atomicCore w e = some c)) ||
      (o.isAwait && s.foreignBefore w j o c)
/-- Who asks for an atomic at a core's accumulator (R248). -/
inductive Requester where
  | stream (st : StreamId)
  | core (c : CoreId)
  | fabric
  deriving DecidableEq, Repr
/-- The requester that a stream of core x is at core c: the fabric stands for every core of another cluster. -/
def requester (c x : CoreId) (st : StreamId) : Requester :=
  if x = c then .stream st else if x.val / 4 = c.val / 4 then .core x else .fabric
/-- An AWAIT of a requester at a core's accumulator, one of those that come before, has still to be satisfied (R248). -/
def State.awaitAhead (s : State) (c : CoreId) (q : Requester) (before : CoreId → Job → PendOp → Bool) : Bool :=
  ((List.range 256).map coreOf).any (fun x => (s.job x).any (fun j => j.ops.any (fun e =>
    e.isAwait && e.hit.isNone && before x j e && decide (requester c x e.org.st = q) && decide (s.atomicCore (s.who x j) e = some c))))
/-- An atomic waits behind an earlier one of its requester (R248): in its core, or, an AWAIT that comes over the fabric, behind one of another
core. DESIGN CHOICE (log 86): what is earlier among cores is told by the step at which a request leaves its core, and of two in one step by
the core. -/
def State.atomicWaits (s : State) (w : Who) (j : Job) (o : PendOp) : Bool := match s.atomicCore w o with
  | some c => s.waitsAtHome w j o c ||
    (o.isAwait && decide (w.core.val / 4 ≠ c.val / 4) &&
      s.awaitAhead c .fabric (fun x _ e => decide (x ≠ w.core ∧ (e.tick < o.tick ∨ (e.tick = o.tick ∧ x.val < w.core.val)))))
  | none => false
/-- The read of an accumulator word of the own core: busy tiles and poison trap (R229, R292); what must not show yet it waits for (R87). -/
def ownWord (p : Nat) (a : Word) : M (BitVec 32) := do
  let w ← whoNow
  unveiled w.core p 4
  match (← get).busyFault w (← getJob) w.core p with
  | some f => throw (.trap f.cause f.info 0)
  | none => do
    let bs ← readPool w.core p 4 a
    return BitVec.ofNat 32 (leNat bs)
/-- The value of a recorded operation fills its entry, and its record is made (R400). -/
def arrive (o : Origin) (id sub : Nat) (v : Word) (m : Mark) : M Unit := do
  let c ← curCore
  modify (fun s => (s.onJob c (fun j => (j.dropOp id).fill o.st id v m)).recordArrival c o sub v (m ≠ .none))
/-- An atomic is applied on the own path, and held on a foreign one (R245, R246). -/
def atomicApply (o : PendOp) (op : AOp) (a : Word) (v c : BitVec 32) : M Unit := do
  let w ← whoNow
  let s ← get
  match s.atomicPlace w op a with
  | .error e => faultTrap e
  | .ok (.word k p) =>
    if k = w.core then
      let old ← ownWord p a
      let new := atomicNew op old v c
      match (← get).poolWrite w.core o.org k p (leBytes 4 new.1.toNat) false with
      | .done t => set t
      | .wait => stall 14
      | .full never => if never then trap 0x04 0x100 else stall 7
      arrive o.org o.id 2 (atomicOld old new.2) .none
    else leave (s.accGa k ((p - w.acBase) / 65536) ((p - w.acBase) % 65536)) none
  | .ok (.home k t off) => leave (s.accGa k t off) none
  | .ok (.host pa) => leave (BitVec.ofNat 64 (s.module.node.toNat * 2 ^ 50 + pa)) (some pa)
where
  /-- The atomic is held until FRONT reaches its stamp. -/
  leave (ga : Word) (host : Option Nat) : M Unit := do
    holdFor o.org o.id (.atomic op ga v c host) (if inWindow a.toNat then none else some a.toNat)
    modifyJob (fun j => (j.dropOp o.id).markHeld o.org.st o.id)
/-- ATOMIC_APPLY (R245, R246, R248). -/
def State.applyAtomic (s : State) (c : CoreId) (id : Nat) : State := match s.job c with
  | none => s
  | some j => match j.op id with
    | none => s
    | some o =>
      let w := s.who c j
      if !j.lives o.org.stamp.coord || s.opWaits w j o || s.atomicWaits w j o then s
      else match o.kind with
        | .atomic (.await _) _ _ _ => s
        | .atomic op a v x => s.perform c o.org 0 (atomicApply o op a v x)
        | _ => s
/-- ATOMIC_APPLY (R245, R248). -/
def execAtomicApply (core : CoreId) (id : Nat) (s : State) : Host.Outcome State Fault Refusal := .next (s.applyAtomic core id)

/-- The core whose pool a key lies in. -/
def keyCore (k : Nat) : CoreId := coreOf ((k - poolKey 0 0) / 2 ^ 22 % 256)
/-- The word at a key as the job sees it, its own stores over it (R119). -/
def State.seenWord (s : State) (c : CoreId) (j : Job) (key : Nat) : BitVec 32 :=
  BitVec.ofNat 32 (leNat ((s.seenBytes c j key ((memBytes s.mem key 4).map (fun b => (b, none)))).map Prod.fst))
/-- What an AWAIT finds: it fills D with the word that satisfies its condition, as its last read found it or as it finds it now; a foreign
target's error marks D (R117, R240, R292). -/
def awaitTry (o : PendOp) (cc : BitVec 2) (a : Word) (v : BitVec 32) : M Unit := do
  let w ← whoNow
  let s ← get
  let j ← getJob
  let seen (x : BitVec 32) : M Unit :=
    if awaitHolds cc x v then arrive o.org o.id 3 (x.setWidth 64) .none else stall 1
  let foreign (ga : Word) (k : Option Nat) (r : BitVec 16) : M Unit := match k with
    | none => arrive o.org o.id 3 (Config.freeWord s.tick 0) (.fabric ga r)
    | some k => do
      unveiled (keyCore k) (k - poolKey (keyCore k) 0) 4
      if (s.poisonAt k 4).isSome then arrive o.org o.id 3 (Config.freeWord s.tick 0) (.fabric ga 0x000A)
      else seen (s.seenWord w.core j k)
  match o.hit with
  | some x => arrive o.org o.id 3 (x.setWidth 64) .none
  | none => match s.atomicPlace w (.await cc) a with
    | .error e => faultTrap e
    | .ok (.word k p) =>
      if k = w.core then do
        let x ← ownWord p a
        seen x
      else foreign (s.accGa k ((p - w.acBase) / 65536) ((p - w.acBase) % 65536)) (some (poolKey k p)) 0
    | .ok (.home k t off) =>
      let x := s.tileKey j.part k t off
      foreign (s.accGa k t off) x.1 x.2
    | .ok (.host _) => trap 0x08 a
/-- The word that an AWAIT reads, where its read neither traps nor fails. -/
def State.awaitWord (s : State) (w : Who) (j : Job) (cc : BitVec 2) (a : Word) : Option (BitVec 32) :=
  let key : Option Nat := match s.atomicPlace w (.await cc) a with
    | .ok (.word k p) => if k = w.core && (s.busyFault w j k p).isSome then none else some (poolKey k p)
    | .ok (.home k t off) => (s.tileKey j.part k t off).1
    | _ => none
  key.bind (fun k => if (s.poisonAt k 4).isSome || s.veiled w.core j.handle (keyCore k) (k - poolKey (keyCore k) 0) 4 then none
    else some (s.seenWord w.core j k))
/-- AWAIT reads its word after every write (R244): a job's AWAITs that may read and find their condition to hold keep the value. One that
waits in its core has not left it (R248). -/
def State.watchJob (s : State) (c : CoreId) (j : Job) : Job :=
  { j with ops := j.ops.map (fun o => match o.kind, o.hit with
    | .atomic (.await cc) a v _, none =>
      let w := s.who c j
      let here := (s.atomicCore w o).any (s.waitsAtHome w j o)
      if !j.lives o.org.stamp.coord then o
      else if s.opWaits w j o || here then { o with tick := s.tick }
      else if s.atomicWaits w j o then o
      else match s.awaitWord w j cc a with
        | some x => if awaitHolds cc x v then { o with hit := some x } else o
        | none => o
    | _, _ => o) }
/-- The job has an AWAIT that waits. -/
def Job.awaits (j : Job) : Bool := j.ops.any (fun o => match o.kind with
  | .atomic (.await _) _ _ _ => o.hit.isNone
  | _ => false)
/-- Every AWAIT that waits reads its word again at the end of a step (R244). -/
def State.watch (s : State) : State := { s with cores := Vector.ofFn (fun c =>
  let k := s.cores.get c
  match k.job with
  | some j => if j.awaits then { k with job := some (s.watchJob c j) } else k
  | none => k) }
/-- AWAIT_SATISFIED (R244): the AWAIT takes a word that satisfies its condition; while there is none it goes on waiting. -/
def State.satisfyAwait (s : State) (c : CoreId) (id : Nat) : State := match s.job c with
  | none => s
  | some j => match j.op id with
    | none => s
    | some o =>
      let w := s.who c j
      if !j.lives o.org.stamp.coord || s.opWaits w j o || s.atomicWaits w j o then s
      else match o.kind with
        | .atomic (.await cc) a v _ => s.perform c o.org 0 (awaitTry o cc a v)
        | _ => s
/-- AWAIT_SATISFIED (R244). -/
def execAwaitSatisfied (core : CoreId) (id : Nat) (s : State) : Host.Outcome State Fault Refusal := .next (s.satisfyAwait core id)

/-! ### Token pushes (R28, R29) -/

/-- The instruction with a number is an MCOMMIT that has committed a command (R228). -/
def Job.commits (j : Job) (seq id : Nat) : Bool := j.committed.any (fun x => decide (x.2.1 = id ∧ x.2.2.2 = seq))
/-- An instruction of a stream and every earlier one have completed (R28, R29, R112, R311): no operation, no command, no SEND and no PUB of
it is left, and no write to a shadow image on its way (R288). An MCOMMIT does not wait for the batch that it commits (R384). -/
def State.doneThrough (s : State) (c : CoreId) (j : Job) (st : StreamId) (seq : Nat) : Bool :=
  !s.fleet.any (fun m => (m.shadowOf c j.handle).any (fun o => decide (o.st = st ∧ o.seq ≤ seq))) && !j.ops.any (fun o => decide (o.org.st = st ∧ o.org.seq ≤ seq)) && !j.cmds.any (fun q => decide (q.org.st = st ∧ q.org.seq ≤ seq) && !j.commits seq q.id) &&
  !j.holdsLate st seq && !s.services.any (fun x => decide (x.core = c ∧ x.handle = j.handle ∧ x.org.st = st ∧ x.org.seq ≤ seq) && x.kind.afterRelease) &&
  !s.sendings.any (fun x => decide (x.core = c ∧ x.handle = j.handle ∧ x.org.st = st ∧ x.org.seq ≤ seq)) &&
  !s.chunks.any (fun x => decide (x.core = c ∧ x.handle = j.handle ∧ x.org.st = st ∧ x.org.seq ≤ seq))
/-- TOKEN_PUSH: the oldest waiting push of a stream in a direction is made once its instruction has completed; a full FIFO blocks the
stream until the push is made (R28). A popped token keeps its slot until FRONT reaches the pop (R26, R127); a push whose slots are all
held by pops that FRONT cannot reach before it traps (R26). The information word of that trap is not stated: it is free (log 11). -/
def State.pushToken (s : State) (c : CoreId) (st : StreamId) (toNext : Bool) : State := match s.job c with
  | none => s
  | some j =>
    let t := j.stream st
    match t.pushes.find? (fun p => p.toNext = toNext) with
    | none => s
    | some p =>
      if !j.lives p.coord || !s.doneThrough c j st p.seq then s
      else
        let q := j.toks.get (fifoIdx st toNext)
        if 8 ≤ q.slots ∧ q.items.isEmpty ∧ q.popped.all (fun x => decide (p.coord ≤ x.2.1)) then
          s.raise c (trapRec 0x04 (Config.freeWord s.tick 51) 0 0 ⟨st, ⟨p.coord, p.stage⟩, p.seq, p.pc⟩)
        else if 8 ≤ q.slots then
          s.setJob c (j.setStream st { t with pushes := t.pushes.map (fun x => if x = p then { x with blocked := true } else x) })
        else
          let j := j.setStream st { t with pushes := t.pushes.erase p }
          let e : QEntry Unit := ⟨some (), ⟨p.coord, p.stage⟩, .none, false, p.seq, none⟩
          (s.setJob c (Job.stir { j with toks := j.toks.set (fifoIdx st toNext) { q with items := q.items ++ [e] } })).settleFront c
/-- TOKEN_PUSH (R28, R29). -/
def execTokenPush (core : CoreId) (st : StreamId) (toNext : Bool) (s : State) : Host.Outcome State Fault Refusal :=
  .next (s.pushToken core st toNext)

end Sys2Proof.Machine
end

