-- ==== Sys2Proof/Machine/Landing.lean ====
section
/-!
DEFINITION. Landings (R122 to R142, R256, R257, R260, R391): the cut's retraction, the records that a landing leaves, the trap of stuck
waits, hard pre-emption and the application of a clamp (R75).
-/
namespace Sys2Proof.Machine

/-! ### When a landing completes (R125) -/

/-- The stream has reached the cut: it stands beyond it, waits at the advance out of it, is parked or at RDV. -/
def Stream.atCut (bound : Nat) (t : Stream) : Bool :=
  decide (t.phase ≠ .issuing) || decide (bound ≤ t.coord.toNat) || t.adv.any (fun a => decide (bound ≤ a.target.toNat))
/-- The request fills no entry: stores have completed once they are held (R116). -/
def RemoteKind.silent : RemoteKind → Bool
  | .store _ _ _ _ => true
  | .plain _ _ => true
  | _ => false
/-- A released PUB or signal answers nothing. -/
def HeldKind.silent : HeldKind → Bool
  | .pub _ | .sems _ _ => true
  | _ => false
/-- An effect of the job on a core that has left it inside a cut and has not completed: one whose answer fills an entry, a SEND, or a
write on its way to a shadow image. -/
def State.abroad (s : State) (c : CoreId) (hd : Handle) (bound : Nat) : Bool :=
  let mine (k : CoreId) (h : Handle) (o : Origin) : Bool := decide (k = c ∧ h = hd ∧ o.stamp.coord.toNat < bound)
  s.remotes.any (fun r => !r.kind.silent && mine r.core r.handle r.org) || s.launches.any (fun r => mine r.core r.handle r.org) ||
  s.sendings.any (fun r => mine r.core r.handle r.org) || s.chunks.any (fun r => mine r.core r.handle r.org) ||
  s.services.any (fun r => !r.kind.silent && mine r.core r.handle r.org) ||
  s.fleet.any (fun m => (m.shadowOf c hd).any (fun o => decide (o.stamp.coord.toNat < bound)))
/-- Nothing inside the cut is outstanding, and no ME command that runs to its end has begun (R125, R239). -/
def State.settled (s : State) (c : CoreId) (j : Job) (l : Landing) : Bool :=
  !j.ops.any (fun o => l.inside o.org.stamp.coord) && !j.cmds.any (fun q => l.inside q.org.stamp.coord) && !j.meQ.any (fun q => q.begun && q.runsOn) &&
  !StreamId.all.any (fun st => (j.stream st).pushes.any (fun p => l.inside p.coord)) && !s.abroad c j.handle l.bound
/-- The landing of the job on a core may complete. -/
def State.mayLand (s : State) (c : CoreId) (j : Job) (l : Landing) : Bool :=
  StreamId.all.all (fun st => (j.stream st).atCut l.bound) && s.settled c j l &&
    s.fleetRoom (dieOf c) (s.fleetWrites (dieOf c) (j.held.filter (fun h => l.inside h.org.stamp.coord)))

/-! ### Queues (R132) -/

/-- A queue after a cut: pops beyond it return their entries ahead of the rest, and entries pushed beyond it are withdrawn. The entries
that a stream starts with have number 0. -/
def Queue.retract {α : Type} (bound : Nat) (q : Queue α) : Queue α :=
  ⟨((q.popped.filter (fun p => decide (bound ≤ p.2.1.toNat))).map (fun p => p.1) ++ q.items).filter
    (fun e => decide (e.id = 0) || decide (e.stamp.coord.toNat < bound)), []⟩
/-- Entries that a cut withdraws from a queue. -/
def Queue.withdrawn {α : Type} (bound : Nat) (q : Queue α) : Nat :=
  ((q.popped.filter (fun p => decide (bound ≤ p.2.1.toNat))).map (fun p => p.1) ++ q.items).length - (q.retract bound).items.length
/-- Pops beyond a cut. -/
def Queue.returned {α : Type} (bound : Nat) (q : Queue α) : Nat := (q.popped.filter (fun p => decide (bound ≤ p.2.1.toNat))).length
/-- Provisional pops of registers and tiles that a landing returns (R136); a returned token is not counted (R143). -/
def Job.popsBack (j : Job) (bound : Nat) : Nat :=
  (StreamId.all.map (fun st => ((j.stream st).regs.toList.map (Queue.returned bound)).sum)).sum +
    (j.tiles.toList.map (Queue.returned bound)).sum

/-! ### Streams (R126, R128, R202) -/

/-- A loop after the clamps that were applied while it ran (R75). -/
def Job.clamped (j : Job) (l : Fin 5) (lp : Loop) : Loop :=
  j.clamps.foldl (fun (lp : Loop) x => if x.1 = l ∧ lp.num < x.2.2 then
    let t := Nat.min lp.t x.2.1
    { lp with t := t, k := t + lp.s - 1 } else lp) lp
/-- What a stream goes back to: its newest ring entry inside the cut, or its start. -/
def Stream.target (bound : Nat) (t : Stream) : Option Snap := match (t.ring.filter (fun x => decide (x.coord.toNat < bound))).getLast? with
  | some x => some x
  | none => t.first
/-- A stream beyond the cut goes back to a ring entry. -/
def Job.restore (j : Job) (t : Stream) (x : Snap) : Stream :=
  { t with
    pc := x.pc
    coord := x.coord
    adv := x.adv
    loops := Vector.ofFn (fun l => (x.loops.get l).map (j.clamped l))
    preds := x.preds
    gens := x.gens
    reopen := x.reopen
    softLevel := x.reopen.or t.softLevel
    phase := .parked }
/-- The stream lies beyond the cut. -/
def Stream.rolled (bound : Nat) (t : Stream) : Bool := decide (bound ≤ t.coord.toNat) && t.first.isSome
/-- Coordinates a stream has held inside the cut: the newest, the others being at or before FRONT. -/
def Stream.heldIn (bound : Nat) (t : Stream) : List Coord := match t.heldCoords.filter (fun c => decide (c.toNat < bound)) with
  | [] => [t.coord]
  | l => l
/-- A stream after the landing. -/
def Job.landStream (j : Job) (bound : Nat) (t : Stream) : Stream :=
  let b := t.rolled bound
  let t := if b then match t.target bound with
    | some x => { j.restore t x with fences := t.fences.filter (fun f => decide (f.1 < x.seq)), awaited := t.awaited.filter (fun f => decide (f < x.seq)) }
    | none => t
    else if t.phase = .rdv then t else { t with phase := .parked }
  let back (l : List (Fin 8 × BitVec 1024 × Coord)) := l.filter (fun x => decide (bound ≤ x.2.2.toNat))
  let held := t.heldIn bound
  { t with
    regs := t.regs.map (Queue.retract bound)
    masks := (back t.maskHist).foldr (fun x m => m.set x.1.val x.2.1 x.1.isLt) t.masks
    maskHist := []
    nets := (t.netHist.filter (fun x => decide (bound ≤ x.2.2.toNat))).foldr (fun x m => m.set x.1.val x.2.1 x.1.isLt) t.nets
    netHist := []
    ring := []
    heldCoords := held
    advances := held.length - 1
    cause := 0
    wait := .none
    prog := none
    pushes := []
    tried := false }

/-! ### Memory (R129, R130, R292) -/

/-- One thing to be put back: a log entry or a retention copy. -/
inductive Undo where
  | log (e : LogEntry)
  | tile (r : Retain)
/-- Its coordinate. -/
def Undo.coord : Undo → Coord
  | .log e => e.coord
  | .tile r => r.coord
/-- Insert in descending order of coordinates; what comes first in the list stays first at one coordinate. -/
def undoInsert (u : Undo) : List Undo → List Undo
  | [] => [u]
  | x :: l => if x.coord < u.coord then u :: x :: l else x :: undoInsert u l
/-- Put a pool sector or a tile back, with its poison. -/
def State.undo (s : State) (c : CoreId) (acBase : Nat) : Undo → State
  | .log e =>
    let s := s.pokeClear (poolKey e.core e.p) e.old
    if e.bad then s.poisonRun (poolKey e.core e.p) 32 else s
  | .tile r =>
    let k := poolKey c (acBase + r.tile.toNat * 65536)
    let s := s.pokeClear k r.old
    r.bad.foldl (fun s i => s.poisonRun (k + 32 * i) 32) s
/-- Replay of the log and of the retention buffers beyond a cut, newest first. -/
def State.replayLog (s : State) (c : CoreId) (j : Job) (bound : Nat) : State :=
  let l := (j.rlogMem.filter (fun e => decide (bound ≤ e.coord.toNat))).map Undo.log ++
    (j.retained.filter (fun r => decide (bound ≤ r.coord.toNat))).map Undo.tile
  (l.foldl (fun r u => undoInsert u r) []).foldl (fun s u => s.undo c (j.hdr.tdep * 65536) u) s

/-! ### Semaphores (R135, R252) -/

/-- The first units of some, up to a number: what lies above the greatest count is lost, as in a signal (R250). -/
def capUnits : Nat → List SemUnits → List SemUnits
  | _, [] => []
  | m, u :: l => if u.n ≤ m then u :: capUnits (m - u.n) l else if m = 0 then [] else [{ u with n := m }]
/-- A semaphore after a landing of the job on a core: its waiters of the core are gone, the units that waits beyond the cut took come back
ahead of the rest, signals beyond the cut are withdrawn, and the job's other signals can no longer be. -/
def Sem.land (hd : Handle) (c : CoreId) (bound : Nat) (back : List (List (Nat × Option (Handle × CoreId × Stamp)))) (m : Sem) : Sem :=
  let units := capUnits (2 ^ 32 - 1) (back.foldr (fun us l => us.map (fun u => SemUnits.mk u.1 u.2) ++ l) m.units)
  let beyond (u : SemUnits) : Bool := u.owner.any (fun o => decide (o.1 = hd ∧ o.2.1 = c ∧ bound ≤ o.2.2.coord.toNat))
  let mine (u : SemUnits) : Bool := u.owner.any (fun o => decide (o.1 = hd ∧ o.2.1 = c))
  { units := (units.filter (fun u => !beyond u)).map (fun u => if mine u then { u with owner := none } else u)
    waiters := m.waiters.filter (fun w => w.core ≠ c) }
/-- The semaphores of a core's cluster after a landing of its job. -/
def State.landSems (s : State) (c : CoreId) (j : Job) (bound : Nat) : State :=
  let cl := s.clusters.get (clusterOf c)
  let taken := j.semTaken.filter (fun x => decide (bound ≤ x.coord.toNat))
  let sems := Vector.ofFn (fun (n : Fin 256) =>
    let m := cl.sems.get n
    if m.units.isEmpty && m.waiters.isEmpty && taken.isEmpty then m
    else Sem.land j.handle c bound ((taken.filter (fun x => decide (x.sem.toNat = n.val))).map SemTaken.units) m)
  { s with clusters := s.clusters.set (clusterOf c) { cl with sems := sems } }

/-! ### The supervisor's events and messages (R85, R94, R257) -/

/-- One taken event becomes pending again. -/
def Partition.untake (p : Partition) (e : EvTaken) : Partition :=
  let p := { p with shownRec := e.prev }
  match e.entry with
  | some (ev, n) =>
    let l := p.events.insertIdx n ev
    { p with events := l.take 64, eventsWait := l.drop 64 ++ p.eventsWait }
  | none =>
    let bit : BitVec 16 := 1 <<< pteBits e.word 35 32
    match pteBits e.word 63 60 with
    | 3 => { p with mbxFlags := p.mbxFlags ||| bit }
    | 4 => { p with timerFlag := true }
    | 5 => { p with fabFlags := p.fabFlags ||| bit }
    | _ => p
/-- A message goes back to the head of its mailbox. -/
def Partition.unmail (p : Partition) (n : Nat) (m : List Byte) : Partition :=
  let i : Fin 16 := ⟨n % 16, Nat.mod_lt _ (by decide)⟩
  { p with mailboxes := p.mailboxes.set i (m :: p.mailboxes.get i) }
/-- The supervisor's partition after a landing of the supervisor: events and messages taken beyond the cut come back, newest first, and
its delivery state is that of the restored entry. -/
def Partition.landSup (p : Partition) (j : Job) (bound : Nat) (x : Option Snap) : Partition :=
  let p := (j.evTaken.filter (fun e => decide (bound ≤ e.coord.toNat))).foldr (fun e p => p.untake e) p
  let p := (p.mbxTaken.filter (fun e => decide (bound ≤ e.2.2.toNat))).foldr (fun e p => p.unmail e.1 e.2.1) p
  let p := { p with mbxTaken := p.mbxTaken.filter (fun e => decide (e.2.2.toNat < bound)) }
  match x with
  | some x => { p with delivery := x.delivery, savedPc := x.saved, inEntry := x.inEntry }
  | none => p

/-! ### The landed job -/

/-- The job with everything beyond the cut gone (R127), a request of its own BKPT or YIELD there too (R97). DESIGN CHOICE (log 84): the
draws of V after a cut are those of the changes inside it made in their order, also where another stream's write of SRSEED and V's draws took
effect out of the order of their coordinates (R175, R176). -/
def Job.retract (j : Job) (bound : Nat) : Job :=
  let inside (c : Coord) : Bool := decide (c.toNat < bound)
  let back (st : StreamId) : Option Snap := if (j.stream st).rolled bound then (j.stream st).target bound else none
  let idx : Vector Nat 4 := Vector.ofFn (fun n => ((back (streamOf n)).map Snap.replayIdx).getD (j.replay.idx.get n))
  let c := back .c
  let open_ := j.openSet ++ (j.committed.filter (fun x => !inside x.2.2.1)).map (fun x => (x.1, x.2.1))
  let cb := j.cbHist.filter (fun x => !inside x.coord)
  let copies := (back .a).map Snap.seq
  { j with
    streams := j.streams.map (j.landStream bound)
    stop := if j.stop.any (fun r => r.ofMark && decide (bound ≤ r.coord.toNat)) then none else j.stop
    tiles := j.tiles.map (Queue.retract bound)
    tileTail := Vector.ofFn (fun n => (j.tileTail.get n + 8 * Nat.max 1 j.hdr.tdep - (j.tiles.get n).withdrawn bound) % Nat.max 1 j.hdr.tdep)
    toks := j.toks.map (Queue.retract bound)
    fmtQ := j.fmtQ.retract bound
    rbase := (foldRlog j.rbase (fun _ => true) (j.rlog.filter (fun x => inside x.1))).1
    rlog := []
    ops := []
    meQ := []
    ceQ := []
    seQ := []
    openSet := open_.filter (fun x => (c.map Snap.seq).all (fun n => decide (x.2 < n)))
    committed := j.committed.filter (fun x => inside x.2.2.1)
    codebooks := cb.foldr (fun x v => v.set x.slot.val x.words x.slot.isLt) j.codebooks
    cbv := cb.foldr (fun x v => if x.loaded then v ||| ((1 : BitVec 4) <<< x.slot.val) else v &&& ~~~((1 : BitVec 4) <<< x.slot.val)) j.cbv
    cbHist := []
    bindings := (j.bindings.filter (fun b => inside b.stamp.coord)).map (fun b =>
      if b.copy.any (fun x => copies.any (fun n => decide (n ≤ x.1))) then { b with copy := none } else b)
    rlogMem := []
    retained := []
    held := []
    arrivals := j.arrivals.filter (fun a => inside a.org.stamp.coord)
    arrTeam := (c.map Snap.arrTeam).getD j.arrTeam
    arrCrew := (c.map Snap.arrCrew).getD j.arrCrew
    arrStep := (c.map Snap.arrStep).getD j.arrStep
    replay := { j.replay with idx := idx
                              replaying := j.replay.replaying || (decide (j.replay.count ≠ 0) && decide (idx ≠ j.replay.idx)) }
    passages := j.passages.filter (fun x => inside x.1)
    semTaken := []
    evTaken := []
    landing := none }

/-- Every queue register, tile queue and token FIFO is empty (R141). -/
def Job.queuesEmpty (j : Job) : Bool :=
  StreamId.all.all (fun st => (j.stream st).regs.toList.all (fun q => q.items.isEmpty)) && j.tiles.toList.all (fun q => q.items.isEmpty) &&
    j.toks.toList.all (fun q => q.items.isEmpty)
/-- The kind a landing reports (R136, R141): a soft stop with an entry left is EXACT. -/
def LandWhy.kind (j : Job) : LandWhy → BitVec 4
  | .trap _ => 4
  | .request _ k _ _ => if k = 7 ∧ !j.queuesEmpty then 1 else k
  | .late _ => 2
/-- STOPST of a landing (R136); LAT is free. -/
def stopstWord (kind : BitVec 4) (origin : Nat) (j : Job) (bound lat : Nat) : Word :=
  let rolled := (StreamId.all.map (fun st => if (j.stream st).rolled bound then 2 ^ st.num else 0)).sum
  let beyond (c : Coord) : Bool := decide (bound ≤ c.toNat)
  BitVec.ofNat 64 (kind.toNat * 2 ^ 60 + origin * 2 ^ 58 + rolled * 2 ^ 54 + (j.retained.filter (fun r => beyond r.coord)).length * 2 ^ 51 +
    (j.rlogMem.filter (fun e => beyond e.coord)).length * 2 ^ 40 +
    ((j.held.filter (fun h => beyond h.org.stamp.coord)).map Held.sectors).sum * 2 ^ 28 + Nat.min 4095 (j.popsBack bound) * 2 ^ 16 + lat % 2 ^ 16)
/-- TRAPREC of a landing (R256). -/
def LandWhy.record (front : Option Coord) : LandWhy → Vector Word 4
  | .trap t | .late t => #v[BitVec.ofNat 64 (2 ^ 63 + t.cause.toNat * 2 ^ 48 + t.org.st.num * 2 ^ 46 + t.unit.toNat * 2 ^ 43 +
      t.org.stamp.stage.toNat * 2 ^ 41 + t.reason.toNat), coordWord t.org.stamp.coord, t.org.pc, t.info]
  | .request r _ cause info => #v[BitVec.ofNat 64 (2 ^ 63 + cause.toNat * 2 ^ 48 + r.st.num * 2 ^ 46 + r.unit.toNat * 2 ^ 43 +
      r.stage.toNat * 2 ^ 41 + r.tag.toNat * 2 ^ 36), optCoordWord front, r.pc, info]
/-- The cause a landing reports in its event (R257). -/
def LandWhy.cause : LandWhy → BitVec 8
  | .trap t => t.cause
  | .request _ _ c _ => c
  | .late t => t.cause
/-- A soft landing leaves the level and T' for LSTATE and closes the loops of that level (R141). -/
def Job.softLanded (j : Job) (l : Fin 5) (first : Nat) : Job :=
  j.onStreams (fun t => { t with softLevel := some (l, first), loops := t.loops.set l.val none l.isLt })

/-- A record's words with RETR = 1 (R388). -/
def retract (ws : List Word) : List Word := match ws with
  | w :: l => (w ||| (1 <<< 59)) :: l
  | [] => []
/-- The records of a landing (R391): those inside leave, those beyond follow with RETR, and the kind-6 record comes last. -/
def State.landTrace (s : State) (c : CoreId) (j : Job) (bound : Nat) (kind : BitVec 4) : State :=
  let inside (r : TraceRec) : Bool := r.coord.all (fun x => decide (x.toNat < bound))
  let retr (r : TraceRec) : TraceRec := { r with coord := none, words := if r.body then r.words else retract r.words }
  let l := ((traceSort j.trace).filter inside).map (fun r => { r with coord := none }) ++
    ((traceSort j.trace).filter (fun r => !inside r && r.awaits.isNone)).map retr
  let s := s.onJob c (fun j => { j with trace := l })
  let s := (s.traceRelease c)
  match s.job c with
  | none => s
  | some j =>
    let n := j.trace.length
    let s := s.trace c 6 .c kind.toNat j.front 0 0 j.stopst
    let s := s.onJob c (fun j => { j with trace := j.trace.take n ++ (j.trace.drop n).map (fun r => { r with coord := none }) })
    s.traceRelease c

/-- The job waits, held or not. -/
def JobSlot.waits (q : JobSlot) : Bool := decide (q.state = .waiting ∨ q.state = .holding)
/-- The current level at a time: a waiting job's rises with each 64 µs of waiting, up to 3 (R297). -/
def JobSlot.levelAt (q : JobSlot) (now : Word) : BitVec 2 :=
  if q.waits then BitVec.ofNat 2 (Nat.min 3 (q.base.toNat + (now - q.entryTime).toNat / 80000)) else q.cur
/-- A waiting job of the core is of a level or higher (R86). -/
def Core.waitingAt (k : Core) (level : BitVec 2) (now : Word) : Bool := k.slots.toList.any (fun x => x.any (fun q =>
  q.waits && decide (level.toNat ≤ (q.levelAt now).toNat)))
/-- The slot of the core's job. -/
def Core.slot (k : Core) : Option JobSlot := k.on.bind (fun i => k.slots.get i)
/-- Change the slot of the core's job. -/
def State.onSlot (s : State) (c : CoreId) (f : JobSlot → JobSlot) : State := match (s.core c).on with
  | some i => s.setCore c { s.core c with slots := (s.core c).slots.set i.val (((s.core c).slots.get i).map f) i.isLt }
  | none => s
/-- The job of a YIELD landing continues at once, or waits again with its context kept on the core (R86, R297). DESIGN CHOICE (log 71): the
yielding job's base level is the one compared, since it re-enters the queue at that level. -/
def State.yielded (s : State) (c : CoreId) (j : Job) : State := match (s.core c).slot with
  | none => s
  | some q =>
    if (s.core c).waitingAt q.base s.ftime then
      let s := s.onSlot c (fun q => { q with state := .waiting, cur := q.base, entryTime := s.ftime, ctx := some j })
      s.setCore c { s.core c with on := none, job := none }
    else (s.setJob c j.resume).setJState c .running

/-- A job that has landed HARD on its core is to be saved without a command (R299, R300). -/
def State.addSave (s : State) (pn : PartId) (hd : Handle) (c : CoreId) : State :=
  let x : Saving := ⟨pn, hd, none, false, [c]⟩
  if s.saves.contains x then s else { s with saves := s.saves ++ [x] }
/-- The landing coordinate L: the greatest coordinate inside the cut that a stream has held (R124). -/
def Job.landCoord (j : Job) (l : Landing) : Option Coord := maxCoord (j.heldCoords.filter (fun x => l.inside x))
/-- FRONT becomes L when everything inside the cut is done, which releases the held effects inside it (R124, R131). -/
def State.frontLand (s : State) (c : CoreId) (j : Job) (l : Landing) : State := match j.landCoord l with
  | some f => if j.front.all (fun old => decide (old < f)) then s.frontTo c f else s
  | none => s

/-- A cut of a job on a core retracts the SNAP that has fired the partition's trigger and that this core has still to capture (R395). -/
def Partition.cutTrigger (p : Partition) (c : CoreId) (hd : Handle) (bound : Nat) : Partition :=
  { p with trigger := p.trigger.map (fun t =>
      if t.left.contains c && t.by_.any (fun x => x.1 = c && x.2.1 = hd && decide (bound ≤ x.2.2.stamp.coord.toNat)) then { t with retr := true } else t) }
/-- The landing comes to rest: everything beyond the cut is undone, the job's records are written, and the job continues, waits or stops
(R126, R127, R136, R256, R257, R260, R300). -/
def State.landed (s : State) (c : CoreId) (j : Job) (l : Landing) : State :=
  let bound := l.bound
  let sup := (s.part j.part).any (fun p => decide (p.supcore = c) && decide (p.supHandle = j.handle))
  let snapC := if (j.stream .c).rolled bound then (j.stream .c).target bound else none
  let s := (s.replayLog c j bound).landSems c j bound
  let s := if sup then s.onPart j.part (fun p => p.landSup j bound snapC) else s
  let s := s.onPart j.part (fun p => p.cutTrigger c j.handle bound)
  let k := j.retract bound
  let kind := l.why.kind k
  let origin : Nat := match l.why with
    | .trap _ => 3
    | .request r _ _ _ => r.origin.toNat
    | .late _ => 3
  let k := { k with stopst := stopstWord kind origin j bound (Config.freeWord s.tick 0).toNat }
  let k := if kind = 8 then k else { k with traprec := l.why.record k.front }
  let k := if l.why.cause = 0x11 then { k with ibCount := 0 } else k
  let k := if kind = 7 then match l.why with
      | .request r _ _ _ => match r.soft with
        | some (lv, first) => k.softLanded lv first
        | none => k
      | .trap _ => k
      | .late _ => k
    else k.onStreams (fun t => { t with softLevel := none })
  let s := (s.setJob c (k.count 14 1)).landTrace c (k.count 14 1) bound kind
  match s.job c with
  | none => s
  | some k =>
    if kind = 8 then s.yielded c k
    else
      let s := s.setJState c .stopped
      let quiet := (s.part j.part).any (fun p => decide (p.tearing ≠ 0))
      if quiet then s
      else if sup then (s.onPart j.part (fun p => { p with pstate := 2, pcause := l.why.cause, pkind := kind, supRec := k.traprec })).msix (some j.part) 0
      else
        let s := s.onPart j.part (fun p =>
          p.addEvent ⟨eventWord 1 l.why.cause.toNat kind.toNat 0 j.handle, c, k.traprec⟩)
        -- a job of a fleet that has lost its link ends and is not saved (R367)
        if decide (kind = 6) && !s.jobs.any (fun (g : Group) => decide (g.handle = j.handle) && g.linkLost) then s.addSave j.part j.handle c else s
/-- LANDING_COMPLETE (R125, R126, R136, R256, R257, R260, R300). -/
def State.land (s0 : State) (c : CoreId) : State := match s0.job c with
  | none => s0
  | some j0 => match j0.landing with
    | none => s0
    | some l0 =>
      if !(s0.core c).slot.any (fun q => q.state = .landing) || !s0.mayLand c j0 l0 then s0
      else
        let s := s0.frontLand c j0 l0
        match s.job c with
        | none => s
        | some j => match j.landing with
          | none => s
          | some l => if s.mayLand c j l then s.landed c j l else s
/-- LANDING_COMPLETE (R125). -/
def execLandingComplete (core : CoreId) (s : State) : Host.Outcome State Fault Refusal := .next (s.land core)

/-! ### Stuck waits (R125) -/

/-- The stream waits for something that only the job itself can supply. -/
def State.selfWait (s : State) (c : CoreId) (j : Job) (t : Stream) : Bool := match t.wait with
  | .sem id => j.semMap.toList.any (fun e => !e.shared && (s.sem (clusterOf c) e.phys).waiters.any (fun w =>
      decide (w.id = id ∧ w.core = c)) && ((s.sem (clusterOf c) e.phys).waiters.head?.any (fun w =>
      decide (w.core ≠ c ∨ w.id ≠ id ∨ (s.sem (clusterOf c) e.phys).count < w.n))))
  | .none => t.tried && decide (t.cause = 1 ∨ t.cause = 2 ∨ t.cause = 4)
  | _ => false
/-- STUCK_WAIT_TRAP (R125): with every stream at the cut or in a wait that nothing can end, each stuck wait traps. -/
def State.trapStuck (s : State) (c : CoreId) : State := match s.job c with
  | none => s
  | some j => match j.landing with
    | none => s
    | some l =>
      let stuck (st : StreamId) : Bool := !(j.stream st).atCut l.bound && (j.stream st).adv.isNone && s.selfWait c j (j.stream st)
      let idle := StreamId.all.all (fun st => (j.stream st).atCut l.bound || stuck st)
      let pushes := StreamId.all.any (fun st => (j.stream st).pushes.any (fun p => l.inside p.coord && s.doneThrough c j st p.seq &&
        decide ((j.toks.get (fifoIdx st p.toNext)).slots < 8)))
      if !idle || pushes || j.ops.any (fun o => l.inside o.org.stamp.coord) || j.cmds.any (fun q => l.inside q.org.stamp.coord) ||
          s.abroad c j.handle l.bound then s
      else
        let lc := optCoordWord (maxCoord (j.heldCoords.filter (fun x => l.inside x)))
        (StreamId.all.filter stuck).foldl (fun s st =>
          let t := j.stream st
          s.raise c (trapRec 0x06 lc 0 0 ⟨st, ⟨t.coord, t.waitStage⟩, j.seq, t.pc⟩)) s
/-- STUCK_WAIT_TRAP (R125). -/
def execStuckWaitTrap (core : CoreId) (s : State) : Host.Outcome State Fault Refusal := .next (s.trapStuck core)

/-! ### Hard pre-emption (R140, R299) -/

/-- HARD_PREEMPTION (R140, R299): a running job lands HARD at the cut after FRONT as it stands; a stopped job is to be saved with no new
landing. -/
def State.hardPreempt (s : State) (c : CoreId) : State := match s.preempts.find? (fun x => x.1 = c) with
  | none => s
  | some x =>
    let s := { s with preempts := s.preempts.erase x }
    match (s.core c).slot, s.job c with
    | some q, some j =>
      if q.handle ≠ x.2 then s
      else match q.state with
        | .running | .landing => (s.setJob c (j.hardStop 0x10 (optCoordWord j.front))).markLanding c
        | .stopped => s.addSave q.part q.handle c
        | _ => s
    | _, _ => s
/-- HARD_PREEMPTION (R140). -/
def execHardPreemption (core : CoreId) (s : State) : Host.Outcome State Fault Refusal := .next (s.hardPreempt core)

/-! ### Clamps (R75, R141) -/

/-- A clamp applied to a job (R75): every stream with a loop running at the level takes T := min T v, and v = max(L, m) is kept. DESIGN
CHOICE (log 84): with no loop running at the level m is 0, and v = L is kept for the loops that a later cut restores. -/
def Job.clamp (j : Job) (l : Fin 5) (limit : Nat) : Job :=
  let ks := StreamId.all.filterMap (fun st => ((j.stream st).loops.get l).map (fun _ => Coord.ix (j.stream st).coord l.val + 1))
  let v := Nat.max limit (ks.foldl Nat.max 0)
  { j.onStreams (fun t => { t with loops := t.loops.set l.val ((t.loops.get l).map (fun (lp : Loop) =>
      { lp with t := Nat.min lp.t v, k := Nat.min lp.t v + lp.s - 1 })) l.isLt }) with
    clamps := j.clamps ++ [(l, v, j.seq)] }
/-- The soft stop's request (R141): of the streams that run a loop at the level, the one with the least coordinate gives the levels above;
the loop's level holds T' + S − 2 and every lower level its largest value. -/
def Job.softRequest (j : Job) (l : Fin 5) : Option StopReq :=
  let ts := (StreamId.all.map (fun st => j.stream st)).filter (fun t => (t.loops.get l).isSome)
  match ts.foldl (fun (r : Option Stream) t => match r with
      | some x => if t.coord < x.coord then some t else some x
      | none => some t) none with
  | none => none
  | some t => (t.loops.get l).map (fun (lp : Loop) =>
    let c : Coord := BitVec.ofNat 62 (clearBelow t.coord l.val / 2 ^ (levelLo l.val + levelWidth l.val) * 2 ^ (levelLo l.val + levelWidth l.val) +
      (lp.t + lp.s - 2) % 2 ^ levelWidth l.val * 2 ^ levelLo l.val + (2 ^ levelLo l.val - 1))
    ⟨c, false, 7, 2, .c, 5, 0, 0, 0, some (l, lp.t)⟩)
/-- An armed clamp at a cut-safe level places its soft stop (R141). -/
def Job.arms (j : Job) (x : Clamp) : Option StopReq :=
  if x.arm && j.hdr.cutSafe.any (fun e => e.level = x.level) then j.softRequest x.level else none
/-- The loop words of a job's streams in its saved context (R330). -/
def Job.loopWords (j : Job) : List (Nat × List Byte) := StreamId.all.map (fun st =>
  (0x40A020 + 0x1000 * st.num, wordBytes ((j.stream st).loops.toList.flatMap ctxLoop)))
/-- A clamp reaches a job in a slot, off its core: the kept context changes, and a saved one in its area too. -/
def State.clampSlot (s : State) (c : CoreId) (i : Fin 8) (q : JobSlot) (x : Clamp) : State := match q.ctx with
  | none => s
  | some old =>
    let j := match q.savedAt with
      | some a => s.loadJob q.part a old
      | none => old
    let k := j.clamp x.level x.limit
    let s := match q.savedAt with
      | some a => match s.writePieces q.part a.toNat k.loopWords with
        | .ok t => t
        | .error _ => s
      | none => s
    let q := { q with ctx := some { old with streams := old.streams.zipWith (fun t u => { t with loops := u.loops }) k.streams, clamps := k.clamps } }
    let q := match k.arms x with
      | some r => q.stopAt (coordWord r.coord) r
      | none => q
    s.setCore c { s.core c with slots := (s.core c).slots.set i.val (some q) i.isLt }
/-- LCLAMP_APPLY (R75): a clamp is applied to its target at one instant; it waits while a cut of the target is landing. -/
def State.applyClamp (s : State) (k : Nat) : State := match s.clamps[k]? with
  | none => s
  | some x =>
    let gone := { s with clamps := s.clamps.eraseIdx k }
    match s.job x.core with
    | some j =>
      if j.handle = x.handle then
        if j.landing.isSome then s
        else
          let j := j.clamp x.level x.limit
          let stopped := (s.core x.core).slot.any (fun q => q.state = .stopped)
          match j.arms x with
          | none => gone.setJob x.core j
          | some r =>
            if stopped then
              if j.front.any (fun f => decide (r.coord < f)) then gone.setJob x.core j
              else if j.stop.all (fun p => decide (r.coord < p.coord)) then gone.setJob x.core { j with stop := some r } else gone.setJob x.core j
            else (gone.setJob x.core (j.requestStop r)).markLanding x.core
      else off gone x
    | none => off gone x
where
  /-- The target is not on its core. -/
  off (s : State) (x : Clamp) : State :=
    match [(0 : Fin 8), 1, 2, 3, 4, 5, 6, 7].find? (fun i => ((s.core x.core).slots.get i).any (fun q => q.handle = x.handle)) with
    | some i => match (s.core x.core).slots.get i with
      | some q => s.clampSlot x.core i q x
      | none => s
    | none => s
/-- LCLAMP_APPLY (R75). -/
def execLclampApply (k : Nat) (s : State) : Host.Outcome State Fault Refusal := .next (s.applyClamp k)

end Sys2Proof.Machine
end

