-- ==== Sys2Proof/Machine/Debug.lean ====
section
/-!
DEFINITION. The debug window and snapshots (R392 to R397): the host's writes of the window's registers, the timed trigger and the capture.
-/
namespace Sys2Proof.Machine

/-! ### The registers of the window (R392, R393) -/

/-- TCTL takes the fields of R393; reserved bits read 0. -/
def Partition.writeTctl (p : Partition) (v : Word) : Partition := { p with tctl := v &&& 0xE000000000000F7C }
/-- EN of TCTL. -/
def Partition.traceOn (p : Partition) : Bool := p.tctl.getLsbD 63
/-- TRBASE is written while EN = 0 with a 64-byte aligned value; another write is ignored. -/
def Partition.writeTrbase (p : Partition) (v : Word) : Partition :=
  if p.traceOn || decide (v.toNat % 64 ≠ 0) then p else { p with trbase := v }
/-- A ring size: a power of two from 256 to 2^24. -/
def ringSizeOk (n : Nat) : Bool := (List.range 17).any (fun i => decide (n = 2 ^ (8 + i)))
/-- TRSIZE is written while EN = 0 with a valid size; another write is ignored. -/
def Partition.writeTrsize (p : Partition) (v : Word) : Partition :=
  if p.traceOn || !ringSizeOk v.toNat then p else { p with trsize := v }
/-- TRIGAT: the timed trigger has still to fire unless the value is 0 or its time has passed (R396). -/
def Partition.writeTrigat (p : Partition) (ftime v : Word) : Partition := { p with trigat := v, trigArmed := decide (v ≠ 0 ∧ ftime ≤ v) }
/-- DBGCORE holds a core byte. -/
def Partition.writeDbgcore (p : Partition) (v : Word) : Partition := { p with dbgcore := v &&& 0xFF }
/-- DBGSTOP is a write to STOPAT of the job that runs or is stopped on DBGCORE, when it is of this partition (R89, R123, R392). -/
def State.debugStop (s : State) (pn : PartId) (v : Word) : State := match s.part pn with
  | none => s
  | some p =>
    let c := coreOf p.dbgcore.toNat
    match s.job c with
    | some j =>
      if j.part ≠ pn then s
      else s.stopAt c j.handle v ⟨wordCoord v, v.getLsbD 62, if v.getLsbD 62 then 5 else 1, 1, .c, 5, 0, 0, 0, none⟩
    | none => s
/-- The partition of an enabled virtual function that is not being torn down, changed by its host (R327, R329). -/
def State.onVf (s : State) (pn : PartId) (f : Partition → Partition) : State :=
  if s.module.vfEnable then s.onPart pn (fun p => if p.tearing = 0 ∧ p.pstate.toNat < 3 then f p else p) else s
/-- TCTL (R393). -/
def execTctl (vf : PartId) (v : Word) (s : State) : Host.Outcome State Fault Refusal := .next (s.onVf vf (fun p => p.writeTctl v))
/-- TRBASE (R392). -/
def execTrbase (vf : PartId) (v : Word) (s : State) : Host.Outcome State Fault Refusal := .next (s.onVf vf (fun p => p.writeTrbase v))
/-- TRSIZE (R392). -/
def execTrsize (vf : PartId) (v : Word) (s : State) : Host.Outcome State Fault Refusal := .next (s.onVf vf (fun p => p.writeTrsize v))
/-- DBGSTOP (R392). -/
def execDbgstop (vf : PartId) (v : Word) (s : State) : Host.Outcome State Fault Refusal :=
  .next (if s.module.vfEnable then s.debugStop vf v else s)

/-- The ring may have room again, so the records that it has held back go on: those of jobs that have left their cores, and those in the
buffers of the partition's cores (R394). -/
def State.traceWake (s : State) (pn : PartId) : State := match s.part pn with
  | none => s
  | some p => (p.cores.filter (fun c => (s.job c).any (fun j => j.part = pn))).foldl State.traceRelease (s.traceHeld pn)

/-! ### The timed trigger and the capture (R396, R397) -/

/-- TRIGAT (R396): FTIME has come to TRIGAT, so the trigger fires at that time. Its tag
is free (assumption 53). -/
def State.fireTimed (s : State) (pn : PartId) : State := match s.part pn with
  | none => s
  | some p =>
    if p.trigArmed && decide (p.trigat ≤ s.ftime) then
      { (State.fireTrigger { s with ftime := p.trigat } pn (BitVec.ofNat 5 (Config.freeWord s.tick 52).toNat) none).1.onPart pn (fun p => { p with trigArmed := false }) with ftime := s.ftime }
    else s
/-- TRIGAT (R396). -/
def execTrigat (vf : PartId) (s : State) : Host.Outcome State Fault Refusal := .next (s.fireTimed vf)

/-- Body st + 1 of a snapshot: a stream (R397). -/
def Job.bodyStream (j : Job) (st : StreamId) : List Word :=
  let t := j.stream st
  let regs := (t.regs.toList.zipIdx.map (fun x => if x.1.items.isEmpty then 0 else 2 ^ x.2)).sum
  let prev := (j.toks.get (fifoIdx st.prev true)).items.length
  let next := (j.toks.get (fifoIdx st.next false)).items.length
  [t.pc, coordWord t.coord, t.stallc false, BitVec.ofNat 64 (regs + prev % 16 * 2 ^ 32 + next % 16 * 2 ^ 36)]
/-- The nine bodies of a snapshot (R397). -/
def Job.bodies (j : Job) (gwh : Bool) : List (List Word) :=
  StreamId.all.map j.bodyStream ++
  [[optCoordWord j.front, j.mstat gwh, j.govstall,
    BitVec.ofNat 64 ((j.tiles.toList.zipIdx.map (fun x => x.1.items.length % 8 * 2 ^ (3 * x.2))).sum)]] ++
  [0, 1, 2, 3].map (fun i => (j.counters.toList.drop (4 * i)).take 4)
/-- The group of a core (R395, R396): that of the SNAP's own core is held at the SNAP's stamp, and leaves at once with RETR in its header
where a cut has retracted the SNAP; another group leaves at once. -/
def State.captureGroup (s : State) (pn : PartId) (c : CoreId) (j : Job) (t : Trigger) : State :=
  let own := t.by_.bind (fun x => if x.1 = c ∧ x.2.1 = j.handle then some x.2.2 else none)
  let bodies := j.bodies (s.core c).withholds
  let add (head : List Word) (x : Option Coord) (st seq : Nat) : State :=
    (bodies.foldl (fun s ws => s.addTrace c ⟨ws, x, st, seq, true, none⟩) (s.addTrace c ⟨head, x, st, seq, false, none⟩)).settleTrace c
  let leave (head : List Word) : State := match s.sendGroup pn (head :: bodies) with
    | some u => u
    | none => add head none 0 j.seq
  match own with
  | some o =>
    let head := traceWords 2 o.st.num t.tag.toNat c o.stamp.stage.toNat false (j.loopId (j.stream o.st)) (some o.stamp.coord) j.handle t.time t.time
    if t.retr then leave (retract head) else add head (some o.stamp.coord) o.st.num o.seq
  | none => leave (traceWords 2 0 t.tag.toNat c 0 false 0 j.front j.handle t.time t.time)
/-- SNAPSHOT_CAPTURE (R396): at the capture time a core of the partition that holds a running, landing or stopped job captures. -/
def State.capture (s : State) (pn : PartId) (c : CoreId) : State := match s.part pn with
  | none => s
  | some p => match p.trigger with
    | none => s
    | some t =>
      if s.ftime < t.time || !t.left.contains c then s
      else
        let u := s.setPart pn { p with trigger := some { t with left := t.left.filter (fun x => x ≠ c) } }
        match (s.core c).slot, s.job c with
        | some q, some j =>
          if p.tctl.getLsbD 3 && j.part = pn && decide (q.state = .running ∨ q.state = .landing ∨ q.state = .stopped) then u.captureGroup pn c j t
          else u
        | _, _ => u
/-- SNAPSHOT_CAPTURE (R396). -/
def execSnapshotCapture (p : PartId) (core : CoreId) (s : State) : Host.Outcome State Fault Refusal := .next (s.capture p core)

end Sys2Proof.Machine
end

