-- ==== Sys2Proof/Machine/Scheduling.lean ====
section
/-!
DEFINITION. Scheduling (R90 to R93, R148 to R151, R250, R262, R263, R296 to R309, R312): a launch is checked and offered, jobs age, are
chosen, start and end; events and the timer reach the supervisor; and waits on semaphores, barriers and supersteps are served.
-/
namespace Sys2Proof.Machine

/-! ### The target word (R91, R92, R150, R303) -/

/-- The clusters that a mask names on a die; 0 names every cluster of the partition there. -/
def namedClusters (p : Partition) (die mask : Nat) : List Nat :=
  ((List.range 16).filter (fun k => if mask = 0 then p.clmask.getLsbD (16 * die + k) else decide (mask / 2 ^ k % 2 = 1))).map (fun k => 16 * die + k)
/-- The four cores of some clusters. -/
def coresIn (cl : List Nat) : List CoreId := cl.flatMap (fun k => [coreOf (4 * k), coreOf (4 * k + 1), coreOf (4 * k + 2), coreOf (4 * k + 3)])
/-- The target cores of a launch in ascending order; none for a target word that breaks R91 or R92. DESIGN CHOICE (log 75): with CMASK 0 a die
on which the partition owns no cluster adds no core, which leaves a crew without any BADTARGET. -/
def targetCores (p : Partition) (level : BitVec 2) (w : Word) : Option (List CoreId) :=
  let cmask := pteBits w 15 0
  let die := pteBits w 17 16
  let dmask := pteBits w 21 18
  if pteBits w 61 22 ≠ 0 then none
  else
    let l := match level.toNat with
      | 0 => if dmask ≠ 0 ∨ 64 ≤ cmask then [] else [coreOf (64 * die + cmask)]
      | 1 => if dmask ≠ 0 ∨ cmask = 0 then [] else coresIn (namedClusters p die cmask)
      | 2 => if dmask ≠ 0 then [] else coresIn (namedClusters p die cmask)
      | _ => if die ≠ 0 then [] else coresIn (((List.range 4).filter (fun d => decide (dmask / 2 ^ d % 2 = 1))).flatMap (fun d => namedClusters p d cmask))
    if l.isEmpty || l.contains p.supcore then none else some l

/-! ### The header (R148 to R151) -/

/-- Bytes of an image read through a partition's tables, or none where one cannot be read (R150). DESIGN CHOICE (log 43): an image in the keep
window is read while a restore is in progress too, which closes that window to the accesses of jobs (R372). -/
def State.imageSector (s : State) (pn : PartId) (a n : Nat) : Option (List Byte) := match s.part pn with
  | none => none
  | some p =>
    if 2 ^ 56 ≤ a ∨ inWindow a then none
    else match s.walk none pn p a 4 p.root 3 with
      | .error _ => none
      | .ok (e, lvl) =>
        if !grants e .r then none
        else
          let key : Option Nat :=
            if ptTile e then (s.tileKey pn (coreOf (ptHcore e)) (ptHtile e) (a % 2 ^ 16)).1
            else
              let pa := ptPa e + a % pageSize lvl
              match regionOf pa with
              | .edge g dev => if p.edgeOk pa g dev then some pa else none
              | .dram _ _ => some (s.readPa (.mem pa (if ptPub e then some (flipOf e) else none) false false))
              | .host _ => some pa
              | _ => none
          match key with
          | some k => if (s.poisonAt k n).isSome then none else some (memBytes s.mem k n)
          | none => none
/-- A run of bytes of an image. -/
def State.imageBytes (s : State) (pn : PartId) (a n : Nat) : Option (List Byte) :=
  (pieces a n).foldlM (fun l x => (s.imageSector pn x.1 x.2).map (fun b => l ++ b)) []
/-- Word i of some bytes. -/
def wordAt (bs : List Byte) (i : Nat) : Word := BitVec.ofNat 64 (leNat ((bs.drop (8 * i)).take 8))
/-- The statuses of a launch (R92). -/
inductive Bad where
  | part | lead | qfull | notOwned | target | image
  deriving DecidableEq, Repr
/-- The code of a status. -/
def Bad.code : Bad → Nat
  | .part => 1
  | .lead => 2
  | .qfull => 3
  | .notOwned => 4
  | .target => 5
  | .image => 6
/-- An entry offset is 0 or a multiple of 8 of at least 64. -/
def entryOk (n : Nat) : Bool := decide (n = 0 ∨ (n % 8 = 0 ∧ 64 ≤ n))
/-- A live range obeys its layout (R149). -/
def liveOk (w : Word) : Bool :=
  decide (pteBits w 62 55 = 0 ∧ pteBits w 54 32 ≠ 0 ∧ pteBits w 54 32 % 32 = 0 ∧ pteBits w 31 0 % 32 = 0)
/-- A cut-safe entry of an image (R149). -/
def State.cutSafeAt (s : State) (pn : PartId) (image at_ : Nat) : Option CutSafe := do
  let bs ← s.imageBytes pn at_ 32
  let w0 := wordAt bs 0
  let n := pteBits w0 15 8
  let ofs := pteBits w0 63 32
  let level := pteBits w0 2 0
  if pteBits w0 31 16 ≠ 0 ∨ pteBits w0 7 3 ≠ 0 ∨ wordAt bs 3 ≠ 0 ∨ 4 < level ∨ ofs % 8 ≠ 0 then none
  else
    let rs ← s.imageBytes pn (image + ofs) (8 * n)
    let ranges := (List.range n).map (wordAt rs)
    if ranges.all liveOk then
      some ⟨fin5 level, #v[(wordAt bs 1).setWidth 32, (wordAt bs 1 >>> 32).setWidth 32, (wordAt bs 2).setWidth 32, (wordAt bs 2 >>> 32).setWidth 32], ranges⟩
    else none
/-- A live range lies within the region that it names (R150). -/
def rangeFits (h : Header) (w : Word) : Bool :=
  decide (pteBits w 31 0 + pteBits w 54 32 ≤ (if w.getLsbD 63 then h.acg else h.spg) * 0x10000)
/-- The job header of an image, checked in the order of R150. DESIGN CHOICE (log 43): an SPLEN that is no multiple of 8, and a live range
whose length is 0 or no multiple of 32, is a BADIMAGE as an offset that breaks its rule is. -/
def State.header (s : State) (pn : PartId) (image : Word) : Except Bad Header :=
  match s.imageBytes pn image.toNat 64 with
  | none => .error .image
  | some bs =>
    let w := wordAt bs
    let (w0, w1, w2, w3, w4, w5) := (w 0, w 1, w 2, w 3, w 4, w 5)
    let splen := pteBits w4 63 32
    let spofs := pteBits w4 31 0
    let cscnt := pteBits w5 34 32
    let csofs := pteBits w5 31 0
    let ents := [pteBits w2 31 0, pteBits w2 63 32, pteBits w3 31 0, pteBits w3 63 32]
    if pteBits w0 63 48 ≠ 0x7A31 ∨ pteBits w0 47 40 ≠ 1 ∨ pteBits w0 25 0 ≠ 0 ∨ pteBits w5 63 35 ≠ 0 ∨ w 7 ≠ 0 then .error .image
    else if !ents.all entryOk || decide (splen % 8 ≠ 0 ∨ spofs % 8 ≠ 0 ∨ csofs % 8 ≠ 0 ∨ 5 < cscnt) then .error .image
    else if (s.imageBytes pn (image.toNat + spofs) splen).isNone then .error .image
    else match (List.range cscnt).mapM (fun i => s.cutSafeAt pn image.toNat (image.toNat + csofs + 32 * i)) with
      | none => .error .image
      | some cs =>
        let leadw := pteBits w0 39 35
        let tdep := pteBits w0 34 32
        let acg := pteBits w0 31 26
        let spg := (pteBits w1 31 0 + 0xFFFF) / 0x10000
        let h : Header :=
          { leadw := BitVec.ofNat 5 leadw, tdep := tdep, acg := acg, spg := spg, drain := (w1 >>> 48).setWidth 16,
            fed := (w1 >>> 32).setWidth 16, entry := #v[w2.setWidth 32, (w2 >>> 32).setWidth 32, w3.setWidth 32, (w3 >>> 32).setWidth 32],
            cutSafe := cs, ibud := w 6, splen := splen, spofs := spofs }
        if (cs.map CutSafe.level).dedup.length ≠ cs.length then .error .image
        else if leadw = 0 ∨ 16 < leadw then .error .lead
        else if 4 < tdep ∨ 32 < acg ∨ 64 < tdep + acg + spg then .error .part
        else if spg * 0x10000 < splen || !cs.all (fun e => e.ranges.all (rangeFits h)) then .error .image
        else .ok h

/-! ### Offering a launch (R299, R301) -/

/-- One of the things of a list, by a number. -/
def pickOf {α : Type} (l : List α) (n : Nat) : Option α := l[n % l.length]?
/-- The free entry of a core's queue that an accepted job gets (R296); which one is free (assumption 42). -/
def State.freeSlot (s : State) (c : CoreId) : Option (Fin 8) :=
  pickOf ([(0 : Fin 8), 1, 2, 3, 4, 5, 6, 7].filter (fun i => ((s.core c).slots.get i).isNone)) (Config.freeWord s.tick (64 + c.val)).toNat
/-- The ordinal of a core's cluster among those of some cores in ascending order (R263, R303). -/
def ordOf (cores : List CoreId) (c : CoreId) : Nat :=
  ((cores.map (fun x => x.val / 4)).dedup.filter (fun k => decide (k < c.val / 4))).length
/-- A job accepted at base level 3 pre-empts the running job of its core, and with it every job of that launch, when the running level is
0 or 1 (R299); a job that has stopped is to be saved. -/
def State.preemptFor (s : State) (c : CoreId) : State := match (s.core c).slot with
  | some q =>
    if q.running.toNat ≤ 1 ∧ (q.state = .running ∨ q.state = .landing ∨ q.state = .stopped) then
      { s with preempts := s.preempts ++ ((s.coresOf q.handle).map (fun x => (x, q.handle))).filter (fun x => !s.preempts.contains x) }
    else s
  | none => s
/-- The job of an accepted launch takes an entry of a target core's queue. -/
def State.accept (s : State) (c : CoreId) (i : Fin 8) (q : JobSlot) : State :=
  let s := s.setCore c { s.core c with slots := (s.core c).slots.set i.val (some q) i.isLt }
  if q.base = 3 then s.preemptFor c else s
/-- What the launch unit answers (R150, R301), and the state with the entries given. -/
def State.offer (s : State) (l : Launch) : State × Word := match s.part l.part with
  | none => (s, BitVec.ofNat 64 (Bad.code .target * 2 ^ 56))
  | some p =>
    let bad (b : Bad) : State × Word := (s, BitVec.ofNat 64 (b.code * 2 ^ 56))
    match targetCores p l.level l.target with
    | none => bad .target
    | some cores => match s.header l.part l.image with
      | .error b => bad b
      | .ok h =>
        if !cores.all p.ownsCore then bad .notOwned
        else if cores.any (fun c => (s.freeSlot c).isNone) then bad .qfull
        else
          let first := cores.headD 0
          let hd : Handle := BitVec.ofNat 32 (p.seqNext % 2 ^ 19 * 2 ^ 13 + l.level.toNat * 2 ^ 11 +
            (((s.freeSlot first).map Fin.val).getD 0) * 2 ^ 8 + first.val)
          let prio : BitVec 2 := BitVec.ofNat 2 (l.target.toNat / 2 ^ 62)
          let q (c : CoreId) : JobSlot := ⟨hd, l.part, prio, prio, 0, s.ftime, .waiting, l.level, ordOf cores c, l.image, h, none, none, none, p.tctl.getLsbD 61⟩
          let s := s.setPart l.part { p with seqNext := if p.seqNext + 1 < 2 ^ 19 then p.seqNext + 1 else 1 }
          let s := { s with jobs := s.jobs ++ [⟨hd, l.part, l.level, cores, [], false, false, false, 0, Vector.replicate 4 0, [], [], []⟩] }
          let s := cores.foldl (fun s c => match s.freeSlot c with
            | some i => s.accept c i (q c)
            | none => s) s
          (s, BitVec.ofNat 64 (h.grant * 2 ^ 32 + hd.toNat))
/-- LAUNCH_OFFER (R301): the k-th sent SPAWN is checked and offered; its answer is left for the status entry. -/
def State.offerLaunch (s : State) (k : Nat) : State := match s.launches[k]? with
  | some l => match l.answer with
    | some _ => s
    | none =>
      let r := s.offer l
      { r.1 with launches := r.1.launches.set k { l with answer := some r.2 } }
  | none => s
/-- LAUNCH_OFFER (R301). -/
def execLaunchOffer (k : Nat) (s : State) : Host.Outcome State Fault Refusal := .next (s.offerLaunch k)

/-- A value arrives for an entry of the job that a handle names on a core. -/
def State.fillEntryOf (s : State) (c : CoreId) (hd : Handle) (st : StreamId) (id : Nat) (v : Word) (m : Mark) : State :=
  s.onJob c (fun j => if j.handle = hd then (j.fill st id v m).stir else j)
/-- SPAWN_STATUS_FILL (R92, R301, R400): the status word of the k-th answered SPAWN fills its entry. -/
def State.fillStatus (s : State) (k : Nat) : State := match s.launches[k]? with
  | none => s
  | some l => match l.answer with
    | none => s
    | some w =>
      let s := { s with launches := s.launches.eraseIdx k }
      if (s.job l.core).any (fun j => j.handle = l.handle) then
        (s.fillEntryOf l.core l.handle l.org.st l.entry w .none).recordArrival l.core l.org 7 w false
      else s
/-- SPAWN_STATUS_FILL (R92). -/
def execSpawnStatusFill (k : Nat) (s : State) : Host.Outcome State Fault Refusal := .next (s.fillStatus k)

/-! ### Aging and order (R297) -/

/-- JOB_AGING (R297): a waiting job's level rises with each 64 µs of waiting, up to 3. -/
def State.age (s : State) (c : CoreId) (i : Fin 8) : State := match (s.core c).slots.get i with
  | some q => s.setCore c { s.core c with slots := (s.core c).slots.set i.val (some { q with cur := q.levelAt s.ftime }) i.isLt }
  | none => s
/-- JOB_AGING (R297). -/
def execJobAging (core : CoreId) (slot : BitVec 3) (s : State) : Host.Outcome State Fault Refusal := .next (s.age core slot.toFin)
/-- The order of waiting jobs at a time: current level, entry time, SEQ (R297). -/
def JobSlot.before (a b : JobSlot) (now : Word) : Bool :=
  let x := (a.levelAt now).toNat
  let y := (b.levelAt now).toNat
  decide (y < x ∨ (x = y ∧ (a.entryTime < b.entryTime ∨
    (a.entryTime = b.entryTime ∧ a.handle.toNat / 2 ^ 13 < b.handle.toNat / 2 ^ 13))))
/-- The slot of a core's first waiting job. -/
def Core.firstWaiting (k : Core) (now : Word) : Option (Fin 8 × JobSlot) :=
  [(0 : Fin 8), 1, 2, 3, 4, 5, 6, 7].foldl (fun r i => match k.slots.get i, r with
    | some q, none => if q.waits then some (i, q) else none
    | some q, some x => if q.waits && q.before x.2 now then some (i, q) else some x
    | none, x => x) none

/-! ### Semaphore blocks and barrier contexts (R250, R266, R307) -/

/-- A block of a cluster. -/
def State.block (s : State) (cl : Fin 64) (b : Fin 16) : SemBlock := (s.clusters.get cl).blocks.get b
/-- Replace a block, with its sixteen semaphores zeroed or not. -/
def State.setBlock (s : State) (cl : Fin 64) (b : Fin 16) (x : SemBlock) (clear : Bool) : State :=
  let k := s.clusters.get cl
  let sems := if clear then Vector.ofFn (fun (n : Fin 256) => if n.val / 16 = b.val then Sem.reset else k.sems.get n) else k.sems
  { s with clusters := s.clusters.set cl { k with blocks := k.blocks.set b.val x b.isLt, sems := sems } }
/-- The free blocks of a cluster. -/
def State.freeBlocks (s : State) (cl : Fin 64) : List (Fin 16) :=
  ((List.range 16).map (fun n => (⟨n % 16, Nat.mod_lt _ (by decide)⟩ : Fin 16))).filter (fun b => (s.block cl b).users.isEmpty)
/-- Blocks for a job on a core: a private one, and the launch's shared one; whether the shared one is new.
Which free blocks they get is free (assumption 42). -/
def State.allocBlocks (s : State) (c : CoreId) (hd : Handle) : Option (State × Fin 16 × Fin 16 × Bool) :=
  let cl := clusterOf c
  match pickOf (s.freeBlocks cl) (Config.freeWord s.tick (64 + c.val)).toNat with
  | none => none
  | some a =>
    let s1 := s.setBlock cl a ⟨[(hd, c)], false, 0, []⟩ true
    match s.sharedBlock cl hd with
    | some b =>
      let x := s1.block cl b
      some (s1.setBlock cl b { x with users := x.users ++ [(hd, c)] } false, a, b, false)
    | none => match pickOf ((s.freeBlocks cl).erase a) (Config.freeWord s.tick (320 + c.val)).toNat with
      | some b => some (s1.setBlock cl b ⟨[(hd, c)], true, 0, []⟩ true, a, b, true)
      | none => none
/-- The blocks of a job are given up; one that nobody uses any more is free. -/
def State.freeJobBlocks (s : State) (c : CoreId) (hd : Handle) : State :=
  let cl := clusterOf c
  ((List.range 16).map (fun n => (⟨n % 16, Nat.mod_lt _ (by decide)⟩ : Fin 16))).foldl (fun s b =>
    let x := s.block cl b
    if x.users.contains (hd, c) then s.setBlock cl b { x with users := x.users.filter (fun u => u ≠ (hd, c)) } false else s) s
/-- The barrier context of a shared block whose last user is about to leave it is kept with the launch (R266). -/
def State.keepContext (s : State) (c : CoreId) (hd : Handle) : State := match s.sharedBlock (clusterOf c) hd with
  | some b =>
    let x := s.block (clusterOf c) b
    if x.users ≠ [(hd, c)] then s
    else { s with jobs := s.jobs.map (fun (g : Group) => if g.handle = hd then
      { g with contexts := (clusterOf c, x.phase, x.arrived) :: g.contexts.filter (fun y => y.1 ≠ clusterOf c) } else g) }
  | none => s
/-- A kept context goes back into the new shared block of its launch. -/
def State.contextBack (s : State) (c : CoreId) (hd : Handle) (b : Fin 16) : State :=
  match ((s.jobs.find? (fun g => g.handle = hd)).map Group.contexts).getD [] |>.find? (fun y => y.1 = clusterOf c) with
  | some y => s.setBlock (clusterOf c) b { s.block (clusterOf c) b with phase := y.2.1, arrived := y.2.2 } false
  | none => s
/-- The crew barrier contexts of a launch on each die that it occupies (R307); none while a die has none free. -/
def State.allocCrews (s : State) (hd : Handle) (cores : List CoreId) : Option State :=
  ((cores.map dieOf).dedup).foldlM (fun (s : State) d =>
    let x := s.dies.get d
    if x.crews.any (fun k => k.handle = hd) then some s
    else if 64 ≤ x.crews.length then none
    else some { s with dies := s.dies.set d { x with crews := x.crews ++ [⟨hd, 0, []⟩] } }) s

/-! ### A job starts (R148, R263, R298, R304, R330, R418) -/

/-- The context that a yielded job of the core has left there, when another job is to start: it is saved first (R304). -/
def Core.left (k : Core) (but : Fin 8) : Option (Fin 8 × JobSlot × Job) :=
  [(0 : Fin 8), 1, 2, 3, 4, 5, 6, 7].findSome? (fun i => if i = but then none else match k.slots.get i with
    | some q => if q.savedAt.isNone then q.ctx.map (fun j => (i, q, j)) else none
    | none => none)
/-- Change a slot of a core. -/
def State.setSlot (s : State) (c : CoreId) (i : Fin 8) (q : Option JobSlot) : State :=
  s.setCore c { s.core c with slots := (s.core c).slots.set i.val q i.isLt }
/-- A job that is off the streams of its core is saved and its core scrubbed (R250, R330, R332, R333): the slot keeps what the area does
not hold. `c` still has the job's pool. -/
def State.saveJob (s0 : State) (c : CoreId) (i : Fin 8) (q : JobSlot) (j0 : Job) (live : Bool) : Except AFault State :=
  let s := s0.keepTrace j0
  let j := { j0 with trace := [] }
  match s.part q.part with
  | none => .error ⟨0x07, 0, 0⟩
  | some p =>
    let area := p.ctxArea c i.val
    match s.saveContext q.part c area j live with
    | .error e => .error e
    | .ok t =>
      let n := saveCycles (j.saveBytes live)
      let j := { j with bankKept := (s.core c).bank, profKept := (s.core c).prof,
                        savecyc := j.savecyc + BitVec.ofNat 64 n, scrubcyc := j.scrubcyc + BitVec.ofNat 64 scrubCycles }
      let t := ((t.keepContext c q.handle).freeJobBlocks c q.handle).scrub c q.part
      let t := { t with preempts := t.preempts.filter (fun x => x ≠ (c, q.handle)) }
      let t := t.onPart q.part (fun p => { p with savecyc := p.savecyc + BitVec.ofNat 64 n })
      -- the totals stand in the saved block as well
      let t := (t.writePieces q.part (area.toNat + 0x400018) [(0, wordBytes [j.savecyc, j.scrubcyc])]).toOption.getD t
      .ok (t.setSlot c i (some { q with state := .saved, ctx := some j, savedAt := some area }))

/-- The semaphore map of a restored job over its new blocks, private a and shared b (R345). -/
def remap (saved : Vector SemEntry 32) (a b : Fin 16) : Vector SemEntry 32 := saved.map (fun e =>
  if e.valid then { e with phys := BitVec.ofNat 8 (16 * (if e.shared then b else a).val + e.phys.toNat % 16) } else e)
/-- Counts of a saved context are written back to the new blocks: the lowest-numbered valid entry gives that of a semaphore, and the rest
hold 0 (R345). A shared block that other jobs of the launch have kept is left as it is. -/
def State.countsBack (s : State) (c : CoreId) (area : Word) (pn : PartId) (map : Vector SemEntry 32) (b : Fin 16) (fresh : Bool) : State :=
  (List.range 32).foldr (fun v s =>
    let e := map.get ⟨v % 32, Nat.mod_lt _ (by decide)⟩
    if e.valid ∧ (e.phys.toNat / 16 ≠ b.val ∨ fresh) then
      let n := s.ctxRead pn area (0x4000E0 + 4 * v) 4
      s.setSem (clusterOf c) e.phys ⟨if n = 0 then [] else [⟨n, none⟩], []⟩
    else s) s
/-- A granule of a pool image is copied back. -/
def State.granuleBack (s : State) (pn : PartId) (c : CoreId) (area g : Nat) : State := match s.partPa pn .r (area + g * 0x10000) with
  | .ok k => s.pokeClear (poolKey c (g * 0x10000)) (memBytes s.mem k 0x10000)
  | .error _ => s
/-- A live range of a pool image is copied back. -/
def State.rangeBack (s : State) (pn : PartId) (c : CoreId) (area : Nat) (x : Nat × Nat) : State :=
  (pieces x.1 x.2).foldl (fun s p => match s.partPa pn .r (area + p.1) with
    | .ok k => s.pokeClear (poolKey c p.1) (memBytes s.mem k p.2)
    | .error _ => s) s
/-- A request that came while the job was away is its pending request now, and is decided as the job runs again (R89, R124). -/
def JobSlot.awake (q : JobSlot) (j : Job) : Job := match q.pend with
  | some (some r) => Job.decideStop { j with stop := none } r
  | some none => { j with stop := none }
  | none => j
/-- The job takes the core (R298, R304); its running level is the one at which it was chosen. -/
def State.takeCore (s : State) (c : CoreId) (i : Fin 8) (q : JobSlot) (j : Job) : State :=
  let q := { q with state := .running, ctx := none, savedAt := none, pend := none }
  let s := s.setSlot c i (some q)
  (s.setCore c { s.core c with on := some i, job := some j }).markLanding c
/-- The restore of a saved job fails: it is SAVED again, and a landing event reports it (R418). -/
def State.restoreFailed (s : State) (c : CoreId) (i : Fin 8) (q : JobSlot) (cause : BitVec 8) : State :=
  (s.setSlot c i (some { q with state := .saved })).onPart q.part (fun p =>
    p.addEvent ⟨eventWord 1 cause.toNat 0 0 q.handle, c, (q.ctx.map Job.traprec).getD (Vector.replicate 4 0)⟩)
/-- The profile slots of a saved context. -/
def State.profBack (s : State) (pn : PartId) (area : Word) (old : Job) : Vector (Option ProfSlot) 16 := Vector.ofFn (fun k =>
  let o := 0x401800 + 0x808 * k.val
  let id := s.ctxRead pn area o 4
  if id = 0 then none else some ⟨BitVec.ofNat 32 id, ((old.profKept.get k).map ProfSlot.order).getD 0, bankBack (fun x n => s.ctxRead pn area x n) (o + 8)⟩)
/-- A saved job is restored and takes the core (R142, R250, R330, R344, R345, R418). A live-range save holds neither the account nor the
profile (R330), which come back as they were all the same (R269). -/
def State.restoreJob (s : State) (c : CoreId) (i : Fin 8) (q : JobSlot) (old : Job) (area : Word) : Option State :=
  match s.ctxCheck q.part area false with
  | .error e => some (s.restoreFailed c i q (if e.cause = 0x0A then 0x0A else 0x07))
  | .ok _ =>
    if (s.ctxPoison q.part area (old.restoreParts (s.ctxRead q.part area 0x400007 1 = 2))).isSome then some (s.restoreFailed c i q 0x0A)
    else match s.allocBlocks c q.handle with
      | none => none
      | some (t, a, b, fresh) =>
        let live := s.ctxRead q.part area 0x400007 1 = 2
        let j := s.loadJob q.part area old
        let map := remap j.semMap a b
        let t := t.countsBack c area q.part map b fresh
        let t := if fresh then t.contextBack c q.handle b else t
        let t := if live then old.liveRanges.foldl (fun t x => t.rangeBack q.part c area.toNat x) (t.clearPool c old.hdr.granules)
          else (List.range old.hdr.granules).foldl (fun t g => t.granuleBack q.part c area.toNat g) t
        let t := if live then t.setCore c { t.core c with bank := old.bankKept, prof := old.profKept }
          else t.setCore c { t.core c with bank := bankBack (fun x n => s.ctxRead q.part area x n) 0x401000, prof := s.profBack q.part area old }
        let n := saveCycles (old.saveBytes live)
        let t := t.onPart q.part (fun p => { p with savecyc := p.savecyc + BitVec.ofNat 64 n })
        let j := { j with semMap := map, savecyc := j.savecyc + BitVec.ofNat 64 n }
        some (t.takeCore c i q (q.awake j.continueFrom))
/-- The place word (R263). -/
def placeWord (level : BitVec 2) (ord : Nat) (c : CoreId) : Option Word :=
  if level = 0 then none else some (BitVec.ofNat 64 (ord * 2 ^ 8 + c.val))
/-- The next multiple of 256 at or after a time (R311, R312). -/
def ceil256 (t : Word) : Word := BitVec.ofNat 64 ((t.toNat + 255) / 256 * 256)
/-- A job starts from its image (R148, R251, R263, R269, R270): the grant and the blocks are applied and the initial scratchpad data
copied. -/
def State.freshJob (s : State) (c : CoreId) (i : Fin 8) (q : JobSlot) : Option State := match s.allocBlocks c q.handle with
  | none => none
  | some (t, a, b, _) =>
    let j := Job.start q.handle q.part q.image q.hdr q.launchLevel q.ord (fun _ => placeWord q.launchLevel q.ord c) (semMapOf a.val b.val) q.records
      (ceil256 s.ftime)
    -- each queue's first tile takes some slot of its region: which is free (log 89)
    let j := { j with tileTail := Vector.ofFn (fun n => (Config.freeWord s.tick (600 + n.val)).toNat % Nat.max 1 q.hdr.tdep) }
    let t := match s.imageBytes q.part (q.image.toNat + q.hdr.spofs) q.hdr.splen with
      | some bs => t.pokeClear (poolKey c ((q.hdr.tdep + q.hdr.acg) * 0x10000)) bs
      | none => t
    let t := t.setCore c { t.core c with bank := [], prof := Vector.replicate 16 none }
    -- the code as it stands now is what the job fetches first (R65)
    let t := { t with code := t.code.filter (fun e => e.core ≠ c) }
    some (t.takeCore c i q (q.awake j))
/-- The context that a YIELD has left on a core is saved before another job starts there (R304); the state, and whether the core is clear.
Where the save fails, the yielded job keeps its core and is STOPPED (R418). -/
def State.clearLeft (s : State) (c : CoreId) (i : Fin 8) : State × Bool := match (s.core c).left i with
  | none => (s, true)
  | some (n, x, j) => match s.saveJob c n x j false with
    | .ok t => (t.setSlot c n ((t.core c).slots.get n |>.map (fun y => { y with state := x.state })), true)
    | .error _ =>
      let t := s.setSlot c n (some { x with state := .stopped, ctx := none })
      (t.setCore c { t.core c with on := some n, job := some j }, false)
/-- A chosen job of a core that is clear starts, continues or is restored; none while a block that it needs is not free. -/
def State.startJob (s : State) (c : CoreId) (i : Fin 8) (q : JobSlot) : Option State := match q.ctx, q.savedAt with
  | some j, none => some (s.takeCore c i q (q.awake j.resume))
  | some j, some area => s.restoreJob c i q j area
  | none, _ => s.freshJob c i q

/-! ### Choosing (R298) -/

/-- The core is free: no job of its queue runs, lands, is stopped or has ended while its team has not (R262, R298). -/
def Core.free (k : Core) : Bool := k.on.isNone && k.job.isNone
/-- The core holds one of its jobs, chosen at a time: its current level is its running level, and a hold on another job is dropped. -/
def Core.hold (k : Core) (i : Fin 8) (now : Word) : Core :=
  { k with slots := Vector.ofFn (fun n => (k.slots.get n).map (fun x =>
      if n = i then { x with state := .holding, cur := x.levelAt now, running := x.levelAt now }
      else if x.state = .holding then { x with state := .waiting } else x)) }
/-- JOB_CHOICE (R298): a free core chooses its first waiting job, and a hold on another job is dropped. A core-level job starts at once; a
job of a larger launch is held. -/
def State.choose (s : State) (c : CoreId) : State :=
  let k := s.core c
  if !k.free then s
  else match k.firstWaiting s.ftime with
    | none => s
    | some (i, q) =>
      let t := s.setCore c (k.hold i s.ftime)
      if q.launchLevel = 0 then
        let x := t.clearLeft c i
        if !x.2 then x.1
        else match ((x.1.core c).slots.get i).bind (fun q => x.1.startJob c i q) with
          | some t => markStarted t q.handle
          | none => s
      else t
where
  /-- The launch has started. -/
  markStarted (s : State) (hd : Handle) : State :=
    { s with jobs := s.jobs.map (fun g => if g.handle = hd then { g with started := true } else g) }
/-- JOB_CHOICE (R298). -/
def execJobChoice (core : CoreId) (s : State) : Host.Outcome State Fault Refusal := .next (s.choose core)

/-- The slot of a core that a handle's job has. -/
def Core.slotOf (k : Core) (hd : Handle) : Option (Fin 8 × JobSlot) :=
  [(0 : Fin 8), 1, 2, 3, 4, 5, 6, 7].findSome? (fun i => match k.slots.get i with
    | some q => if q.handle = hd then some (i, q) else none
    | none => none)
/-- A core starts its held job of a launch. -/
def State.startHeld (s : State) (hd : Handle) (c : CoreId) : Option State := match (s.core c).slotOf hd with
  | some (i, q) => s.startJob c i q
  | none => some s
/-- LAUNCH_START (R262, R298, R302): when every core that has still to run its job of the launch holds it, and none of them has a waiting job
ahead of it, all of them start in one step, or none does. -/
def State.startLaunch (s : State) (hd : Handle) : State := match s.jobs.find? (fun g => g.handle = hd) with
  | none => s
  | some g =>
    let slots := g.cores.filterMap (fun c => ((s.core c).slotOf hd).map (fun x => (c, x.1, x.2)))
    let held := slots.filter (fun x => decide (x.2.2.state = .holding))
    if held.isEmpty || slots.any (fun x => decide (x.2.2.state = .waiting)) || held.any (fun x => !(s.core x.1).free) ||
        held.any (fun x => ((s.core x.1).firstWaiting s.ftime).any (fun y => y.1 ≠ x.2.1)) then s
    else
      let r := held.foldl (fun (r : State × Bool) x =>
        let y := r.1.clearLeft x.1 x.2.1
        (y.1, r.2 && y.2)) (s, true)
      if !r.2 then r.1
      else match (if g.level.toNat < 2 then some r.1 else r.1.allocCrews hd g.cores) with
      | none => s
      | some t => match held.foldlM (fun (t : State) x => t.startHeld hd x.1) t with
        | some t => { t with jobs := t.jobs.map (fun x => if x.handle = hd then { x with started := true } else x) }
        | none => s
/-- LAUNCH_START (R298). -/
def execLaunchStart (handle : BitVec 32) (s : State) : Host.Outcome State Fault Refusal := .next (s.startLaunch handle)

/-! ### A job ends (R93, R262, R304, R306) -/

/-- Everything of the job has completed (R93), its fleet writes at their homes (R367). -/
def State.jobDone (s : State) (c : CoreId) (j : Job) : Bool :=
  StreamId.all.all (fun st => decide ((j.stream st).phase = .rdv) && (j.stream st).pushes.isEmpty) && j.ops.isEmpty && j.cmds.isEmpty &&
    j.landing.isNone && j.held.isEmpty && j.arrivals.isEmpty && !s.abroad c j.handle (2 ^ 62) &&
    !s.remotes.any (fun r => decide (r.core = c ∧ r.handle = j.handle)) && !s.services.any (fun r => decide (r.core = c ∧ r.handle = j.handle)) &&
    !s.fleetBefore c j.handle (fun _ => true)
/-- The completion record and event of a launch that has ended (R257, R306). -/
def State.complete (s : State) (g : Group) : State :=
  let status := if g.linkLost then 2 else if g.notReached then 1 else 0
  let clusters := ((g.cores.map (fun c => c.val / 4)).dedup)
  let retired := (clusters.zipIdx.map (fun x =>
    if (g.cores.filter (fun c => c.val / 4 = x.1)).all (fun c => g.done.contains c) then 2 ^ x.2 else 0)).sum
  let ws := [BitVec.ofNat 64 (status * 2 ^ 32 + g.handle.toNat), g.front, BitVec.ofNat 64 retired, s.ftime]
  let s := match s.part g.part with
    | some p => if p.cmpva = 0 then s.report (.completion g.part) else (s.ringPut g.part p.cmpva.toNat 256 ws).getD (s.report (.completion g.part))
    | none => s
  let s := s.onPart g.part (fun p => p.addEvent ⟨eventWord 2 0 status 0 g.handle, g.cores.headD 0, g.lastRec⟩)
  { s with
    jobs := s.jobs.filter (fun x => x.handle ≠ g.handle)
    dies := s.dies.map (fun d => { d with crews := d.crews.filter (fun k => k.handle ≠ g.handle) }) }
/-- The job of a launch leaves a core: its queue entry, and the context that is on the core. -/
def State.leaveCore (s : State) (c : CoreId) (hd : Handle) : State :=
  let s := match (s.core c).slotOf hd with
    | some (i, _) => s.setSlot c i none
    | none => s
  match s.job c with
  | some j => if j.handle = hd then (s.keepTrace j).setCore c { s.core c with on := none, job := none } else s
  | none => s
/-- The job on a core has ended: its queue entry is free, and its pool stays (R262, R296, R304). -/
def State.endOn (s : State) (c : CoreId) : State := match (s.core c).on with
  | some i => (s.setSlot c i none).setCore c { (s.setSlot c i none).core c with on := none }
  | none => s
/-- What the job's tiles have left in their slots stays in the pool (R146, R148). -/
def State.pokeTiles (s : State) (c : CoreId) (j : Job) : State := j.tileBytes.foldl (fun t x => t.pokeClear (poolKey c x.1) x.2) s
/-- A launch when its job on a core has ended: the lowest core gives FRONT and the trap record (R257, R306). -/
def Group.ended (g : Group) (c : CoreId) (j : Job) : Group :=
  { g with
    done := g.done ++ [c]
    notReached := g.notReached || j.stop.isSome
    front := if g.cores.head? = some c then optCoordWord j.front else g.front
    lastRec := if g.cores.head? = some c then j.traprec else g.lastRec }
/-- JOB_END (R93, R262, R296, R306): the job on a core ends, which frees its queue entry; its core is free when every job of its launch in the cluster has ended, and the
launch ends with its last job. -/
def State.endJob (s0 : State) (c : CoreId) : State :=
  let s := s0.settleFront c
  match s.job c, (s.core c).slot with
  | some j, some q =>
    if q.state ≠ .running || !s.jobDone c j then s0
    else
      let s := (s.pokeTiles c j).traceRelease c
      let s := ((s.endOn c).keepContext c j.handle).freeJobBlocks c j.handle
      let s := { s with jobs := s.jobs.map (fun (g : Group) => if g.handle = j.handle then g.ended c j else g) }
      match s.jobs.find? (fun g => g.handle = j.handle) with
      | none => s.leaveCore c j.handle
      | some g =>
        let team := g.cores.filter (fun x => decide (x.val / 4 = c.val / 4))
        let s := if team.all (fun x => g.done.contains x) then team.foldl (fun s x => s.leaveCore x g.handle) s else s
        if g.cores.all (fun x => g.done.contains x) then s.complete g else s
  | _, _ => s0
/-- JOB_END (R93). -/
def execJobEnd (core : CoreId) (s : State) : Host.Outcome State Fault Refusal := .next (s.endJob core)

/-! ### Events and the timer (R257 to R259) -/

/-- The last instruction of a stream had not been completed, since it waits at its own advance: what it popped comes back and what it was
to push is withdrawn (R259). -/
def Job.undoLast (j : Job) (st : StreamId) : Job :=
  let t := j.stream st
  let back {α : Type} (q : Queue α) : Queue α :=
    ⟨(q.popped.filter (fun p => decide (p.2.2 = t.last.seq))).map (fun p => p.1) ++ q.items, q.popped.filter (fun p => decide (p.2.2 ≠ t.last.seq))⟩
  let j := { j with toks := j.toks.map back }
  j.setStream st { t with regs := t.regs.map back, pushes := t.pushes.filter (fun p => p.seq ≠ t.last.seq), pc := t.last.pc, adv := none }
/-- The supervisor's C stream may enter its vectored entry (R259): it issues, and its instruction has not issued. -/
def Stream.mayEnter (t : Stream) : Bool := decide (t.phase = .issuing) && (match t.wait with
  | .none => true
  | .sem _ => true
  | _ => false)
/-- With VEN = 1 and delivery enabled, a pending enabled event makes the supervisor on a core enter at its next instruction boundary (R259). -/
def State.mustEnter (s : State) (pn : PartId) (c : CoreId) : Bool := match s.part pn, s.job c with
  | some p, some j => decide (p.supcore = c) && decide (j.handle = p.supHandle) && p.evmask.getLsbD 8 && p.delivery && p.nextEvent.isSome &&
      (j.stream .c).mayEnter && (s.core c).busy
  | _, _ => false
/-- EVENT_ENTRY (R259): a pending enabled event makes the supervisor enter. -/
def State.enterEvent (s : State) (pn : PartId) : State := match s.part pn with
  | none => s
  | some p => match s.job p.supcore with
    | none => s
    | some j =>
      let t := j.stream .c
      if !s.mustEnter pn p.supcore then s
      else
        -- an abandoned semaphore wait leaves its waiters' list
        let s := match t.wait with
          | .sem id =>
            let cl := s.clusters.get (clusterOf p.supcore)
            { s with clusters := s.clusters.set (clusterOf p.supcore) { cl with sems := cl.sems.map (fun (m : Sem) =>
              if m.waiters.isEmpty then m else { m with waiters := m.waiters.filter (fun w => !decide (w.core = p.supcore ∧ w.id = id)) }) } }
          | _ => s
        let j := if t.adv.any (fun a => a.loop.isNone) then j.undoLast .c else j
        let pc := (j.stream .c).pc
        let s := s.setJob p.supcore (j.onStream .c (fun t => { t with pc := p.tvec, adv := none, wait := .none, cause := 0, tried := false }))
        s.setPart pn (p.enter pc)
/-- EVENT_ENTRY (R259). -/
def execEventEntry (p : PartId) (s : State) : Host.Outcome State Fault Refusal := .next (s.enterEvent p)
/-- TIMER_FIRE (R257): an armed timer whose deadline has come fires and is disarmed. -/
def State.fireTimer (s : State) (pn : PartId) : State := s.onPart pn (fun p =>
  if p.armed && decide ((s.ftime.toNat % 2 ^ 48 + 2 ^ 48 - p.evmask.toNat / 2 ^ 16) % 2 ^ 48 < 2 ^ 47) then
    { p with timerFlag := true, armed := false }
  else p)
/-- TIMER_FIRE (R257). -/
def execTimerFire (p : PartId) (s : State) : Host.Outcome State Fault Refusal := .next (s.fireTimer p)

/-! ### Semaphore waits (R252, R253, R309) -/

/-- The wait of the oldest waiter is over with a status: an instruction finds it at its next attempt, an MMA may start. -/
def Job.served (j : Job) (w : SemWaiter) (status : Nat) : Job := (match w.cmd with
  | some id => j.onCmd .me id (fun q => { q with semDone := true })
  | none => j.onStream w.org.st (fun t => { t with wait := .semServed status })).stir
/-- SEMAPHORE_WAIT_SERVED (R252): the oldest waiter takes its units; a unit of a private semaphore stamped above the waiter traps (R36). -/
def State.serveSem (s : State) (cl : Fin 64) (phys : BitVec 8) : State :=
  let m := s.sem cl phys
  match m.waiters with
  | [] => s
  | w :: rest =>
    if m.count < w.n || w.deadline.any (fun t => decide (t < s.ftime)) || !(s.job w.core).any (fun j => j.lives w.org.stamp.coord) then s
    else
      let x := takeUnits w.n m.units
      match (if w.shared then none else unitAbove x.1 w.org.stamp.coord) with
      | some k =>
        let s := s.setSem cl phys { m with waiters := rest }
        let s := s.onJob w.core (fun j => if w.cmd.isNone then j.onStream w.org.st (fun t => { t with wait := .none }) else j)
        s.raise w.core (trapRec 0x06 (coordWord k) 0 (if w.cmd.isSome then 1 else 0) w.org)
      | none =>
        let s := s.setSem cl phys ⟨x.2, rest⟩
        s.onJob w.core (fun j =>
          { j.served w (servedStatus s.ftime w.deadline) with
            semTaken := j.semTaken ++ [⟨phys, x.1.map (fun u => (u.n, u.owner)), w.org.stamp.coord⟩] })
/-- SEMAPHORE_WAIT_SERVED (R252). -/
def execSemaphoreWaitServed (cl : BitVec 6) (sem : BitVec 8) (s : State) : Host.Outcome State Fault Refusal := .next (s.serveSem cl.toFin sem)
/-- SEMWT_TIMEOUT (R253, R309): the deadline of the SEMWT that waits on a core has passed; it stops waiting with status 0. -/
def State.timeoutSem (s : State) (c : CoreId) : State :=
  let cl := s.clusters.get (clusterOf c)
  let late (w : SemWaiter) : Bool := decide (w.core = c) && w.deadline.any (fun t => decide (t < s.ftime))
  match cl.sems.toList.findSome? (fun m => m.waiters.find? late) with
  | none => s
  | some w =>
    let s := { s with clusters := s.clusters.set (clusterOf c) { cl with sems := cl.sems.map (fun (m : Sem) =>
      if m.waiters.isEmpty then m else { m with waiters := m.waiters.filter (fun x => !late x) }) } }
    s.onJob c (fun j => j.served w 0)
/-- SEMWT_TIMEOUT (R253). -/
def execSemwtTimeout (core : CoreId) (s : State) : Host.Outcome State Fault Refusal := .next (s.timeoutSem core)

/-! ### Barriers and supersteps (R266, R267, R307 to R309, R312) -/

/-- An arrival's conditions hold (R267, R312): what the job has sent to accumulators and to other dies from below it has been applied, so that
whoever passes sees it (R268, R386). -/
def State.mayArrive (s : State) (c : CoreId) (j : Job) (a : Arrival) : Bool :=
  let co := a.org.stamp.coord
  let sendBelow : Bool := j.held.any (fun h => decide (h.org.stamp.coord < co) && (match h.kind with
      | .send _ _ _ _ _ => true
      | _ => false)) || (s.sendCoords c j.handle).any (fun n => decide (n < co.toNat))
  j.lives co &&
  !j.ops.any (fun o => decide ((o.org.st = a.org.st ∧ o.org.seq < a.org.seq) ∨ o.org.stamp.coord < co)) &&
  !j.cmds.any (fun q => decide ((q.org.st = a.org.st ∧ q.org.seq < a.org.seq) ∨ q.org.stamp.coord < co)) &&
  !StreamId.all.any (fun st => (j.stream st).pushes.any (fun p => decide ((st = a.org.st ∧ p.seq < a.org.seq) ∨ p.coord < co))) &&
  !j.held.any (fun h => decide (h.org.stamp.coord < co)) && !s.spreadBefore c j.handle (fun o => decide ((o.st = a.org.st ∧ o.seq < a.org.seq) ∨ o.stamp.coord < co)) &&
  !s.remotes.any (fun r => decide (r.core = c ∧ r.handle = j.handle ∧ ((r.org.st = a.org.st ∧ r.org.seq < a.org.seq) ∨ r.org.stamp.coord < co)) && r.opens) &&
  StreamId.all.all (fun st => decide ((j.stream st).phase = .rdv ∨ co ≤ (j.stream st).coord)) && (!a.sstep || !sendBelow)
/-- Every C stream of a launch that waits at a barrier whose PHASE has passed its own goes on (R266, R309). -/
def State.passBarr (s : State) (hd : Handle) (crew : Bool) (cores : List CoreId) : State := cores.foldl (fun s c =>
  match s.job c with
  | some j => if j.handle ≠ hd then s else match (j.stream .c).wait with
    | .barr k ph dl =>
      if k = crew && ph.all (fun n => decide (n < s.phase c j crew)) && dl.all (fun t => decide (s.ftime ≤ t)) then
        s.setJob c (j.onStream .c (fun t => { t with wait := .barrServed (servedStatus s.ftime dl) })).stir
      else s
    | _ => s
  | none => s) s
/-- A core's arrival with a phase is counted in a context, unless it is a repeat; the context after it. -/
def countArrival (phase : BitVec 32) (arrived : List CoreId) (c : CoreId) (a : Nat) (members : List CoreId) : BitVec 32 × List CoreId :=
  if a < phase.toNat || arrived.contains c then (phase, arrived)
  else
    let l := arrived ++ [c]
    if members.all (fun x => l.contains x) then (phase + 1, []) else (phase, l)
/-- BARRIER_ARRIVAL (R266, R267, R307, R312): the oldest arrival of the job is counted, and a completed phase lets its waiters pass. The
last arrival at an SSTEP fixes T0. -/
def State.countArrivalOf (s0 : State) (c : CoreId) (crew : Bool) : State :=
  let s := s0.settleFront c
  match s.job c with
  | none => s0
  | some j => match j.arrivals.find? (fun a => a.sstep || a.crew = crew) with
    | none => s0
    | some a => match s.jobs.find? (fun g => g.handle = j.handle) with
      | none => s0
      | some g =>
        if !s.mayArrive c j a then s0
        else
          let s := s.setJob c { j with arrivals := j.arrivals.filter (fun x => x.org.seq ≠ a.org.seq) }
          if a.sstep then
            if a.a < g.t0s.length then s
            else
              let l := if g.ssteps.contains c then g.ssteps else g.ssteps ++ [c]
              let h := if g.cores.all (fun x => l.contains x) then { g with ssteps := [], t0s := g.t0s ++ [ceil256 s.ftime] } else { g with ssteps := l }
              { s with jobs := s.jobs.map (fun x => if x.handle = g.handle then h else x) }
          else if crew then
            let members := g.cores.filter (fun x => dieOf x = dieOf c)
            let d := s.dies.get (dieOf c)
            let s := { s with dies := s.dies.set (dieOf c) { d with crews := d.crews.map (fun (k : CrewCtx) => if k.handle = j.handle then
              let x := countArrival k.phase k.arrived c a.a members
              { k with phase := x.1, arrived := x.2 } else k) } }
            s.passBarr j.handle true members
          else
            let members := g.cores.filter (fun x => decide (x.val / 4 = c.val / 4))
            match s.sharedBlock (clusterOf c) j.handle with
            | some b =>
              let k := s.block (clusterOf c) b
              let x := countArrival k.phase k.arrived c a.a members
              (s.setBlock (clusterOf c) b { k with phase := x.1, arrived := x.2 } false).passBarr j.handle false members
            | none => s
/-- BARRIER_ARRIVAL (R266, R267). -/
def execBarrierArrival (core : CoreId) (crew : Bool) (s : State) : Host.Outcome State Fault Refusal := .next (s.countArrivalOf core crew)
/-- BARRIER_TIMEOUT (R309): the deadline of the BARR that waits on a core has passed; it has still arrived. -/
def State.timeoutBarr (s : State) (c : CoreId) : State := s.onJob c (fun j => match (j.stream .c).wait with
  | .barr _ _ (some t) => if t < s.ftime then (j.onStream .c (fun x => { x with wait := .barrServed 0 })).stir else j
  | _ => j)
/-- BARRIER_TIMEOUT (R309). -/
def execBarrierTimeout (core : CoreId) (s : State) : Host.Outcome State Fault Refusal := .next (s.timeoutBarr core)
/-- SUPERSTEP_PASSAGE (R312): at T0 every participant that waits passes. -/
def State.passStep (s : State) (hd : Handle) : State := match s.jobs.find? (fun g => g.handle = hd) with
  | none => s
  | some g => g.cores.foldl (fun s c => s.onJob c (fun j =>
      if j.handle ≠ hd || (j.stream .c).wait ≠ .sstep then j
      else match g.t0s[j.arrStep - 1]? with
        | some t0 => if t0 ≤ s.ftime then (j.onStream .c (fun x => { x with wait := .sstepPassed t0 })).stir else j
        | none => j)) s
/-- SUPERSTEP_PASSAGE (R312). -/
def execSuperstepPassage (handle : BitVec 32) (s : State) : Host.Outcome State Fault Refusal := .next (s.passStep handle)

end Sys2Proof.Machine
end

