-- ==== Sys2Proof/Machine/Remote.lean ====
section
/-!
DEFINITION. Work that has left a core: remote requests (R103, R116, R117, R240, R241, R246, R249, R276, R281, R353, R355, R356), SEND chunks
(R310, R311, R315), PUB and TLBI (R112, R285, R286), the patrol scrubber (R290) and fleet writes and fetches (R315 to R319).
-/
namespace Sys2Proof.Machine

/-! ### Targets (R116, R276, R355, R356) -/

/-- Where a request's bytes lie: another module, or a key of this module's memory with the core whose pool holds it. -/
inductive Target where
  | away
  | here (key : Nat) (core : Option CoreId)
/-- The target of n bytes at a global address for a partition, or the reason of the failure. -/
def State.target (s : State) (pn : PartId) (ga : Word) (n : Nat) : Except (BitVec 16) Target :=
  let node := ga.toNat / 2 ^ 50
  let pa := ga.toNat % 2 ^ 50
  if node ≠ s.module.node.toNat then .ok .away
  else
    let pool (c : CoreId) (p : Job → Option Nat) : Except (BitVec 16) Target := match s.job c with
      | some j => if j.part ≠ pn || (s.part pn).any Partition.down then .error 0x0005 else match p j with
        | some o => .ok (.here (poolKey c o) (some c))
        | none => .error 0x0008
      | none => .error 0x0005
    match regionOf pa with
    | .dram _ _ => if s.owners.contains (pa / 65536, pn) && !(s.part pn).any Partition.down then .ok (.here pa none) else .error 0x0005
    | .spad c o => pool c (fun j => if o + n ≤ j.hdr.spg * 65536 then some ((j.hdr.tdep + j.hdr.acg) * 65536 + o) else none)
    | .acc c t o => pool c (fun j => if t < j.hdr.acg then some ((j.hdr.tdep + t) * 65536 + o) else none)
    | .host _ | .edge _ _ => .error 0x0005
    | .unmapped => .error 0x0006
/-- The target of an atomic word: an accumulator word, unpoisoned (R116, R276, R356). -/
def State.accTarget (s : State) (pn : PartId) (ga : Word) (n : Nat) : Except (BitVec 16) Target := match s.target pn ga n with
  | .error r => .error r
  | .ok .away => .ok .away
  | .ok (.here k c) => match regionOf (ga.toNat % 2 ^ 50) with
    | .acc _ _ _ => if (s.poisonAt k n).isSome then .error 0x000A else .ok (.here k c)
    | _ => .error 0x0007
/-- A run of bytes, sector by sector: the keys, or the first reason. -/
def State.targetRun (s : State) (pn : PartId) (ga : Word) (n : Nat) (acc : Bool) : Except (BitVec 16) (List (Target × Nat)) :=
  (pieces ga.toNat n).foldlM (fun l x =>
    (if acc then s.accTarget pn (BitVec.ofNat 64 x.1) x.2 else s.target pn (BitVec.ofNat 64 x.1) x.2).map (fun t => l ++ [(t, x.2)])) []
/-- The flag of an RST lies in an accumulator window of the destination's die (R116). -/
def State.flagTarget (s : State) (pn : PartId) (ga flag : Word) : Except (BitVec 16) Target :=
  if flag.toNat / 2 ^ 48 ≠ ga.toNat / 2 ^ 48 then .error 0x0007
  else match regionOf (flag.toNat % 2 ^ 50) with
    | .acc _ _ _ => s.target pn flag 4
    | _ => .error 0x0007
/-- A write from outside to these bytes of a pool waits for a live log entry (R249, R265). -/
def State.logged (s : State) : Target × Nat → Bool
  | (.here k (some c), n) =>
    let p := k - poolKey c 0
    (sectorsOf p n).any (fun x => [0, 1, 2, 3].any (fun i => (s.job (coreOf (c.val / 4 * 4 + i))).any (fun j =>
      j.rlogMem.any (fun e => decide (e.core = c ∧ e.p = x * 32)))))
  | _ => false
/-- Write bytes at a target. -/
def State.putTarget (s : State) (t : Target) (bs : List Byte) (bad : Bool) : State := match t with
  | .away => s
  | .here k _ =>
    let s := s.pokeHome k bs
    if bad then s.poisonRun k bs.length else s
/-- A piece of a run meets the Mitten command page of a partition (R331). -/
def State.commandTarget (s : State) (pn : PartId) : Target × Nat → Bool
  | (.here k none, n) => s.meetsCommands pn k n
  | _ => false
/-- Write a run over its pieces, each with its poison (R292); a piece in the command page is for Mitten (R331). -/
def State.putPieces (s : State) (pn : PartId) : List (Target × Nat) → List Byte → List Bool → State
  | [], _, _ => s
  | (t, n) :: l, bs, bad =>
    let s := match t with
      | .here k none => match s.mittenOffset pn k with
        | some o => s.slotWrite pn k o (bs.take n) (bad.headD false)
        | none => s.putTarget t (bs.take n) (bad.headD false)
      | _ => s.putTarget t (bs.take n) (bad.headD false)
    s.putPieces pn l (bs.drop n) bad.tail
/-- The DRAM sectors that a run writes without poison. -/
def cleanSectors : List (Target × Nat) → List Bool → List Nat
  | [], _ => []
  | (.here k none, 32) :: l, bad => if bad.headD false then cleanSectors l bad.tail else k / 32 :: cleanSectors l bad.tail
  | _ :: l, bad => cleanSectors l bad.tail
/-- DRAM lines both of whose sectors are among some lose their poison (R290). -/
def State.cleanLines (s : State) (xs : List Nat) : State :=
  xs.foldl (fun s x => if x % 2 = 0 && xs.contains (x + 1) then s.cleanLine (x / 2) else s) s
/-- Write a run over its pieces for a partition; a DRAM line that it writes whole loses its poison (R290). -/
def State.putRun (s : State) (pn : PartId) (l : List (Target × Nat)) (bs : List Byte) (bad : List Bool) : State :=
  (s.putPieces pn l bs bad).cleanLines (cleanSectors l bad)
/-- The eight adds of a sector (R116, R243). -/
def addSector (old new : List Byte) : List Byte := (List.range (new.length / 4)).flatMap (fun i =>
  leBytes 4 (addF32 (leNat ((old.drop (4 * i)).take 4)) (leNat ((new.drop (4 * i)).take 4))))
/-- Accumulate a run over its pieces. -/
def State.addRun (s : State) : List (Target × Nat) → List Byte → State
  | [], _ => s
  | (.here k c, n) :: l, bs => (s.putTarget (.here k c) (addSector (memBytes s.mem k n) (bs.take n)) false).addRun l (bs.drop n)
  | (.away, n) :: l, bs => s.addRun l (bs.drop n)
/-- A flag gains 1, wrapping at 2^32 (R116). -/
def State.raiseFlag (s : State) : Target → State
  | .here k c => s.putTarget (.here k c) (leBytes 4 (leNat (memBytes s.mem k 4) + 1)) false
  | .away => s

/-! ### Answers and failures (R117, R241, R356, R400) -/

/-- The job that a handle names on a core, wherever its context is, changed. -/
def State.onJobOf (s : State) (c : CoreId) (hd : Handle) (f : Job → Job) : State :=
  let k := s.core c
  match k.job with
  | some j => if j.handle = hd then s.setJob c (f j) else
      s.setCore c { k with slots := k.slots.map (fun x => x.map (fun q => if q.handle = hd then { q with ctx := q.ctx.map f } else q)) }
  | none => s.setCore c { k with slots := k.slots.map (fun x => x.map (fun q => if q.handle = hd then { q with ctx := q.ctx.map f } else q)) }
/-- A released store that failed raises its cause as a request at the job's frontier, with the command's own record (R117); a job that is
stopped finds it when it runs again. -/
def State.failLate (s : State) (c : CoreId) (hd : Handle) (t : TrapRec) : State :=
  let s := s.onJobOf c hd (fun j => j.landAt ⟨frontBound j.front, .late t⟩)
  if (s.core c).slot.any (fun q => q.state = .running && q.handle = hd) then s.markLanding c else s
/-- A released store that failed at its target: cause 0x12 (R117). -/
def State.failStore (s : State) (c : CoreId) (hd : Handle) (o : Origin) (ga : Word) (reason : BitVec 16) : State :=
  s.failLate c hd ⟨0x12, o, 4, reason, ga, 0⟩
/-- A store by global address that is not the supervisor's meets the command page: cause 0x08 (R331). -/
def State.refusesRun (s : State) (pn : PartId) (hd : Handle) (l : List (Target × Nat)) : Bool :=
  !(s.part pn).any (fun p => p.supHandle = hd) && l.any (s.commandTarget pn)
/-- The sub-kind of the record that an answer makes (R400). -/
def RemoteKind.sub : RemoteKind → Nat
  | .read _ => 4
  | _ => 2
/-- An answer fills its entry, with its record. -/
def State.answer (s : State) (k : Nat) (r : Remote) (v : Word) (m : Mark) : State :=
  let s := { s with remotes := s.remotes.eraseIdx k }
  let live := (s.job r.core).any (fun j => decide (j.handle = r.handle) && (match r.kind with
    | .read _ => (j.op r.id).isSome
    | _ => true))
  if !live then s
  else
    let s := s.onJob r.core (fun j => (((j.dropOp r.id).fill r.org.st r.id v m).stir))
    (s.recordArrival r.core r.org r.kind.sub v (m ≠ .none)).settleFront r.core
/-- A request fails with a reason (R103, R117, R356): the entry it was to fill is marked, or the job gets a request for cause 0x12. -/
def State.fail (s : State) (k : Nat) (r : Remote) (reason : BitVec 16) : State := match r.kind with
  | .store _ _ _ _ | .plain _ _ => State.failStore { s with remotes := s.remotes.eraseIdx k } r.core r.handle r.org r.ga reason
  | _ => s.answer k r (Config.freeWord s.tick 0) (.fabric r.ga reason)

/-! ### Requests at their target (R103, R116, R246) -/

/-- An atomic waits at its target: behind an earlier AWAIT of its requester (R248), or for a write of the word that must not show yet (R87). -/
def State.atomicLate (s : State) (r : Remote) (ext : Bool) : Bool := match s.gaCore r.ga with
  | none => false
  | some k =>
    s.awaitAhead k (if ext then .fabric else requester k r.core r.org.st) (fun x j e =>
      if x = r.core ∧ j.handle = r.handle then decide (e.id < r.id) else decide (e.tick < r.tick)) ||
    (s.gaKey r.part r.ga.toNat).any (fun q => s.veiled r.core r.handle k (q - poolKey k 0) 4)
/-- The group of a way drains and its drop time has come: what is outstanding through it completes no more (R361). -/
def State.dropped (s : State) (w : Way) : Bool := w.group.any (fun g =>
  let x := s.groups.get g.toFin
  x.drains && decide (x.dropAt ≤ s.ftime))
/-- A request does not go on now: it stalls, the links that it is to cross retrain (R364), or its group has been dropped (R361). -/
def State.holdsBack (s : State) (r : Remote) : Bool := match r.way with
  | none => true
  | some .inside => !s.carries (s.ownsDie r.part) (dieOf r.core) (dieNo (r.ga.toNat / 2 ^ 48))
  | some w => s.dropped w || w.group.any (fun g => (s.groups.get g.toFin).present && !(s.groups.get g.toFin).up)
/-- The reason of a request that has failed at its source (R351, R353, R356, R361), or whose last path has been lost since: within the package,
among the dies that its partition owns, or out of it (R367). -/
def State.failed (s : State) (r : Remote) : Option (BitVec 16) := match r.way with
  | none => none
  | some (.failed x) => some x
  | some .inside => if (s.diePath (s.ownsDie r.part) (dieOf r.core) (dieNo (r.ga.toNat / 2 ^ 48))).isSome then none else some 0x0004
  | some w =>
    let left := match w with
      | .torus _ _ => (s.routeOut (r.ga.toNat / 2 ^ 48) 8 (dieOf r.core).val Packet.start).isSome
      | _ => false
    if w.group.any (fun g => !(s.groups.get g.toFin).present && !(s.groups.get g.toFin).drains) && !left then some 0x0004 else none
/-- A request's bytes wait at their target for a live log entry (R249), or it has not been sent yet or does not go on: it stalls, or follows
fleet writes that are on their way. Other cores' packets pass it. -/
def State.delayed (s : State) (r : Remote) : Bool :=
  s.holdsBack r || s.fenced r || (match r.kind with
    | .store bs _ flag acc => (match s.targetRun r.part r.ga bs.length acc, s.flagTarget r.part r.ga flag with
        | .ok l, .ok f => l.any s.logged || s.logged (f, 4)
        | _, _ => false)
    | .plain bs _ => (s.target r.part r.ga bs.length).toOption.any (fun t => s.logged (t, bs.length))
    | .atomic _ _ _ ext => s.atomicLate r ext || (s.accTarget r.part r.ga 4).toOption.any (fun t => s.logged (t, 4))
    | _ => false)
/-- The request is a read. -/
def RemoteKind.reads : RemoteKind → Bool
  | .read _ => true
  | _ => false
/-- Two cores and two addresses are of one pair of dies. -/
def onePair (c : CoreId) (ga : Word) (d : CoreId) (gb : Word) : Bool := decide (dieOf c = dieOf d ∧ ga.toNat / 2 ^ 48 = gb.toNat / 2 ^ 48)
/-- A chunk's bytes wait at their target for a live log entry (R249). -/
def State.chunkLogged (s : State) (x : Chunk) : Bool := (s.targetRun x.part x.ga x.bs.length false).toOption.any (fun l => l.any s.logged)
/-- A chunk has left its die for another (R315). -/
def Chunk.out (x : Chunk) : Bool := decide (1 < x.legs.length)
/-- An earlier request from the same die to the same die is still to be applied (R116, R248, R352): of the same core whatever it waits for,
and of another unless it is delayed; reads complete in any order (R103). A chunk that left for the same die before is still to be written
(R315). -/
def State.behind (s : State) (k : Nat) (r : Remote) : Bool :=
  (s.remotes.take k).any (fun x => onePair x.core x.ga r.core r.ga && !(x.kind.reads && r.kind.reads) &&
    ((decide (x.core = r.core) && !x.kind.reads && !r.kind.reads) || !s.delayed x)) ||
  s.chunks.any (fun y => onePair y.core y.ga r.core r.ga && y.out && decide (y.tick < r.tick) && !s.chunkLogged y)
/-- A word read, changed and written at its target; only faddb can refuse, which bit 32 of its answer says (R116, R243). -/
def State.atomicAt (s : State) (k : Nat) (r : Remote) (op : AOp) (v c : BitVec 32) (t : Target) : State := match t with
  | .away => s.answer k r (Config.freeWord s.tick 0 &&& (if op = .faddb then 0x1FFFFFFFF else 0xFFFFFFFF)) .none
  | .here key co =>
    if s.logged (.here key co, 4) then s
    else
      let old : BitVec 32 := BitVec.ofNat 32 (leNat (memBytes s.mem key 4))
      let new := atomicNew op old v c
      (s.putTarget (.here key co) (leBytes 4 new.1.toNat) false).answer k r (atomicOld old new.2) .none
/-- REMOTE_STORE_APPLY (R116, R246, R281): the k-th request is applied at its target, or found to fail there. -/
def State.applyRemote (s : State) (k : Nat) : State := match s.remotes[k]? with
  | none => s
  | some r =>
    if r.way.isNone || s.behind k r || s.fenced r then s
    else match s.failed r with
    | some x => s.fail k r x
    | none => if s.holdsBack r then s else match r.kind with
      | .read _ => s
      | .store bs bad flag acc => match s.targetRun r.part r.ga bs.length acc, s.flagTarget r.part r.ga flag with
        | .error x, _ => s.fail k r x
        | .ok _, .error x => s.fail k r x
        | .ok l, .ok f =>
          if s.refusesRun r.part r.handle l then
            State.failLate { s with remotes := s.remotes.eraseIdx k } r.core r.handle ⟨0x08, r.org, 4, 0, r.ga, 0⟩
          else if l.any s.logged || s.logged (f, 4) then s
          else
            let s := { s with remotes := s.remotes.eraseIdx k }
            (if acc then s.addRun l bs else s.putRun r.part l bs bad).raiseFlag f
      | .plain bs bad => match s.target r.part r.ga bs.length with
        | .error x => s.fail k r x
        | .ok t => if s.logged (t, bs.length) then s else State.putTarget { s with remotes := s.remotes.eraseIdx k } t bs bad
      | .atomic op v c ext => match s.accTarget r.part r.ga 4 with
        | .error x => s.fail k r x
        | .ok t => if s.atomicLate r ext then s else s.atomicAt k r op v c t
      | .hostAtomic pa op v c => s.atomicAt k r op v c (.here pa none)
/-- REMOTE_STORE_APPLY (R116). -/
def execRemoteStoreApply (k : Nat) (s : State) : Host.Outcome State Fault Refusal := .next (s.applyRemote k)
/-- The bytes that a read finds at a key with their poison: a job sees its own stores that have still to be written (R119). -/
def State.readFor (s : State) (r : Remote) (key n : Nat) : List (Byte × Option Nat) :=
  let l := (s.keyBytes key n).bytes
  match s.job r.core with
  | some j => if j.handle = r.handle then s.seenBytes r.core j key l else l
  | none => l
/-- REMOTE_READ (R103, R276): the k-th request, a read, is answered; a poisoned line marks the entry with poison. What another module
answers, and whether its line is poisoned, is free. What must not show yet it waits for (R87). -/
def State.readRemote (s : State) (k : Nat) : State := match s.remotes[k]? with
  | none => s
  | some r =>
    if r.way.isNone || s.behind k r then s
    else match s.failed r with
    | some x => if r.kind.reads then s.fail k r x else s
    | none => if s.holdsBack r then s else match r.kind with
    | .read ty => match s.target r.part r.ga (tyBytes ty) with
      | .error x => s.fail k r x
      | .ok .away => s.answer k r (extendElem ty.toNat ((Config.freeWord s.tick 0).toNat % 2 ^ tyWidth ty.toNat))
          (if (Config.freeWord s.tick 54).getLsbD 0 then .poison (r.ga.toNat % 2 ^ 50) else .none)
      | .ok (.here key c) =>
        if c.any (fun c => s.veiled r.core r.handle c (key - poolKey c 0) (tyBytes ty)) then s
        else
          let g : Got := ⟨s.readFor r key (tyBytes ty), none⟩
          s.answer k r (extendElem ty.toNat g.nat) g.mark
    | _ => s
/-- REMOTE_READ (R103). -/
def execRemoteRead (k : Nat) (s : State) : Host.Outcome State Fault Refusal := .next (s.readRemote k)
/-- A request goes beyond this module, or to the host. -/
def State.leaves (s : State) (r : Remote) : Bool := decide (r.ga.toNat / 2 ^ 50 ≠ s.module.node.toNat) || (match r.kind with
  | .hostAtomic _ _ _ _ => true
  | _ => false)
/-- The reasons with which a request that has left the module may fail on its way or at its target (R356): those of its source and of the
time limit are this module's to find, BADPLACE is of requests that are no read, TRANSPORT is Ultra Ethernet's, and POISONED is of atomics and
accumulations. -/
def Remote.mayFail (r : Remote) (reason : BitVec 16) : Bool := match reason.toNat with
  | 1 | 4 | 5 | 6 | 8 => true
  | 7 => !r.kind.reads
  | 9 => match r.way with
    | some (.ether _ _) => true
    | _ => false
  | 10 => match r.kind with
    | .atomic _ _ _ _ | .store _ _ _ true => true
    | _ => false
  | _ => false
/-- REMOTE_FAILURE of a request (R117, R241, R356): one that leaves the module fails on its way or at its target; one that stays fails with
the reason that its source or its target gives. A host completion with an error status has any reason (R241). -/
def State.failRequest (s : State) (k : Nat) (reason : BitVec 16) (r : Remote) : State :=
  if r.way.isNone then s
  else match s.failed r with
  | some x => s.fail k r x
  | none => if s.holdsBack r then s
    else if s.leaves r then (match r.kind with
      | .hostAtomic _ _ _ _ => if 1 ≤ reason.toNat ∧ reason.toNat ≤ 10 then s.fail k r reason else s
      | _ => if r.mayFail reason then s.fail k r reason else s)
    else match s.target r.part r.ga 4 with
      | .error x => s.fail k r x
      | .ok _ => s
/-- The cycles that a request may take (R356): 10 µs × TOUT of its group while that drains, 1 ms otherwise. -/
def State.limit (s : State) (w : Way) : Nat := match (w.group.map (fun g => s.groups.get g.toFin)).filter Group16.drains with
  | some g => 12500 * g.tout.toNat
  | none => 1250000
/-- A request of a way has not been answered within its limit since a time. -/
def State.overdue (s : State) (w : Way) (sentAt : Word) : Bool := decide (s.limit w ≤ (s.ftime - sentAt).toNat)
/-- The k-th request has waited for its limit, that of the group at which it stalls if it stalls, or is outstanding at the drop time of its
group (R361): it fails with TIMEOUT (R356). -/
def State.timeoutRequest (s : State) (k : Nat) (r : Remote) : State := match r.way with
  | none => if s.overdue (s.route r.part (dieOf r.core) r.ga) r.sentAt then s.fail k r 0x0003 else s
  | some w => if s.overdue w r.sentAt || s.dropped w then s.fail k r 0x0003 else s
/-- The k-th chunk is there no more; the slots that it took stay taken, while they pass (R311). -/
def State.eraseChunk (s : State) (k : Nat) (x : Chunk) : State :=
  { s with chunks := s.chunks.eraseIdx k, legs := (s.legs ++ x.legs).filter (fun l => decide (s.ftime.toNat ≤ l.left + 32)) }
/-- The k-th chunk fails with a reason (R117, R311). -/
def State.failChunk (s : State) (k : Nat) (x : Chunk) (reason : BitVec 16) : State :=
  (s.eraseChunk k x).failStore x.core x.handle x.org x.ga reason
/-- The reasons with which a chunk that has left the module may fail on its way or at its target (R356). -/
def Chunk.mayFail (x : Chunk) (reason : BitVec 16) : Bool := match reason.toNat with
  | 1 | 4 | 5 | 6 | 8 => true
  | 9 => match x.way with
    | .ether _ _ => true
    | _ => false
  | _ => false
/-- A chunk has left the module. -/
def State.chunkAway (s : State) (x : Chunk) : Bool := x.final && decide (x.ga.toNat / 2 ^ 50 ≠ s.module.node.toNat)
/-- REMOTE_FAILURE (R117, R241, R356): the k-th request fails, or beyond the requests a chunk that has left the module. -/
def State.failRemote (s : State) (k : Nat) (reason : BitVec 16) : State := match s.remotes[k]? with
  | some r => s.failRequest k reason r
  | none => match s.chunks[k - s.remotes.length]? with
    | some x => if s.chunkAway x && !s.dropped x.way && x.mayFail reason then s.failChunk (k - s.remotes.length) x reason else s
    | none => s
/-- REMOTE_FAILURE (R117). -/
def execRemoteFailure (k : Nat) (reason : BitVec 16) (s : State) : Host.Outcome State Fault Refusal := .next (s.failRemote k reason)
/-- REQUEST_TIMEOUT (R356): of the k-th request, or beyond the requests of a chunk. -/
def State.timeoutRemote (s : State) (k : Nat) : State := match s.remotes[k]? with
  | some r => s.timeoutRequest k r
  | none => match s.chunks[k - s.remotes.length]? with
    | some x => if s.overdue x.way x.sentAt || s.dropped x.way then s.failChunk (k - s.remotes.length) x 0x0003 else s
    | none => s
/-- REQUEST_TIMEOUT (R356). -/
def execRequestTimeout (k : Nat) (s : State) : Host.Outcome State Fault Refusal := .next (s.timeoutRemote k)

/-! ### SEND (R310, R311, R315) -/

/-- The bytes of the chunk that departs, with their poison. -/
def State.chunkBytes (s : State) (x : Sending) (n : Nat) : List Byte × List Bool :=
  let a := x.src + BitVec.ofNat 64 x.sent
  match s.job x.core with
  | some j => match s.scratchRun (s.who x.core j) a n with
    | .ok (k, p) => (memBytes s.mem (poolKey k p) n, (pieces (poolKey k p) n).map (fun y => (s.poisonAt y.1 y.2).isSome))
    | .error _ => (leBytes n (Config.freeWord s.tick 0).toNat, [])
  | none => (leBytes n (Config.freeWord s.tick 0).toNat, [])
/-- The way of a SEND's next chunk with what leads it from its die; none while it has to wait: it stalls, or is held by a new route epoch
(R352). -/
def State.sendWay (s : State) (x : Sending) : Except (BitVec 16) (Option (Way × Leads × Packet)) :=
  let ga := x.ga + BitVec.ofNat 64 x.sent
  match s.wayOf x.part (dieOf x.core) ga with
  | none => .ok none
  | some w => if s.holdsNew s.remotes.length (dieOf x.core) (ga.toNat / 2 ^ 48) w then .ok none
    else (s.leads x.part (dieOf x.core) ga w Packet.start false).map (fun l => l.map (fun l => (w, l.1, l.2)))
/-- The slot in which the next chunk of a SEND departs (R311): the first that passes the sender's stop from its earliest cycle on and has not
gone by; none while the chunk has to wait. -/
def State.departure (s : State) (x : Sending) : Option Nat :=
  if s.spreadBefore x.core x.handle (fun o => decide (o.seq < x.fence)) then none
  else match s.sendWay x with
    | .ok (some _) => s.firstSlot x.part (ringOf (dieOf x.core) x.ccw) (stopOf x.core) (Nat.max x.earliest s.ftime.toNat)
    | _ => none
/-- What leads a chunk on from the router that it has reached or will reach, with the packet as it goes on. -/
def State.chunkLeads (s : State) (x : Chunk) : Except (BitVec 16) (Option (Leads × Packet)) := s.leads x.part x.die x.ga x.way x.packet true
/-- The slot that carries a chunk on from the router that it has reached or will reach (R347): the first on its next link or ring from its
arrival on that has not gone by. A group that is not aligned reserves nothing (R346); Ultra Ethernet has no slots. -/
def State.onward (s : State) (x : Chunk) : Option Nat :=
  let t := Nat.max x.arrives s.ftime.toNat
  if x.final then none else match s.chunkLeads x with
  | .ok (some (.edge g free, _)) => if free then some t
      else if (s.groupNo g).talign then s.firstSlot x.part (24 + g) 0 t else none
  | .ok (some (l, _)) => s.firstSlot x.part (l.table x.die x.ccw) x.stop t
  | _ => none
/-- The slot table on which a chunk goes on. -/
def State.chunkTable (s : State) (x : Chunk) : Option Nat := match s.chunkLeads x with
  | .ok (some (l, _)) => some (l.table x.die x.ccw)
  | _ => none
/-- Slots are taken in the order of time: nothing takes one before a time (R310, R311, R347). Chunks at routers go before a SEND's next
chunk, and chunks of the cores of one cluster in the order of their departure cycles and cores. -/
def State.slotFirst (s : State) (t : Nat) (chunk : Option (Chunk × Nat)) (send : Option Sending) : Bool :=
  s.chunks.zipIdx.all (fun y => (s.onward y.1).all (fun u => decide (t < u) || (decide (t = u) && (match chunk with
    | some (x, k) => decide (x.arrives < y.1.arrives ∨ (x.arrives = y.1.arrives ∧ k ≤ y.2))
    | none => send.any (fun x => decide (some (ringOf (dieOf x.core) x.ccw) ≠ s.chunkTable y.1)))))) &&
  s.sendings.all (fun y => (s.departure y).all (fun u => decide (t < u) || (decide (t = u) && send.all (fun x =>
    decide (x = y ∨ x.core.val / 4 ≠ y.core.val / 4 ∨ x.ccw ≠ y.ccw ∨ x.earliest < y.earliest ∨ (x.earliest = y.earliest ∧ x.core ≤ y.core))))))
/-- The chunk of a SEND that departs in a slot (R310, R311): it is written when it has come to a target of the die, and eight cycles later; one
for another die comes to the router at the end of its ring. -/
def State.chunkOf (s : State) (x : Sending) (t : Nat) (w : Way) (l : Leads) (p : Packet) : Chunk :=
  let n := Nat.min 64 (x.n - x.sent)
  let b := s.chunkBytes x n
  let d := dieOf x.core
  let hops := hopsFrom x.ccw (stopOf x.core) (l.stop d)
  let final := match l with
    | .target _ => true
    | _ => false
  { core := x.core, handle := x.handle, part := x.part, sendId := x.id, org := x.org, ga := x.ga + BitVec.ofNat 64 x.sent, bs := b.1, bad := b.2
    last := decide (x.n ≤ x.sent + n), ccw := x.ccw, legs := [⟨ringOf d x.ccw, stopOf x.core, hops, t⟩], die := d, stop := l.stop d
    arrives := t + 2 * hops + (if final then 8 else 0), final := final
    packet := match l with
      | .target _ => p
      | _ => Packet.start
    way := w, epoch := s.module.routeEpoch, sentAt := s.ftime, tick := s.tick }
/-- The SENDs left once a chunk of one has departed at a time. -/
def State.sentOne (s : State) (x : Sending) (t : Nat) : List Sending :=
  let n := Nat.min 64 (x.n - x.sent)
  if x.n ≤ x.sent + n then s.sendings.erase x
  else s.sendings.map (fun y => if y = x then { y with sent := y.sent + n, earliest := t + 1 } else y)
/-- SEND_CHUNK_DEPARTURE (R311): the next chunk departs in its slot, once that has come and nothing takes one before it. A SEND to a die
that cannot be reached fails (R117, R351, R353, R361, R367). -/
def State.departChunk (s : State) (c : CoreId) (id : Nat) : State := match s.sendings.find? (fun x => decide (x.core = c ∧ x.id = id)) with
  | none => s
  | some x =>
    if s.spreadBefore x.core x.handle (fun o => decide (o.seq < x.fence)) then s
    else match s.sendWay x, s.departure x with
    | .error r, _ => State.failStore { s with sendings := s.sendings.erase x } x.core x.handle x.org x.ga r
    | .ok (some (w, l, p)), some t =>
      if s.ftime.toNat < t || !s.slotFirst t none (some x) then s
      else State.numbered { s with chunks := s.chunks ++ [s.chunkOf x t w l p], sendings := s.sentOne x t } (dieOf c) ((x.ga + BitVec.ofNat 64 x.sent).toNat / 2 ^ 48) w
    | _, _ => s
/-- SEND_CHUNK_DEPARTURE (R311). -/
def execSendChunkDeparture (core : CoreId) (id : Nat) (s : State) : Host.Outcome State Fault Refusal := .next (s.departChunk core id)
/-- A chunk goes on from the router of a die in a slot (R311, R315, R347): over a ring to its target, over a die link in 40 cycles, or out of
the module in 160; what follows there is free (assumption 48). Ultra Ethernet takes no slot. -/
def State.chunkOn (s : State) (x : Chunk) (t : Nat) (l : Leads) (p : Packet) : Chunk :=
  let x := { x with packet := p, tick := if x.out then x.tick else s.tick }
  match l with
  | .target k =>
    let hops := hopsFrom x.ccw x.stop k
    { x with legs := x.legs ++ [⟨ringOf x.die x.ccw, x.stop, hops, t⟩], stop := k, arrives := t + 2 * hops + 8, final := true }
  | .link l e => { x with legs := x.legs ++ [⟨linkTable l x.die, 0, 0, t⟩], die := e, stop := Config.linkStop l.val e % 16, arrives := t + 40 }
  | .edge g free =>
    { x with
      legs := x.legs ++ [⟨if free then 64 else 24 + g, 0, 0, t⟩]
      arrives := t + 160 + Config.freeCycles s.tick
      final := true
      way := match x.way with
        | .torus _ _ => .torus (BitVec.ofNat 4 g) (BitVec.ofNat 2 p.channel)
        | w => w }
/-- A chunk is written after another (R311, R315): of the same SEND, or of the same die for the same die, the first to arrive there on one die,
and between two the first to have left. -/
def Chunk.after (x y : Chunk) (later : Bool) : Bool :=
  let first := decide (y.arrives < x.arrives) || (decide (y.arrives = x.arrives) && later)
  if x.core = y.core ∧ x.sendId = y.sendId then first
  else onePair y.core y.ga x.core x.ga && (if x.out then y.out && decide (y.tick < x.tick) else !y.out && first)
/-- Something earlier is still to be written or applied (R311, R315): a chunk, or a request that has left for the same other die; what waits
for a log entry is passed, but by chunks of its own SEND. -/
def State.chunkBehind (s : State) (k : Nat) (x : Chunk) : Bool :=
  s.chunks.zipIdx.any (fun y => decide (y.2 ≠ k) && x.after y.1 (decide (y.2 < k)) &&
    (decide (y.1.core = x.core ∧ y.1.sendId = x.sendId) || !s.chunkLogged y.1)) ||
  (x.out && s.remotes.any (fun r => onePair r.core r.ga x.core x.ga && decide (r.tick < x.tick) && !s.delayed r))
/-- SEND_CHUNK_ARRIVAL (R249, R311, R347, R351): the k-th chunk goes on from the router that it has reached, in its slot, or fails there, or is
written at its target in its order, or fails there by R117. What was outstanding at its group's drop time times out (R361). -/
def State.arriveChunk (s : State) (k : Nat) : State := match s.chunks[k]? with
  | none => s
  | some x =>
    if s.ftime.toNat < x.arrives then s
    else if !x.final then match s.chunkLeads x, s.onward x with
      | .error r, _ => s.failChunk k x r
      | .ok (some (l, p)), some t =>
        if s.ftime.toNat < t || !s.slotFirst t (some (x, k)) none then s else { s with chunks := s.chunks.set k (s.chunkOn x t l p) }
      | _, _ => s
    else if s.chunkBehind k x || s.dropped x.way then s
    else
      let gone := s.eraseChunk k x
      match s.targetRun x.part x.ga x.bs.length false with
      | .error r => gone.failStore x.core x.handle x.org x.ga r
      | .ok l =>
        if s.refusesRun x.part x.handle l then gone.failLate x.core x.handle ⟨0x08, x.org, 4, 0, x.ga, 0⟩
        else if l.any s.logged then s else ((gone.putRun x.part l x.bs x.bad).settleFront x.core)
/-- The chunk's slot, or its writing, is due at a time: no cycle passes it by while nothing holds the chunk back (R311). -/
def State.chunkDue (s : State) (k : Nat) (x : Chunk) : Option Nat :=
  if !x.final then s.onward x
  else if s.chunkBehind k x || s.dropped x.way || s.chunkLogged x then none else some x.arrives
/-- SEND_CHUNK_ARRIVAL (R311). -/
def execSendChunkArrival (k : Nat) (s : State) : Host.Outcome State Fault Refusal := .next (s.arriveChunk k)

/-! ### PUB and TLBI (R112, R286, R288) -/

/-- PUB_FLIP (R112, R288): a released PUB exchanges the images of its buffer, once the earlier writes of its stream to shadow images are there. -/
def State.pubFlip (s : State) (k : Nat) : State := match s.services[k]? with
  | some x => match x.kind with
    | .pub n => if s.fleet.any (fun m => (m.shadowOf x.core x.handle).any (fun o => decide (o.st = x.org.st ∧ o.seq < x.id))) then s else State.flipImages { s with services := s.services.eraseIdx k } n
    | _ => s
  | none => s
/-- PUB_FLIP (R112). -/
def execPubFlip (k : Nat) (s : State) : Host.Outcome State Fault Refusal := .next (s.pubFlip k)
/-- A cached translation lies in the scope of a TLBI of a core (R285). -/
def TlbEntry.inScope (t : TlbEntry) (c : CoreId) (scope : Nat) : Bool := match scope with
  | 2 => !t.l2 && decide (t.core = c)
  | 3 => decide (t.core.val / 4 = c.val / 4)
  | 4 => decide (dieOf t.core = dieOf c)
  | _ => true
/-- A non-leaf entry of a walker lies in the scope of a TLBI of a core (R285). -/
def WalkEntry.inScope (e : WalkEntry) (c : CoreId) (scope : Nat) : Bool := match scope with
  | 2 | 3 => false
  | 4 => decide (e.die = dieOf c)
  | _ => true
/-- A core lies in the scope of a TLBI of another (R285). -/
def coreInScope (k c : CoreId) (scope : Nat) : Bool := match scope with
  | 2 => k = c
  | 3 => decide (k.val / 4 = c.val / 4)
  | 4 => decide (dieOf k = dieOf c)
  | _ => true
/-- The stores of a partition's jobs that an address translation has been used for and that have still to be performed (R286): held ones of
cores in scope whose address `hit` allows, and those on their way. -/
def State.translated (s : State) (pn : PartId) (inScope : CoreId → Bool) (hit : Nat → Bool) : List (CoreId × Handle × Nat) :=
  ((List.range 256).map coreOf).flatMap (fun c => match s.job c with
    | some j => if j.part = pn ∧ inScope c then
        (j.held.filter (fun h => h.page.any hit)).map (fun h => (c, j.handle, h.id)) else []
    | none => []) ++
  (s.remotes.filter (fun r => decide (r.part = pn ∧ inScope r.core) && (match r.kind with
    | .plain _ _ | .hostAtomic _ _ _ _ | .atomic _ _ _ _ => true
    | _ => false))).map (fun r => (r.core, r.handle, r.id)) ++
  (s.fleet.filter FleetMsg.isWrite).filterMap (fun m => (m.writer.filter (fun x => inScope x.core)).map (fun x => (x.core, x.handle, x.org.seq)))
/-- A store is still held or on its way. -/
def State.unperformed (s : State) (x : CoreId × Handle × Nat) : Bool :=
  (s.job x.1).any (fun j => decide (j.handle = x.2.1) && j.held.any (fun h => h.id = x.2.2 && h.page.isSome)) ||
  s.remotes.any (fun r => decide (r.core = x.1 ∧ r.handle = x.2.1 ∧ r.id = x.2.2)) || s.fleetBefore x.1 x.2.1 (fun o => decide (o.seq = x.2.2))
/-- A TLBI has done its work: D receives 1. -/
def State.tlbiDone (s : State) (k : Nat) (x : Service) : State :=
  State.fillEntryOf { s with services := s.services.eraseIdx k } x.core x.handle x.org.st x.id 1 .none
/-- TLBI_EXECUTE (R285, R286): once the job's earlier stores have been performed the entries in scope go; once every store that was
translated by one of them has been performed or discarded, D receives 1. -/
def State.tlbiRun (s : State) (k : Nat) : State := match s.services[k]? with
  | some x => match x.kind, x.waits with
    | .tlbi _ _ _, some l => if l.any s.unperformed then s else s.tlbiDone k x
    | .tlbi tenant scope a, none =>
      let stores := s.fleetBefore x.core x.handle (fun o => decide (o.stamp.coord ≤ x.org.stamp.coord)) ||
        s.remotes.any (fun r => decide (r.core = x.core ∧ r.handle = x.handle ∧ r.org.stamp.coord ≤ x.org.stamp.coord) && r.kind.silent)
      if stores && decide (2 < scope.toNat) then s
      else
        let hit (t : TlbEntry) : Bool := decide (t.part = x.part) && t.inScope x.core scope.toNat &&
          (tenant || decide (t.va ≤ a.toNat ∧ a.toNat < t.va + t.size))
        let gone := s.tlb.filter hit
        let l := s.translated x.part (fun c => coreInScope c x.core scope.toNat) (fun p => tenant || decide (p / 65536 = a.toNat / 65536) ||
          gone.any (fun t => decide (t.va ≤ p ∧ p < t.va + t.size)))
        let x := { x with waits := some l }
        let s := { s with
          services := s.services.set k x
          tlb := s.tlb.filter (fun t => !hit t)
          walker := s.walker.filter (fun e => !(decide (e.part = x.part) && e.inScope x.core scope.toNat && (tenant || e.covers a.toNat))) }
        if l.any s.unperformed then s else s.tlbiDone k x
    | _, _ => s
  | none => s
/-- TLBI_EXECUTE (R286). -/
def execTlbiExecute (k : Nat) (s : State) : Host.Outcome State Fault Refusal := .next (s.tlbiRun k)

/-! ### Waits for log entries, and the patrol scrubber (R249, R290) -/

/-- LOG_WAIT_RELEASE (R249): the k-th write that waits for a log entry is made once none is live. -/
def State.releaseLogWait (s : State) (k : Nat) : State := match s.logWaits[k]? with
  | some w => match w.place with
    | .pool c p => if s.logged (.here (poolKey c p) (some c), w.bs.length) then s
      else State.pokeClear { s with logWaits := s.logWaits.eraseIdx k } (poolKey c p) w.bs
    | .mem pa => State.pokeHome { s with logWaits := s.logWaits.eraseIdx k } pa w.bs
  | none => s
/-- LOG_WAIT_RELEASE (R249). -/
def execLogWaitRelease (k : Nat) (s : State) : Host.Outcome State Fault Refusal := .next (s.releaseLogWait k)
/-- PATROL_SCRUB (R290): the scrubber reads a line of a die's DRAM; one with an error that cannot be corrected is poisoned. -/
def State.patrol (s : State) (d : DieId) (line : Nat) (bad : Bool) : State :=
  if bad && decide (line * 64 < 0x1800000000) then (s.poisonRun (d.val * 2 ^ 48 + line * 64) 64).report (.patrol d line) else s
/-- PATROL_SCRUB (R290). -/
def execPatrolScrub (die : DieId) (line : Nat) (bad : Bool) (s : State) : Host.Outcome State Fault Refusal := .next (s.patrol die line bad)

/-! ### Fleet messages (R315, R317 to R319) -/

/-- a ≥ b, modulo 2^32 (R319). -/
def clockGe (a b : BitVec 32) : Bool := decide ((a - b).toNat < 2 ^ 31)
/-- The gate of R318: a write with clock v of die s may be applied at die e; dies across a split are not awaited (R367). -/
def Die.gate (d : Die) (v : Vector (BitVec 32) 4) (e s : DieId) : Bool :=
  decide (d.clock.get s = v.get s - 1) &&
    ([0, 1, 2, 3] : List DieId).all (fun k => decide (k = s ∨ k = e) || d.cut.contains k || clockGe (d.clock.get k) (v.get k))
/-- Every counter but one's own has reached those of a clock. -/
def Die.reached (d : Die) (q : Vector (BitVec 32) 4) (own : DieId) : Bool :=
  ([0, 1, 2, 3] : List DieId).all (fun k => decide (k = own) || d.cut.contains k || clockGe (d.clock.get k) (q.get k))
/-- The line whose copy at a die a message concerns. -/
def FleetMsg.copyOf : FleetMsg → Option (DieId × Nat)
  | .update dst _ ln _ _ _ _ _ => some (dst, ln)
  | .line dst _ ln _ _ _ => some (dst, ln)
  | _ => none
/-- An earlier message to the same copy is on its way (R315). -/
def State.queuedBefore (s : State) (k : Nat) (x : DieId × Nat) : Bool := (s.fleet.take k).any (fun m => decide (m.copyOf = some x))
/-- Clock counter k of a die becomes that of a message. -/
def State.setCount (s : State) (d k : DieId) (v : Vector (BitVec 32) 4) : State := s.setClock d ((s.dies.get d).clock.set k (v.get k))
/-- FLEET_WRITE_ARRIVAL (R318): the write is applied at its home and forwarded. One to a PUBLISH page takes the image that is the shadow when
it arrives, and completes there (R37, R288). -/
def State.fleetWrite (s : State) (k : Nat) : State := match s.fleet[k]? with
  | some (.write src home line off bs v bad whole pub by_) =>
    if !(s.dies.get home).gate v home src || !s.carries (fun _ => true) src home then s
    else
      let pa := s.writePa (.mem (line * 64 + off) pub false false)
      let s := State.pokeClear { s with fleet := s.fleet.eraseIdx k } pa bs
      let s := if bad then s.poisonRun pa bs.length else if whole then s.cleanLine (pa / 64) else s
      let s := (s.setCount home src v).forward home src pa bs v by_
      match pub, by_ with
      | some _, some x => s.settleFront x.core
      | _, _ => s
  | _ => s
/-- FLEET_WRITE_ARRIVAL (R318). -/
def execFleetWriteArrival (k : Nat) (s : State) : Host.Outcome State Fault Refusal := .next (s.fleetWrite k)
/-- FLEET_UPDATE_ARRIVAL (R318): an update changes the copy that its die holds; update and tick move its clock. -/
def State.fleetUpdate (s : State) (k : Nat) : State := match s.fleet[k]? with
  | some (.update dst src line off bs v bad _) =>
    if !(s.dies.get dst).gate v dst src || s.queuedBefore k (dst, line) || !s.carries (fun _ => true) (homeOf line) dst then s
    else
      let d := s.dies.get dst
      let d := { d with cache := d.cache.map (fun l => if l.line = line then
        { l with bytes := l.bytes.take off ++ bs ++ l.bytes.drop (off + bs.length), bad := bad } else l) }
      State.setCount { s with fleet := s.fleet.eraseIdx k, dies := s.dies.set dst d } dst src v
  | some (.tick dst src v _) =>
    if !(s.dies.get dst).gate v dst src || !s.carries (fun _ => true) src dst then s else State.setCount { s with fleet := s.fleet.eraseIdx k } dst src v
  | _ => s
/-- FLEET_UPDATE_ARRIVAL (R318). -/
def execFleetUpdateArrival (k : Nat) (s : State) : Host.Outcome State Fault Refusal := .next (s.fleetUpdate k)
/-- FLEET_FETCH (R318): the home sets the reader's directory bit and returns the line. -/
def State.fleetFetch (s : State) (k : Nat) : State := match s.fleet[k]? with
  | some (.fetch src home line q) =>
    let h := s.dies.get home
    if !h.reached q home || !s.carries (fun _ => true) src home then s
    else
      let dir := if h.directory.contains (line, src) then h.directory else (line, src) :: h.directory
      { s with
        dies := s.dies.set home { h with directory := dir }
        fleet := s.fleet.eraseIdx k ++ [.line src home line (memBytes s.mem (line * 64) 64) h.clock (s.poisonAt (line * 64) 64).isSome] }
  | _ => s
/-- FLEET_FETCH (R318). -/
def execFleetFetch (k : Nat) (s : State) : Host.Outcome State Fault Refusal := .next (s.fleetFetch k)
/-- The lines that a fleet cache holds (R318): 4 MiB. -/
def fleetLines : Nat := 65536
/-- FLEET_FETCH_RECEIPT (R318): the reader fills its copy; a full cache gives up some line (assumption 24). -/
def State.fleetReceipt (s : State) (k : Nat) : State := match s.fleet[k]? with
  | some (.line dst home line bs v bad) =>
    let d := s.dies.get dst
    if !d.reached v dst || s.queuedBefore k (dst, line) || !s.carries (fun _ => true) home dst then s
    else
      let rest := d.cache.filter (fun l => l.line ≠ line)
      let rest := if fleetLines ≤ rest.length then rest.eraseIdx ((Config.freeWord s.tick 53).toNat % rest.length) else rest
      { s with fleet := s.fleet.eraseIdx k, dies := s.dies.set dst { d with cache := rest ++ [⟨line, bs, bad⟩] } }
  | _ => s
/-- FLEET_FETCH_RECEIPT (R318). -/
def execFleetFetchReceipt (k : Nat) (s : State) : Host.Outcome State Fault Refusal := .next (s.fleetReceipt k)

end Sys2Proof.Machine
end

