-- ==== Sys2Proof/Machine/Mitten.lean ====
section
/-!
DEFINITION. Mitten (R299, R300, R331 to R333, R342, R418): the supervisor's commands and the saves without a command.
-/
namespace Sys2Proof.Machine

/-- The jobs of a launch that are STOPPED on their cores. -/
def State.stoppedCores (s : State) (hd : Handle) : List CoreId := (s.coresOf hd).filter (fun c =>
  (s.core c).slot.any (fun q => decide (q.state = .stopped ∧ q.handle = hd)) && (s.job c).isSome)
/-- A SAVELIVE keeps only the live ranges of a job that landed SOFT (R331). -/
def Job.savesLive (j : Job) (live : Bool) : Bool := live && decide (j.stopst.toNat / 2 ^ 60 = 7)
/-- The stopped job of a launch on a core is saved, its core scrubbed, and the core is free (R331 to R333). -/
def State.saveOn (s : State) (hd : Handle) (c : CoreId) (live : Bool) : Except AFault State := match (s.core c).on, (s.core c).slot, s.job c with
  | some i, some q, some j =>
    if q.state ≠ .stopped ∨ q.handle ≠ hd then .ok s
    else (s.saveJob c i q j (j.savesLive live)).map (fun t => t.setCore c { t.core c with on := none, job := none })
  | _, _, _ => .ok s
/-- The launch's job on every one of some cores is saved. -/
def State.saveAll (s : State) (hd : Handle) (live : Bool) (cs : List CoreId) : Except AFault State := cs.foldlM (fun (s : State) c => s.saveOn hd c live) s

/-! ### Commands (R331, R342, R418) -/

/-- RESULT goes into the command's slot; it is no command. -/
def State.putResult (s : State) (pn : PartId) (slot n : Nat) : State := match s.part pn with
  | some p => (s.partWrite pn (p.mcmdva.toNat + 32 * slot + 16) (leBytes 8 n)).toOption.getD s
  | none => s
/-- What RESULT is: 3 malformed or an area that fails its check, 2 no such job of the partition, 1 no job of the launch STOPPED, 0 done. -/
def State.mittenResult (s : State) (pn : PartId) (m : MittenCmd) : Nat :=
  if !m.ok then 3
  else if s.partOfHandle m.handle ≠ some pn then 2
  else if (s.stoppedCores m.handle).isEmpty then 1
  else if (s.saveAll m.handle (m.op = 2) (s.stoppedCores m.handle)).toOption.isNone then 3
  else 0
/-- Mitten takes up the oldest command when it is the one of a slot and of this kind: RESULT is written, and the save begins. Commands
are handled in the order of their arrival, one at a time. -/
def State.takeCommand (s : State) (pn : PartId) (slot : Nat) (live : Bool) : State := match s.part pn with
  | none => s
  | some p => match p.mitten with
    | [] => s
    | m :: rest =>
      if m.slot ≠ slot || m.taken || decide (m.op = 2) != live then s
      else
        let n := s.mittenResult pn m
        let s := s.setPart pn { p with mitten := { m with taken := true } :: rest }
        let cores := if n = 0 then s.stoppedCores m.handle else []
        State.putResult { s with saves := s.saves ++ [⟨pn, m.handle, some slot, live, cores⟩] } pn slot n
/-- MITTEN_SAVE (R331): the oldest command, a SAVE or one that is malformed, is taken up. -/
def execMittenSave (p : PartId) (slot : Nat) (s : State) : Host.Outcome State Fault Refusal := .next (s.takeCommand p slot false)
/-- MITTEN_SAVELIVE (R331). -/
def execMittenSavelive (p : PartId) (slot : Nat) (s : State) : Host.Outcome State Fault Refusal := .next (s.takeCommand p slot true)

/-- The word that FLAG of a command names, where it can be incremented: an accumulator word that the partition reaches (R116, R331). -/
def State.mittenFlag (s : State) (pn : PartId) (flag : Word) : Option Target := match regionOf (flag.toNat % 2 ^ 50) with
  | .acc _ _ _ => (s.target pn flag 4).toOption
  | _ => none
/-- FLAG gains 1 and the slot is free for a new command; the increment waits for a live log entry (R249, R265, R331). -/
def State.endCommand (s : State) (k : Nat) (x : Saving) : State := match s.part x.part with
  | none => { s with saves := s.saves.eraseIdx k }
  | some p =>
    let flag := ((p.mitten.find? (fun m => m.taken)).map MittenCmd.flag).getD 0
    let t := s.mittenFlag x.part flag
    if t.any (fun t => s.logged (t, 4)) then s
    else
      let s := State.setPart { s with saves := s.saves.eraseIdx k } x.part { p with mitten := p.mitten.filter (fun m => !m.taken) }
      match t with
      | some t => s.raiseFlag t
      | none => s
/-- MITTEN_SAVE_DONE (R299, R300, R332, R342, R418): the k-th save is completed: contexts, scrub and SAVED, then FLAG. One that fails leaves
its jobs STOPPED. -/
def State.saveDone (s : State) (k : Nat) : State := match s.saves[k]? with
  | none => s
  | some x => match x.slot with
    | none => match s.saveAll x.handle false x.cores with
      | .ok t => { t with saves := t.saves.eraseIdx k }
      | .error _ => { s with saves := s.saves.eraseIdx k }
    | some n =>
      let s := match s.saveAll x.handle x.live x.cores with
        | .ok t => t
        | .error _ => s.putResult x.part n 3
      State.endCommand { s with saves := s.saves.set k { x with cores := [] } } k { x with cores := [] }
/-- MITTEN_SAVE_DONE (R342). -/
def execMittenSaveDone (k : Nat) (s : State) : Host.Outcome State Fault Refusal := .next (s.saveDone k)

end Sys2Proof.Machine
end

