-- ==== Sys2Proof/Machine/Host.lean ====
section
/-!
DEFINITION. The host port and function 0 (R238, R241, R321 to R329, R335 to R341): mailboxes, BAR2, registers, the supervisor's status,
teardown, attestation, Brim's requests, power and bring-up.
-/
namespace Sys2Proof.Machine

/-! ### Mailboxes, BAR2 and AtomicOps (R241, R325, R326) -/

/-- The partition of a virtual function (R321), once the host has enabled them. -/
def State.vf (s : State) (pn : PartId) : Option Partition := if s.module.vfEnable then s.part pn else none
/-- A message for a mailbox (R326, R329). -/
def Partition.mail (p : Partition) (n : BitVec 4) (msg : List Byte) (whole : Bool) : Partition :=
  let box := p.mailboxes.get n.toFin
  if !whole || decide (msg.length ≠ 64) then { p with badcnt := p.badcnt + 1 }
  else if p.down || decide (8 ≤ box.length) then { p with ovfcnt := p.ovfcnt + 1 }
  else { p with mailboxes := p.mailboxes.set n.toFin (box ++ [msg]), mbxFlags := p.mbxFlags ||| (1 <<< n.toNat) }
/-- A message for a mailbox of a virtual function (R326), which is received once the function's earlier posted writes have been performed
(R379); messages for a partition that is torn down are counted as discarded (R329). -/
def State.mail (s : State) (pn : PartId) (n : BitVec 4) (msg : List Byte) (whole : Bool) : State := match s.part pn with
  | some p =>
    if s.logWaits.any (fun w => w.by_ = some pn) then s
    else if s.module.vfEnable || p.down then s.setPart pn (p.mail n msg whole) else s
  | none => s
/-- A request for Brim in one of the four request mailboxes of function 0 (R339), which arrives as a message does (R326). -/
def State.ask (s : State) (n : BitVec 4) (msg : List Byte) (whole : Bool) : State :=
  let m := s.module
  let i : Fin 4 := ⟨n.toNat % 4, Nat.mod_lt _ (by decide)⟩
  if m.step < 3 ∨ 4 ≤ n.toNat ∨ !whole ∨ msg.length ≠ 64 ∨ 8 ≤ (m.requests.get i).length then s
  else { s with module := { m with requests := m.requests.set i (m.requests.get i ++ [(msg, s.ftime)]) } }
/-- MAILBOX_WRITE (R326, R339): of a virtual function, or of function 0. -/
def execMailboxWrite (fn : Option PartId) (n : BitVec 4) (msg : List Byte) (whole : Bool) (s : State) : Host.Outcome State Fault Refusal :=
  .next (match fn with
    | some vf => s.mail vf n msg whole
    | none => s.ask n msg whole)

/-- The leaf that a host access through BAR2 goes through (R325): one with HOST = 1 that grants the access. -/
def State.hostLeaf (s : State) (pn : PartId) (p : Partition) (y : Perm) (a : Nat) : Option (Word × Nat) :=
  if 2 ^ 36 ≤ a ∨ inWindow a then none
  else match s.walk none pn p a 4 p.root 3 with
    | .ok (e, lvl) => if ptHost e && grants e y then some (e, lvl) else none
    | .error _ => none
/-- The target of a host access to one sector (R325): the key, and the core of an accumulator tile. The Mitten command page accepts no
store of the host (R331). -/
def State.hostKey (s : State) (pn : PartId) (p : Partition) (y : Perm) (a n : Nat) : Option Target :=
  match s.hostLeaf pn p y a with
  | none => none
  | some (e, lvl) =>
    if ptTile e then ((s.tileKey pn (coreOf (ptHcore e)) (ptHtile e) (a % 2 ^ 16)).1).map (fun k => .here k (some (coreOf (ptHcore e))))
    else
      let pa := ptPa e + a % pageSize lvl
      let l : Loc := .mem pa (if ptPub e then some (flipOf e) else none) false false
      if !p.ownDram pa then none
      else if y = .w then if s.meetsCommands pn pa n then none else some (.here (s.writePa l) none)
      else some (.here (s.readPa l) none)
/-- One sector of a host write: into a pool it waits for a live log entry (R249). -/
def State.hostPut (s : State) (pn : PartId) (t : Target) (bs : List Byte) : State := match t with
  | .here k (some c) => s.foreignWrite c (k - poolKey c 0) bs pn
  | .here k none => s.pokeHome k bs
  | .away => s
/-- A host write through BAR2 (R325): all of it, or, with Unsupported Request, nothing. It may make room in the trace ring for
records that it has held back (R394). -/
def State.hostWrite (s : State) (pn : PartId) (a : Nat) (bs : List Byte) : State := match s.vf pn with
  | none => s
  | some p =>
    if p.down then s
    else match (pieces a bs.length).mapM (fun x => (s.hostKey pn p .w x.1 x.2).map (fun t => (t, x.1 - a, x.2))) with
      | some l => (l.foldl (fun s x => s.hostPut pn x.1 ((bs.drop x.2.1).take x.2.2)) s).cleanLines (cleanSectors (l.map (fun x => (x.1, x.2.2))) []) |>.traceWake pn
      | none => s
/-- The data of a host read through BAR2, or none for Unsupported Request (R325, R329). -/
def State.hostRead (s : State) (pn : PartId) (a n : Nat) : Option (List Byte) := match s.vf pn with
  | none => none
  | some p =>
    if p.down then none
    else (pieces a n).foldlM (fun l x => (s.hostKey pn p .r x.1 x.2).bind (fun t => match t with
      | .here k _ => some (l ++ memBytes s.mem k x.2)
      | .away => none)) []
/-- HOST_BAR2_ACCESS (R325, R327): a read changes nothing. -/
def execHostBar2Access (vf : PartId) (a : Nat) (write : Option (List Byte)) (_len : Nat) (s : State) : Host.Outcome State Fault Refusal :=
  match write with
  | some bs => .next (s.hostWrite vf a bs)
  | none => .next s
/-- The operation of a host AtomicOp (R241). -/
def hostOp : BitVec 2 → Option AOp
  | 0 => some .addN
  | 1 => some .xch
  | 2 => some .cas
  | _ => none
/-- HOST_ATOMICOP (R241, R292): 32 bits at an accumulator word of a SYS page in device memory; on a poisoned word it has no effect, and it
waits for a live log entry (R249) and behind an AWAIT that has come over the fabric (R248). -/
def State.hostAtomic (s : State) (pn : PartId) (a : Nat) (op : BitVec 2) (width : Nat) (v c : BitVec 32) : State :=
  match s.vf pn, hostOp op with
  | some p, some op =>
    if p.down || decide (width ≠ 32 ∨ a % 4 ≠ 0) then s
    else match s.hostLeaf pn p .rw a with
      | none => s
      | some (e, _) =>
        if ptApl e ≠ 2 ∨ ptPa e ≠ 0 then s
        else match s.hostKey pn p .rw a 4 with
          | some (.here k co) =>
            if (s.poisonAt k 4).isSome || s.logged (.here k co, 4) || s.awaitAhead (keyCore k) .fabric (fun _ _ _ => true) then s
            else s.pokeClear k (leBytes 4 (atomicNew op (BitVec.ofNat 32 (leNat (memBytes s.mem k 4))) v c).1.toNat)
          | _ => s
  | _, _ => s
/-- HOST_ATOMICOP (R241): `width` in bits. -/
def execHostAtomicop (vf : PartId) (a : Nat) (op : BitVec 2) (width : Nat) (v c : BitVec 32) (s : State) : Host.Outcome State Fault Refusal :=
  .next (s.hostAtomic vf a op width v c)

/-! ### The resident supervisor (R255, R322, R328) -/

/-- The handle of a resident job: the n-th that Brim starts on a core (assumption 41). -/
def supHandleOf (c : CoreId) (n : Nat) : Handle := BitVec.ofNat 32 (n % 2 ^ 19 * 2 ^ 13 + c.val)
/-- A stream that starts with a word in s30 (R322). -/
def Stream.place (t : Stream) (w : Word) : Stream :=
  let q : Queue Word := ⟨[⟨some w, ⟨0, 0⟩, .none, false, 0, none⟩], []⟩
  { t with regs := t.regs.set (30 : Fin 31) q }
/-- Brim starts the resident job on the partition's lowest core, with the record's address in C's s30 (R322). -/
def State.startSup (s : State) (pn : PartId) (n : Nat) : Option State := match s.part pn with
  | none => none
  | some p => match s.header pn p.supImage with
    | .error _ => none
    | .ok h =>
      let c := p.supcore
      let hd := supHandleOf c n
      let q : JobSlot := ⟨hd, pn, 0, 0, 0, s.ftime, .waiting, 0, 0, p.supImage, h, none, none, none, false⟩
      let s : State := (s.setSlot c 0 (some q)).setPart pn { p with supHandle := hd, pstate := 1, delivery := true, inEntry := false, savedPc := 0, shownRec := none }
      let g : Group := ⟨hd, pn, 0, [c], [], false, true, false, 0, Vector.replicate 4 0, [], [], []⟩
      let s := { s with jobs := s.jobs ++ [g] }
      (s.freshJob c 0 q).map (fun (t : State) => t.onJob c (fun j => j.onStream .c (fun (t : Stream) => t.place p.recva)))
/-- The supervisor's job is taken off its core. -/
def State.endSup (s : State) (p : Partition) : State :=
  let s := (s.freeJobBlocks p.supcore p.supHandle).leaveCore p.supcore p.supHandle
  { s with jobs := s.jobs.filter (fun g => g.handle ≠ p.supHandle) }
/-- PCTL (R328): in STATE 2, 1 resumes the supervisor as RESUME would. -/
def State.resumeSup (s : State) (pn : PartId) : State := match s.vf pn with
  | some p => if p.pstate = 2 then (s.resumeLaunch p.supHandle).1.onPart pn (fun p => { p with pstate := 1 }) else s
  | none => s
/-- PCTL (R328, R338): in STATE 2, 2 ends the supervisor's job and starts the resident job again from its image; while Brim is absent that
waits for it. -/
def State.restartSup (s : State) (pn : PartId) : State := match s.vf pn with
  | some p =>
    if p.pstate ≠ 2 then s
    else if s.module.brimUp then ((s.endSup p).startSup pn (p.supHandle.toNat / 2 ^ 13 + 1)).getD s
    else s.setPart pn { p with restartAsked := true }
  | none => s
/-- The restarts that have waited for Brim are made (R338). -/
def State.restartsDue (s : State) : State := ((List.range 32).map partOf).foldl (fun s pn =>
  if (s.part pn).any Partition.restartAsked then (s.onPart pn (fun p => { p with restartAsked := false })).restartSup pn else s) s
/-- PCTL_RESUME (R328). -/
def execPctlResume (vf : PartId) (s : State) : Host.Outcome State Fault Refusal := .next (s.resumeSup vf)
/-- PCTL_RESTART (R328). -/
def execPctlRestart (vf : PartId) (s : State) : Host.Outcome State Fault Refusal := .next (s.restartSup vf)

/-! ### BAR0 registers (R325, R327, R339, R392) -/

/-- A host write of exactly one whole register of BAR0 (R325): of a virtual function, or of function 0. Offsets without a register that can
be written are ignored, and a write into a mailbox line that is no message is discarded and counted (R326). -/
def State.writeBar0 (s : State) (fn : Option PartId) (off : Nat) (v : Word) : State := match fn with
  | none => if off = 0x408 then { s with module := { s.module with brrd := v } } else s
  | some pn =>
    if off < 0x400 then s.mail pn (BitVec.ofNat 4 (off / 64)) [] false
    else if off = 0x880 then (if v = 1 then s.resumeSup pn else if v = 2 then s.restartSup pn else s)
    else if off = 0x1000 then s.onVf pn (fun p => p.writeTctl v)
    else if off = 0x1008 then s.onVf pn (fun p => p.writeTrbase v)
    else if off = 0x1010 then s.onVf pn (fun p => p.writeTrsize v)
    else if off = 0x1018 then s.onVf pn (fun p => p.writeTrigat s.ftime v)
    else if off = 0x1020 then s.onVf pn (fun p => p.writeDbgcore v)
    else if off = 0x1028 then (if s.module.vfEnable then s.debugStop pn v else s)
    else s
/-- MBSTAT (R325). -/
def Partition.mbstat (p : Partition) : Word := BitVec.ofNat 64 ((p.mailboxes.toList.zipIdx.map (fun x => x.1.length * 16 ^ x.2)).sum)
/-- PSTAT (R328). -/
def Partition.pstat (p : Partition) : Word := BitVec.ofNat 64 (p.pstate.toNat * 2 ^ 60 + p.pcause.toNat * 2 ^ 52 + p.pkind.toNat * 2 ^ 48)
/-- The attestation window from 0x2000 on (R336): the nonce, READY and the quote. -/
def quoteWindow (nonce quote : List Byte) (ready : Bool) : List Byte :=
  (nonce ++ List.replicate 32 0).take 32 ++ leBytes 8 (bitNat ready * 2 ^ 63) ++ List.replicate 24 0 ++ quote
/-- A counter of the job on DBGCORE, 0 where the core holds no job of the partition (R392). -/
def State.debugCounter (s : State) (pn : PartId) (p : Partition) (i : Fin 16) : Word :=
  ((s.job (coreOf p.dbgcore.toNat)).map (fun j => if j.part = pn then j.counters.get i else 0)).getD 0
/-- A register of a virtual function's BAR0, by its offset (R325, R392). -/
def State.vfRegister (s : State) (pn : PartId) (p : Partition) (off : Nat) : Word :=
  if off = 0x400 then p.mbstat else if off = 0x408 then p.ovfcnt else if off = 0x410 then p.badcnt
  else if off = 0x800 then p.pstat
  else if 0x820 ≤ off ∧ off < 0x840 then p.supRec.get ⟨(off - 0x820) / 8 % 4, Nat.mod_lt _ (by decide)⟩
  else if off = 0x900 then p.usedcyc else if off = 0x908 then p.savecyc else if off = 0x910 then p.scrubcyc
  else if off = 0x1000 then p.tctl else if off = 0x1008 then p.trbase else if off = 0x1010 then p.trsize
  else if off = 0x1018 then p.trigat else if off = 0x1020 then p.dbgcore
  else if 0x1100 ≤ off ∧ off < 0x1180 then s.debugCounter pn p ⟨(off - 0x1100) / 8 % 16, Nat.mod_lt _ (by decide)⟩
  else if off < 0x2000 then 0 else wordAt ((quoteWindow p.nonce p.quote p.quoteReady).drop (off - 0x2000)) 0
/-- BRSTAT (R339). -/
def Module.brstat (m : Module) : Word := BitVec.ofNat 64 (bitNat m.brimUp * 2 ^ 63 + m.replies % 2 ^ 32)
/-- RECSTAT (R339). -/
def Module.recstat (m : Module) : Word := BitVec.ofNat 64 (bitNat m.recOpen * 2 ^ 63 + m.recResult.toNat * 2 ^ 40 + m.recBytes.length % 2 ^ 32)
/-- A register of function 0's BAR0 (R339). -/
def State.moduleRegister (s : State) (off : Nat) : Word :=
  let m := s.module
  if off = 0x400 then m.brstat else if off = 0x408 then m.brrd
  else if 0x800 ≤ off ∧ off < 0xC00 then wordAt (m.replySlots.get ⟨(off - 0x800) / 64 % 16, Nat.mod_lt _ (by decide)⟩) (off % 64 / 8)
  else if off = 0xCC0 then m.recstat
  else if off = 0xD00 then BitVec.ofNat 64 (m.feed.toNat + ((s.parts.toList.zipIdx.map (fun x => if x.1.isSome then 2 ^ (32 + x.2) else 0)).sum))
  else if off < 0x2000 then 0 else wordAt ((quoteWindow m.nonce m.quote m.quoteReady).drop (off - 0x2000)) 0
/-- The data of a host read of n bytes of BAR0, whatever its size and alignment, or none for Unsupported Request (R325, R329, R339); it
changes nothing. -/
def State.readBar0 (s : State) (fn : Option PartId) (off n : Nat) : Option (List Byte) :=
  let byte (f : Nat → Word) (o : Nat) : Byte := BitVec.ofNat 8 ((f (o / 8 * 8)).toNat / 2 ^ (8 * (o % 8)))
  let bytes (f : Nat → Word) : List Byte := (List.range n).map (fun i => byte f (off + i))
  match fn with
  | none => if s.module.step < 3 ∨ 0x10000 < off + n then none else some (bytes s.moduleRegister)
  | some pn => (s.vf pn).bind (fun p => if 0x10000 < off + n then none else some (bytes (s.vfRegister pn p)))
/-- HOST_REGISTER_WRITE (R325). -/
def execHostRegisterWrite (fn : Option PartId) (off : Nat) (v : Word) (s : State) : Host.Outcome State Fault Refusal := .next (s.writeBar0 fn off v)

/-! ### VF Enable and teardown (R329, R341) -/

/-- VF_ENABLE (R329, R341): once function 0 has appeared the host sets VF Enable; clearing it starts the teardown of every partition that
runs, STATE 3. -/
def State.setVf (s : State) (on : Bool) : State :=
  if s.module.step < 3 then s
  else
    let s := { s with module := { s.module with vfEnable := on } }
    if on then s
    else { s with parts := s.parts.map (fun x => x.map (fun p => if p.pstate.toNat < 3 then { p with pstate := 3, tearing := 1 } else p)) }
/-- VF_ENABLE (R341). -/
def execVfEnable (on : Bool) (s : State) : Host.Outcome State Fault Refusal := .next (s.setVf on)
/-- The job on a core runs or lands. -/
def Core.lands (k : Core) : Bool := k.slot.any (fun q => decide (q.state = .running ∨ q.state = .landing))
/-- Step 1 of R329 on one core: the job on it takes a hard cut; jobs that are not on their core end. -/
def State.tearCore (s : State) (c : CoreId) : State :=
  let k := s.core c
  let s := s.setCore c { k with slots := Vector.ofFn (fun i => if k.on = some i then k.slots.get i else none) }
  if (s.core c).lands then (s.onJob c (fun j => j.hardStop 0x10 (optCoordWord j.front))).markLanding c else s
/-- Everything of a partition on its cores and in flight goes, and Mitten scrubs the cores (R329, R333). -/
def State.dropJobs (s : State) (pn : PartId) (p : Partition) : State :=
  let hs := (s.jobs.filter (fun g => g.part = pn)).map Group.handle
  let s := p.cores.foldl (fun s c =>
    let s := s.scrub c pn
    s.setCore c { Core.reset with budget := (s.core c).budget, govsrc := (s.core c).govsrc }) s
  let owned (c : CoreId) : Bool := p.ownsCore c
  { s with
    clusters := Vector.ofFn (fun k => if p.clmask.getLsbD k.val then Cluster.reset else s.clusters.get k)
    dies := s.dies.map (fun d => { d with crews := d.crews.filter (fun k => !hs.contains k.handle) })
    jobs := s.jobs.filter (fun g => g.part ≠ pn)
    launches := s.launches.filter (fun x => x.part ≠ pn)
    remotes := s.remotes.filter (fun x => x.part ≠ pn)
    chunks := s.chunks.filter (fun x => x.part ≠ pn)
    sendings := s.sendings.filter (fun x => x.part ≠ pn)
    services := s.services.filter (fun x => x.part ≠ pn)
    logWaits := s.logWaits.filter (fun x => match x.place with
      | .pool c _ => !owned c
      | .mem _ => true)
    clamps := s.clamps.filter (fun x => !owned x.core)
    preempts := s.preempts.filter (fun x => !owned x.1)
    saves := s.saves.filter (fun x => x.part ≠ pn)
    ckReqs := s.ckReqs.filter (fun x => x.1 ≠ pn)
    slotTables := s.slotTables.filter (fun x => x.2.2.owner ≠ pn) }
/-- Stores of a partition that are in flight (R329). -/
def State.storesOf (s : State) (pn : PartId) : Nat := (s.remotes.filter (fun r => decide (r.part = pn) && r.kind.silent)).length
/-- The unread messages of a partition. -/
def Partition.unread (p : Partition) : Nat := (p.mailboxes.toList.map List.length).sum
/-- VF_TEARDOWN (R329): the next step of a teardown in progress. -/
def State.tear (s : State) (pn : PartId) : State := match s.part pn with
  | none => s
  | some p =>
    let next (n : BitVec 4) (s : State) : State := s.onPart pn (fun p => { p with tearing := n })
    match p.tearing.toNat with
    | 1 => next 2 (p.cores.foldl (fun s c => s.tearCore c) { s with launches := s.launches.filter (fun x => x.part ≠ pn) })
    | 2 =>
      if p.cores.any (fun c => (s.core c).lands) then s
      else
        let t : State := { s with
          remotes := s.remotes.filter (fun x => x.part ≠ pn)
          chunks := s.chunks.filter (fun x => x.part ≠ pn)
          sendings := s.sendings.filter (fun x => x.part ≠ pn) }
        next 3 (t.report (.teardown pn (s.storesOf pn) p.unread))
    | 3 => s.setPart pn { p with tearing := 4, ovfcnt := p.ovfcnt + BitVec.ofNat 64 p.unread, mailboxes := Vector.replicate 16 [], mbxTaken := [] }
    | 4 => next 5 s
    | 5 => (s.dropJobs pn p).onPart pn (fun p => { p with tearing := 0, pstate := 4, mitten := [], ckBusy := none, events := [], eventsWait := [] })
    | _ => s
/-- VF_TEARDOWN (R329). -/
def execVfTeardown (p : PartId) (s : State) : Host.Outcome State Fault Refusal := .next (s.tear p)

/-! ### Attestation (R336) -/

/-- The 128 bytes of a partition record (R322). -/
def Partition.record (pn : PartId) (p : Partition) : List Byte :=
  let dmask := (([0, 1, 2, 3] : List Nat).map (fun d => if p.ownsDie d then 2 ^ d else 0)).sum
  wordBytes (padWords 16 [BitVec.ofNat 64 (0x7052 * 2 ^ 48 + 2 ^ 40 + pn.val * 2 ^ 32 + (pn.val + 1) * 2 ^ 24 + p.supcore.val * 2 ^ 16 + dmask),
    p.clmask, BitVec.ofNat 64 p.root, p.errva, p.cmpva, p.ctxva, p.mcmdva, p.slva, p.slcnt.setWidth 64])
/-- Some bytes as n bytes. -/
def fitBytes (n : Nat) (bs : List Byte) : List Byte := (bs ++ List.replicate n 0).take n
/-- The HSS tree has given all of its signatures (R336). -/
def Module.exhausted (m : Module) : Bool := decide (2 ^ 40 ≤ m.hssUsed)
/-- The quote that Crown makes (R336): the part that is signed, then both signatures. The tree's signatures are used in the order of their
indexes, and the index in an EXHAUSTED quote is free (assumption 57). -/
def Module.crownQuote (m : Module) (tick fn : Nat) (nonce recs : List Byte) : List Byte :=
  let x := m.exhausted
  let head := leBytes 4 1 ++ leBytes 4 (bitNat x) ++ leBytes 8 fn ++ nonce ++ sha384 Config.identityKeys ++ leBytes 8 m.svn.toNat ++
    leBytes 8 (if x then (Config.freeWord tick 0).toNat else m.hssUsed) ++ fitBytes 48 m.m0 ++ sha384 recs
  head ++ fitBytes 96 (Config.ecSign head) ++ leBytes 4 (if x then 0 else 3604) ++ fitBytes 3604 (if x then [] else Config.hssSign m.hssUsed head)
/-- One more signature of the tree has been given. -/
def Module.signed (m : Module) : Module := { m with hssUsed := if m.exhausted then m.hssUsed else m.hssUsed + 1 }
/-- Every partition record, in partition order (R336). -/
def State.allRecords (s : State) : List Byte :=
  (List.range 32).flatMap (fun n => ((s.part (partOf n)).map (fun p => p.record (partOf n))).getD [])
/-- ATTESTATION_NONCE (R336): a whole nonce clears READY and replaces an earlier request. -/
def State.askQuote (s : State) (fn : Option PartId) (nonce : List Byte) : State :=
  if nonce.length ≠ 32 then s
  else match fn with
    | some pn => match s.vf pn with
      | some p => s.setPart pn { p with nonce := nonce, quoteReady := false }
      | none => s
    | none => { s with module := { s.module with nonce := nonce, quoteReady := false } }
/-- ATTESTATION_NONCE (R336). -/
def execAttestationNonce (fn : Option PartId) (nonce : List Byte) (s : State) : Host.Outcome State Fault Refusal := .next (s.askQuote fn nonce)
/-- QUOTE_READY (R336): Crown writes the quote for the last nonce and sets READY. -/
def State.putQuote (s : State) (fn : Option PartId) (q : List Byte) : State :=
  let m := s.module
  match fn with
  | some pn => match s.part pn with
    | some p => if !p.quoteReady && p.nonce.length = 32 && q = m.crownQuote s.tick (pn.val + 1) p.nonce (p.record pn) then
        State.setPart { s with module := m.signed } pn { p with quote := q, quoteReady := true } else s
    | none => s
  | none =>
    if !m.quoteReady && m.nonce.length = 32 && q = m.crownQuote s.tick 0 m.nonce s.allRecords then
      { s with module := { m.signed with quote := q, quoteReady := true } } else s
/-- QUOTE_READY (R336). -/
def execQuoteReady (fn : Option PartId) (quote : List Byte) (s : State) : Host.Outcome State Fault Refusal := .next (s.putQuote fn quote)

/-! ### Requests to Brim (R337, R339) -/

/-- Bytes o to o + n − 1 of a request as a number. -/
def req (bs : List Byte) (o n : Nat) : Nat := leNat ((bs.drop o).take n)
/-- The request is 64 bytes with its operation, status 0, and nothing after its operands. -/
def reqOk (op n : Nat) (bs : List Byte) : Bool :=
  decide (bs.length = 64 ∧ req bs 0 4 = op) && (bs.drop (8 + n)).all (fun b => b = 0)
/-- Brim writes a reply into its slot, then BRSTAT counts it (R339). -/
def State.reply (s : State) (bs : List Byte) (status : Nat) (operands : List Byte) : State :=
  let r := (leBytes 1 (req bs 0 1) ++ leBytes 3 status ++ ((bs.drop 4).take 4) ++ operands ++ List.replicate 64 0).take 64
  let m := s.module
  State.msix { s with module := { m with replySlots := m.replySlots.set (m.replies % 16) r (Nat.mod_lt _ (by decide)), replies := m.replies + 1 } } none 0
/-- Brim answers requests: function 0 has appeared and Brim runs (R338, R341). -/
def State.brim (s : State) : Bool := decide (3 ≤ s.module.step) && s.module.brimUp
/-- The request mailbox whose oldest message is a request. -/
def Module.asked (m : Module) (bs : List Byte) : Option (Fin 4) :=
  [(0 : Fin 4), 1, 2, 3].find? (fun n => (m.requests.get n).head?.any (fun x => x.1 = bs))
/-- Brim takes a request of an operation out of its mailbox; a request whose operation the table lacks is taken with those of operation 1,
as malformed. -/
def State.takeRequest (s : State) (op : Nat) (bs : List Byte) : Option State :=
  if !s.brim || decide (req bs 0 1 ≠ op ∧ (op ≠ 1 ∨ (1 ≤ req bs 0 1 ∧ req bs 0 1 ≤ 5))) then none
  else (s.module.asked bs).map (fun n =>
    { s with module := { s.module with requests := s.module.requests.set n.val (s.module.requests.get n).tail n.isLt } })

/-- The lowest partition number that is free. -/
def State.freePart (s : State) : Option PartId := ((List.range 32).map partOf).find? (fun n => (s.part n).isNone)
/-- The groups that a request asks for. -/
def maskGroups (m : Nat) : List (Fin 16) := ((List.range 16).map (fun n => (⟨n % 16, Nat.mod_lt _ (by decide)⟩ : Fin 16))).filter (fun g => decide (m / 2 ^ g.val % 2 = 1))
/-- The lowest core of a cluster mask (R255). -/
def lowestCore (clmask : BitVec 64) : CoreId := coreOf (4 * (((List.range 64).find? (fun k => clmask.getLsbD k)).getD 0))
/-- The die whose DRAM holds a unit of 64 KiB. -/
def unitDie (u : Nat) : Option DieId := match regionOf (u * 65536) with
  | .dram d _ => some d
  | _ => none
/-- What Crown holds a plan against before it is made (R337): clusters, units, groups and slot entries that no partition has, on owned dies,
in the wanted amount, outside Brim's firmware region and scrubbed, and the writes that it asks for inside the units. -/
def State.planFree (s : State) (clmask : BitVec 64) (gib : Nat → Nat) (groups : List (Fin 16)) (x : Plan) : Bool :=
  let owns (d : Nat) : Bool := decide (clmask.toNat / 2 ^ (16 * d) % 2 ^ 16 ≠ 0)
  let inside (a n : Nat) : Bool := decide (0 < n) && (List.range (n / 65536 + 2)).all (fun i =>
    x.units.contains (Nat.min (a + i * 65536) (a + n - 1) / 65536))
  s.parts.toList.all (fun p => p.all (fun p => p.clmask &&& clmask = 0)) &&
  decide x.units.Nodup && x.units.all (fun u => (unitDie u).any (fun d => owns d.val) && s.owners.all (fun o => o.1 ≠ u)) &&
  [0, 1, 2, 3].all (fun d => decide ((x.units.filter (fun u => (unitDie u).any (fun e => decide (e.val = d)))).length =
    if owns d then gib d * 16384 else 0)) &&
  groups.all (fun g => decide ((s.groups.get g).assigned = none) && !(s.groups.get g).shared) &&
  decide x.slots.Nodup && x.slots.all (fun e => decide (e.1 ≤ 40 ∧ e.2 < 256) && s.slotTables.all (fun y => decide (y.1 ≠ e.1 ∨ y.2.1 ≠ e.2))) &&
  x.units.all (fun u => (unitDie u).any (fun d => decide (d.val ≠ 0) ||
    decide (u * 65536 + 65536 ≤ Config.firmwareBase ∨ Config.firmwareBase + 2 ^ 28 ≤ u * 65536))) &&
  s.mem.all (fun c => !(decide (c.1 < 2 ^ 50) && x.units.contains (c.1 / 65536))) &&
  x.writes.all (fun w => inside w.1 w.2.length) && inside x.recPa 128
/-- The state with a plan carried out on Crown's command (R337, assumption 77): units owned, groups assigned, slot entries reserved, the
tables and images of the plan and the record written (R322). -/
def State.carryOut (s : State) (pn : PartId) (clmask : BitVec 64) (groups : List (Fin 16)) (x : Plan) : State :=
  let p := Partition.start clmask x.root x.errva x.cmpva x.ctxva x.mcmdva x.slva (BitVec.ofNat 16 x.slots.length) x.recva (lowestCore clmask) x.image 0
  let s := x.writes.foldl (fun s w => s.pokeHome w.1 w.2) (s.setPart pn p)
  let s := s.pokeHome x.recPa (p.record pn)
  let s := groups.foldl (fun s g => s.setGroup g { s.groups.get g with assigned := some pn }) s
  { s with
    owners := s.owners ++ x.units.map (fun u => (u, pn))
    slotTables := s.slotTables ++ x.slots.map (fun e => (e.1, e.2, ⟨true, pn⟩)) }
/-- The slot list of R323: 16 bits an entry, ascending. -/
def slotBytes (l : List (Nat × Nat)) : List Byte := ((l.map (fun e => e.1 * 256 + e.2)).insertionSort (· ≤ ·)).flatMap (fun n => leBytes 2 n)
/-- What Crown holds the plan against in the memory that Brim has prepared (R322, R323, R337): the record's page is mapped with R and
without W, and the slot list names the partition's entries. -/
def State.planMapped (s : State) (pn : PartId) (x : Plan) : Bool :=
  (s.part pn).any (fun p => match s.walk none pn p x.recva.toNat 4 p.root 3 with
    | .ok (e, lvl) => grants e .r && !grants e .w && decide (ptPa e + x.recva.toNat % pageSize lvl = x.recPa)
    | .error _ => false) &&
  decide (s.imageBytes pn x.slva.toNat (2 * x.slots.length) = some (slotBytes x.slots))
/-- CREATE_PARTITION (R321, R322, R339, R341): Brim's plan is countersigned and carried out, the record written, STATE 1 set and the
supervisor started; a plan that Crown refuses changes nothing. -/
def State.create (s : State) (bs : List Byte) (x : Plan) : State :=
  match s.takeRequest 0x01 bs with
  | none => s
  | some s =>
  if !reqOk 0x01 22 bs || req bs 8 8 = 0 then s.reply bs 2 []
  else
    let clmask := BitVec.ofNat 64 (req bs 8 8)
    let groups := maskGroups (req bs 24 2)
    let refused := s.reply bs 1 []
    match s.freePart with
    | none => refused
    | some pn =>
      if !s.planFree clmask (fun d => req bs (16 + 2 * d) 2) groups x then refused
      else
        let t := s.carryOut pn clmask groups x
        if !t.planMapped pn x then refused
        else match t.startSup pn 1 with
          | some t => t.reply bs 0 (leBytes 1 pn.val ++ leBytes 1 (pn.val + 1))
          | none => refused
/-- CREATE_PARTITION (R339). -/
def execCreatePartition (req : List Byte) (plan : Plan) (s : State) : Host.Outcome State Fault Refusal := .next (s.create req plan)

/-- The memory without the bytes of some units (R329): zeroed on Crown's command. -/
def State.zeroUnits (s : State) (units : List Nat) : State :=
  let hit (a : Nat) : Bool := decide (a < 2 ^ 50) && units.contains (a / 65536)
  { s with
    mem := s.mem.filter (fun c => !hit c.1)
    poison := s.poison.filter (fun x => !hit (x * 32))
    dies := s.dies.map (fun d => { d with flips := d.flips.filter (fun n => !hit (n * 2 ^ 17) && !hit (n * 2 ^ 17 + 65536)), cache := d.cache.filter (fun l => !hit (l.line * 64)), directory := d.directory.filter (fun x => !hit (x.1 * 64)) }) }
/-- The edge groups of a partition are free again. -/
def State.freeGroups (s : State) (pn : PartId) : State := (maskGroups 0xFFFF).foldl (fun s g => if (s.groups.get g).assigned = some pn then
  s.setGroup g { s.groups.get g with assigned := none } else s) s
/-- DESTROY_PARTITION (R329, R339): VF Enable must be clear, and a teardown in progress is awaited; the partition's clusters, units, groups
and slot entries are free again, its pages scrubbed. -/
def State.destroy (s : State) (bs : List Byte) : State :=
  match s.takeRequest 0x02 bs with
  | none => s
  | some s =>
  if !reqOk 0x02 1 bs || decide (32 ≤ req bs 8 1) then s.reply bs 2 []
  else
    let pn := partOf (req bs 8 1)
    match s.part pn with
    | none => s.reply bs 1 []
    | some p =>
      if s.module.vfEnable then s.reply bs 1 []
      else if p.tearing ≠ 0 then s.reply bs 3 []
      else
        let s := (s.dropJobs pn p).zeroUnits ((s.owners.filter (fun o => o.2 = pn)).map Prod.fst)
        let s := s.freeGroups pn
        State.reply { s with owners := s.owners.filter (fun o => o.2 ≠ pn), parts := s.parts.set pn none } bs 0 []
/-- DESTROY_PARTITION (R339). -/
def execDestroyPartition (req : List Byte) (s : State) : Host.Outcome State Fault Refusal := .next (s.destroy req)
/-- READ_TELEMETRY (R339): power, the four temperatures and the feed identifier. -/
def State.telemetryReply (s : State) (bs : List Byte) : State :=
  match s.takeRequest 0x03 bs with
  | none => s
  | some s =>
  if !reqOk 0x03 0 bs then s.reply bs 2 []
  else
    let m := s.module
    s.reply bs 0 (leBytes 4 m.power.toNat ++ [0, 1, 2, 3].flatMap (fun i => leBytes 2 (m.temps.getD i 0).toNat) ++ leBytes 2 m.feed.toNat)
/-- READ_TELEMETRY (R339). -/
def execReadTelemetry (req : List Byte) (s : State) : Host.Outcome State Fault Refusal := .next (s.telemetryReply req)
/-- SET_PERSONALITY (R339, R358): the change of a group that no partition owns is asked for, and Brim carries it out by R361; the reply
shows EGSTAT. -/
def State.askPersonality (s : State) (bs : List Byte) : State :=
  match s.takeRequest 0x04 bs with
  | none => s
  | some s =>
  if !reqOk 0x04 2 bs || decide (16 ≤ req bs 8 1 ∨ 3 ≤ req bs 9 1) then s.reply bs 2 []
  else
    let g : Fin 16 := ⟨req bs 8 1 % 16, Nat.mod_lt _ (by decide)⟩
    let x := s.groups.get g
    if x.assigned ≠ none ∨ (req bs 9 1 = 1 ∧ s.module.groupOff g.val) then s.reply bs 1 []
    else
      let s := s.setGroup g { x with persReq := BitVec.ofNat 4 (req bs 9 1) }
      s.reply bs 0 (leBytes 8 (egstat (s.groups.get g)).toNat)
/-- SET_PERSONALITY (R339). -/
def execSetPersonality (req : List Byte) (s : State) : Host.Outcome State Fault Refusal := .next (s.askPersonality req)
/-- A torus link is up: personality 1 in state up or degraded. -/
def State.torusUp (s : State) : Bool := s.groups.toList.any (fun g => decide (g.pers = 1 ∧ (g.state = 2 ∨ g.state = 3)))
/-- SET_NODE (R339, R348, R359): NODE and the extents, while no torus link is up. -/
def State.setNode (s : State) (bs : List Byte) : State :=
  match s.takeRequest 0x05 bs with
  | none => s
  | some s =>
    let (dx, dy, dz) := (req bs 10 1, req bs 11 1, req bs 12 1)
    if !reqOk 0x05 5 bs || decide (2 ^ 14 ≤ req bs 8 2 ∨ dx % 2 ≠ 0 ∨ dx < 2 ∨ dy % 2 ≠ 0 ∨ dy < 2 ∨ dz < 1) then s.reply bs 2 []
    else if s.torusUp then s.reply bs 3 []
    else
      let m := { s.module with node := BitVec.ofNat 14 (req bs 8 2), dx := BitVec.ofNat 8 dx, dy := BitVec.ofNat 8 dy, dz := BitVec.ofNat 8 dz }
      State.reply { s with module := m } bs 0 []
/-- SET_NODE (R339). -/
def execSetNode (req : List Byte) (s : State) : Host.Outcome State Fault Refusal := .next (s.setNode req)

/-! ### Recovery (R338) -/

/-- Vector 1 of function 0 and of every enabled virtual function is raised (R338). -/
def State.raiseRecovery (s : State) : State :=
  (((List.range 32).map partOf).filter (fun n => s.module.vfEnable && (s.part n).isSome)).foldl (fun s n => s.msix (some n) 1) (s.msix none 1)
/-- Crown opens the recovery mailbox (R338). -/
def State.openRecovery (s : State) : State :=
  State.raiseRecovery { s with module := { s.module with brimUp := false, recOpen := true, recResult := 0, recBytes := [] } }
/-- BRIM_TIMEOUT (R338): Brim has not answered a request within 100 ms. -/
def State.brimTimeout (s : State) : State :=
  if s.module.brimUp && s.module.requests.toList.any (fun l => l.any (fun x => decide (125000000 ≤ (s.ftime - x.2).toNat))) then s.openRecovery else s
/-- BRIM_TIMEOUT (R338). -/
def execBrimTimeout (s : State) : Host.Outcome State Fault Refusal := .next s.brimTimeout
/-- What Crown's verification of an image says (R335, R338): none, or the RESULT of a refusal. DESIGN CHOICE (assumption 57): the length comes
first, then the signatures, then the SVN. -/
def refusal (image : List Byte) : Option (BitVec 8) :=
  if !Config.lengthOk image.length then some 4
  else if !Config.imageSigned image then some 2
  else if Config.imageSvn image < Config.fusedSvn then some 3
  else none
/-- Brim runs from a verified image, which is measured (R335). -/
def Module.runs (m : Module) (image : List Byte) : Module := { m with brimUp := true, m0 := sha384 image, svn := Config.imageSvn image }
/-- RECOVERY_MESSAGE (R338, R339): 64 bytes are added while the mailbox is open, and the image is verified when the length in its header is
reached. -/
def State.recovery (s : State) (msg : List Byte) : State :=
  let m := s.module
  if !m.recOpen || decide (msg.length ≠ 64) then s
  else
    let bytes := m.recBytes ++ msg
    match (Config.imageLength bytes).filter (fun n => decide (n ≤ bytes.length)) with
    | none => { s with module := { m with recBytes := bytes, recResult := 0 } }
    | some n => match refusal (bytes.take n) with
      | some r => { s with module := { m with recBytes := [], recResult := r } }
      | none => State.restartsDue (State.raiseRecovery
          { s with module := { m.runs (bytes.take n) with recBytes := bytes, recResult := 1, recOpen := false } })
/-- RECOVERY_MESSAGE (R338). -/
def execRecoveryMessage (msg : List Byte) (s : State) : Host.Outcome State Fault Refusal := .next (s.recovery msg)

/-! ### Power (R238, R340) -/

/-- POWER_MEASUREMENT (R340): module power in W and die temperatures in 0.1 °C. -/
def execPowerMeasurement (power : BitVec 32) (temps : List (BitVec 16)) (s : State) : Host.Outcome State Fault Refusal :=
  .next { s with module := { s.module with power := power, temps := temps } }
/-- A budget after a window: it falls while the power exceeds its limit (SRC 1) or a die is too hot (SRC 2), does not fall otherwise, stays
from 125 to 1,250, and moves by at most 125 (SRC 3 when that holds it back). By how much it moves is free. -/
def Core.window (k : Core) (hot over_ : Bool) (free : Nat) : Core :=
  let b := k.budget.toNat
  let low := hot || over_
  let want := if low then (if b ≤ 125 then 125 else 125 + free % (b - 125)) else b + free % (1251 - b)
  let new := if low then Nat.max want (b - 125) else Nat.min want (b + 125)
  let new := Nat.min 1250 (Nat.max 125 new)
  { k with
    budget := BitVec.ofNat 11 new
    govsrc := if new ≠ want then 3 else if over_ then 1 else if hot then 2 else if new = 1250 then 0 else k.govsrc }
/-- GOVERNOR_WINDOW (R238, R340): a window begins on a core, where FTIME is a multiple of 1,250. -/
def execGovernorWindow (core : CoreId) (s : State) : Host.Outcome State Fault Refusal :=
  .next (if s.ftime.toNat % 1250 ≠ 0 then s else s.setCore core ((s.core core).window (s.module.temps.any (fun t => decide (950 < t.toNat))) (decide (2600 < s.module.power.toNat))
    (Config.freeWord s.tick 0).toNat))

/-! ### Bring-up (R341) -/

/-- The memory after the controllers have zeroed every line outside Brim's firmware region. -/
def zeroDram (m : List Host.Cell) : List Host.Cell := m.filter (fun c =>
  (match regionOf c.1 with
    | .dram d q => decide (d = 0 ∧ Config.firmwareBase ≤ q ∧ q < Config.firmwareBase + 2 ^ 28)
    | _ => true) || decide (2 ^ 50 ≤ c.1))
/-- An end of a die link that Brim has trained. -/
def Group16.trained (g : Group16) : Group16 := { g with state := 2, width := 16, speed := 1, pers := 1, enc := true }
/-- The die links as Brim has trained them (R341): both ends have exchanged their descriptors, which agree (R363, R364). -/
def State.trainLinks (s : State) : Vector Group16 16 := Vector.ofFn (fun (n : Fin 16) =>
  let x := (s.dieLinks.get n).trained
  { x with peer := s.descriptor (BitVec.ofNat 5 ((n.val + 8) % 16 + 16)) (s.dieLinks.get ⟨(n.val + 8) % 16, Nat.mod_lt _ (by decide)⟩).trained })
/-- POWER_GOOD (R341): the next step of bring-up. A Brim that fails verification opens the recovery path (R338). While no torus link is up the
package is its own time master (R346). -/
def State.bringUp (s : State) : State :=
  let m := s.module
  match m.step with
  | 0 =>
    if m.brimUp then { s with module := { m with step := 1 } }
    else if m.recOpen then s
    else match refusal Config.brimImage with
      | none => { s with module := { m.runs Config.brimImage with step := 1 } }
      | some _ => s.openRecovery
  | 1 => { s with
      dieLinks := s.trainLinks
      groups := s.groups.map (fun g => { g with talign := true })
      mem := zeroDram s.mem
      ftime := Config.freeWord s.tick 1
      module := { m with step := 2, feed := BitVec.ofNat 16 (Config.freeWord s.tick 2).toNat } }
  | 2 => { s with module := { m with step := 3 } }
  | _ => s
/-- POWER_GOOD (R341). -/
def execPowerGood (s : State) : Host.Outcome State Fault Refusal := .next s.bringUp

end Sys2Proof.Machine
end

