-- ==== Sys2Proof/Machine/Fabric.lean ====
section
/-!
DEFINITION. The fabric (R346, R348, R349, R352, R357, R359 to R367): personality changes, training and the link-state descriptor, lane swaps,
key rotation, fabric time, and the loss of die links under a running fleet.
-/
namespace Sys2Proof.Machine

/-! ### Ports and control flits (R362) -/

/-- An edge group; or, from 16 on, the end of a die link at its lower-numbered die, and from 24 on its other end. -/
def State.port (s : State) (g : BitVec 5) : Group16 :=
  if g.toNat < 16 then s.groups.get ⟨g.toNat % 16, Nat.mod_lt _ (by decide)⟩ else s.dieLinks.get ⟨g.toNat % 16, Nat.mod_lt _ (by decide)⟩
/-- Replace a port; a group whose EGSTAT changes raises its fabric event (R360). -/
def State.setPort (s : State) (g : BitVec 5) (x : Group16) : State :=
  if g.toNat < 16 then s.setGroup ⟨g.toNat % 16, Nat.mod_lt _ (by decide)⟩ x
  else { s with dieLinks := s.dieLinks.set (g.toNat % 16) x (Nat.mod_lt _ (by decide)) }
/-- The other end of a die link. -/
def otherEnd (g : BitVec 5) : BitVec 5 := g ^^^ 8
/-- The port carries control flits: a torus link or a die link that is not off or down (R358, R362). -/
def Group16.talks (x : Group16) : Bool := decide (x.pers = 1 ∧ x.state ≠ 0 ∧ x.state ≠ 6)
/-- The sixteen bytes of a flit's tag, over bytes 0 to 47, for one port, direction and key epoch (R362, R366; the link key and the tag's
function are free, assumption 14). -/
def tagBytes (g : BitVec 5) (out : Bool) (epoch : Nat) (bs : List Byte) : List Byte :=
  leBytes 16 (Config.flitTag g.toNat out epoch bs).toNat
/-- A control flit with its tag (R362). -/
def flitOf (g : BitVec 5) (epoch type seq : Nat) (body : List Byte) : List Byte :=
  let bs := (leBytes 1 type ++ leBytes 1 1 ++ List.replicate 6 0 ++ leBytes 8 seq ++ body ++ List.replicate 48 0).take 48
  bs ++ tagBytes g true epoch bs
/-- A port with one more flit sent, under its current transmit key. -/
def Group16.send (x : Group16) (g : BitVec 5) (type seq : Nat) (body : List Byte) : Group16 :=
  { x with outbox := x.outbox ++ [flitOf g x.epoch.toNat type seq body] }
/-- A byte of a flit. -/
def flitNat (bs : List Byte) (o n : Nat) : Nat := leNat ((bs.drop o).take n)

/-! ### EMAP during a change (R357, R361) -/

/-- Every EMAP entry whose GMASK holds the group gets DRAIN = 1. -/
def State.drain (s : State) (g : Nat) : State :=
  { s with parts := s.parts.map (fun x => x.map (fun p => { p with emap := p.emap.map (fun e =>
    if e.getLsbD g then e ||| 0x4000000000000000 else e) })) }
/-- Another group of an entry is still changing. -/
def State.drains (s : State) (g : Nat) (e : Word) : Bool := (List.range 16).any (fun k =>
  k ≠ g && e.getLsbD k && (s.groups.get ⟨k % 16, Nat.mod_lt _ (by decide)⟩).changing)
/-- An EMAP entry at the flip: the last pending value that Crown countersigns, where there is one, and DRAIN 0 unless another group of the entry
is still changing. -/
def State.flipEntry (s : State) (pn : PartId) (p : Partition) (g i : Nat) (e : Word) : Word :=
  if e.getLsbD g && e.getLsbD 62 then
    let new := match (p.emapPending.filter (fun x => decide (x.1 = i) && s.emapOk pn (x.2 &&& 0xBFFFFFFFFFFFFFFF))).getLast? with
      | some x => x.2 &&& 0xBFFFFFFFFFFFFFFF
      | none => e &&& 0xBFFFFFFFFFFFFFFF
    if s.drains g new then new ||| 0x4000000000000000 else new
  else e
/-- The flip of step 6 (R361): in one cycle, for every entry that holds the group. -/
def State.flipEmap (s : State) (g : Nat) : State :=
  { s with parts := Vector.ofFn (fun (n : Fin 32) => (s.parts.get n).map (fun p => { p with
    emap := Vector.ofFn (fun (i : Fin 64) => s.flipEntry n p g i.val (p.emap.get i))
    emapPending := p.emapPending.filter (fun x => let e := p.emap.get ⟨x.1 % 64, Nat.mod_lt _ (by decide)⟩
                                                  !(e.getLsbD g && e.getLsbD 62)) })) }
/-- A new route epoch (R352). -/
def State.newEpoch (s : State) : State := { s with module := { s.module with routeEpoch := s.module.routeEpoch + 1 } }

/-! ### Die links and clocks (R367) -/

/-- A die has no path to the home of a line among the dies that the partition which owns it owns (R367). -/
def State.lineApart (s : State) (d : DieId) (ln : Nat) : Bool := match (s.owners.find? (fun o => o.1 = ln * 64 / 65536)).bind (fun o => s.part o.2) with
  | some p => !s.joined (fun k => p.ownsDie k.val) d (homeOf ln)
  | none => !s.joined (fun _ => true) d (homeOf ln)
/-- What is left of a message of the fleet at a split (R367): a message between dies with no path between them is lost. One that the owner
of its line may no longer send over the dies that are left is lost too, but its clock still comes to the dies that may have it, so that
their gates open (assumption 64). -/
def FleetMsg.atSplit (s : State) (apart : DieId → DieId → Bool) (m : FleetMsg) : List FleetMsg := match m with
  | .write src _ ln _ _ v _ _ _ w => if s.lineApart src ln then
      (([0, 1, 2, 3] : List DieId).filter (fun e => decide (e ≠ src) && !apart src e)).map (fun e => .tick e src v w) else [m]
  | .update dst src ln _ _ v _ w => if apart dst src then [] else if s.lineApart dst ln then [.tick dst src v w] else [m]
  | .tick dst src _ _ => if apart dst src then [] else [m]
  | .fetch src _ ln _ => if s.lineApart src ln then [] else [m]
  | .line dst _ ln _ _ _ => if s.lineApart dst ln then [] else [m]
/-- The dies that a split has just parted: writes on their way are discarded, copies of lines homed across it given up, and the counters
of dies across it no longer awaited (R367). -/
def State.part_ (s : State) : State :=
  let apart (d e : DieId) : Bool := !s.joined (fun _ => true) d e
  { s with
    dies := Vector.ofFn (fun (d : Fin 4) => let x := s.dies.get d
                                            { x with cut := ([0, 1, 2, 3] : List DieId).filter (fun e => apart d e || x.cut.contains e)
                                                     cache := x.cache.filter (fun l => !s.lineApart d l.line) })
    fleet := s.fleet.flatMap (FleetMsg.atSplit s apart) }
/-- The dies that a repaired link has joined again exchange clocks (R367). -/
def State.rejoin (s : State) : State :=
  let back (d e : DieId) : Bool := (s.dies.get d).cut.contains e && s.joined (fun _ => true) d e
  { s with dies := Vector.ofFn (fun (d : Fin 4) =>
    let x := s.dies.get d
    { x with cut := x.cut.filter (fun e => !back d e)
             clock := Vector.ofFn (fun (k : Fin 4) => if back d k then (s.dies.get k).clock.get k else x.clock.get k) }) }

/-! ### Links going up and down (R352, R360, R361, R364) -/

/-- TALIGN of every group (R346). -/
def State.alignAll (s : State) (ok : Bool) : State :=
  ((List.range 16).map (fun n => (⟨n % 16, Nat.mod_lt _ (by decide)⟩ : Fin 16))).foldl (fun s n => s.setGroup n { s.groups.get n with talign := ok }) s
/-- The package's offset from its time master is estimated (R346): the master has none, and that of another package is free, as is whether it
is within the bound (assumption 79). -/
def State.estimate (s : State) : State :=
  let (ahead, near) := Config.freeEstimate s.tick
  if s.isMaster then State.alignAll { s with module := { s.module with ahead := none } } true
  else State.alignAll { s with module := { s.module with ahead := ahead } } near
/-- A port without the swaps that a link has agreed on or asks for: they are void once it trains anew (R364, R365). -/
def Group16.noSwaps (x : Group16) : Group16 := { x with swapAsked := none, swapAt := none, rxSwapAt := none }
/-- A link comes up in a state: a change in progress flips EMAP, and a new route epoch begins; a torus link may bring another time master. -/
def State.linkUp (s : State) (g : BitVec 5) (x : Group16) (st : BitVec 4) : State :=
  let s := s.setPort g { x.noSwaps with state := st, retry := 0, changing := false, enc := decide (x.pers = 1 ∨ x.pers = 2) }
  let s := if x.changing then s.flipEmap g.toNat else s
  let s := if g.toNat < 16 ∧ x.pers = 1 then s.estimate else s
  (if 16 ≤ g.toNat then s.rejoin else s).newEpoch
/-- A link goes down with a reason. -/
def State.linkDown (s : State) (g : BitVec 5) (x : Group16) (reason : BitVec 8) : State :=
  let s := s.setPort g { x.noSwaps with state := 6, reason := reason, width := 0, enc := false, changing := false, authFails := 0, peer := [] }
  let s := if x.changing then s.flipEmap g.toNat else s
  (if 16 ≤ g.toNat then s.part_ else s).newEpoch
/-- A link retrains with its data held (R364, R365). -/
def Group16.retrain (x : Group16) (retry : BitVec 16) : Group16 := { x.noSwaps with state := 3, width := 0, retry := retry, peer := [] }
/-- A flit authenticates at a port under a key epoch: one of a die link is what the other end has sent, and a group's tag is judged by the key of
the link's direction (R362, R366). -/
def State.tagged (s : State) (g : BitVec 5) (epoch : Nat) (bs : List Byte) : Bool :=
  if 16 ≤ g.toNat then decide ((s.port (otherEnd g)).outbox.head? = some bs ∧ bs.drop 48 = tagBytes (otherEnd g) true epoch (bs.take 48))
  else decide (bs.drop 48 = tagBytes g false epoch (bs.take 48))
/-- A control flit authenticates at a port: under the current key of its direction, or, while a new one has been announced, under that
(R362, R366). -/
def State.authentic (s : State) (g : BitVec 5) (bs : List Byte) : Bool :=
  let x := s.port g
  decide (bs.length = 64) && (s.tagged g x.rxEpoch.toNat bs || (x.rxKeyAt.isSome && s.tagged g (x.rxEpoch + 1).toNat bs))
/-- The flit that has arrived at a die-link end leaves the other end. -/
def State.taken (s : State) (g : BitVec 5) : State :=
  if 16 ≤ g.toNat then
    let y := s.port (otherEnd g)
    s.setPort (otherEnd g) { y with outbox := y.outbox.tail }
  else s
/-- A flit that fails authentication: the eighth in a row takes the link down with AUTH (R366). -/
def State.badFlit (s : State) (g : BitVec 5) (x : Group16) : State :=
  if 8 ≤ x.authFails + 1 then s.linkDown g x 5 else s.setPort g { x with authFails := x.authFails + 1 }
/-- A control flit of a type arrives at a port: one that fails authentication is dropped (R362, R366), and so is one of another type or
version. -/
def State.arrive (s : State) (g : BitVec 5) (type : Nat) (bs : List Byte) (f : Group16 → State) : State :=
  let x := s.port g
  if !x.talks then s
  else if !s.authentic g bs then s.badFlit g x
  else if flitNat bs 0 1 ≠ type ∨ flitNat bs 1 1 ≠ 1 then (if 16 ≤ g.toNat then s else s.setPort g { x with authFails := 0 })
  else (f { x with authFails := 0 }).taken g

/-! ### Personality changes (R359, R361) -/

/-- The port of a group. -/
def portOf (g : BitVec 4) : BitVec 5 := g.setWidth 5
/-- A personality may be given to a group: 1 and 2 to a shared one, 3 and 4 to an assigned one (R358). -/
def Group16.admits (x : Group16) (p : BitVec 4) : Bool := match p.toNat with
  | 0 => true
  | 1 | 2 => x.assigned.isNone
  | 3 | 4 => x.assigned.isSome
  | _ => false
/-- Steps 1 to 3 of a change at one end. -/
def Group16.change (x : Group16) (to_ : BitVec 4) (drop : Word) : Group16 :=
  { x with state := 4, changing := true, persNew := to_, persReq := to_, dropAt := drop, acked := false }
/-- PERSONALITY_CHANGE (R361): a change that has been asked for begins under Crown's countersignature. -/
def State.beginChange (s : State) (g : BitVec 4) : State :=
  let x := s.groups.get g.toFin
  if !s.brim || x.changing || (decide (x.persReq = 1) && s.module.groupOff g.toNat) || decide (x.persReq = x.pers) || !x.admits x.persReq then s
  else
    let drop := s.ftime + BitVec.ofNat 64 (12500 * x.tout.toNat)
    let y := x.change x.persReq drop
    let y := if x.talks then y.send (portOf g) 6 y.txSeq.toNat (leBytes 8 y.persNew.toNat ++ leBytes 8 drop.toNat) else y
    (s.drain g.toNat).setPort (portOf g) y
/-- PERSONALITY_CHANGE (R361). -/
def execPersonalityChange (g : BitVec 4) (s : State) : Host.Outcome State Fault Refusal := .next (s.beginChange g)
/-- PERSREQ (R361): the peer's change is made here too, and answered. -/
def State.persReqd (s : State) (g : BitVec 4) (bs : List Byte) : State := s.arrive (portOf g) 6 bs (fun x =>
  if x.changing then s.setPort (portOf g) x
  else
    let to_ := BitVec.ofNat 4 (flitNat bs 16 1)
    let drop := BitVec.ofNat 64 (flitNat bs 24 8)
    (s.drain g.toNat).setPort (portOf g) ((x.change to_ drop).send (portOf g) 7 x.txSeq.toNat (leBytes 8 to_.toNat ++ leBytes 8 drop.toNat)))
/-- PERSREQ (R361). -/
def execPersreq (g : BitVec 4) (flit : List Byte) (s : State) : Host.Outcome State Fault Refusal := .next (s.persReqd g flit)
/-- PERSACK (R361): the peer has answered. -/
def execPersack (g : BitVec 4) (flit : List Byte) (s : State) : Host.Outcome State Fault Refusal :=
  .next (s.arrive (portOf g) 7 flit (fun x => s.setPort (portOf g) { x with acked := x.changing }))
/-- A group under its new personality, whose link has dropped. -/
def Group16.cleared (x : Group16) : Group16 :=
  { x.noSwaps with pers := x.persNew, width := 0, speed := 0, enc := false, retry := 0, swapMap := 31, rxSwap := 31, peer := [] }
/-- A request or a chunk is outstanding through a group. -/
def State.outstanding (s : State) (g : BitVec 4) : Bool :=
  s.remotes.any (fun r => decide (r.way.bind Way.group = some g)) || s.chunks.any (fun r => decide (r.way.group = some g))
/-- LINK_DROP (R361): at the drop time, once every request and chunk that is still outstanding through the group has
failed with TIMEOUT, the link drops; a group that goes off is done, another retrains under its new personality. -/
def State.dropLink (s : State) (g : BitVec 4) : State :=
  let x := s.groups.get g.toFin
  if !x.changing || decide (x.state ≠ 4) || decide (s.ftime < x.dropAt) || s.outstanding g then s
  else
    let y := x.cleared
    if x.persNew = 0 then ((s.setPort (portOf g) { y with state := 0, changing := false }).flipEmap g.toNat).newEpoch
    else s.setPort (portOf g) { y with state := 5 }
/-- LINK_DROP (R361). -/
def execLinkDrop (g : BitVec 4) (s : State) : Host.Outcome State Fault Refusal := .next (s.dropLink g)

/-! ### The torus and the descriptor (R348, R349, R363, R364) -/

/-- A torus link joins the two neighbours that its ports' directions ask for (R349, R364). -/
def State.neighbours (s : State) (g : BitVec 5) (peer : List Byte) : Bool :=
  let own := 4 * s.module.node.toNat + g.toNat / 4
  let f := flitNat peer 0 2
  let port := flitNat peer 2 1
  decide (16 ≤ g.toNat) || (decide (f = neighbour s.module own (g.toNat % 4)) && decide (own = neighbour s.module f (port % 4)) &&
    decide (port / 4 = f % 4 ∧ port % 4 = facing (g.toNat % 4)))
/-- Two descriptors agree (R364), their neighbourhood apart. -/
def Group16.agrees (x : Group16) (peer : List Byte) : Bool :=
  decide (flitNat peer 3 1 = x.pers.toNat ∧ flitNat peer 6 1 = x.speed.toNat ∧ flitNat peer 7 1 = x.width.toNat ∧
    flitNat peer 12 1 = x.swapMap.toNat ∧ flitNat peer 11 1 = x.rxSwap.toNat)
/-- Lanes 0 to n − 1 that are bad for one receiver or the other. -/
def badLanes (a b n : Nat) : List Nat := (List.range n).filter (fun i => decide (a / 2 ^ i % 2 = 0 ∨ b / 2 ^ i % 2 = 0))
/-- The greatest common configuration (R364): the port with it, or the reason why there is none. -/
def Group16.common (x : Group16) (peer : List Byte) : Except (BitVec 8) Group16 :=
  let own := x.laneOk.toNat
  let his := flitNat peer 8 3
  let speeds := (List.range 16).filter (fun c => decide (0 < c) && x.spsup.getLsbD c && decide (flitNat peer 4 2 / 2 ^ c % 2 = 1))
  if flitNat peer 3 1 ≠ x.pers.toNat then .error 1
  else match speeds.head? with
    | none => .error 2
    | some c => match [16, 8, 4, 2, 1].find? (fun w => decide ((badLanes own his w).length ≤ 1 ∧ own / 2 ^ 16 % 2 = 1 ∧ his / 2 ^ 16 % 2 = 1)) with
      | none => .error 4
      | some w =>
        let bad := (badLanes own his w).head?
        let lane (m : Nat) : BitVec 5 := match bad with
          | some i => if m / 2 ^ i % 2 = 0 then BitVec.ofNat 5 i else 31
          | none => 31
        .ok { x with speed := BitVec.ofNat 8 c, width := BitVec.ofNat 8 w, swapMap := lane his, rxSwap := lane own }
/-- A port that has trained compares its configuration with its peer's descriptor (R364). -/
def State.compare (s : State) (g : BitVec 5) (x : Group16) : State :=
  if !s.neighbours g x.peer then s.linkDown g x 3
  else if x.agrees x.peer then s.linkUp g x 2
  else if x.retry.toNat < 3 then s.setPort g (x.retrain (x.retry + 1))
  else match x.common x.peer with
    | .ok y => s.linkUp g y 3
    | .error r => s.linkDown g x r
/-- LSD (R363, R364): the peer's descriptor arrives. One that comes before this end has trained is compared then; a second one after a
training is not compared again. -/
def State.describe (s : State) (g : BitVec 5) (bs : List Byte) : State := s.arrive g 1 bs (fun x =>
  let y := { x with peer := (bs.drop 16).take 32 }
  if (x.state ≠ 1 ∧ x.state ≠ 3 ∧ x.state ≠ 5) ∨ x.width = 0 ∨ x.peer ≠ [] then s.setPort g y else s.compare g y)
/-- LSD (R364). -/
def execLsd (g : BitVec 5) (flit : List Byte) (s : State) : Host.Outcome State Fault Refusal := .next (s.describe g flit)
/-- LINK_TRAINED (R360, R361, R364): training completes. A torus or a die link sends its descriptor and waits for the peer's, if
that has not come yet; a link of another personality is up. Which lanes its receiver finds good is free (assumption 62). -/
def State.trained (s : State) (g : BitVec 5) (width : BitVec 8) (speed : BitVec 4) : State :=
  let x := s.port g
  let waits := decide ((x.state = 1 ∨ x.state = 3 ∨ x.state = 5 ∨ x.state = 6) ∧ x.width = 0)
  if !waits || decide (x.pers = 0 ∨ speed = 0) || !([1, 2, 4, 8, 16] : List Nat).contains width.toNat then s
  else
    let y := { x with width := width, speed := speed.setWidth 8, state := if x.state = 6 then 1 else x.state, laneOk := Config.freeLanes s.tick g.toNat }
    if y.pers = 1 then
      let z := y.send g 1 y.txSeq.toNat (s.descriptor g y)
      if x.peer = [] then s.setPort g z else s.compare g z
    else s.linkUp g y 2
/-- LINK_TRAINED (R364). -/
def execLinkTrained (g : BitVec 5) (width : BitVec 8) (speed : BitVec 4) (s : State) : Host.Outcome State Fault Refusal := .next (s.trained g width speed)
/-- LINK_DOWN (R352, R360): a link that is not off goes down with a reason of R360. -/
def State.goDown (s : State) (g : BitVec 5) (reason : BitVec 8) : State :=
  let x := s.port g
  if x.state = 0 ∨ x.state = 6 ∨ reason = 0 ∨ 6 < reason.toNat then s else s.linkDown g x reason
/-- LINK_DOWN (R352). -/
def execLinkDown (g : BitVec 5) (reason : BitVec 8) (s : State) : Host.Outcome State Fault Refusal := .next (s.goDown g reason)

/-! ### Lane swaps (R365) -/

/-- LANE_HEALTH_SAMPLE (R365): a lane of this receiver whose corrected flits exceed 1 in 10^5 or whose eye margin is below 20 % is asked to
be swapped; a second one, or the spare, leads to a retrain. -/
def State.sample (s : State) (g : BitVec 5) (lane : BitVec 5) (flits corrected eye : Nat) : State :=
  let x := s.port g
  if !x.talks || !x.up || decide (16 < lane.toNat) || !decide (flits < corrected * 100000 ∨ eye < 20) then s
  else
    let x := { x with laneOk := x.laneOk &&& ~~~((1 : BitVec 17) <<< lane.toNat) }
    if lane = x.rxSwap ∨ x.swapAsked = some lane then s.setPort g x
    else if lane.toNat < 16 ∧ x.rxSwap = 31 ∧ x.swapAsked = none then
      s.setPort g (({ x with swapAsked := some lane } : Group16).send g 2 x.txSeq.toNat (leBytes 1 lane.toNat))
    else s.setPort g (x.retrain 0)
/-- LANE_HEALTH_SAMPLE (R365). -/
def execLaneHealthSample (g : BitVec 5) (lane : BitVec 5) (flits corrected eye : Nat) (s : State) : Host.Outcome State Fault Refusal :=
  .next (s.sample g lane flits corrected eye)
/-- SWAPREQ (R365): the transmitter chooses N, 64 above its next sequence number, and answers; it moves the lane onto the spare after flit
N - 1. A second lane leads to a retrain. -/
def State.swapReqd (s : State) (g : BitVec 5) (bs : List Byte) : State := s.arrive g 2 bs (fun x =>
  let lane := BitVec.ofNat 5 (flitNat bs 16 1)
  if !x.up || decide (16 ≤ flitNat bs 16 1) || decide (x.swapMap = lane) || x.swapAt.any (fun y => y.1 = lane) then s.setPort g x
  else if x.swapMap ≠ 31 ∨ x.swapAt.isSome then s.setPort g (x.retrain 0)
  else
    let n := x.txSeq + 64
    s.setPort g (({ x with swapAt := some (lane, n) } : Group16).send g 3 n.toNat (leBytes 1 lane.toNat)))
/-- SWAPREQ (R365). -/
def execSwapreq (g : BitVec 5) (flit : List Byte) (s : State) : Host.Outcome State Fault Refusal := .next (s.swapReqd g flit)
/-- SWAPACK (R365): the receiver will take the lane's position from the spare after flit N - 1. -/
def State.swapAckd (s : State) (g : BitVec 5) (bs : List Byte) : State := s.arrive g 3 bs (fun x =>
  let lane := BitVec.ofNat 5 (flitNat bs 16 1)
  s.setPort g (if x.swapAsked = some lane then { x with rxSwapAt := some (lane, BitVec.ofNat 64 (flitNat bs 8 8)) } else x))
/-- SWAPACK (R365). -/
def execSwapack (g : BitVec 5) (flit : List Byte) (s : State) : Host.Outcome State Fault Refusal := .next (s.swapAckd g flit)

/-! ### Key rotation (R366) -/

/-- The port's data flits are encrypted: a UALink group or a die link (R358, R366). -/
def Group16.ciphers (x : Group16) : Bool := decide (x.pers = 1 ∨ x.pers = 2)
/-- KEY_ROTATION (R366): the sender emits KEYCHG with SEQ = N, the next flit, and sends every flit from it on under the next epoch, while the key
before it stays for replays. A port of personality 2 carries no control flit. -/
def State.rotate (s : State) (g : BitVec 5) : State :=
  let x := s.port g
  if !x.up || x.keyAt.isSome || !x.ciphers then s
  else
    let n := x.txSeq
    let y := if x.talks then x.send g 4 n.toNat (leBytes 4 (x.epoch.toNat + 1)) else x
    s.setPort g { y with epoch := x.epoch + 1, keyAt := some n, keyFrom := n }
/-- KEY_ROTATION (R366). -/
def execKeyRotation (g : BitVec 5) (s : State) : Host.Outcome State Fault Refusal := .next (s.rotate g)
/-- KEYCHG (R366): the receiver learns from which flit on the next epoch holds. -/
def State.keyChanged (s : State) (g : BitVec 5) (bs : List Byte) : State := s.arrive g 4 bs (fun x =>
  s.setPort g (if BitVec.ofNat 32 (flitNat bs 16 4) = x.rxEpoch + 1 ∧ x.rxKeyAt = none then { x with rxKeyAt := some (BitVec.ofNat 64 (flitNat bs 8 8)) } else x))
/-- KEYCHG (R366). -/
def execKeychg (g : BitVec 5) (flit : List Byte) (s : State) : Host.Outcome State Fault Refusal := .next (s.keyChanged g flit)
/-- The sender has zeroised its old key once no flit below the first of the new one is in its replay buffer (R366). -/
def Group16.zeroised (x : Group16) : Group16 := { x with keyAt := x.keyAt.filter (fun n => decide (x.txAcked < n)) }
/-- KEYACK (R366): flit N, and with it every flit below, has arrived, so that none of these is left to be replayed. -/
def State.keyAcked (s : State) (g : BitVec 5) (bs : List Byte) : State := s.arrive g 5 bs (fun x =>
  s.setPort g (if flitNat bs 16 4 = x.epoch.toNat then
    { x with txAcked := (x.keyAt.filter (fun n => decide (x.txAcked < n))).getD x.txAcked }.zeroised else x))
/-- KEYACK (R366). -/
def execKeyack (g : BitVec 5) (flit : List Byte) (s : State) : Host.Outcome State Fault Refusal := .next (s.keyAcked g flit)

/-! ### Data flits (R364 to R366) -/

/-- A number that grows by some steps and not beyond a bound. -/
def growTo (v bound : Word) (n : Nat) : Word := if v < bound then v + BitVec.ofNat 64 (n % ((bound - v).toNat + 1)) else v
/-- The sending side after some data flits (R365, R366): no more than 2^32 under one key, and of those sent some are acknowledged. Once flit
N - 1 has been sent a swap that was agreed on holds, and once it is acknowledged the key of the flits below N is zeroised. -/
def Group16.sends (x : Group16) (sent acked : Nat) (limit : Word) : Group16 :=
  let tx := growTo x.txSeq (x.keyFrom + 0x100000000) sent
  let x := { x with txSeq := tx, txAcked := growTo x.txAcked (if limit < tx then limit else tx) acked }
  Group16.zeroised (match x.swapAt with
    | some (lane, n) => if n ≤ x.txSeq then { x with swapMap := lane, swapAt := none } else x
    | none => x)
/-- The receiving side after some data flits: from flit N on a swap that was agreed on holds (R365); once flit N of a new key has arrived the
receiver goes over to it and acknowledges it (R366). -/
def Group16.receives (x : Group16) (g : BitVec 5) (rx : Word) : Group16 :=
  let x := { x with rxSeq := rx }
  let x := match x.rxSwapAt with
    | some (lane, n) => if n ≤ rx then { x with rxSwap := lane, rxSwapAt := none, swapAsked := none } else x
    | none => x
  match x.rxKeyAt with
  | some n => if n < rx then
      let y := { x with rxEpoch := x.rxEpoch + 1, rxKeyAt := none }
      if y.talks then y.send g 5 n.toNat (leBytes 4 y.rxEpoch.toNat) else y
    else x
  | none => x
/-- Data flits of a port move in a step (R364 to R366): how many is free (assumption 62); what arrives over a die link the other end has sent.
The eighth in a row that fails authentication takes the link down. -/
def State.flowAt (s : State) (g : BitVec 5) : State :=
  let x := s.port g
  if !x.up || !x.ciphers then s
  else
    let (sent, acked, arrived, failed) := Config.freeFlits s.tick g.toNat
    let link := decide (16 ≤ g.toNat)
    let other := s.port (otherEnd g)
    let rx := growTo x.rxSeq (if link then other.txSeq else 0xFFFFFFFFFFFFFFFF) arrived
    let y := ((x.sends sent acked (if link then other.rxSeq else 0xFFFFFFFFFFFFFFFF)).receives g rx)
    let fails := if x.rxSeq < rx then failed else x.authFails + failed
    if 8 ≤ fails then s.linkDown g y 5 else s.setPort g { y with authFails := fails }
/-- Data flits move at every port. -/
def State.flow (s : State) : State := ((List.range 32).map (BitVec.ofNat 5)).foldl State.flowAt s

/-! ### Fabric time (R346) -/

/-- TIME_FLIT_SEND (R346): a torus link that is up sends its FTIME. -/
def State.sendTime (s : State) (g : BitVec 4) : State :=
  let x := s.groups.get g.toFin
  if x.talks && x.up then s.setPort (portOf g) (x.send (portOf g) 8 x.txSeq.toNat (leBytes 8 s.ftime.toNat)) else s
/-- TIME_FLIT_SEND (R346). -/
def execTimeFlitSend (g : BitVec 4) (s : State) : Host.Outcome State Fault Refusal := .next (s.sendTime g)
/-- The offset of a peer's time, sent 160 cycles ago (R347), from one's own is at most 5 cycles. -/
def nearTime (own sent : Word) : Bool := decide (own.toNat ≤ sent.toNat + 165 ∧ sent.toNat + 155 ≤ own.toNat)
/-- One's own time against that of a peer, sent 160 cycles ago: ahead of it, behind it, or neither. -/
def aheadOf (own sent : Word) : Option Bool := if own.toNat = sent.toNat + 160 then none else some (decide (sent.toNat + 160 < own.toNat))
/-- TIME (R346): a package judges its offset by the time of its master, where the master is the peer; where it is not, the estimate is free
(assumption 79). -/
def State.takeTime (s : State) (g : BitVec 4) (bs : List Byte) : State := s.arrive (portOf g) 8 bs (fun x =>
  let s := s.setPort (portOf g) x
  let sent := BitVec.ofNat 64 (flitNat bs 16 8)
  if !s.isMaster && decide (x.peerNode = s.masterNode) then
    State.alignAll { s with module := { s.module with ahead := aheadOf s.ftime sent } } (nearTime s.ftime sent)
  else s.estimate)
/-- TIME (R346). -/
def execTime (g : BitVec 4) (flit : List Byte) (s : State) : Host.Outcome State Fault Refusal := .next (s.takeTime g flit)

/-! ### A split under a running fleet (R367) -/

/-- The dies of a launch are not all joined over dies that its partition owns. -/
def State.isSplit (s : State) (g : Group) : Bool := match s.part g.part with
  | some p =>
    let ds := (g.cores.map dieOf).dedup
    ds.any (fun d => ds.any (fun e => !s.joined (fun k => p.ownsDie k.val) d e))
  | none => false
/-- The job of a launch on a core as it stands: on the core, or as it left it. -/
def State.lastJob (s : State) (c : CoreId) (hd : Handle) : Option Job := match (s.job c).filter (fun j => j.handle = hd) with
  | some j => some j
  | none => ((s.core c).slotOf hd).bind (fun x => x.2.ctx)
/-- A job of a split launch ends with its pool scrubbed and no context saved. -/
def State.loseJob (s : State) (hd : Handle) (pn : PartId) (c : CoreId) : State := match (s.core c).slotOf hd with
  | none => s
  | some (i, _) =>
    let s := if (s.core c).on = some i then (s.freeJobBlocks c hd).scrub c pn else s
    s.leaveCore c hd
/-- FLEET_SPLIT (R367): at a split every running job of a launch on both sides takes a hard cut; once they have landed, the launch's jobs
end, and it ends with LINKLOST. -/
def State.split (s : State) (hd : Handle) : State := match s.jobs.find? (fun g => g.handle = hd) with
  | none => s
  | some g =>
    if !g.linkLost && !s.isSplit g then s
    else
      let s := { s with jobs := s.jobs.map (fun (x : Group) => if x.handle = hd then { x with linkLost := true } else x) }
      let live (c : CoreId) : Bool := (s.core c).lands && (s.job c).any (fun j => j.handle = hd)
      if g.cores.any live then
        g.cores.foldl (fun s c => if live c then (s.onJob c (fun j => j.hardStop 0x10 (optCoordWord j.front))).markLanding c else s) s
      else
        let g := { g with linkLost := true }
        let first := g.cores.headD 0
        let g := if g.done.contains first then g else match s.lastJob first hd with
          | some j => { g with front := optCoordWord j.front, lastRec := j.traprec }
          | none => g
        let s := (g.cores.filter (fun c => !g.done.contains c)).foldl (fun s c => s.loseJob hd g.part c) s
        State.complete (g.cores.foldl (fun s c => s.leaveCore c hd) s) g
/-- FLEET_SPLIT (R367). -/
def execFleetSplit (handle : BitVec 32) (s : State) : Host.Outcome State Fault Refusal := .next (s.split handle)

end Sys2Proof.Machine
end

