-- ==== Sys2Proof/Machine/Cuff.lean ====
section
/-!
DEFINITION. Cuff, the checkpoint rider (R368 to R374): pairing, the partner's stores in the keeper region, seals, restores and dumps.
-/
namespace Sys2Proof.Machine

/-! ### Memory that Cuff reaches (R354, R369) -/

/-- Write bytes at an address of the partition, sector by sector; a sector that cannot be reached is left. -/
def State.cuffWrite (s : State) (pn : PartId) (a : Nat) (bs : List Byte) : State := (pieces a bs.length).foldl (fun s x =>
  match s.cuffPa pn .w x.1 with
  | some k => s.pokeHome k ((bs.drop (x.1 - a)).take x.2)
  | none => s) s
/-- Read n bytes at an address of the partition; a sector that cannot be reached reads as zeros. -/
def State.cuffRead (s : State) (pn : PartId) (a n : Nat) : List Byte := (pieces a n).flatMap (fun x => match s.cuffPa pn .r x.1 with
  | some k => memBytes s.mem k x.2
  | none => List.replicate x.2 0)
/-- A number read there. -/
def State.cuffNat (s : State) (pn : PartId) (a n : Nat) : Nat := leNat (s.cuffRead pn a n)

/-! ### The control block and the slots (R369, R370) -/

/-- Word i of the control block. -/
def Partition.ck (p : Partition) (i : Nat) : Nat := p.ckBlock.getD i 0
/-- The pages of the keep window. -/
def Partition.ckPages (p : Partition) : Nat := p.ck 2 / 4096
/-- The address of the slot of a generation: S is the size of a slot. -/
def Partition.ckSlot (p : Partition) (g : Nat) : Nat := p.ck 3 + g % 3 * (4096 + p.ck 2 + p.ck 2 / 64)
/-- The address of page i of a slot. -/
def Partition.ckData (p : Partition) (g i : Nat) : Nat := p.ckSlot g + 4096 + 4096 * i
/-- The address of the record of page i of a slot. -/
def Partition.ckRec (p : Partition) (g i : Nat) : Nat := p.ckSlot g + 4096 + p.ck 2 + 64 * i
/-- STATUS of CKPAIR. -/
def Partition.ckStatus (p : Partition) : Nat := pteBits p.ckpair 63 60
/-- CKPAIR is paired. -/
def Partition.paired (p : Partition) : Bool := decide (p.ckStatus = 2)
/-- A generation of this owner was sealed under an earlier pair key: it lies below this pairing's first, or above the current one. -/
def Partition.foreign (p : Partition) (g : Nat) : Bool := decide (g < p.ckFirst ∨ p.ckgen.toNat < g)
/-- A slot is cleared and opened for a generation of the partner. -/
def State.openSlot (s : State) (pn : PartId) (p : Partition) (g : Nat) : State :=
  let flags := if p.ckpair.getLsbD 59 then 2 else 0
  let header := leBytes 8 g ++ leBytes 8 flags ++ leBytes 8 (p.ck 0 % 2 ^ 14) ++ leBytes 8 p.ckPages ++ List.replicate (4096 - 32) 0
  let s := s.cuffWrite pn (p.ckSlot g) (header ++ List.replicate (p.ck 2) 0)
  (List.range p.ckPages).foldl (fun s i => s.cuffWrite pn (p.ckRec g i) (leBytes 8 (p.ck 1 + 4096 * i) ++ List.replicate 56 0)) s
/-- The slot of a generation is open for it and not sealed, or sealed. -/
def State.slotHolds (s : State) (pn : PartId) (p : Partition) (g : Nat) (isSealed : Bool) : Bool :=
  decide (s.cuffNat pn (p.ckSlot g) 8 = g ∧ s.cuffNat pn (p.ckSlot g + 8) 8 % 2 = bitNat isSealed)

/-- The slot of a generation of the partner, which opens with its first store or its seal (R370, assumption 65). -/
def State.openFor (s : State) (pn : PartId) (p : Partition) (g : Nat) : State := if s.slotHolds pn p g false then s else s.openSlot pn p g

/-! ### Pairing (R368, R369) -/

/-- PAIRING (R368): the partner answers a partition that is pairing. -/
def State.pair (s : State) (pn : PartId) (feed : BitVec 16) (force : Bool) (kwsize : Nat) : State := match s.part pn with
  | none => s
  | some p =>
    if p.ckStatus ≠ 1 then s
    else
      let low := p.ckpair &&& 0x01FFFFFFFFFFF000
      let st (n : Nat) : Word := low + BitVec.ofNat 64 (n * 2 ^ 60)
      let forced := force || p.ckpair.getLsbD 56
      if kwsize ≠ p.ck 2 then s.setPart pn { p with ckpair := st 5 }
      else
        let s := s.cuffWrite pn (p.ckpair.toNat % 2 ^ 56 / 2 ^ 12 * 2 ^ 12 + 56) (leBytes 8 (s.module.feed.toNat + feed.toNat * 2 ^ 16))
        if feed = s.module.feed ∧ !forced then s.setPart pn { p with ckpair := st 3 }
        else
          let p := { p with ckpair := st 2 + (if forced then 1 <<< 59 else 0), ckgen := 1, ckFirst := 1, sealedGens := [], ckNo := s.tick }
          (s.setPart pn p).openSlot pn p 1
/-- PAIRING (R368). -/
def execPairing (p : PartId) (feed : BitVec 16) (force : Bool) (kwsize : Nat) (s : State) : Host.Outcome State Fault Refusal :=
  .next (s.pair p feed force kwsize)

/-! ### The keeper (R370, R371) -/

/-- KEEPER_STORE (R355, R370): a store of the partner with generation g goes to memory at a package physical address and, in the keep
window, into the slot of its generation, which the first store of a generation opens. -/
def State.keep (s : State) (pn : PartId) (g a : Nat) (data : List Byte) : State := match s.part pn with
  | none => s
  | some p =>
    let own := match regionOf a with
      | .dram _ _ => s.owners.contains (a / 65536, pn)
      | _ => false
    if !p.paired || p.down || !own || decide (64 < a % 64 + data.length) then s
    else
      let s := s.pokeHome a data
      match p.ckMap.find? (fun x => decide (x.1 = a / 4096)) with
      | none => s
      | some (_, i) => ((s.openFor pn p g).cuffWrite pn (p.ckData g i + a % 4096) data).cuffWrite pn (p.ckRec g i + 8) [1]
/-- KEEPER_STORE (R370). -/
def execKeeperStore (p : PartId) (g a : Nat) (data : List Byte) (s : State) : Host.Outcome State Fault Refusal := .next (s.keep p g a data)
/-- The digest of a page (R371). -/
def pageDigest (no g addr : Nat) (page : List Byte) : List Byte := ghash (Config.pairHash no g) (leBytes 8 addr ++ leBytes 8 g) page
/-- One page at a seal: written, carried from the sealed generation before, or absent; and whether it is absent (R371). -/
def State.sealPage (s : State) (pn : PartId) (p : Partition) (g : Nat) (before : Bool) (i : Nat) : State × Bool :=
  let rec_ := p.ckRec g i
  let addr := p.ck 1 + 4096 * i
  let finish (s : State) (st : Nat) (page : List Byte) : State :=
    s.cuffWrite pn (rec_ + 8) (leBytes 8 st ++ pageDigest p.ckNo g addr page)
  if s.cuffNat pn (rec_ + 8) 1 = 1 then (finish s 1 (s.cuffRead pn (p.ckData g i) 4096), false)
  else if before && decide (s.cuffNat pn (p.ckRec (g - 1) i + 8) 1 ≠ 0) then
    let page := s.cuffRead pn (p.ckData (g - 1) i) 4096
    (finish (s.cuffWrite pn (p.ckData g i) page) 2 page, false)
  else (s.cuffWrite pn (rec_ + 8) (leBytes 8 0), true)
/-- The manifest over the header's first 32 bytes, as they are before SEALED is set, and the first 32 bytes of every record (R371). -/
def manifestOf (header : List Byte) (records : List (List Byte)) : List Byte :=
  let flags := leNat ((header.drop 8).take 8)
  sha384 (header.take 8 ++ leBytes 8 (flags - flags % 2) ++ (header.drop 16).take 16 ++ records.flatMap (fun r => r.take 32))
/-- The keeper seals a generation of the partner; the next generation opens if it has not. -/
def State.sealKept (s : State) (pn : PartId) (p : Partition) (g : Nat) : State :=
  if !p.paired then s
  else
    let s := s.openFor pn p g
    let before := decide (0 < g) && s.slotHolds pn p (g - 1) true
    let r := (List.range p.ckPages).foldl (fun (r : State × Bool) i =>
      let x := r.1.sealPage pn p g before i
      (x.1, r.2 || x.2)) (s, false)
    let s := r.1
    let flags := s.cuffNat pn (p.ckSlot g + 8) 8 % 4 + (if r.2 then 4 else 0)
    let s := s.cuffWrite pn (p.ckSlot g + 8) (leBytes 8 flags)
    let man := manifestOf (s.cuffRead pn (p.ckSlot g) 32) ((List.range p.ckPages).map (fun i => s.cuffRead pn (p.ckRec g i) 32))
    ((s.cuffWrite pn (p.ckSlot g + 32) man).cuffWrite pn (p.ckSlot g + 8) (leBytes 8 (flags + 1))).openFor pn p (g + 1)
/-- CKSEAL after an operation: STATE, the operation, ERR (R374). -/
def cksealWord (state op err : Nat) : Word := BitVec.ofNat 64 (state * 2 ^ 62 + op * 2 ^ 60 + err * 2 ^ 48)
/-- The result block at MANVA (R371). -/
def State.resultBlock (s : State) (pn : PartId) (p : Partition) (g status : Nat) (man : List Byte) : State :=
  s.cuffWrite pn (p.ck 5) ((leBytes 8 g ++ leBytes 8 status ++ man ++ List.replicate 48 0).take 64)
/-- A store that left for the partner by a time is not acknowledged yet (R371): a remote store, or a chunk of a SEND. -/
def State.storesOut (s : State) (pn : PartId) (node : Nat) (time : Word) : Bool :=
  s.remotes.any (fun r => decide (r.part = pn ∧ r.ga.toNat / 2 ^ 50 = node ∧ r.sentAt ≤ time) && r.way.isSome && (match r.kind with
    | .store _ _ _ _ => true
    | _ => false)) ||
  s.chunks.any (fun x => decide (x.part = pn ∧ x.ga.toNat / 2 ^ 50 = node) && x.legs.head?.any (fun l => decide (l.left ≤ time.toNat)))
/-- The owner's seal has ended: STATUS 0, 1 or 2 with the manifest, not before every store of the generation is acknowledged, or 3 when the
partner cannot be reached (R371, R374). -/
def State.sealEnded (s : State) (pn : PartId) (p : Partition) (g status : Nat) (man : List Byte) : State :=
  if !p.ckBusy.any (fun x => decide (x.1 = 1 ∧ x.2.1 = g)) then s
  else if status = 3 then s.setPart pn { p with ckBusy := none, ckseal := cksealWord 3 1 6 }
  else if p.ckBusy.any (fun x => s.storesOut pn (p.ck 0 % 2 ^ 14) x.2.2) then s
  else
    let done := decide (status ≤ 1)
    let p := { p with ckBusy := none, ckseal := cksealWord (if done then 2 else 3) 1 0,
                      sealedGens := if done then p.sealedGens ++ [g] else p.sealedGens }
    (s.setPart pn p).resultBlock pn p g (Nat.min 2 status) man
/-- SEAL (R371): without a result, SEAL(g) reaches this module as the keeper; with one, the partner has sealed g of this owner. -/
def State.sealMsg (s : State) (pn : PartId) (g : Nat) (result : Option (Nat × List Byte)) : State := match s.part pn with
  | none => s
  | some p => match result with
    | none => s.sealKept pn p g
    | some (status, man) => s.sealEnded pn p g status man
/-- SEAL (R371). -/
def execSealSet (p : PartId) (g : Nat) (result : Option (Nat × List Byte)) (s : State) : Host.Outcome State Fault Refusal :=
  .next (s.sealMsg p g result)

/-! ### CKSEAL (R371 to R374) -/

/-- The k-th released CKSEAL write begins when it is of this operation and the partition's oldest; a write while STATE is 1 is ignored. -/
def State.beginCk (s : State) (k op : Nat) (f : State → PartId → Partition → Nat → State) : State := match s.ckReqs[k]? with
  | none => s
  | some (pn, v) =>
    if pteBits v 61 60 ≠ op ∨ (s.ckReqs.take k).any (fun x => x.1 = pn) then s
    else
      let s := { s with ckReqs := s.ckReqs.eraseIdx k }
      match s.part pn with
      | some p => if pteBits p.ckseal 63 62 = 1 then s else f s pn p (pteBits v 47 0)
      | none => s
/-- The operation fails its check: STATE 3 with an ERR, and nothing else changes. -/
def State.ckFail (s : State) (pn : PartId) (p : Partition) (op err : Nat) : State := s.setPart pn { p with ckseal := cksealWord 3 op err }
/-- The operation is in progress. -/
def State.ckStart (s : State) (pn : PartId) (p : Partition) (op : BitVec 2) (g : Nat) : State :=
  s.setPart pn { p with ckseal := cksealWord 1 op.toNat 0, ckBusy := some (op, g, s.ftime) }
/-- CKSEAL_SEAL (R371, R374): the owner's generation becomes g + 1 and the seal of g begins. -/
def execCksealSeal (k : Nat) (s : State) : Host.Outcome State Fault Refusal := .next (s.beginCk k 1 (fun s pn p g =>
  if !p.paired then s.ckFail pn p 1 1
  else if p.ckgen.toNat ≠ g then s.ckFail pn p 1 2
  else s.ckStart pn { p with ckgen := p.ckgen + 1 } 1 g))
/-- The keeper holds a generation of this owner sealed (R374): one of the two before the current one whose seal has ended well. What a
keeper holds from an earlier pairing is the partner's to say, so it is free here (assumption 66). -/
def State.keeperHolds (s : State) (p : Partition) (g : Nat) : Bool :=
  decide (0 < g ∧ g ≠ p.ckgen.toNat ∧ p.ckgen.toNat ≤ g + 2) && (if p.foreign g then (Config.freeWord s.tick 0).getLsbD 0 else p.sealedGens.contains g)
/-- The number of the pair key under which a generation of this owner was sealed (R371, R372); that of an earlier pairing is free
(assumption 66). -/
def State.keyNo (s : State) (p : Partition) (g : Nat) : Nat := if p.foreign g then (Config.freeWord s.tick 1).toNat else p.ckNo
/-- The owner's generations after a restore of g: the current one is g + 1, and those of a later time line are given up. -/
def Partition.restored (p : Partition) (g : Nat) : Partition :=
  { p with ckgen := BitVec.ofNat 64 (g + 1), ckFirst := if p.foreign g then g + 1 else p.ckFirst
           sealedGens := if p.foreign g then [] else p.sealedGens.filter (fun x => decide (x ≤ g)) }
/-- CKSEAL_RESTORE (R372, R374): the keep window closes until every page has verified. -/
def execCksealRestore (k : Nat) (s : State) : Host.Outcome State Fault Refusal := .next (s.beginCk k 2 (fun s pn p g =>
  if !p.paired then s.ckFail pn p 2 1 else if !s.keeperHolds p g then s.ckFail pn p 2 3 else s.ckStart pn p 2 g))
/-- The units of DRAM of a partition, ascending. -/
def State.unitsOf (s : State) (pn : PartId) : List Nat := ((s.owners.filter (fun o => o.2 = pn)).map Prod.fst).insertionSort (· ≤ ·)
/-- Where the units of a dump image of u units begin. -/
def dumpBase (u : Nat) : Nat := (4096 + 8 * u + 65535) / 65536 * 65536
/-- The place of an address of a dump image (R354, R373): in a KIND 0 window of the partition, through its tables. -/
def State.dumpPa (s : State) (pn : PartId) (p : Partition) (a : Nat) : Option Nat := (s.cuffPa pn .w a).filter (fun k => match regionOf k with
  | .edge g dev => p.edgeOk k g dev
  | _ => false)
/-- DUMPVA maps into a KIND 0 window of the partition with room for an image of u units (R373, R374): every page of it does, up to its last
unit. -/
def State.dumpOk (s : State) (pn : PartId) (p : Partition) (u : Nat) : Bool :=
  decide (p.ck 6 ≠ 0) && (s.dumpPa pn p (p.ck 6 + dumpBase u + u * 65536 - 1)).isSome &&
    (List.range ((dumpBase u + u * 65536) / 4096)).all (fun i => (s.dumpPa pn p (p.ck 6 + 4096 * i)).isSome)
/-- Write bytes of a dump image, each page where the tables map it (R373). -/
def State.dumpWrite (s : State) (pn : PartId) (p : Partition) (a : Nat) (bs : List Byte) : State := (pieces a bs.length).foldl (fun s x =>
  match s.dumpPa pn p x.1 with
  | some k => s.pokeHome k ((bs.drop (x.1 - a)).take x.2)
  | none => s) s
/-- CKSEAL_DUMP (R373, R374): it needs no pair, and its GEN is ignored. -/
def execCksealDump (k : Nat) (s : State) : Host.Outcome State Fault Refusal := .next (s.beginCk k 3 (fun s pn p _ =>
  if !s.dumpOk pn p (s.unitsOf pn).length then s.ckFail pn p 3 5 else s.ckStart pn p 3 0))

/-! ### The end of a restore (R372) -/

/-- A page of a restore: its bytes, or zeros for an absent one; none where its digest, over the address that its record gives, differs. -/
def restorePage (no g : Nat) (r page : List Byte) : Option (List Byte) :=
  if leNat ((r.drop 8).take 1) = 0 then some (List.replicate 4096 0)
  else if page.length = 4096 ∧ pageDigest no g (leNat (r.take 8)) page = (r.drop 16).take 16 then some page else none
/-- The manifests agree: the one recomputed, the header's, and that of the result block where it holds the generation. -/
def State.manifestOk (s : State) (pn : PartId) (p : Partition) (g : Nat) (header : List Byte) (records : List (List Byte)) : Bool :=
  let man := manifestOf header records
  let blk := s.cuffRead pn (p.ck 5) 64
  decide (man = (header.drop 32).take 48 ∧ leNat (header.take 8) = g) && (decide (leNat (blk.take 8) ≠ g) || decide ((blk.drop 16).take 48 = man))
/-- CKSEAL_RESTORE_DONE (R372): every page is written at its place in the keep window, absent ones as zeros, and the generation becomes
g + 1; a mismatch zeroes the window, with BADDIGEST and the first failing index, which is free where only the manifest differs. -/
def State.restoreEnded (s : State) (pn : PartId) (header : List Byte) (records pages : List (List Byte)) : State := match s.part pn with
  | none => s
  | some p => match p.ckBusy with
    | some (op, g, _) =>
      if op ≠ 2 then s
      else
        let ix := List.range p.ckPages
        let got := ix.map (fun i => restorePage (s.keyNo p g) g (records.getD i []) (pages.getD i []))
        let bad := ix.find? (fun i => (got.getD i none).isNone)
        let man := manifestOf header records
        if bad.isNone && s.manifestOk pn p g header records then
          let s := ix.foldl (fun s i => s.cuffWrite pn (p.ck 1 + 4096 * i) ((got.getD i none).getD [])) s
          let absent := ix.any (fun i => decide (leNat (((records.getD i []).drop 8).take 1) = 0))
          let p := { p.restored g with ckBusy := none, ckseal := cksealWord 2 2 0 }
          (s.setPart pn p).resultBlock pn p g (bitNat absent) man
        else
          let s := s.cuffWrite pn (p.ck 1) (List.replicate (p.ck 2) 0)
          let p := { p with ckBusy := none, ckseal := cksealWord 3 2 4 }
          (s.setPart pn p).resultBlock pn p g (bad.getD (Config.freeWord s.tick 0).toNat) man
    | none => s
/-- CKSEAL_RESTORE_DONE (R372). -/
def execCksealRestoreDone (p : PartId) (header : List Byte) (records pages : List (List Byte)) (s : State) : Host.Outcome State Fault Refusal :=
  .next (s.restoreEnded p header records pages)

/-! ### The end of a dump (R373) -/

/-- CKSEAL_DUMP_DONE (R373): the header, the addresses and the units stand in the image, page by page where the tables map them, and CKSEAL
reads STATE 2; 3, with NODUMP, when a page of the image is no longer mapped into a window (assumption 67). -/
def State.dumpEnded (s : State) (pn : PartId) : State := match s.part pn with
  | none => s
  | some p => match p.ckBusy with
    | some (op, _, start) =>
      if op ≠ 3 then s
      else
        let us := s.unitsOf pn
        let done := s.dumpOk pn p us.length
        let header := leBytes 8 us.length ++ leBytes 8 start.toNat ++ List.replicate 4080 0
        let s := s.dumpWrite pn p (p.ck 6) (header ++ us.flatMap (fun u => leBytes 8 (u * 65536)))
        let s := us.zipIdx.foldl (fun s x => s.dumpWrite pn p (p.ck 6 + dumpBase us.length + x.2 * 65536) (memBytes s.mem (x.1 * 65536) 65536)) s
        s.setPart pn { p with ckBusy := none, ckseal := if done then cksealWord 2 3 0 else cksealWord 3 3 5 }
    | none => s
/-- CKSEAL_DUMP_DONE (R373). -/
def execCksealDumpDone (p : PartId) (s : State) : Host.Outcome State Fault Refusal := .next (s.dumpEnded p)

end Sys2Proof.Machine
end

