-- ==== Sys2Proof/Machine/Scalar.lean ====
section
/-!
DEFINITION. Integer arithmetic and logic, compares, immediates, branches and calls (R67 to R71).
-/
namespace Sys2Proof.Machine

/-! ### Results (R67, R68) -/

/-- MULH: bits 127:64 of the signed or unsigned product. -/
def mulhVal (u : Bool) (a b : Word) : Word :=
  if u then BitVec.ofNat 64 (a.toNat * b.toNat / 2 ^ 64) else BitVec.ofInt 64 (a.toInt * b.toInt / 2 ^ 64)
/-- DIV (R68): the quotient truncated toward zero, all ones for a zero divisor, and the dividend for -2^63 / -1. -/
def divVal (u : Bool) (a b : Word) : Word :=
  if b = 0 then BitVec.allOnes 64
  else if u then BitVec.ofNat 64 (a.toNat / b.toNat)
  else if a = BitVec.intMin 64 ∧ b = BitVec.allOnes 64 then a
  else BitVec.ofInt 64 (Int.tdiv a.toInt b.toInt)
/-- REM (R68): the remainder with the sign of the dividend, the dividend for a zero divisor, and 0 for -2^63 / -1. -/
def remVal (u : Bool) (a b : Word) : Word :=
  if b = 0 then a
  else if u then BitVec.ofNat 64 (a.toNat % b.toNat)
  else if a = BitVec.intMin 64 ∧ b = BitVec.allOnes 64 then 0
  else BitVec.ofInt 64 (Int.tmod a.toInt b.toInt)
/-- The amount of a shift or rotation: bits 5:0 (R67). -/
def shamt (b : Word) : Nat := b.toNat % 64
/-- MIN, signed or unsigned. -/
def minVal (u : Bool) (a b : Word) : Word := if (if u then b.ult a else b.slt a) then b else a
/-- MAX, signed or unsigned. -/
def maxVal (u : Bool) (a b : Word) : Word := if (if u then a.ult b else a.slt b) then b else a
/-- CLZ: leading zero bits, 64 for 0. -/
def clzVal (a : Word) : Word := BitVec.ofNat 64 (if a = 0 then 64 else 63 - Nat.log2 a.toNat)
/-- POPC: one bits. -/
def popcVal (a : Word) : Word := BitVec.ofNat 64 ((List.range 64).countP (fun i => a.getLsbD i))

/-- The U bit of a function field: FN bit 27 (R67). -/
def fnU (fn : BitVec 5) : Bool := fn.getLsbD 0

/-! ### Shapes -/

/-- Two scalar sources and a scalar destination. -/
def alu2 (h : Hdr) (f : FRR) (g : Word → Word → Word) : M Unit := do
  let a ← pop f.a
  let b ← pop f.b
  push h f.d (g a b)
/-- One scalar source and a scalar destination. -/
def alu1 (h : Hdr) (f : FRR) (g : Word → Word) : M Unit := do
  let a ← pop f.a
  push h f.d (g a)
/-- Two scalar sources and a predicate destination (R69). -/
def compare2 (f : FRR) (g : Word → Word → Bool) : M Unit := do
  let a ← pop f.a
  let b ← pop f.b
  writePred f.d (g a b)

/-! ### Major 0x01 -/

/-- ADD (R67). -/
def execAdd (h : Hdr) (f : FRR) (s : State) := runInstr (.add h f) (straight (alu2 h f (· + ·))) s
/-- SUB (R67). -/
def execSub (h : Hdr) (f : FRR) (s : State) := runInstr (.sub h f) (straight (alu2 h f (· - ·))) s
/-- MUL (R67). -/
def execMul (h : Hdr) (f : FRR) (s : State) := runInstr (.mul h f) (straight (alu2 h f (· * ·))) s
/-- MULH (R67). -/
def execMulh (h : Hdr) (f : FRR) (s : State) := runInstr (.mulh h f) (straight (alu2 h f (mulhVal (fnU f.fn)))) s
/-- DIV (R68). -/
def execDiv (h : Hdr) (f : FRR) (s : State) := runInstr (.div h f) (straight (alu2 h f (divVal (fnU f.fn)))) s
/-- REM (R68). -/
def execRem (h : Hdr) (f : FRR) (s : State) := runInstr (.rem h f) (straight (alu2 h f (remVal (fnU f.fn)))) s
/-- AND (R67). -/
def execAnd (h : Hdr) (f : FRR) (s : State) := runInstr (.and h f) (straight (alu2 h f (· &&& ·))) s
/-- OR (R67). -/
def execOr (h : Hdr) (f : FRR) (s : State) := runInstr (.or h f) (straight (alu2 h f (· ||| ·))) s
/-- XOR (R67). -/
def execXor (h : Hdr) (f : FRR) (s : State) := runInstr (.xor h f) (straight (alu2 h f (· ^^^ ·))) s
/-- SHL (R67). -/
def execShl (h : Hdr) (f : FRR) (s : State) := runInstr (.shl h f) (straight (alu2 h f (fun a b => a <<< shamt b))) s
/-- SHR (R67). -/
def execShr (h : Hdr) (f : FRR) (s : State) := runInstr (.shr h f) (straight (alu2 h f (fun a b => a >>> shamt b))) s
/-- SAR (R67). -/
def execSar (h : Hdr) (f : FRR) (s : State) := runInstr (.sar h f) (straight (alu2 h f (fun a b => a.sshiftRight (shamt b)))) s
/-- ROT (R67). -/
def execRot (h : Hdr) (f : FRR) (s : State) := runInstr (.rot h f) (straight (alu2 h f (fun a b => a.rotateLeft (shamt b)))) s
/-- MIN (R67). -/
def execMin (h : Hdr) (f : FRR) (s : State) := runInstr (.min h f) (straight (alu2 h f (minVal (fnU f.fn)))) s
/-- MAX (R67). -/
def execMax (h : Hdr) (f : FRR) (s : State) := runInstr (.max h f) (straight (alu2 h f (maxVal (fnU f.fn)))) s
/-- CLZ (R67). -/
def execClz (h : Hdr) (f : FRR) (s : State) := runInstr (.clz h f) (straight (alu1 h f clzVal)) s
/-- POPC (R67). -/
def execPopc (h : Hdr) (f : FRR) (s : State) := runInstr (.popc h f) (straight (alu1 h f popcVal)) s

/-- SEL's effect (R67): both sources are read whatever the predicate holds. -/
def selBody (h : Hdr) (f : FRR) : M Unit := do
  let a ← pop f.a
  let b ← pop f.b
  let p ← readPred f.c
  push h f.d (if p then a else b)
/-- SEL (R67). -/
def execSel (h : Hdr) (f : FRR) (s : State) := runInstr (.sel h f) (straight (selBody h f)) s

/-- MOV's effect (R67): scalars and predicates in either direction. -/
def movBody (h : Hdr) (f : FRR) : M Unit := do
  let a ← if Spec.file f.a then (do
      let p ← readPred f.a
      return (if p then 1 else 0))
    else pop f.a
  if Spec.file f.d then writePred f.d (a != 0) else push h f.d a
/-- MOV (R67). -/
def execMov (h : Hdr) (f : FRR) (s : State) := runInstr (.mov h f) (straight (movBody h f)) s

/-! ### Major 0x02 -/

/-- CMP.eq (R69). -/
def execCmpEq (h : Hdr) (f : FRR) (s : State) := runInstr (.cmpEq h f) (straight (compare2 f (fun a b => a == b))) s
/-- CMP.ne (R69). -/
def execCmpNe (h : Hdr) (f : FRR) (s : State) := runInstr (.cmpNe h f) (straight (compare2 f (fun a b => a != b))) s
/-- CMP.lt (R69). -/
def execCmpLt (h : Hdr) (f : FRR) (s : State) := runInstr (.cmpLt h f) (straight (compare2 f BitVec.slt)) s
/-- CMP.le (R69). -/
def execCmpLe (h : Hdr) (f : FRR) (s : State) := runInstr (.cmpLe h f) (straight (compare2 f BitVec.sle)) s
/-- CMP.ltu (R69). -/
def execCmpLtu (h : Hdr) (f : FRR) (s : State) := runInstr (.cmpLtu h f) (straight (compare2 f BitVec.ult)) s
/-- CMP.leu (R69). -/
def execCmpLeu (h : Hdr) (f : FRR) (s : State) := runInstr (.cmpLeu h f) (straight (compare2 f BitVec.ule)) s

/-! ### Major 0x03 -/

/-- ADDI's effect (R70). -/
def addiBody (h : Hdr) (f : FRI) : M Unit := do
  let a ← pop f.a
  push h f.d (a + f.imm.signExtend 64)
/-- ADDI (R70). -/
def execAddi (h : Hdr) (f : FRI) (s : State) := runInstr (.addi h f) (straight (addiBody h f)) s
/-- LDI (R70): U = 0 sign-extends, U = 1 zero-extends. -/
def execLdi (h : Hdr) (f : FLI) (s : State) :=
  runInstr (.ldi h f) (straight (push h f.d (if fnU f.fn then f.imm.setWidth 64 else f.imm.signExtend 64))) s
/-- LDIH (R70). -/
def execLdih (h : Hdr) (f : FLI) (s : State) := runInstr (.ldih h f) (straight (push h f.d (f.imm.setWidth 64 <<< 32))) s

/-! ### Major 0x08 (R53, R71) -/

/-- The target of BR, BRC and CALL: PC + 8 × sext(OFS, 32). -/
def branchTarget (f : FBR) : M Word := do
  let t ← getStream
  return t.pc + (f.ofs.signExtend 64 <<< 3)
/-- BR's effect. -/
def brBody (f : FBR) : M (Option Word) := do
  let t ← branchTarget f
  return some t
/-- BR (R71). -/
def execBr (h : Hdr) (f : FBR) (s : State) := runInstr (.br h f) (brBody f) s
/-- BRC's effect: taken when the predicate XOR NEG is 1. -/
def brcBody (f : FBR) : M (Option Word) := do
  let p ← readPred f.x
  let t ← branchTarget f
  return if (p != fnU f.fn) then some t else none
/-- BRC (R71). -/
def execBrc (h : Hdr) (f : FBR) (s : State) := runInstr (.brc h f) (brcBody f) s
/-- CALL's effect: the address of the next instruction is pushed. -/
def callBody (h : Hdr) (f : FBR) : M (Option Word) := do
  let t ← branchTarget f
  let pc := (← getStream).pc
  push h f.x (pc + 8)
  return some t
/-- CALL (R71). -/
def execCall (h : Hdr) (f : FBR) (s : State) := runInstr (.call h f) (callBody h f) s
/-- RET's effect: a target that is not 8-byte aligned traps. -/
def retBody (f : FBR) : M (Option Word) := do
  let t ← pop f.x
  trapIf (t.toNat % 8 != 0) 0x09 t
  return some t
/-- RET (R71). -/
def execRet (h : Hdr) (f : FBR) (s : State) := runInstr (.ret h f) (retBody f) s

end Sys2Proof.Machine
end

