-- ==== Sys2Proof/Machine/Vector.lean ====
section
/-!
DEFINITION. The vector instructions: base forms, V-forms and N-forms (R183 to R210).
-/
namespace Sys2Proof.Machine

/-! ### What an instruction samples and leaves (R50, R171, R172, R176, R184) -/

/-- FZCTL, the rounding mode, the seed and the draws made, as V samples them at issue. -/
def laneCtx (rm : BitVec 3) : M LaneCtx := do
  let b := (← getJob).rnow
  let r (x : RReg) : Word := b.regs.get x.fin
  return ⟨(r .fzctl).toNat, Rm.select rm ((r .rmode).toNat % 8), (r .srseed).toNat, b.vdraws⟩
/-- The flags of an instruction go to RMODE (R171). -/
def vFlags (fl : Fl) : M Unit := do
  let t ← getStream
  if fl.rmodeBits ≠ 0 then modifyJob (fun j => j.rchange t.coord .rmode (.flags (BitVec.ofNat 64 fl.rmodeBits)))
/-- In SR mode the n positions of an instruction consume their draws (R176). -/
def vDraws (x : LaneCtx) (n : Nat) : M Unit := do
  let t ← getStream
  if x.mode = .sr then modifyJob (fun j => j.rchange t.coord .srseed (.draws ((n + 255) / 256)))
/-- The flags and the draws of an instruction of n positions. -/
def vFinish (x : LaneCtx) (n : Nat) (fl : Fl) : M Unit := do
  vFlags fl
  vDraws x n
/-- The mask of an instruction. -/
def maskOf (f : FVB) : M (BitVec 1024) := do return (← getStream).masks.get (fin8 f.mask.toNat)
/-- Push a tile with a mark (R102). -/
def pushMarkedTile (h : Hdr) (td : BitVec 4) (v : Tile) (m : Mark) (form : Bool) : M Unit := do
  pushTile h td v form
  match m with
  | .none => pure ()
  | _ => modifyJob (fun j =>
      let q := j.tiles.get (tileIdx td.toNat)
      { j with tiles := j.tiles.set (tileIdx td.toNat) { q with items := q.items.dropLast ++ (q.items.getLast?.map (fun e => { e with mark := m })).toList } })

/-! ### The plan of a base form or a V-form (R184, R204, R206) -/

/-- An operand: unused, a tile queue, or scratchpad segments: which popped base, the step in bytes and the element type. -/
inductive VOpd where
  | unused
  | queue (f : BitVec 5)
  | seg (k : Nat) (step : Int) (ty : Nat)
  deriving DecidableEq, Repr

/-- What one iteration computes. -/
inductive VStep where
  | elem (op : EOp)
  | sel
  /-- VQMX: the source type and the scale rule -/
  | qmx (s : Nat) (up : Bool)
  /-- VDQMX: the element format -/
  | dqmx (s : Nat)
  /-- VLD -/
  | load
  /-- VST -/
  | store
  deriving DecidableEq, Repr

/-- A base form or a V-form as iterations over operands. -/
structure VPlan where
  cnt : Nat
  vform : Bool
  d : VOpd
  a : VOpd
  b : VOpd
  c : VOpd
  step : VStep
  ty : Nat
  men : Bool
  mask : BitVec 1024
  /-- bases to pop from SX, and the place of the scale address among them -/
  nbases : Nat
  scale : Option Nat
  deriving DecidableEq, Repr

/-- The address of segment i of an operand. -/
def segAddr (bases : List Word) (k : Nat) (step : Int) (i : Nat) : Word := bases.getD k 0 + BitVec.ofInt 64 (step * i)
/-- The bytes of a tile of an element type (R204). -/
def tileBytes (ty : Nat) : Nat := 16 * rowBytes ty
/-- n pops of one specifier, in order. -/
def popMany (x : Spec) : Nat → M (List Word)
  | 0 => return []
  | n + 1 => do
    let v ← pop x
    return v :: (← popMany x n)

/-- A tile operand needs a tile depth (R23). -/
def VOpd.needs : VOpd → M Unit
  | .queue f => needTiles (f.toNat % 16)
  | _ => pure ()
/-- Every segment of an operand passes the checks of R204. -/
def VOpd.checkSegs (bases : List Word) (cnt : Nat) : VOpd → M Unit
  | .seg k step ty => (List.range cnt).forM (fun i => do
      let _ ← scratchPlace (segAddr bases k step i) 16 (tileBytes ty))
  | _ => pure ()
/-- A private source queue that is popped by a V-form holds enough entries (R206). -/
def VOpd.checkSource (cnt : Nat) : VOpd → M Unit
  | .queue f => do
    let j ← getJob
    let n := f.toNat % 16
    trapIf (!f.getLsbD 4 && !j.fed n && !j.drained n && decide ((j.tiles.get (tileIdx n)).items.length < cnt)) 0x03 (tileInfo n)
  | _ => pure ()
/-- A private destination queue of a V-form has room for every iteration (R206). -/
def VOpd.checkDest (cnt : Nat) : VOpd → M Unit
  | .queue f => do
    let j ← getJob
    let n := f.toNat % 16
    trapIf (!j.fed n && !j.drained n && decide (j.hdr.tdep < (j.tiles.get (tileIdx n)).items.length + cnt)) 0x04 (tileInfo n)
  | _ => pure ()

/-- Read a tile of a segment: its slots, and the first poisoned sector (R204, R292). -/
def readSeg (a : Word) (ty : Nat) : M (Tile × Option Nat) := do
  let (k, p) ← scratchPlace a 16 (tileBytes ty)
  unveiled k p (tileBytes ty)
  let s ← get
  let j ← getJob
  let l := s.seenBytes s.cur.1 j (poolKey k p) ((memBytes s.mem (poolKey k p) (tileBytes ty)).map (fun b => (b, none)))
  let rows := (List.range 16).map (fun r => leNat (((l.drop (r * rowBytes ty)).take (rowBytes ty)).map Prod.fst))
  return (unpackRows ty rows, (s.poolPoison k p (tileBytes ty)).or (l.findSome? Prod.snd))
/-- Read a source of iteration i: a segment that is consumed traps on poison. -/
def VOpd.read (bases : List Word) (i : Nat) (consumes : Bool) : VOpd → M (Tile × Option Nat)
  | .unused => return (Tile.zero, none)
  | .queue f => do return (← popTile f, none)
  | .seg k step ty => do
    let a := segAddr bases k step i
    let (t, bad) ← readSeg a ty
    match bad with
    | some pa => if consumes then throw (.poison pa a) else return (t, bad)
    | none => return (t, none)
/-- Write a tile to a segment; elements that are off are kept where `on` says so (R186, R204). -/
def writeSeg (h : Hdr) (a : Word) (ty : Nat) (t : Tile) (on : Nat → Bool) : M Unit := do
  let (k, p) ← scratchPlace a 16 (tileBytes ty)
  (List.range 16).forM (fun r => do
    let s ← get
    let at_ := p + r * rowBytes ty
    writeRuns h k (byteRuns at_ (maskRowBytes ty t r on (memBytes s.mem (poolKey k at_) (rowBytes ty)))))
/-- Write the destination of iteration i; `form` says that a V-form writes it. -/
def VOpd.write (h : Hdr) (bases : List Word) (i : Nat) (v : Tile) (m : Mark) (form : Bool) (on : Nat → Bool) : VOpd → M Unit
  | .unused => pure ()
  | .queue f => pushMarkedTile h (f.setWidth 4) v m form
  | .seg k step ty => writeSeg h (segAddr bases k step i) ty v on

/-- The 32 scale bytes at an address (R196, R197). -/
def readScales (a : Word) : M (List Nat) := do
  let (k, p) ← scratchPlace a 32 32
  return (← readPool k p 32 a).map BitVec.toNat
/-- Write the 32 scale bytes as one sector. -/
def writeScales (h : Hdr) (a : Word) (bs : List Nat) : M Unit := do
  let (k, p) ← scratchPlace a 32 32
  writeBytes h k p (bs.map (BitVec.ofNat 8))

/-- The tiles that an iteration reads, A with the poison of a load. -/
structure VIn where
  a : Tile
  bad : Option Nat
  b : Tile
  c : Tile
/-- An iteration reads its sources. -/
def VPlan.sources (p : VPlan) (bases : List Word) (i : Nat) : M VIn := do
  let loads := decide (p.step = .load) && (match p.d with
    | .queue _ => true
    | _ => false)
  let (a, bad) ← p.a.read bases i (!loads)
  let (b, _) ← p.b.read bases i true
  let (c, _) ← p.c.read bases i true
  return ⟨a, bad, b, c⟩
/-- An iteration computes and writes its destination (R206). The flags it sets. -/
def VPlan.put (p : VPlan) (h : Hdr) (bases : List Word) (x : LaneCtx) (i : Nat) (v : VIn) : M Fl := do
  let (a, bad, b, c) := (v.a, v.bad, v.b, v.c)
  let sc := bases.getD (p.scale.getD 0) 0 + BitVec.ofNat 64 (32 * i)
  let e0 := 1024 * i
  let all (_ : Nat) : Bool := true
  match p.step with
  | .elem op =>
    let r := tileOp op p.ty x e0 p.men p.mask a b c
    p.d.write h bases i r.1 .none p.vform all
    return r.2
  | .sel =>
    p.d.write h bases i (tileSel p.mask a b) .none p.vform all
    return Fl.clear
  | .qmx s up =>
    let scales := qmxScales p.ty s x.fz up a
    writeScales h sc scales
    let r := tileQmx p.ty s x e0 scales a
    p.d.write h bases i r.1 .none p.vform all
    return r.2
  | .dqmx s =>
    let scales ← readScales sc
    let r := tileDqmx p.ty s x e0 scales a
    p.d.write h bases i r.1 .none p.vform all
    return r.2
  | .load =>
    let v := Vector.ofFn (fun i => if isOn p.men p.mask i.val then a.get i else 0)
    p.d.write h bases i v (match bad with
      | some pa => .poison pa
      | none => .none) p.vform all
    return Fl.clear
  | .store =>
    p.d.write h bases i a .none p.vform (isOn p.men p.mask)
    return Fl.clear

/-- One iteration: it reads its sources, then writes its destination (R206). The flags it sets. -/
def VPlan.iter (p : VPlan) (h : Hdr) (bases : List Word) (x : LaneCtx) (i : Nat) : M Fl := do
  p.put h bases x i (← p.sources bases i)

/-- The iterations from i on, with n to go. A wait between two iterations keeps the iterations that are done (R24, R206). -/
def VPlan.loop (p : VPlan) (h : Hdr) (bases : List Word) (x : LaneCtx) : Nat → Nat → Fl → M Fl
  | 0, _, fl => return fl
  | n + 1, i, fl => do
    match (p.iter h bases x i).run (← get) with
    | .ok f s =>
      set s
      p.loop h bases x n (i + 1) (fl.or f)
    | .error (.stall c) _ =>
      if i = 0 then stall c
      else
        modifyStream (fun t => { t with prog := some ⟨i, bases, x.fz, x.mode, x.seed, x.draws, fl⟩ })
        throw (.pause c)
    | .error e s =>
      set s
      throw e

/-- The checks of R204 at issue: the scale addresses, then the segments. -/
def VPlan.checkPlaces (p : VPlan) (bases : List Word) : M Unit := do
  match p.scale with
  | some k => (List.range p.cnt).forM (fun i => do
      let _ ← scratchPlace (bases.getD k 0 + BitVec.ofNat 64 (32 * i)) 32 32)
  | none => pure ()
  [p.d, p.a, p.b, p.c].forM (VOpd.checkSegs bases p.cnt)
/-- A base form reads its operands from left to right (R13, R48): its tile sources, then the address that SX holds; VLD has that address
only. -/
def runBase (h : Hdr) (f : FVB) (p : VPlan) : M Unit := do
  [p.a, p.b, p.c, p.d].forM VOpd.needs
  let x ← laneCtx f.rm
  let fl ← (if p.step = .load then do
      let bases ← popMany f.sx p.nbases
      p.checkPlaces bases
      p.iter h bases x 0
    else do
      let v ← p.sources [] 0
      let bases ← popMany f.sx p.nbases
      p.checkPlaces bases
      p.put h bases x 0 v)
  vFinish x 1024 fl
/-- A V-form: the checks at issue and the draws of all its positions (R175), then its iterations, then the flags. -/
def runPlan (h : Hdr) (f : FVB) (p : VPlan) : M Unit := do
  let t ← getStream
  match t.prog with
  | some g =>
    let x : LaneCtx := ⟨g.fz, g.mode, g.seed, g.draws⟩
    let fl ← p.loop h g.bases x (p.cnt - g.i) g.i g.fl
    modifyStream (fun t => { t with prog := none })
    vFlags fl
  | none =>
    [p.a, p.b, p.c, p.d].forM VOpd.needs
    let bases ← popMany f.sx p.nbases
    p.checkPlaces bases
    p.d.checkDest p.cnt
    [p.a, p.b, p.c].forM (VOpd.checkSource p.cnt)
    let x ← laneCtx f.rm
    vDraws x (1024 * p.cnt)
    let fl ← p.loop h bases x p.cnt 0 Fl.clear
    modifyStream (fun t => { t with prog := none })
    vFlags fl

/-! ### Base forms -/

/-- The number of tile sources of an operation. -/
def EOp.sources : EOp → Nat
  | .fma => 3
  | .add | .sub | .mul | .div | .min | .max | .minp | .maxp | .and | .or | .xor | .shl | .shr => 2
  | _ => 1
/-- The type of operand A in memory (R206). -/
def VStep.aTy (st : VStep) (ty : Nat) : Nat := match st with
  | .elem (.cvt s) => s
  | _ => ty
/-- The tile sources of a step. -/
def VStep.sources : VStep → Nat
  | .elem op => op.sources
  | .sel => 2
  | _ => 1
/-- The step pops a scale address. -/
def VStep.scaled : VStep → Bool
  | .qmx _ _ | .dqmx _ => true
  | _ => false

/-- The plan of a base form: VLD's source and VST's destination are one segment at the address popped from SX. -/
def basePlan (f : FVB) (st : VStep) (mask : BitVec 1024) : VPlan :=
  let ty := f.ty.toNat
  { cnt := 1, vform := false,
    d := if st = .store then .seg 0 0 ty else .queue (f.td.setWidth 5),
    a := if st = .load then .seg 0 0 ty else .queue f.ta,
    b := if 2 ≤ st.sources then .queue f.tb else .unused,
    c := if 3 ≤ st.sources then .queue f.tc else .unused,
    step := st, ty := ty, men := f.men, mask := mask,
    nbases := if st = .store ∨ st = .load ∨ st.scaled then 1 else 0,
    scale := if st.scaled then some 0 else none }
/-- A base form's effect. -/
def vbBody (h : Hdr) (f : FVB) (st : VStep) : M Unit := do runBase h f (basePlan f st (← maskOf f))

/-! ### V-forms (R58, R206) -/

/-- The bases popped before operand j's, in the order D, A, B, C. -/
def vfBaseIdx (f : FVF) (j : Nat) : Nat := (List.range j).countP (fun i => f.kind.getLsbD i)
/-- The plan of a V-form. -/
def vfPlan (f : FVF) (st : VStep) (mask : BitVec 1024) : VPlan :=
  let ty := f.vb.ty.toNat
  let opd (j : Nat) (tile : BitVec 5) (step : BitVec 12) (t : Nat) : VOpd :=
    if f.kind.getLsbD j then .seg (vfBaseIdx f j) (step.toInt * 32) t else .queue tile
  let n := vfBaseIdx f 4
  { cnt := f.cnt.toNat, vform := true,
    d := opd 0 (f.vb.td.setWidth 5) f.std ty,
    a := opd 1 f.vb.ta f.sta (st.aTy ty),
    b := if 2 ≤ st.sources then opd 2 f.vb.tb f.stb ty else .unused,
    c := if 3 ≤ st.sources then opd 3 f.vb.tc f.stc ty else .unused,
    step := st, ty := ty, men := f.vb.men, mask := mask,
    nbases := n + bitNat st.scaled,
    scale := if st.scaled then some n else none }
/-- A V-form's effect. -/
def vfBody (h : Hdr) (f : FVF) (st : VStep) : M Unit := do runPlan h f.vb (vfPlan f st (← maskOf f.vb))

/-! ### N-forms (R59, R207, R208) -/

/-- The extent of a level as a count of points (R207). -/
def vnCount (f : FVN) (j : Nat) : Nat := if f.extent j = 0 then 1 else f.extent j
/-- The points in lexicographic order, each as j0 to j4; `e0` is the extent used at level 0. -/
def vnPoints (f : FVN) (e0 : Nat) : List (List Nat) :=
  (List.range (vnCount f 4)).flatMap (fun j4 => (List.range (vnCount f 3)).flatMap (fun j3 => (List.range (vnCount f 2)).flatMap (fun j2 =>
    (List.range (vnCount f 1)).flatMap (fun j1 => (List.range e0).map (fun j0 => [j0, j1, j2, j3, j4])))))
/-- The stride of a level in elements (R59). -/
def vnStride (s : BitVec 40) (u : BitVec 4) (j : Nat) : Int := toSigned 8 (s.toNat / 2 ^ (8 * j)) * 2 ^ u.toNat
/-- The bit address of an operand's element at a point (R207). -/
def vnBit (base : Word) (ty : Nat) (s : BitVec 40) (u : BitVec 4) (pt : List Nat) : Int :=
  8 * (base.toNat : Int) + (tyWidth ty : Int) * ((List.range 5).map (fun j => (pt.getD j 0 : Int) * vnStride s u j)).sum
/-- The byte address and the bytes of an element at a bit address. -/
def vnByte (bit : Int) (ty : Nat) : Word × Nat × Nat :=
  let o := (bit % 8).toNat
  (BitVec.ofInt 64 (bit / 8), o, (o + tyWidth ty + 7) / 8)
/-- The checks of an element's address (R153, R207). -/
def vnCheck (bit : Int) (ty : Nat) : M Unit := do
  let (a, _, n) := vnByte bit ty
  let _ ← scratchPlace a 1 n
/-- Read an element's code. -/
def vnRead (bit : Int) (ty : Nat) : M Nat := do
  let (a, o, n) := vnByte bit ty
  let (k, p) ← scratchPlace a 1 n
  return leNat (← readPool k p n a) / 2 ^ o % 2 ^ tyWidth ty
/-- Write an element's code: the other bits of a shared byte are kept. -/
def vnWrite (h : Hdr) (bit : Int) (ty v : Nat) : M Unit := do
  let (a, o, n) := vnByte bit ty
  let (k, p) ← scratchPlace a 1 n
  let s ← get
  let old := leNat (memBytes s.mem (poolKey k p) n)
  let w := tyWidth ty
  let new := old - old / 2 ^ o % 2 ^ w * 2 ^ o + v % 2 ^ w * 2 ^ o
  writeBytes h k p (leBytes n new)
/-- A base of an N-form is a multiple of its element's size (R207). -/
def vnAlign (base : Word) (ty : Nat) : M Unit := checkMultiple base (Nat.max 1 (tyWidth ty / 8))

/-- The effect of an element-wise N-form. -/
def vnBody (h : Hdr) (f : FVN) (op : EOp) : M Unit := do
  let ty := f.vb.ty.toNat
  let aty := VStep.aTy (.elem op) ty
  let two := decide (2 ≤ op.sources)
  let bases ← popMany f.vb.sx (if two then 3 else 2)
  let d := bases.getD 0 0
  let a := bases.getD 1 0
  let b := bases.getD 2 0
  let pts := vnPoints f (vnCount f 0)
  vnAlign d ty
  vnAlign a aty
  if two then vnAlign b ty
  pts.forM (fun pt => vnCheck (vnBit d ty f.sd f.ud pt) ty)
  pts.forM (fun pt => vnCheck (vnBit a aty f.sa f.ua pt) aty)
  if two then pts.forM (fun pt => vnCheck (vnBit b ty f.sb f.ub pt) ty)
  let x ← laneCtx f.vb.rm
  let fl ← pts.zipIdx.foldlM (fun fl pe => do
    let va ← vnRead (vnBit a aty f.sa f.ua pe.1) aty
    let vb ← if two then vnRead (vnBit b ty f.sb f.ub pe.1) ty else pure 0
    let r := elemOp op ty x.fz x.mode (x.z pe.2) va vb 0
    vnWrite h (vnBit d ty f.sd f.ud pe.1) ty r.1
    return fl.or r.2) Fl.clear
  vFinish x pts.length fl
/-- VREDR.nest's effect (R208). -/
def vnReduce (h : Hdr) (f : FVN) : M Unit := do
  let ty := f.vb.ty.toNat
  let fw := (Instr.vredrNest h f).firstWord
  trapIf (decide (f.sd.toNat % 256 ≠ 0)) 0x01 fw
  let bases ← popMany f.vb.sx 2
  let d := bases.getD 0 0
  let a := bases.getD 1 0
  let e0 := vnCount f 0
  let groups := vnPoints f 1
  let pts := vnPoints f e0
  vnAlign d ty
  vnAlign a ty
  groups.forM (fun pt => vnCheck (vnBit d ty f.sd f.ud pt) ty)
  pts.forM (fun pt => vnCheck (vnBit a ty f.sa f.ua pt) ty)
  let x ← laneCtx f.vb.rm
  let fl ← groups.zipIdx.foldlM (fun fl pe => do
    let vs ← (List.range e0).mapM (fun j0 => vnRead (vnBit a ty f.sa f.ua (pe.1.set 0 j0)) ty)
    let r := reduce f.vb.fn.toNat ty x.fz x.mode (x.z (pe.2 * e0)) vs
    vnWrite h (vnBit d ty f.sd f.ud pe.1) ty r.1
    return fl.or r.2) Fl.clear
  vFinish x pts.length fl

/-! ### Compare, axis operations, network, VGEN (R192, R199 to R205) -/

/-- VCMP's effect: a mask of V (R27, R192). -/
def vcmpBody (f : FVB) : M Unit := do
  [VOpd.queue f.ta, .queue f.tb].forM VOpd.needs
  let a ← popTile f.ta
  let b ← popTile f.tb
  let x ← laneCtx 0
  let r := tileCmp f.fn.toNat f.ty.toNat x.fz f.men (← maskOf f) a b
  writeMask (fin8 f.td.toNat) r.1
  vFinish x 1024 r.2
/-- The effect of a move of slots by an index popped from SX (R199). -/
def moveBody (h : Hdr) (f : FVB) (src : Nat → Fin 1024 → Fin 1024) : M Unit := do
  [VOpd.queue f.ta, .queue (f.td.setWidth 5)].forM VOpd.needs
  let a ← popTile f.ta
  let n ← pop f.sx
  pushTile h f.td (tileMove (src n.toNat) f.men (← maskOf f) a) false
/-- The effect of a move of slots without an index (R199, R203). -/
def fixedMoveBody (h : Hdr) (f : FVB) (src : Fin 1024 → Fin 1024) : M Unit := do
  [VOpd.queue f.ta, .queue (f.td.setWidth 5)].forM VOpd.needs
  let a ← popTile f.ta
  pushTile h f.td (tileMove src f.men (← maskOf f) a) false
/-- The effect of a reduction over rows or columns (R200). -/
def reduceBody (h : Hdr) (f : FVB) (g : Nat → Nat → LaneCtx → Bool → BitVec 1024 → Tile → Tile × Fl) : M Unit := do
  [VOpd.queue f.ta, .queue (f.td.setWidth 5)].forM VOpd.needs
  let a ← popTile f.ta
  let x ← laneCtx f.rm
  let r := g f.fn.toNat f.ty.toNat x f.men (← maskOf f) a
  pushTile h f.td r.1 false
  vFinish x 1024 r.2
/-- VNETSET's effect (R202, R203). -/
def vnetsetBody (f : FVB) : M Unit := do
  let a ← pop f.sx
  let (k, p) ← scratchPlace a 64 64
  let bs ← readPool k p 64 a
  writeNet (fin8 f.fn.toNat) (BitVec.ofNat 352 (leNat bs))
/-- VNET's effect (R203). -/
def vnetBody (h : Hdr) (f : FVB) : M Unit := do
  fixedMoveBody h f (srcNet ((← getStream).nets.get (fin8 f.fn.toNat)))
/-- VGEN's effect (R205). -/
def vgenBody (h : Hdr) (f : FVB) : M Unit := do
  VOpd.needs (.queue (f.td.setWidth 5))
  let w ← pop f.sx
  pushTile h f.td (tileGen w f.men (← maskOf f)) false

/-! ### The instructions -/

/-- VADD (R189). -/
def execVadd (h : Hdr) (f : FVB) (s : State) := runInstr (.vadd h f) (straight (vbBody h f (.elem .add))) s
/-- VADD, V-form (R206). -/
def execVaddVf (h : Hdr) (f : FVF) (s : State) := runInstr (.vaddVf h f) (straight (vfBody h f (.elem .add))) s
/-- VSUB (R189). -/
def execVsub (h : Hdr) (f : FVB) (s : State) := runInstr (.vsub h f) (straight (vbBody h f (.elem .sub))) s
/-- VSUB, V-form (R206). -/
def execVsubVf (h : Hdr) (f : FVF) (s : State) := runInstr (.vsubVf h f) (straight (vfBody h f (.elem .sub))) s
/-- VMUL (R189). -/
def execVmul (h : Hdr) (f : FVB) (s : State) := runInstr (.vmul h f) (straight (vbBody h f (.elem .mul))) s
/-- VMUL, V-form (R206). -/
def execVmulVf (h : Hdr) (f : FVF) (s : State) := runInstr (.vmulVf h f) (straight (vfBody h f (.elem .mul))) s
/-- VFMA (R189). -/
def execVfma (h : Hdr) (f : FVB) (s : State) := runInstr (.vfma h f) (straight (vbBody h f (.elem .fma))) s
/-- VFMA, V-form (R206). -/
def execVfmaVf (h : Hdr) (f : FVF) (s : State) := runInstr (.vfmaVf h f) (straight (vfBody h f (.elem .fma))) s
/-- VDIV (R189). -/
def execVdiv (h : Hdr) (f : FVB) (s : State) := runInstr (.vdiv h f) (straight (vbBody h f (.elem .div))) s
/-- VDIV, V-form (R206). -/
def execVdivVf (h : Hdr) (f : FVF) (s : State) := runInstr (.vdivVf h f) (straight (vfBody h f (.elem .div))) s
/-- VABS (R189). -/
def execVabs (h : Hdr) (f : FVB) (s : State) := runInstr (.vabs h f) (straight (vbBody h f (.elem .abs))) s
/-- VABS, V-form (R206). -/
def execVabsVf (h : Hdr) (f : FVF) (s : State) := runInstr (.vabsVf h f) (straight (vfBody h f (.elem .abs))) s
/-- VNEG (R189). -/
def execVneg (h : Hdr) (f : FVB) (s : State) := runInstr (.vneg h f) (straight (vbBody h f (.elem .neg))) s
/-- VNEG, V-form (R206). -/
def execVnegVf (h : Hdr) (f : FVF) (s : State) := runInstr (.vnegVf h f) (straight (vfBody h f (.elem .neg))) s
/-- VMIN (R191). -/
def execVmin (h : Hdr) (f : FVB) (s : State) := runInstr (.vmin h f) (straight (vbBody h f (.elem .min))) s
/-- VMIN, V-form (R206). -/
def execVminVf (h : Hdr) (f : FVF) (s : State) := runInstr (.vminVf h f) (straight (vfBody h f (.elem .min))) s
/-- VMAX (R191). -/
def execVmax (h : Hdr) (f : FVB) (s : State) := runInstr (.vmax h f) (straight (vbBody h f (.elem .max))) s
/-- VMAX, V-form (R206). -/
def execVmaxVf (h : Hdr) (f : FVF) (s : State) := runInstr (.vmaxVf h f) (straight (vfBody h f (.elem .max))) s
/-- VMINP (R191). -/
def execVminp (h : Hdr) (f : FVB) (s : State) := runInstr (.vminp h f) (straight (vbBody h f (.elem .minp))) s
/-- VMINP, V-form (R206). -/
def execVminpVf (h : Hdr) (f : FVF) (s : State) := runInstr (.vminpVf h f) (straight (vfBody h f (.elem .minp))) s
/-- VMAXP (R191). -/
def execVmaxp (h : Hdr) (f : FVB) (s : State) := runInstr (.vmaxp h f) (straight (vbBody h f (.elem .maxp))) s
/-- VMAXP, V-form (R206). -/
def execVmaxpVf (h : Hdr) (f : FVF) (s : State) := runInstr (.vmaxpVf h f) (straight (vfBody h f (.elem .maxp))) s
/-- VAND (R194). -/
def execVand (h : Hdr) (f : FVB) (s : State) := runInstr (.vand h f) (straight (vbBody h f (.elem .and))) s
/-- VAND, V-form (R206). -/
def execVandVf (h : Hdr) (f : FVF) (s : State) := runInstr (.vandVf h f) (straight (vfBody h f (.elem .and))) s
/-- VOR (R194). -/
def execVor (h : Hdr) (f : FVB) (s : State) := runInstr (.vor h f) (straight (vbBody h f (.elem .or))) s
/-- VOR, V-form (R206). -/
def execVorVf (h : Hdr) (f : FVF) (s : State) := runInstr (.vorVf h f) (straight (vfBody h f (.elem .or))) s
/-- VXOR (R194). -/
def execVxor (h : Hdr) (f : FVB) (s : State) := runInstr (.vxor h f) (straight (vbBody h f (.elem .xor))) s
/-- VXOR, V-form (R206). -/
def execVxorVf (h : Hdr) (f : FVF) (s : State) := runInstr (.vxorVf h f) (straight (vfBody h f (.elem .xor))) s
/-- VSHL (R194). -/
def execVshl (h : Hdr) (f : FVB) (s : State) := runInstr (.vshl h f) (straight (vbBody h f (.elem .shl))) s
/-- VSHL, V-form (R206). -/
def execVshlVf (h : Hdr) (f : FVF) (s : State) := runInstr (.vshlVf h f) (straight (vfBody h f (.elem .shl))) s
/-- VSHR (R194). -/
def execVshr (h : Hdr) (f : FVB) (s : State) := runInstr (.vshr h f) (straight (vbBody h f (.elem .shr))) s
/-- VSHR, V-form (R206). -/
def execVshrVf (h : Hdr) (f : FVF) (s : State) := runInstr (.vshrVf h f) (straight (vfBody h f (.elem .shr))) s
/-- VEXP2 (R198). -/
def execVexp2 (h : Hdr) (f : FVB) (s : State) := runInstr (.vexp2 h f) (straight (vbBody h f (.elem .exp2))) s
/-- VEXP2, V-form (R206). -/
def execVexp2Vf (h : Hdr) (f : FVF) (s : State) := runInstr (.vexp2Vf h f) (straight (vfBody h f (.elem .exp2))) s
/-- VLOG2 (R198). -/
def execVlog2 (h : Hdr) (f : FVB) (s : State) := runInstr (.vlog2 h f) (straight (vbBody h f (.elem .log2))) s
/-- VLOG2, V-form (R206). -/
def execVlog2Vf (h : Hdr) (f : FVF) (s : State) := runInstr (.vlog2Vf h f) (straight (vfBody h f (.elem .log2))) s
/-- VRCP (R198). -/
def execVrcp (h : Hdr) (f : FVB) (s : State) := runInstr (.vrcp h f) (straight (vbBody h f (.elem .rcp))) s
/-- VRCP, V-form (R206). -/
def execVrcpVf (h : Hdr) (f : FVF) (s : State) := runInstr (.vrcpVf h f) (straight (vfBody h f (.elem .rcp))) s
/-- VRSQ (R198). -/
def execVrsq (h : Hdr) (f : FVB) (s : State) := runInstr (.vrsq h f) (straight (vbBody h f (.elem .rsq))) s
/-- VRSQ, V-form (R206). -/
def execVrsqVf (h : Hdr) (f : FVF) (s : State) := runInstr (.vrsqVf h f) (straight (vfBody h f (.elem .rsq))) s
/-- VTANH (R198). -/
def execVtanh (h : Hdr) (f : FVB) (s : State) := runInstr (.vtanh h f) (straight (vbBody h f (.elem .tanh))) s
/-- VTANH, V-form (R206). -/
def execVtanhVf (h : Hdr) (f : FVF) (s : State) := runInstr (.vtanhVf h f) (straight (vfBody h f (.elem .tanh))) s
/-- VCVT (R195). -/
def execVcvt (h : Hdr) (f : FVB) (s : State) := runInstr (.vcvt h f) (straight (vbBody h f (.elem (.cvt f.fn.toNat)))) s
/-- VCVT, V-form (R206). -/
def execVcvtVf (h : Hdr) (f : FVF) (s : State) := runInstr (.vcvtVf h f) (straight (vfBody h f (.elem (.cvt f.vb.fn.toNat)))) s
/-- VCMP (R192). -/
def execVcmp (h : Hdr) (f : FVB) (s : State) := runInstr (.vcmp h f) (straight (vcmpBody f)) s
/-- VSEL (R193). -/
def execVsel (h : Hdr) (f : FVB) (s : State) := runInstr (.vsel h f) (straight (vbBody h f .sel)) s
/-- VSEL, V-form (R206). -/
def execVselVf (h : Hdr) (f : FVF) (s : State) := runInstr (.vselVf h f) (straight (vfBody h f .sel)) s
/-- VQMX (R196). -/
def execVqmx (h : Hdr) (f : FVB) (s : State) := runInstr (.vqmx h f) (straight (vbBody h f (.qmx (f.fn.toNat % 4) (f.fn.getLsbD 4)))) s
/-- VQMX, V-form (R206). -/
def execVqmxVf (h : Hdr) (f : FVF) (s : State) := runInstr (.vqmxVf h f) (straight (vfBody h f (.qmx (f.vb.fn.toNat % 4) (f.vb.fn.getLsbD 4)))) s
/-- VDQMX (R197). -/
def execVdqmx (h : Hdr) (f : FVB) (s : State) := runInstr (.vdqmx h f) (straight (vbBody h f (.dqmx f.fn.toNat))) s
/-- VDQMX, V-form (R206). -/
def execVdqmxVf (h : Hdr) (f : FVF) (s : State) := runInstr (.vdqmxVf h f) (straight (vfBody h f (.dqmx f.vb.fn.toNat))) s
/-- VLD (R204). -/
def execVld (h : Hdr) (f : FVB) (s : State) := runInstr (.vld h f) (straight (vbBody h f .load)) s
/-- VLD, V-form (R206). -/
def execVldVf (h : Hdr) (f : FVF) (s : State) := runInstr (.vldVf h f) (straight (vfBody h f .load)) s
/-- VST (R204). -/
def execVst (h : Hdr) (f : FVB) (s : State) := runInstr (.vst h f) (straight (vbBody h f .store)) s
/-- VST, V-form (R206). -/
def execVstVf (h : Hdr) (f : FVF) (s : State) := runInstr (.vstVf h f) (straight (vfBody h f .store)) s
/-- VROTR (R199). -/
def execVrotr (h : Hdr) (f : FVB) (s : State) := runInstr (.vrotr h f) (straight (moveBody h f srcRotr)) s
/-- VROTC (R199). -/
def execVrotc (h : Hdr) (f : FVB) (s : State) := runInstr (.vrotc h f) (straight (moveBody h f srcRotc)) s
/-- VBCR (R199). -/
def execVbcr (h : Hdr) (f : FVB) (s : State) := runInstr (.vbcr h f) (straight (moveBody h f srcBcr)) s
/-- VBCC (R199). -/
def execVbcc (h : Hdr) (f : FVB) (s : State) := runInstr (.vbcc h f) (straight (moveBody h f srcBcc)) s
/-- VTRN (R199). -/
def execVtrn (h : Hdr) (f : FVB) (s : State) := runInstr (.vtrn h f) (straight (fixedMoveBody h f srcTrn)) s
/-- VREDR (R200). -/
def execVredr (h : Hdr) (f : FVB) (s : State) := runInstr (.vredr h f) (straight (reduceBody h f tileRedr)) s
/-- VREDC (R200). -/
def execVredc (h : Hdr) (f : FVB) (s : State) := runInstr (.vredc h f) (straight (reduceBody h f tileRedc)) s
/-- VNETSET (R203). -/
def execVnetset (h : Hdr) (f : FVB) (s : State) := runInstr (.vnetset h f) (straight (vnetsetBody f)) s
/-- VNET (R203). -/
def execVnet (h : Hdr) (f : FVB) (s : State) := runInstr (.vnet h f) (straight (vnetBody h f)) s
/-- VGEN (R205). -/
def execVgen (h : Hdr) (f : FVB) (s : State) := runInstr (.vgen h f) (straight (vgenBody h f)) s
/-- VADD.nest (R207). -/
def execVaddNest (h : Hdr) (f : FVN) (s : State) := runInstr (.vaddNest h f) (straight (vnBody h f .add)) s
/-- VSUB.nest (R207). -/
def execVsubNest (h : Hdr) (f : FVN) (s : State) := runInstr (.vsubNest h f) (straight (vnBody h f .sub)) s
/-- VMUL.nest (R207). -/
def execVmulNest (h : Hdr) (f : FVN) (s : State) := runInstr (.vmulNest h f) (straight (vnBody h f .mul)) s
/-- VDIV.nest (R207). -/
def execVdivNest (h : Hdr) (f : FVN) (s : State) := runInstr (.vdivNest h f) (straight (vnBody h f .div)) s
/-- VABS.nest (R207). -/
def execVabsNest (h : Hdr) (f : FVN) (s : State) := runInstr (.vabsNest h f) (straight (vnBody h f .abs)) s
/-- VNEG.nest (R207). -/
def execVnegNest (h : Hdr) (f : FVN) (s : State) := runInstr (.vnegNest h f) (straight (vnBody h f .neg)) s
/-- VMIN.nest (R207). -/
def execVminNest (h : Hdr) (f : FVN) (s : State) := runInstr (.vminNest h f) (straight (vnBody h f .min)) s
/-- VMAX.nest (R207). -/
def execVmaxNest (h : Hdr) (f : FVN) (s : State) := runInstr (.vmaxNest h f) (straight (vnBody h f .max)) s
/-- VMINP.nest (R207). -/
def execVminpNest (h : Hdr) (f : FVN) (s : State) := runInstr (.vminpNest h f) (straight (vnBody h f .minp)) s
/-- VMAXP.nest (R207). -/
def execVmaxpNest (h : Hdr) (f : FVN) (s : State) := runInstr (.vmaxpNest h f) (straight (vnBody h f .maxp)) s
/-- VAND.nest (R207). -/
def execVandNest (h : Hdr) (f : FVN) (s : State) := runInstr (.vandNest h f) (straight (vnBody h f .and)) s
/-- VOR.nest (R207). -/
def execVorNest (h : Hdr) (f : FVN) (s : State) := runInstr (.vorNest h f) (straight (vnBody h f .or)) s
/-- VXOR.nest (R207). -/
def execVxorNest (h : Hdr) (f : FVN) (s : State) := runInstr (.vxorNest h f) (straight (vnBody h f .xor)) s
/-- VSHL.nest (R207). -/
def execVshlNest (h : Hdr) (f : FVN) (s : State) := runInstr (.vshlNest h f) (straight (vnBody h f .shl)) s
/-- VSHR.nest (R207). -/
def execVshrNest (h : Hdr) (f : FVN) (s : State) := runInstr (.vshrNest h f) (straight (vnBody h f .shr)) s
/-- VCVT.nest (R207). -/
def execVcvtNest (h : Hdr) (f : FVN) (s : State) := runInstr (.vcvtNest h f) (straight (vnBody h f (.cvt f.vb.fn.toNat))) s
/-- VREDR.nest (R208). -/
def execVredrNest (h : Hdr) (f : FVN) (s : State) := runInstr (.vredrNest h f) (straight (vnReduce h f)) s

end Sys2Proof.Machine
end

