-- ==== Sys2Proof/Machine/Dispatch.lean ====
section
/-!
DEFINITION. One arm for each instruction and event, calling its meaning.
-/
namespace Sys2Proof.Machine

/-- The meaning of an instruction or an event. -/
def exec (i : Instr) (s : State) : Host.Outcome State Fault Refusal :=
  match i with
  | .add h f => Sys2Proof.Machine.execAdd h f s
  | .sub h f => Sys2Proof.Machine.execSub h f s
  | .mul h f => Sys2Proof.Machine.execMul h f s
  | .mulh h f => Sys2Proof.Machine.execMulh h f s
  | .div h f => Sys2Proof.Machine.execDiv h f s
  | .rem h f => Sys2Proof.Machine.execRem h f s
  | .and h f => Sys2Proof.Machine.execAnd h f s
  | .or h f => Sys2Proof.Machine.execOr h f s
  | .xor h f => Sys2Proof.Machine.execXor h f s
  | .shl h f => Sys2Proof.Machine.execShl h f s
  | .shr h f => Sys2Proof.Machine.execShr h f s
  | .sar h f => Sys2Proof.Machine.execSar h f s
  | .rot h f => Sys2Proof.Machine.execRot h f s
  | .min h f => Sys2Proof.Machine.execMin h f s
  | .max h f => Sys2Proof.Machine.execMax h f s
  | .clz h f => Sys2Proof.Machine.execClz h f s
  | .popc h f => Sys2Proof.Machine.execPopc h f s
  | .sel h f => Sys2Proof.Machine.execSel h f s
  | .mov h f => Sys2Proof.Machine.execMov h f s
  | .cmpEq h f => Sys2Proof.Machine.execCmpEq h f s
  | .cmpNe h f => Sys2Proof.Machine.execCmpNe h f s
  | .cmpLt h f => Sys2Proof.Machine.execCmpLt h f s
  | .cmpLe h f => Sys2Proof.Machine.execCmpLe h f s
  | .cmpLtu h f => Sys2Proof.Machine.execCmpLtu h f s
  | .cmpLeu h f => Sys2Proof.Machine.execCmpLeu h f s
  | .addi h f => Sys2Proof.Machine.execAddi h f s
  | .ldi h f => Sys2Proof.Machine.execLdi h f s
  | .ldih h f => Sys2Proof.Machine.execLdih h f s
  | .br h f => Sys2Proof.Machine.execBr h f s
  | .brc h f => Sys2Proof.Machine.execBrc h f s
  | .call h f => Sys2Proof.Machine.execCall h f s
  | .ret h f => Sys2Proof.Machine.execRet h f s
  | .loop h f => Sys2Proof.Machine.execLoop h f s
  | .lclamp h f => Sys2Proof.Machine.execLclamp h f s
  | .setcRegister h f => Sys2Proof.Machine.execSetcRegister h f s
  | .setcImmediate h f => Sys2Proof.Machine.execSetcImmediate h f s
  | .advc h f => Sys2Proof.Machine.execAdvc h f s
  | .getc h f => Sys2Proof.Machine.execGetc h f s
  | .getfr h f => Sys2Proof.Machine.execGetfr h f s
  | .tok h f => Sys2Proof.Machine.execTok h f s
  | .bind h f => Sys2Proof.Machine.execBind h f s
  | .qdrop h f => Sys2Proof.Machine.execQdrop h f s
  | .qdepth h f => Sys2Proof.Machine.execQdepth h f s
  | .qclr h f => Sys2Proof.Machine.execQclr h f s
  | .srd h f => Sys2Proof.Machine.execSrd h f s
  | .swr h f => Sys2Proof.Machine.execSwr h f s
  | .swrStopat h f => Sys2Proof.Machine.execSwrStopat h f s
  | .swrEvmask h f => Sys2Proof.Machine.execSwrEvmask h f s
  | .swrRmode h f => Sys2Proof.Machine.execSwrRmode h f s
  | .swrSrseed h f => Sys2Proof.Machine.execSwrSrseed h f s
  | .swrMseed h f => Sys2Proof.Machine.execSwrMseed h f s
  | .swrTraprec h f => Sys2Proof.Machine.execSwrTraprec h f s
  | .swrEmap h f => Sys2Proof.Machine.execSwrEmap h f s
  | .swrEgcfg h f => Sys2Proof.Machine.execSwrEgcfg h f s
  | .swrCkpair h f => Sys2Proof.Machine.execSwrCkpair h f s
  | .trap h f => Sys2Proof.Machine.execTrap h f s
  | .eret h f => Sys2Proof.Machine.execEret h f s
  | .waitev h f => Sys2Proof.Machine.execWaitev h f s
  | .yield h f => Sys2Proof.Machine.execYield h f s
  | .fence h f => Sys2Proof.Machine.execFence h f s
  | .stopatRegister h f => Sys2Proof.Machine.execStopatRegister h f s
  | .stopatImmediate h f => Sys2Proof.Machine.execStopatImmediate h f s
  | .resume h f => Sys2Proof.Machine.execResume h f s
  | .spawn h f => Sys2Proof.Machine.execSpawn h f s
  | .rdv h f => Sys2Proof.Machine.execRdv h f s
  | .mbox h f => Sys2Proof.Machine.execMbox h f s
  | .semw h f => Sys2Proof.Machine.execSemw h f s
  | .sems h f => Sys2Proof.Machine.execSems h f s
  | .semwt h f => Sys2Proof.Machine.execSemwt h f s
  | .barr h f => Sys2Proof.Machine.execBarr h f s
  | .sstep h f => Sys2Proof.Machine.execSstep h f s
  | .send h f => Sys2Proof.Machine.execSend h f s
  | .tlbiPage h f => Sys2Proof.Machine.execTlbiPage h f s
  | .tlbiTenant h f => Sys2Proof.Machine.execTlbiTenant h f s
  | .bkpt h f => Sys2Proof.Machine.execBkpt h f s
  | .snap h f => Sys2Proof.Machine.execSnap h f s
  | .tmark h f => Sys2Proof.Machine.execTmark h f s
  | .ld h f => Sys2Proof.Machine.execLd h f s
  | .ldt h f => Sys2Proof.Machine.execLdt h f s
  | .gather h f => Sys2Proof.Machine.execGather h f s
  | .gen h f => Sys2Proof.Machine.execGen h f s
  | .genBase h f => Sys2Proof.Machine.execGenBase h f s
  | .genCoef h f => Sys2Proof.Machine.execGenCoef h f s
  | .cpy h f => Sys2Proof.Machine.execCpy h f s
  | .cpyThreeLevels h f => Sys2Proof.Machine.execCpyThreeLevels h f s
  | .pub h f => Sys2Proof.Machine.execPub h f s
  | .rld h f => Sys2Proof.Machine.execRld h f s
  | .st h f => Sys2Proof.Machine.execSt h f s
  | .stt h f => Sys2Proof.Machine.execStt h f s
  | .scatter h f => Sys2Proof.Machine.execScatter h f s
  | .rst h f => Sys2Proof.Machine.execRst h f s
  | .rsta h f => Sys2Proof.Machine.execRsta h f s
  | .rat h f => Sys2Proof.Machine.execRat h f s
  | .aadd h f => Sys2Proof.Machine.execAadd h f s
  | .axch h f => Sys2Proof.Machine.execAxch h f s
  | .acas h f => Sys2Proof.Machine.execAcas h f s
  | .aincw h f => Sys2Proof.Machine.execAincw h f s
  | .afaddb h f => Sys2Proof.Machine.execAfaddb h f s
  | .await h f => Sys2Proof.Machine.execAwait h f s
  | .vadd h f => Sys2Proof.Machine.execVadd h f s
  | .vaddVf h f => Sys2Proof.Machine.execVaddVf h f s
  | .vsub h f => Sys2Proof.Machine.execVsub h f s
  | .vsubVf h f => Sys2Proof.Machine.execVsubVf h f s
  | .vmul h f => Sys2Proof.Machine.execVmul h f s
  | .vmulVf h f => Sys2Proof.Machine.execVmulVf h f s
  | .vfma h f => Sys2Proof.Machine.execVfma h f s
  | .vfmaVf h f => Sys2Proof.Machine.execVfmaVf h f s
  | .vdiv h f => Sys2Proof.Machine.execVdiv h f s
  | .vdivVf h f => Sys2Proof.Machine.execVdivVf h f s
  | .vabs h f => Sys2Proof.Machine.execVabs h f s
  | .vabsVf h f => Sys2Proof.Machine.execVabsVf h f s
  | .vneg h f => Sys2Proof.Machine.execVneg h f s
  | .vnegVf h f => Sys2Proof.Machine.execVnegVf h f s
  | .vmin h f => Sys2Proof.Machine.execVmin h f s
  | .vminVf h f => Sys2Proof.Machine.execVminVf h f s
  | .vmax h f => Sys2Proof.Machine.execVmax h f s
  | .vmaxVf h f => Sys2Proof.Machine.execVmaxVf h f s
  | .vminp h f => Sys2Proof.Machine.execVminp h f s
  | .vminpVf h f => Sys2Proof.Machine.execVminpVf h f s
  | .vmaxp h f => Sys2Proof.Machine.execVmaxp h f s
  | .vmaxpVf h f => Sys2Proof.Machine.execVmaxpVf h f s
  | .vcmp h f => Sys2Proof.Machine.execVcmp h f s
  | .vsel h f => Sys2Proof.Machine.execVsel h f s
  | .vselVf h f => Sys2Proof.Machine.execVselVf h f s
  | .vand h f => Sys2Proof.Machine.execVand h f s
  | .vandVf h f => Sys2Proof.Machine.execVandVf h f s
  | .vor h f => Sys2Proof.Machine.execVor h f s
  | .vorVf h f => Sys2Proof.Machine.execVorVf h f s
  | .vxor h f => Sys2Proof.Machine.execVxor h f s
  | .vxorVf h f => Sys2Proof.Machine.execVxorVf h f s
  | .vshl h f => Sys2Proof.Machine.execVshl h f s
  | .vshlVf h f => Sys2Proof.Machine.execVshlVf h f s
  | .vshr h f => Sys2Proof.Machine.execVshr h f s
  | .vshrVf h f => Sys2Proof.Machine.execVshrVf h f s
  | .vcvt h f => Sys2Proof.Machine.execVcvt h f s
  | .vcvtVf h f => Sys2Proof.Machine.execVcvtVf h f s
  | .vqmx h f => Sys2Proof.Machine.execVqmx h f s
  | .vqmxVf h f => Sys2Proof.Machine.execVqmxVf h f s
  | .vdqmx h f => Sys2Proof.Machine.execVdqmx h f s
  | .vdqmxVf h f => Sys2Proof.Machine.execVdqmxVf h f s
  | .vexp2 h f => Sys2Proof.Machine.execVexp2 h f s
  | .vexp2Vf h f => Sys2Proof.Machine.execVexp2Vf h f s
  | .vlog2 h f => Sys2Proof.Machine.execVlog2 h f s
  | .vlog2Vf h f => Sys2Proof.Machine.execVlog2Vf h f s
  | .vrcp h f => Sys2Proof.Machine.execVrcp h f s
  | .vrcpVf h f => Sys2Proof.Machine.execVrcpVf h f s
  | .vrsq h f => Sys2Proof.Machine.execVrsq h f s
  | .vrsqVf h f => Sys2Proof.Machine.execVrsqVf h f s
  | .vtanh h f => Sys2Proof.Machine.execVtanh h f s
  | .vtanhVf h f => Sys2Proof.Machine.execVtanhVf h f s
  | .vrotr h f => Sys2Proof.Machine.execVrotr h f s
  | .vrotc h f => Sys2Proof.Machine.execVrotc h f s
  | .vbcr h f => Sys2Proof.Machine.execVbcr h f s
  | .vbcc h f => Sys2Proof.Machine.execVbcc h f s
  | .vredr h f => Sys2Proof.Machine.execVredr h f s
  | .vredc h f => Sys2Proof.Machine.execVredc h f s
  | .vtrn h f => Sys2Proof.Machine.execVtrn h f s
  | .vnetset h f => Sys2Proof.Machine.execVnetset h f s
  | .vnet h f => Sys2Proof.Machine.execVnet h f s
  | .vld h f => Sys2Proof.Machine.execVld h f s
  | .vldVf h f => Sys2Proof.Machine.execVldVf h f s
  | .vst h f => Sys2Proof.Machine.execVst h f s
  | .vstVf h f => Sys2Proof.Machine.execVstVf h f s
  | .vgen h f => Sys2Proof.Machine.execVgen h f s
  | .vaddNest h f => Sys2Proof.Machine.execVaddNest h f s
  | .vsubNest h f => Sys2Proof.Machine.execVsubNest h f s
  | .vmulNest h f => Sys2Proof.Machine.execVmulNest h f s
  | .vdivNest h f => Sys2Proof.Machine.execVdivNest h f s
  | .vabsNest h f => Sys2Proof.Machine.execVabsNest h f s
  | .vnegNest h f => Sys2Proof.Machine.execVnegNest h f s
  | .vminNest h f => Sys2Proof.Machine.execVminNest h f s
  | .vmaxNest h f => Sys2Proof.Machine.execVmaxNest h f s
  | .vminpNest h f => Sys2Proof.Machine.execVminpNest h f s
  | .vmaxpNest h f => Sys2Proof.Machine.execVmaxpNest h f s
  | .vandNest h f => Sys2Proof.Machine.execVandNest h f s
  | .vorNest h f => Sys2Proof.Machine.execVorNest h f s
  | .vxorNest h f => Sys2Proof.Machine.execVxorNest h f s
  | .vshlNest h f => Sys2Proof.Machine.execVshlNest h f s
  | .vshrNest h f => Sys2Proof.Machine.execVshrNest h f s
  | .vcvtNest h f => Sys2Proof.Machine.execVcvtNest h f s
  | .vredrNest h f => Sys2Proof.Machine.execVredrNest h f s
  | .mfmt h f => Sys2Proof.Machine.execMfmt h f s
  | .mcb h f => Sys2Proof.Machine.execMcb h f s
  | .mma h f => Sys2Proof.Machine.execMma h f s
  | .mcommit h f => Sys2Proof.Machine.execMcommit h f s
  | .mwait h f => Sys2Proof.Machine.execMwait h f s
  | .mrd h f => Sys2Proof.Machine.execMrd h f s
  | .mwr h f => Sys2Proof.Machine.execMwr h f s
  | .mzero h f => Sys2Proof.Machine.execMzero h f s
  | .mstl h f => Sys2Proof.Machine.execMstl h f s
  | .mstf h f => Sys2Proof.Machine.execMstf h f s
  | .mseed h f => Sys2Proof.Machine.execMseed h f s
  | .lclampApply k => Sys2Proof.Machine.execLclampApply k s
  | .cksealSeal k => Sys2Proof.Machine.execCksealSeal k s
  | .cksealRestore k => Sys2Proof.Machine.execCksealRestore k s
  | .cksealDump k => Sys2Proof.Machine.execCksealDump k s
  | .advance core st => Sys2Proof.Machine.execAdvance core st s
  | .entryFill core id => Sys2Proof.Machine.execEntryFill core id s
  | .tokenPush core st toNext => Sys2Proof.Machine.execTokenPush core st toNext s
  | .engineCommandStart core e id => Sys2Proof.Machine.execEngineCommandStart core e id s
  | .engineCommandComplete core e id => Sys2Proof.Machine.execEngineCommandComplete core e id s
  | .channelElementDelivery core ch => Sys2Proof.Machine.execChannelElementDelivery core ch s
  | .landingComplete core => Sys2Proof.Machine.execLandingComplete core s
  | .stuckWaitTrap core => Sys2Proof.Machine.execStuckWaitTrap core s
  | .hardPreemption core => Sys2Proof.Machine.execHardPreemption core s
  | .jobChoice core => Sys2Proof.Machine.execJobChoice core s
  | .launchStart handle => Sys2Proof.Machine.execLaunchStart handle s
  | .jobAging core slot => Sys2Proof.Machine.execJobAging core slot s
  | .launchOffer k => Sys2Proof.Machine.execLaunchOffer k s
  | .spawnStatusFill k => Sys2Proof.Machine.execSpawnStatusFill k s
  | .jobEnd core => Sys2Proof.Machine.execJobEnd core s
  | .eventEntry p => Sys2Proof.Machine.execEventEntry p s
  | .timerFire p => Sys2Proof.Machine.execTimerFire p s
  | .semaphoreWaitServed cl sem => Sys2Proof.Machine.execSemaphoreWaitServed cl sem s
  | .semwtTimeout core => Sys2Proof.Machine.execSemwtTimeout core s
  | .barrierArrival core crew => Sys2Proof.Machine.execBarrierArrival core crew s
  | .barrierTimeout core => Sys2Proof.Machine.execBarrierTimeout core s
  | .superstepPassage handle => Sys2Proof.Machine.execSuperstepPassage handle s
  | .sendChunkDeparture core id => Sys2Proof.Machine.execSendChunkDeparture core id s
  | .sendChunkArrival k => Sys2Proof.Machine.execSendChunkArrival k s
  | .atomicApply core id => Sys2Proof.Machine.execAtomicApply core id s
  | .awaitSatisfied core id => Sys2Proof.Machine.execAwaitSatisfied core id s
  | .remoteStoreApply k => Sys2Proof.Machine.execRemoteStoreApply k s
  | .remoteRead k => Sys2Proof.Machine.execRemoteRead k s
  | .remoteFailure k reason => Sys2Proof.Machine.execRemoteFailure k reason s
  | .pubFlip k => Sys2Proof.Machine.execPubFlip k s
  | .tlbiExecute k => Sys2Proof.Machine.execTlbiExecute k s
  | .logWaitRelease k => Sys2Proof.Machine.execLogWaitRelease k s
  | .patrolScrub die line bad => Sys2Proof.Machine.execPatrolScrub die line bad s
  | .fleetWriteArrival k => Sys2Proof.Machine.execFleetWriteArrival k s
  | .fleetUpdateArrival k => Sys2Proof.Machine.execFleetUpdateArrival k s
  | .fleetFetch k => Sys2Proof.Machine.execFleetFetch k s
  | .fleetFetchReceipt k => Sys2Proof.Machine.execFleetFetchReceipt k s
  | .mailboxWrite vf n msg whole => Sys2Proof.Machine.execMailboxWrite vf n msg whole s
  | .hostBar2Access vf a write len => Sys2Proof.Machine.execHostBar2Access vf a write len s
  | .hostAtomicop vf a op width v c => Sys2Proof.Machine.execHostAtomicop vf a op width v c s
  | .hostRegisterWrite fn off v => Sys2Proof.Machine.execHostRegisterWrite fn off v s
  | .pctlResume vf => Sys2Proof.Machine.execPctlResume vf s
  | .pctlRestart vf => Sys2Proof.Machine.execPctlRestart vf s
  | .vfTeardown p => Sys2Proof.Machine.execVfTeardown p s
  | .mittenSave p slot => Sys2Proof.Machine.execMittenSave p slot s
  | .mittenSavelive p slot => Sys2Proof.Machine.execMittenSavelive p slot s
  | .mittenSaveDone k => Sys2Proof.Machine.execMittenSaveDone k s
  | .governorWindow core => Sys2Proof.Machine.execGovernorWindow core s
  | .powerMeasurement power temps => Sys2Proof.Machine.execPowerMeasurement power temps s
  | .attestationNonce fn nonce => Sys2Proof.Machine.execAttestationNonce fn nonce s
  | .quoteReady fn quote => Sys2Proof.Machine.execQuoteReady fn quote s
  | .createPartition req plan => Sys2Proof.Machine.execCreatePartition req plan s
  | .destroyPartition req => Sys2Proof.Machine.execDestroyPartition req s
  | .readTelemetry req => Sys2Proof.Machine.execReadTelemetry req s
  | .setPersonality req => Sys2Proof.Machine.execSetPersonality req s
  | .setNode req => Sys2Proof.Machine.execSetNode req s
  | .brimTimeout => Sys2Proof.Machine.execBrimTimeout s
  | .recoveryMessage msg => Sys2Proof.Machine.execRecoveryMessage msg s
  | .powerGood => Sys2Proof.Machine.execPowerGood s
  | .personalityChange g => Sys2Proof.Machine.execPersonalityChange g s
  | .linkDrop g => Sys2Proof.Machine.execLinkDrop g s
  | .linkTrained g width speed => Sys2Proof.Machine.execLinkTrained g width speed s
  | .linkDown g reason => Sys2Proof.Machine.execLinkDown g reason s
  | .fleetSplit handle => Sys2Proof.Machine.execFleetSplit handle s
  | .lsd g flit => Sys2Proof.Machine.execLsd g flit s
  | .swapreq g flit => Sys2Proof.Machine.execSwapreq g flit s
  | .swapack g flit => Sys2Proof.Machine.execSwapack g flit s
  | .keychg g flit => Sys2Proof.Machine.execKeychg g flit s
  | .keyack g flit => Sys2Proof.Machine.execKeyack g flit s
  | .persreq g flit => Sys2Proof.Machine.execPersreq g flit s
  | .persack g flit => Sys2Proof.Machine.execPersack g flit s
  | .time g flit => Sys2Proof.Machine.execTime g flit s
  | .timeFlitSend g => Sys2Proof.Machine.execTimeFlitSend g s
  | .laneHealthSample g lane flits corrected eye => Sys2Proof.Machine.execLaneHealthSample g lane flits corrected eye s
  | .keyRotation g => Sys2Proof.Machine.execKeyRotation g s
  | .keeperStore p g a data => Sys2Proof.Machine.execKeeperStore p g a data s
  | .sealSet p g result => Sys2Proof.Machine.execSealSet p g result s
  | .tctl vf v => Sys2Proof.Machine.execTctl vf v s
  | .trbase vf v => Sys2Proof.Machine.execTrbase vf v s
  | .trsize vf v => Sys2Proof.Machine.execTrsize vf v s
  | .trigat vf => Sys2Proof.Machine.execTrigat vf s
  | .dbgstop vf v => Sys2Proof.Machine.execDbgstop vf v s
  | .snapshotCapture p core => Sys2Proof.Machine.execSnapshotCapture p core s
  | .vfEnable on => Sys2Proof.Machine.execVfEnable on s
  | .requestTimeout k => Sys2Proof.Machine.execRequestTimeout k s
  | .pairing p feed force kwsize => Sys2Proof.Machine.execPairing p feed force kwsize s
  | .cksealRestoreDone p header records pages => Sys2Proof.Machine.execCksealRestoreDone p header records pages s
  | .cksealDumpDone p => Sys2Proof.Machine.execCksealDumpDone p s

end Sys2Proof.Machine
end

