-- ==== Sys2Proof/Machine/Fetch.lean ====
section
/-!
DEFINITION. Fetching an instruction (R63 to R65, R281, R292), the choice of what moves next, the passing of time (R41, R238, R269, R346,
R398), and placing a program for the host's question.
-/
namespace Sys2Proof.Machine

/-! ### What moves next -/

/-- The next move and the state without it: the head of the agenda, or what a free value chooses. -/
def State.pick (s : State) : Option Act × State :=
  match s.agenda with
  | a :: rest => (some a, { s with agenda := rest })
  | [] => match Config.freeEvent s.tick with
    | some i => (some (.event i), s)
    | none => ((Config.freeIssue s.tick).map (fun p => .issue p.1 p.2), s)

/-- The state in which a stream is the one that executes. -/
def State.atStream (s : State) (c : CoreId) (st : StreamId) : State := { s with cur := (c, st) }

/-! ### Fetch -/

/-- What the fetch of a stream's next instruction comes to: the instruction, or no instruction and the state that this leaves. -/
inductive Fetched where
  | idle (s : State)
  | instr (i : Instr)
  deriving DecidableEq, Repr

/-- The 64-bit word that memory holds at a location, for a fetch: poison is that of the line as the die reads it (R65, R292). -/
def State.codeWord (s : State) (w : Who) (a : Word) (l : Loc) : Except AStop Word :=
  match s.locPoison (dieOf w.core) l 8 with
  | some line => .error (apoison line a.toNat)
  | none => (s.locBytes (dieOf w.core) w.part l 8).map (fun bs => BitVec.ofNat 64 (leNat bs))
/-- A kept word of code is one of a job at an address. -/
def CodeWord.isAt (e : CodeWord) (c : CoreId) (h : Handle) (pa : Nat) : Bool := decide (e.core = c ∧ e.handle = h ∧ e.pa = pa)
/-- Why a word of an instruction cannot be fetched: what stops it, the word's address, and whether the word itself was reached and not only
its translation. -/
structure FetchStop where
  stop : AStop
  at_ : Word
  own : Bool
/-- The 64-bit word at an address, fetched under execute permission: the word or why not (R65, R281, R292). A word that the job's fetch
keeps is the old word until a store to it becomes visible (R65). -/
def State.fetchWord (s : State) (w : Who) (a : Word) : Except FetchStop Word :=
  match s.resolve w .x a 8 with
  | .error x => .error ⟨x, a, false⟩
  | .ok l => match s.code.find? (fun e => e.isAt w.core w.handle (s.readPa l)) with
    | some e => .ok e.word
    | none => match s.codeWord w a l with
      | .error x => .error ⟨x, a, true⟩
      | .ok v => .ok v
/-- n words from an address on, the first lowest. -/
def State.fetchWords (s : State) (w : Who) (a : Word) : Nat → Except FetchStop Nat
  | 0 => .ok 0
  | n + 1 => match s.fetchWord w a with
    | .error x => .error x
    | .ok v => (s.fetchWords w (a + 8) n).map (fun r => v.toNat + 2 ^ 64 * r)

/-- A trap of the fetch or of the decoder, stamped with the stream's coordinate (R63, R292); `va` is the address that was fetched (R293). -/
def State.fetchTrap (s : State) (j : Job) (st : StreamId) (cause : BitVec 8) (info : Word) (reason : BitVec 16) (pc va : Word)
    (stage : BitVec 2) : State :=
  s.raise s.cur.1 { trapRec cause info reason 0 ⟨st, ⟨(j.stream st).coord, stage⟩, j.seq, pc⟩ with va := va }
/-- What a fetch that does not succeed leaves, with the stage and the address of the instruction as far as it is known: poison of the word
itself has stage 0 and the fetched address (R292), any other trap, that of a poisoned page-table entry among them (R280), the instruction's
own (R33, R44, R256). -/
def State.fetchStops (s : State) (j : Job) (st : StreamId) (pc : Word) (stage : BitVec 2) (x : FetchStop) : State := match x.stop with
  | .fetch line => s.sendFetch (dieOf s.cur.1) line
  | .fabric ga r => s.fetchTrap j st 0x12 ga r pc x.at_ stage
  | .drains => s
  | .fault f =>
    if x.own && decide (f.cause = 0x0A) then s.fetchTrap j st 0x0A f.info 0 x.at_ x.at_ 0 else s.fetchTrap j st f.cause f.info 0 pc x.at_ stage

/-- Fetch and decode at the program counter of the executing stream (R44, R63 to R65). DESIGN CHOICE (log 73): a fault of the first word,
whose STAGE field is not known, has stage 0; and a fault or poison of a later word that LEN calls for comes before checks 2 to 4. A pending event makes the
supervisor's C stream enter its vectored entry before it issues another instruction (R259). -/
def State.fetch (s : State) : Fetched :=
  match s.job s.cur.1 with
  | none => .idle s
  | some j =>
    let st := s.cur.2
    let t := j.stream st
    if !j.mayIssue st then .idle s
    else if st = .c && s.mustEnter j.part s.cur.1 then .idle (s.enterEvent j.part)
    else
      let w := s.who s.cur.1 j
      match s.fetchWord w t.pc with
      | .error x => .idle (s.fetchStops j st t.pc 0 x)
      | .ok first =>
        match wordsOf first.toNat with
        | none => .idle (s.fetchTrap j st 0x01 first 0 t.pc t.pc (field first.toNat 18 2))
        | some n =>
          match s.fetchWords w t.pc n with
          | .error x => .idle (s.fetchStops j st t.pc (field first.toNat 18 2) x)
          | .ok bits => match decode bits with
            | .error _ => .idle (s.fetchTrap j st 0x01 first 0 t.pc t.pc (field first.toNat 18 2))
            | .ok i => .instr i

/-! ### Time -/

/-- Time as a stream sees it: a waiting stream's LEADCYC grows while it waits for its lead (R41). -/
def Stream.pass (n : Nat) (t : Stream) : Stream :=
  if t.cause = 6 then { t with leadcyc := BitVec.ofNat 32 (Nat.min 0xFFFFFFFF (t.leadcyc.toNat + n)) } else t
/-- The cycles of FTIME that n of them from a time on spend in each window that they touch (R238): windows begin where FTIME is a multiple of
1,250. -/
def windowCycles (from_ n : Nat) : List Nat :=
  let o := from_ % 1250
  if o + n < 1250 then [n] else (1250 - o) :: List.replicate ((o + n) / 1250 - 1) 1250 ++ [(o + n) % 1250]
/-- The issue cycles of a window that has `base` of them, after some cycles more (R238): those of an MMA that is ready, at most one a cycle
and, but for a landing, no more than the budget; how many it used is free. -/
def Core.issueIn (k : Core) (use base cycles : Nat) : Nat :=
  if k.job.any Job.mmaReady then
    let used := base + use % (cycles + 1)
    if k.job.any (fun j => j.landing.isSome) then used else Nat.max base (Nat.min used k.budget.toNat)
  else base
/-- The issue cycles of the last of some windows (R238), the n-th of a step and on, and the cycles that the governor may have withheld in
them: those of windows whose budget was used up, while no landing lets the MMA run on. A window starts with the excess of the one before. -/
def Core.windows (k : Core) (use : Nat → Nat) : Nat → Nat → List Nat → Nat × Nat
  | _, base, [] => (base, 0)
  | n, base, cycles :: l =>
    let used := k.issueIn (use n) base cycles
    let held := if k.job.any (fun j => j.mmaReady && j.landing.isNone) && decide (k.budget.toNat ≤ used) then cycles - (used - base) else 0
    match l with
    | [] => (used, held)
    | _ :: _ =>
      let r := k.windows use (n + 1) (used - k.budget.toNat) l
      (r.1, held + r.2)
/-- What n cycles of FTIME from a time on make of a core's window (R238). -/
def Core.govern (tick : Nat) (c : CoreId) (ftime : Word) (n : Nat) (k : Core) : Nat × Nat :=
  k.windows (Config.freeIssueCycles tick c) 0 k.issued (windowCycles ftime.toNat n)
/-- The issue cycles of the current window after n cycles of FTIME (R238). -/
def Core.issue (tick : Nat) (c : CoreId) (ftime : Word) (n : Nat) (k : Core) : Nat := (k.govern tick c ftime n).1
/-- The cycles of n that the governor withheld (R238): how many of those that it may is free. -/
def Core.withheld (tick : Nat) (c : CoreId) (ftime : Word) (n : Nat) (k : Core) : Nat := Config.freeGovStall tick c % ((k.govern tick c ftime n).2 + 1)
/-- Time as a job sees it: LEADCYC, GOVSTALL by the cycles withheld, and the counters of cycles (R41, R238, R398, R399). -/
def Job.pass (tick : Nat) (c : CoreId) (gov : Nat) (j : Job) : Job :=
  let j := { j with
    streams := #v[(j.stream .c).pass (Config.freeWait tick c .c), (j.stream .a).pass (Config.freeWait tick c .a),
      (j.stream .v).pass (Config.freeWait tick c .v), (j.stream .s).pass (Config.freeWait tick c .s)],
    govstall := BitVec.ofNat 64 (Nat.min (2 ^ 64 - 1) (j.govstall.toNat + gov)) }
  let j := { j with usedcyc := j.usedcyc + BitVec.ofNat 64 (Config.freeRun tick c) }
  let add (j : Job) (i : Fin 16) := j.count i (Config.freeCounter tick c i)
  ((add (add (add (add (add (add j 4) 5) 6) 7) 8) 11).count 9 gov)
/-- The bank account of a core gains lost arbitrations (R269); each counter saturates. -/
def bankAdd (l : List (Nat × BitVec 32)) (x : Nat × Nat) : List (Nat × BitVec 32) :=
  let old := ((l.find? (fun e => e.1 = x.1)).map Prod.snd).getD 0
  let v := BitVec.ofNat 32 (Nat.min 0xFFFFFFFF (old.toNat + x.2))
  if x.1 < 512 ∧ v ≠ 0 then (l.filter (fun e => e.1 < x.1)) ++ [(x.1, v)] ++ (l.filter (fun e => x.1 < e.1)) else l
/-- Time as a core sees it, n cycles of FTIME on. The job's counters move while it runs or lands (R399), and the window of the governor
with it (R238). -/
def Core.pass (tick : Nat) (c : CoreId) (ftime : Word) (n : Nat) (k0 : Core) : Core :=
  let k := { k0 with issued := k0.issue tick c ftime n }
  match k.job with
  | none => k
  | some j =>
    if k.busy then
      { k with job := some (j.pass tick c (k0.withheld tick c ftime n)), bank := (Config.freeBankLoss tick c).foldl bankAdd k.bank }
    else k
/-- The cycles that the jobs of a partition ran in a step (R332). -/
def State.ranCycles (s : State) (pn : PartId) : Nat := ((List.range 256).map (fun n =>
  let k := s.core (coreOf n)
  if k.busy && k.job.any (fun j => j.part = pn) then Config.freeRun s.tick (coreOf n) else 0)).sum
/-- A TLB comes to hold a translation that a walk finds now (R282): which one, and in which structure, is free. -/
def State.cacheWalk (s : State) : State := match Config.freeTlbFill s.tick with
  | none => s
  | some (c, pn, a, l2) => match s.part pn with
    | none => s
    | some p => match s.walkFor (dieOf c) pn p a with
      | .ok (e, lvl) => { s with tlb := ⟨pn, a / pageSize lvl * pageSize lvl, pageSize lvl, e, l2, c⟩ :: s.tlb }
      | .error _ => s
/-- A walker comes to hold a non-leaf entry that a walk finds now on its way to a leaf (R282): which one is free. -/
def State.cacheNonLeaf (s : State) : State := match Config.freeWalkFill s.tick with
  | none => s
  | some (d, pn, a, lvl) => match s.part pn with
    | none => s
    | some p =>
      let b := s.walkStart d pn p a
      match s.walkFor d pn p a, s.walkTo d p a lvl (b.2 + 1) b.1 b.2 with
      | .ok _, some t =>
        if lvl < b.2 then { s with walker := ⟨d, pn, a / tableSpan lvl * tableSpan lvl, lvl, t⟩ :: s.walker } else s
      | _, _ => s
/-- The fetch of a core's job comes to keep a word of its code as it stands now (R65): which one is free. -/
def State.keepCode (s : State) : State := match Config.freeCodeFill s.tick with
  | none => s
  | some (c, a) => match s.job c with
    | none => s
    | some j => match s.resolve (s.who c j) .x a 8 with
      | .error _ => s
      | .ok l => match s.codeWord (s.who c j) a l with
        | .error _ => s
        | .ok v => { s with code := ⟨c, j.handle, s.readPa l, v⟩ :: s.code.filter (fun e => !e.isAt c j.handle (s.readPa l)) }
/-- Stores to code become visible to the fetch of its job (R65): to which words is free. -/
def State.seeCode (s : State) : State := { s with code := s.code.filter (fun e => !Config.freeCodeDrop s.tick e.core e.pa) }
/-- An access of a job meets an error of a memory (R290, R291, R293): a corrected one, or one that poisons its line or sector; which, and
when, is free. -/
def State.meetError (s : State) : State := match Config.freeError s.tick with
  | none => s
  | some (c, st, kind, a, va) => match s.job c with
    | none => s
    | some j =>
      let note (s : State) (k pa : Nat) : State := s.errorEvent j.part k pa va (some (j.stream st).coord) j.handle c
      let pool := decide (2 ^ 50 ≤ a ∧ (a - 2 ^ 50) / 2 ^ 24 = c.val / 4)
      let dram := decide (a < 2 ^ 50) && s.owners.contains (a / 65536, j.part)
      match kind.toNat with
      | 0 => if dram then note s 1 (a / 64 * 64) else s
      | 1 => if dram then note (s.poisonRun (a / 64 * 64) 64) 2 (a / 64 * 64) else s
      | 2 => if pool then note s 5 (s.poisonInfo (a / 32 * 32)) else s
      | _ => if pool then note (s.poisonRun (a / 32 * 32) 32) 6 (s.poisonInfo (a / 32 * 32)) else s
/-- A CXL device comes to report a sector as poisoned (R354): which, and when, is free. -/
def State.meetCxl (s : State) : State := match Config.freeCxlPoison s.tick with
  | some a => match regionOf a with
    | .edge _ _ => s.poisonRun a 32
    | _ => s
  | none => s
/-- The times at which something must happen that has not happened yet: the captures of a trigger, and a timed trigger (R396), and the slots and
the writing of SEND chunks (R311). -/
def State.dues (s : State) : List Nat := (s.sendings.filterMap s.departure ++ s.chunks.zipIdx.filterMap (fun y => s.chunkDue y.2 y.1) ++ s.parts.toList.flatMap (fun p => match p with
  | some p => ((p.trigger.filter (fun t => !t.left.isEmpty)).map (fun t => t.time.toNat)).toList ++ (if p.trigArmed then [p.trigat.toNat] else [])
  | none => [])).filter (fun d => decide (s.ftime.toNat ≤ d))
/-- The cycles that pass in a step: a free number, but no due time is passed by. -/
def State.cycles (s : State) : Nat := s.dues.foldl (fun n d => Nat.min n (d - s.ftime.toNat)) (Config.freeCycles s.tick)
/-- FTIME some cycles on (R346): a package that torus links join to others and that is not the time master slews towards the master, by at
most one cycle in 1,024, and FTIME never decreases. -/
def State.timeAfter (s : State) (n : Nat) : Word :=
  let slew := Config.freeSlew s.tick % (n / 1024 + 1)
  let m := if !s.joinedByTorus || s.isMaster then n else match s.module.ahead with
    | some true => n - slew
    | some false => n + slew
    | none => n
  BitVec.ofNat 64 (s.dues.foldl Nat.min (Nat.min (2 ^ 64 - 1) (s.ftime.toNat + m)))
/-- Time passes at the end of a step: AWAITs read their words again (R244), FTIME (R346), the counters of cycles, what the TLBs, the walkers and the fetch hold (R282, R65), and
the number of the step. -/
def State.pass (s0 : State) : State :=
  let s := s0.watch.cacheWalk.cacheNonLeaf.keepCode.seeCode.meetError.meetCxl.routeAll.serveAll.flow
  { s with
    cores := Vector.ofFn (fun c => (s.cores.get c).pass s.tick c s.ftime (s.timeAfter s.cycles - s.ftime).toNat)
    parts := Vector.ofFn (fun n => (s.parts.get n).map (fun p => { p with usedcyc := p.usedcyc + BitVec.ofNat 64 (s.ranCycles n) }))
    ftime := s.timeAfter s.cycles
    tick := s.tick + 1 }
/-- Time passes after a next state. -/
def afterStep (o : Host.Outcome State Fault Refusal) : Host.Outcome State Fault Refusal := match o with
  | .next s => .next s.pass
  | .fault f => .fault f
  | .refused r => .refused r

/-! ### Placing a program (R148, R277 to R280, R322) -/

/-- The header of the placed job: lead window 16, tile depth 1, one accumulator granule, one scratchpad granule, v0 fed and v1 drained. -/
def placedHeader (st : StreamId) : Header :=
  { leadw := 16, tdep := 1, acg := 1, spg := 1, drain := 2, fed := 1,
    entry := (Vector.replicate 4 0).set (StreamId.fin st) 64, cutSafe := [], ibud := 0, splen := 0, spofs := 0 }
/-- The stream in which the placed instruction runs: the first that R61 allows. -/
def placedStream (w : Nat) : StreamId := match decodeBytes (natToBytes 32 w) with
  | .ok (i, _) => match i.enc with
    | some e => (encStreams e).headD .c
    | none => .c
  | .error _ => .c
/-- The page tables of the placed job: the page at 0x1_0000 is DRAM 0x31_0000 with R, W and X. -/
def placedMemory (m : List Host.Cell) (w : Nat) : List Host.Cell :=
  memWrite (memWrite (memWrite (memWrite (memWrite m 0x100000 (leBytes 8 0x200001)) 0x200000 (leBytes 8 0x201001))
    0x201000 (leBytes 8 0x202001)) 0x202008 (leBytes 8 0x31001F)) 0x310040 (leBytes 32 w)
/-- The state with a program placed. -/
def State.placeProgram (s : State) (w : Nat) : State :=
  let st := placedStream w
  let hdr := placedHeader st
  let hd : Handle := 0x2000
  let j := Job.start hd 0 0x10000 hdr 0 0 (fun _ => none) (semMapOf 0 1) false 0
  let slot : JobSlot := ⟨hd, 0, 0, 0, 0, 0, .running, 0, 0, 0x10000, hdr, none, none, none, false⟩
  let part := Partition.start 1 0x100000 0 0 0 0 0 0 0 0 0x10000 hd
  { s with
    cores := s.cores.set (0 : Fin 256) { s.core 0 with slots := (s.core 0).slots.set (0 : Fin 8) (some slot), on := some 0, job := some j }
    parts := s.parts.set (0 : Fin 32) (some { part with pstate := 1 })
    mem := placedMemory s.mem w
    poison := []
    tlb := []
    walker := []
    code := []
    jobs := [⟨hd, 0, 0, [0], [], false, true, false, 0, Vector.replicate 4 0, [], [], []⟩]
    agenda := [.issue 0 st] }

end Sys2Proof.Machine
end

