-- ==== Sys2Proof/Machine/Step.lean ====
section
/-!
DEFINITION. One step of the module: what moves next, the fetch and execution of an instruction or an event of the table, and the time
that passes.
-/
namespace Sys2Proof.Machine

/-- One step (95, R3): the next move of the agenda, or one that a free value chooses; then time passes. -/
def step (s : State) : Host.Outcome State Fault Refusal :=
  match (s.pick).1 with
  | none => .next (s.pick).2.pass
  | some (.event i) => match i.enc with
    | some _ => .next (s.pick).2.pass
    | none => afterStep (exec i (s.pick).2)
  | some (.issue c st) => match ((s.pick).2.atStream c st).fetch with
    | .idle s' => .next s'.pass
    | .instr i => afterStep (exec i ((s.pick).2.atStream c st))

/-- The state with the instruction of these bits placed where the next step fetches it: a running job of partition 0 on core 0, whose
page tables map one page of DRAM that holds the words, in a stream that may run the instruction, and that stream to issue next. -/
def State.withFetchWord (s : State) (nbits w : Nat) : State := s.placeProgram (w % 2 ^ nbits)

end Sys2Proof.Machine
end

