-- ==== Sys2Proof/Machine/Ready.lean ====
section
/-!
DEFINITION. The terms of the statements: what an instruction needs of the state to complete and the state that each form of an operand
leaves, written as plain functions of the state. Nothing of the step refers to them.
-/
namespace Sys2Proof.Machine

/-! ### Entering and leaving an instruction (R28, R63, R74) -/

/-- The executing job, where the core has one. -/
def State.own (s : State) : Option Job := s.job s.cur.1
/-- The executing stream. -/
def State.lane (s : State) : Option Stream := s.own.map (fun j => j.stream s.cur.2)
/-- The state with the executing job changed. -/
def State.onOwn (s : State) (f : Job → Job) : State := s.onJob s.cur.1 f
/-- The state with the executing stream changed. -/
def State.onLane (s : State) (f : Stream → Stream) : State := s.onOwn (fun j => j.onStream s.cur.2 f)

/-- The executing stream may issue an instruction, which passes checks 5 to 7 of R63, its stage is active (R74), and no V-form waits
between two iterations. -/
def State.admits (s : State) (i : Instr) (e : Enc) : Bool := match s.own with
  | none => false
  | some j =>
    let t := j.stream s.cur.2
    j.mayIssue s.cur.2 && i.wf && t.stageOk e.h.stage.toNat && (encStreams e).contains s.cur.2 && (!supOnly e || s.isSup) &&
      !t.skips e.h.stage.toNat && t.prog.isNone

/-- An entry that a stream at a coordinate may consume: its value has arrived, it has no mark, and its stamp is not above (R20, R36). -/
def QEntry.usable {α : Type} (cur : Coord) (e : QEntry α) : Option α :=
  if decide (cur < e.stamp.coord) || decide (e.mark ≠ .none) then none else e.val

/-- The state with one token popped from the FIFO that `src` fills (R28), where its head may be consumed. -/
def State.takeToken (s : State) (src : StreamId) (toNext : Bool) : Option State := match s.own with
  | none => none
  | some j => match (j.toks.get (fifoIdx src toNext)).items with
    | [] => none
    | e :: _ =>
      let t := j.stream s.cur.2
      if decide (t.coord < e.stamp.coord) || decide (e.mark ≠ .none) then none
      else some (s.setJob s.cur.1 { j with toks := j.toks.set (fifoIdx src toNext) ((j.toks.get (fifoIdx src toNext)).pop t.coord j.seq) })
/-- The state with the token pops of a header made, PBP before PBN. -/
def State.takeTokens (s : State) (h : Hdr) : Option State :=
  match (if h.pbp then s.takeToken s.cur.2.prev true else some s) with
  | none => none
  | some t => if h.pbn then t.takeToken t.cur.2.next false else some t

/-- The instruction enters: the state in which its body starts, or none where a check fails, its stage is inactive or it waits. -/
def State.entered (s : State) (i : Instr) : Option State := match i.enc with
  | none => none
  | some e => if s.admits i e then s.takeTokens e.h else none
/-- The instruction's stage is inactive (R74): it passes its checks and is skipped. -/
def State.skipped (s : State) (i : Instr) : Bool := match i.enc, s.own with
  | some e, some j =>
    let t := j.stream s.cur.2
    j.mayIssue s.cur.2 && i.wf && t.stageOk e.h.stage.toNat && (encStreams e).contains s.cur.2 && (!supOnly e || s.isSup) &&
      t.skips e.h.stage.toNat
  | _, _ => false

/-- The address of the instruction after i, from the state in which i starts. -/
def State.nextPc (s : State) (i : Instr) : Word := match s.lane with
  | some t => t.pc + BitVec.ofNat 64 i.bytes
  | none => 0
/-- The state after the retirement of i with the next program counter. -/
def State.retired (s : State) (i : Instr) (pc : Word) : State := match i.enc with
  | none => s
  | some e => s.onOwn (fun j => j.retire s.cur.2 pc e.h false)

/-! ### Scalar operands (R20, R21, R25, R26) -/

/-- A scalar source: its value and the state after the read, where it may be read at once; the entry of an AWAIT orders the stream (R378). -/
def State.scalar (s : State) (x : Spec) : Option (Word × State) := match Spec.reg x with
  | none => some (0, s)
  | some r => match s.own with
    | none => none
    | some j =>
      let t := j.stream s.cur.2
      match (t.regs.get r).items with
      | [] => none
      | e :: _ => if !s.mayRead j e.id then none else (e.usable t.coord).map (fun v =>
          let s := s.onLane (Stream.reads e.id j.seq)
          (v, if Spec.peek x then s else s.onLane (fun t => { t with regs := t.regs.set r ((t.regs.get r).pop t.coord j.seq) })))
/-- Scalar sources read in order. -/
def State.scalars (s : State) : List Spec → Option (List Word × State)
  | [] => some ([], s)
  | x :: l => match s.scalar x with
    | none => none
    | some (v, t) => (t.scalars l).map (fun r => (v :: r.1, r.2))
/-- The state with n entries of a scalar register discarded, marked ones too, where they have arrived and none is stamped above the stream
(R79, R102). -/
def State.drops (s : State) (x : Spec) : Nat → Option State
  | 0 => some s
  | n + 1 => match Spec.reg x with
    | none => s.drops x n
    | some r => match s.own with
      | none => none
      | some j =>
        let t := j.stream s.cur.2
        match (t.regs.get r).items with
        | [] => none
        | e :: _ =>
          if decide (t.coord < e.stamp.coord) || e.val.isNone || !s.mayRead j e.id then none
          else
            let s := s.onLane (Stream.reads e.id j.seq)
            State.drops (if Spec.peek x then s else s.onLane (fun t => { t with regs := t.regs.set r ((t.regs.get r).pop t.coord j.seq) })) x n
/-- A scalar destination takes one more entry: s31, or an unbound register with fewer than four entries and a free physical slot. -/
def State.room (s : State) (x : Spec) : Bool := match Spec.reg x, s.own with
  | none, _ => true
  | some _, none => false
  | some r, some j =>
    let q := (j.stream s.cur.2).regs.get r
    !(j.bound s.cur.2 r).isSome && decide (q.items.length < 4) && decide (q.items.length + q.popped.length < 8)
/-- The state with an entry appended to a scalar destination: a value, or a reservation; s31 discards it. -/
def State.put (s : State) (h : Hdr) (x : Spec) (v : Option Word) (held : Bool) : State := match Spec.reg x with
  | none => s
  | some r => s.onOwn (fun j => j.onStream s.cur.2 (fun t =>
      let q := t.regs.get r
      { t with regs := t.regs.set r { q with items := q.items ++ [⟨v, ⟨t.coord, h.stage⟩, .none, held, j.seq, none⟩] } }))
/-- The value of a predicate. -/
def State.pred (s : State) (x : Spec) : Bool := match s.lane with
  | some t => t.preds.getLsbD (Spec.num x % 8)
  | none => false
/-- The state with a predicate written. -/
def State.putPred (s : State) (x : Spec) (b : Bool) : State := s.onLane (fun t =>
  let m : BitVec 8 := 1 <<< (Spec.num x % 8)
  { t with preds := if b then t.preds ||| m else t.preds &&& ~~~m })

/-! ### Tile operands (R21, R23, R24, R26, R114) -/

/-- A tile source of an instruction with a coordinate: its tile and the state after the read, where it may be read at once. -/
def State.tileAt (s : State) (n : Nat) (peek : Bool) : Option (Tile × State) := match s.own with
  | none => none
  | some j =>
    let t := j.stream s.cur.2
    match (j.tiles.get (tileIdx n)).items with
    | [] => none
    | e :: _ => match e.usable t.coord with
      | none => none
      | some v =>
        if peek then some (v, s)
        else if 16 ≤ j.holding then none
        else some (v, s.setJob s.cur.1 { j with tiles := j.tiles.set (tileIdx n) ((j.tiles.get (tileIdx n)).pop t.coord j.seq) })
/-- A tile source of V: a drained queue may only be peeked (R114). -/
def State.tile (s : State) (f : BitVec 5) : Option (Tile × State) := match s.own with
  | none => none
  | some j => if !f.getLsbD 4 && j.drained (f.toNat % 16) then none else s.tileAt (f.toNat % 16) (f.getLsbD 4)
/-- Tile sources of V read in order. -/
def State.tiles (s : State) : List (BitVec 5) → Option (List Tile × State)
  | [] => some ([], s)
  | f :: l => match s.tile f with
    | none => none
    | some (v, t) => (t.tiles l).map (fun r => (v :: r.1, r.2))
/-- The job has tile queues (R23). -/
def State.hasTiles (s : State) : Bool := s.own.any (fun j => decide (j.hdr.tdep ≠ 0))
/-- A tile destination of V takes one more tile: it is not fed, and holds fewer than the tile depth (R24). -/
def State.tileRoom (s : State) (td : BitVec 4) : Bool := s.own.any (fun j =>
  !j.fed td.toNat && decide ((j.tiles.get (tileIdx td.toNat)).items.length < j.hdr.tdep))
/-- The fed queue of an LDT or GATHER takes one more tile (R24, R104). -/
def State.fedRoom (s : State) (d : Spec) : Bool := s.own.any (fun j =>
  decide (j.hdr.tdep ≠ 0) && j.fed (d.toNat % 16) && decide ((j.tiles.get (tileIdx (d.toNat % 16))).items.length < j.hdr.tdep))
/-- The state with a tile, or a reservation, appended to a tile queue. -/
def State.putTile (s : State) (h : Hdr) (n : Nat) (v : Option Tile) : State := s.onOwn (fun j =>
  j.addTile (tileIdx n) ⟨v, ⟨(j.stream s.cur.2).coord, h.stage⟩, .none, false, j.seq, none⟩)

/-! ### Work left behind (R20, R108, R113, R131, R218) -/

/-- The state with a direct operation left pending. -/
def State.pending (s : State) (h : Hdr) (k : OpKind) : State :=
  s.onOwn (fun j => { j with ops := j.ops ++ [⟨j.seq, s.origin h, k, none, s.tick⟩] })
/-- The state in which the entry that an AWAIT has reserved orders what reads it (R378). -/
def State.awaiting (s : State) : State := s.onOwn (fun j => j.onStream s.cur.2 (fun t => { t with awaited := t.awaited ++ [j.seq] }))
/-- The state with an effect held until FRONT reaches its stamp. -/
def State.holding (s : State) (h : Hdr) (k : HeldKind) : State :=
  s.onOwn (fun j => { j with held := j.held ++ [⟨j.seq, s.origin h, k, none⟩] })
/-- An engine's queue has room for one more command. -/
def State.queueRoom (s : State) (e : Engine) : Bool := s.own.any (fun j => decide (j.queued e < 16))
/-- The state with a command placed in an engine's queue. -/
def State.queueing (s : State) (e : Engine) (h : Hdr) (k : CmdKind) : State :=
  s.onOwn (fun j => j.setQueue e (j.queue e ++ [⟨j.seq, s.origin h, k, .none, false, 0⟩]))
/-- The job neither replays, nor records with a full buffer (R391, R400, R401). -/
def State.live (s : State) : Bool := s.own.any (fun j => !j.replay.replaying && !(j.replay.recording && decide (64 ≤ j.trace.length)))
/-- The state after an arrival of R400: the value is pushed, and a recording job records it. -/
def State.arrived (s : State) (h : Hdr) (x : Spec) (sub : Nat) (v : Word) : State :=
  (s.put h x (some v) false).recordArrival s.cur.1 (s.origin h) sub v false
/-- The state in which the executing instruction has kept the place of its record, of this subtype (R400). -/
def State.keeping (s : State) (h : Hdr) (sub : Nat) : State := s.recordPlace s.cur.1 (s.origin h) sub
/-- The state with an own stop request placed (R89, R122). -/
def State.placed (s : State) (r : StopReq) : State := (s.onOwn (fun j => j.requestStop r)).markLanding s.cur.1

/-- An operation of an instruction on the state: it completes with a value and a state. -/
def Runs {α : Type} (m : M α) (s : State) (a : α) (t : State) : Prop := m.run s = .ok a t

end Sys2Proof.Machine
end

