-- ==== Sys2Proof/Safety.lean ====
section
/-!
DEFINITION. What counts as a sound state and a safe step.
-/
namespace Sys2Proof.Machine

/-- The memory has its canonical form. -/
def State.MemOk (s : State) : Prop := Memory.wf s.mem = true

/-- A step is safe when it answers a next state: nothing of the spec stops the module. -/
def Safe (o : Host.Outcome State Fault Refusal) : Prop := ∃ t, o = .next t

end Sys2Proof.Machine
end

