-- ==== Sys2Proof/Certificates/Slice0/Obligations.lean ====
section
/-!
DEFINITION. The statements about the model. `s.entered i = some s0` says that the executing stream may issue i, that i passes the checks of
R63, that its stage is active and that its token pops succeed; s0 is the state with the tokens popped. `s.scalars l = some (vs, t)` says
that the scalar sources of l can be read in order, giving vs and leaving t. `u.retired i pc` is u with i retired, in program order, with
its token pushes left and the next program counter pc.
-/

open Sys2Proof Sys2Proof.Machine

namespace Sys2Proof.Claims

/-! ### Tables of the spec -/

/-- The two-source results of R67, without DIV and REM. -/
def alu2 : Instr → Option (Hdr × FRR × (Word → Word → Word))
  | .add h f => some (h, f, fun a b => a + b)
  | .sub h f => some (h, f, fun a b => a - b)
  | .mul h f => some (h, f, fun a b => a * b)
  | .mulh h f => some (h, f, fun a b => if f.fn.getLsbD 0 then BitVec.ofNat 64 (a.toNat * b.toNat / 2 ^ 64)
      else BitVec.ofInt 64 (a.toInt * b.toInt / 2 ^ 64))
  | .and h f => some (h, f, fun a b => a &&& b)
  | .or h f => some (h, f, fun a b => a ||| b)
  | .xor h f => some (h, f, fun a b => a ^^^ b)
  | .shl h f => some (h, f, fun a b => a <<< (b.toNat % 64))
  | .shr h f => some (h, f, fun a b => a >>> (b.toNat % 64))
  | .sar h f => some (h, f, fun a b => a.sshiftRight (b.toNat % 64))
  | .rot h f => some (h, f, fun a b => a.rotateLeft (b.toNat % 64))
  | .min h f => some (h, f, fun a b => if f.fn.getLsbD 0 then (if a.toNat < b.toNat then a else b) else (if a.toInt < b.toInt then a else b))
  | .max h f => some (h, f, fun a b => if f.fn.getLsbD 0 then (if b.toNat < a.toNat then a else b) else (if b.toInt < a.toInt then a else b))
  | _ => none

/-- A 64-bit number read as signed or not (R68). -/
def num (u : Bool) (a : Word) : Int := if u then a.toNat else a.toInt
/-- The quotient of R68. -/
def quotient (u : Bool) (a b : Word) : Word :=
  if num u b = 0 then 0xFFFFFFFFFFFFFFFF
  else if u = false ∧ a.toInt = -2 ^ 63 ∧ b.toInt = -1 then a
  else BitVec.ofInt 64 ((num u a).tdiv (num u b))
/-- The remainder of R68. -/
def remainder (u : Bool) (a b : Word) : Word :=
  if num u b = 0 then a
  else if u = false ∧ a.toInt = -2 ^ 63 ∧ b.toInt = -1 then 0
  else BitVec.ofInt 64 (num u a - num u b * (num u a).tdiv (num u b))

/-- The conditions of the compares (R69). -/
def compares : Instr → Option (Hdr × FRR × (Word → Word → Bool))
  | .cmpEq h f => some (h, f, fun a b => decide (a = b))
  | .cmpNe h f => some (h, f, fun a b => decide (a ≠ b))
  | .cmpLt h f => some (h, f, fun a b => decide (a.toInt < b.toInt))
  | .cmpLe h f => some (h, f, fun a b => decide (a.toInt ≤ b.toInt))
  | .cmpLtu h f => some (h, f, fun a b => decide (a.toNat < b.toNat))
  | .cmpLeu h f => some (h, f, fun a b => decide (a.toNat ≤ b.toNat))
  | _ => none

/-- An instruction traps: the job takes the trap at the instruction's stamp with a cause and an information word, in the state u that its
operand reads have left (R33, R254, R256). -/
def traps (i : Instr) (s u : State) (cause : BitVec 8) (info : Word) : Prop := ∀ e, i.enc = some e →
  exec i s = .next (u.raise s.cur.1 { cause := cause, org := s.origin e.h, unit := 0, reason := 0, info := info, va := 0 })

end Sys2Proof.Claims

open Sys2Proof.Claims

/-! ### Scalar instructions (R67 to R71) -/

/-- R67: an integer or logic instruction of two sources reads A, then B, pushes its result to D and falls through. -/
def Obligations.AluTwoSources : Prop := ∀ (i : Instr) (h : Hdr) (f : FRR) (g : Word → Word → Word), alu2 i = some (h, f, g) →
  ∀ (s s0 s1 : State) (a b : Word), s.entered i = some s0 → s0.scalars [f.a, f.b] = some ([a, b], s1) → s1.room f.d = true →
    exec i s = .next ((s1.put h f.d (some (g a b)) false).retired i (s.nextPc i))

/-- R68: DIV pushes the quotient and REM the remainder of the rule's own computation. -/
def Obligations.DivideAndRemainder : Prop := ∀ (h : Hdr) (f : FRR) (s s0 s1 : State) (a b : Word),
  (s.entered (.div h f) = some s0 → s0.scalars [f.a, f.b] = some ([a, b], s1) → s1.room f.d = true →
    exec (.div h f) s = .next ((s1.put h f.d (some (quotient (f.fn.getLsbD 0) a b)) false).retired (.div h f) (s.nextPc (.div h f)))) ∧
  (s.entered (.rem h f) = some s0 → s0.scalars [f.a, f.b] = some ([a, b], s1) → s1.room f.d = true →
    exec (.rem h f) s = .next ((s1.put h f.d (some (remainder (f.fn.getLsbD 0) a b)) false).retired (.rem h f) (s.nextPc (.rem h f))))

/-- R67: CLZ and POPC, by the number n of leading zero bits and the number of one bits of the source.
R67: SEL reads both sources whatever the predicate holds; MOV moves between scalars and predicates in either direction. -/
def Obligations.CountSelectAndMove : Prop :=
  (∀ (h : Hdr) (f : FRR) (s s0 s1 : State) (a : Word),
    (s.entered (.clz h f) = some s0 → s0.scalars [f.a] = some ([a], s1) → s1.room f.d = true →
      ∃ n : Nat, n ≤ 64 ∧ (∀ k, k < n → a.getLsbD (63 - k) = false) ∧ (n < 64 → a.getLsbD (63 - n) = true) ∧
        exec (.clz h f) s = .next ((s1.put h f.d (some (BitVec.ofNat 64 n)) false).retired (.clz h f) (s.nextPc (.clz h f)))) ∧
    (s.entered (.popc h f) = some s0 → s0.scalars [f.a] = some ([a], s1) → s1.room f.d = true →
      exec (.popc h f) s = .next ((s1.put h f.d (some (BitVec.ofNat 64 ((List.range 64).countP (fun k => a.getLsbD k)))) false).retired
        (.popc h f) (s.nextPc (.popc h f))))) ∧
  (∀ (h : Hdr) (f : FRR) (s s0 s1 : State) (a b : Word),
    (s.entered (.sel h f) = some s0 → s0.scalars [f.a, f.b] = some ([a, b], s1) → s1.room f.d = true →
      exec (.sel h f) s = .next ((s1.put h f.d (some (if s1.pred f.c then a else b)) false).retired (.sel h f) (s.nextPc (.sel h f)))) ∧
    (s.entered (.mov h f) = some s0 →
      (if Spec.file f.a then a = (if s0.pred f.a then 1 else 0) ∧ s1 = s0 else s0.scalars [f.a] = some ([a], s1)) →
      (if Spec.file f.d then exec (.mov h f) s = .next ((s1.putPred f.d (decide (a ≠ 0))).retired (.mov h f) (s.nextPc (.mov h f)))
        else s1.room f.d = true → exec (.mov h f) s = .next ((s1.put h f.d (some a) false).retired (.mov h f) (s.nextPc (.mov h f))))))


/-- R69: the compares are the instructions of major 0x02, in format RR, with a predicate destination, two scalar sources, C none and FN 0; a
compare reads A, then B, and sets predicate D to 1 when its condition holds and to 0 otherwise. -/
def Obligations.CompareSetsPredicate : Prop :=
  (∀ (i : Instr) (e : Enc), i.enc = some e → (e.major = 0x02 ↔ (compares i).isSome = true)) ∧
  (∀ (i : Instr) (h : Hdr) (f : FRR) (g : Word → Word → Bool), compares i = some (h, f, g) →
    (∃ minor, i.enc = some ⟨0x02, minor, h, .rr f⟩) ∧
    i.wf = (Cls.pred.ok f.d && Cls.src.ok f.a && Cls.src.ok f.b && Cls.none.ok f.c && f.fn == 0) ∧
    ∀ (s s0 s1 : State) (a b : Word), s.entered i = some s0 → s0.scalars [f.a, f.b] = some ([a, b], s1) →
      exec i s = .next ((s1.putPred f.d (g a b)).retired i (s.nextPc i)))

/-- R70: ADDI, LDI with either U, and LDIH. -/
def Obligations.Immediates : Prop := ∀ (h : Hdr) (s s0 s1 : State) (a : Word),
  (∀ f : FRI, s.entered (.addi h f) = some s0 → s0.scalars [f.a] = some ([a], s1) → s1.room f.d = true →
    exec (.addi h f) s = .next ((s1.put h f.d (some (a + BitVec.ofInt 64 f.imm.toInt)) false).retired (.addi h f) (s.nextPc (.addi h f)))) ∧
  (∀ f : FLI, s.entered (.ldi h f) = some s0 → s0.room f.d = true →
    exec (.ldi h f) s = .next ((s0.put h f.d (some (if f.fn.getLsbD 0 then BitVec.ofNat 64 f.imm.toNat else BitVec.ofInt 64 f.imm.toInt))
      false).retired (.ldi h f) (s.nextPc (.ldi h f)))) ∧
  (∀ f : FLI, s.entered (.ldih h f) = some s0 → s0.room f.d = true →
    exec (.ldih h f) s = .next ((s0.put h f.d (some (BitVec.ofNat 64 (f.imm.toNat * 2 ^ 32))) false).retired (.ldih h f)
      (s.nextPc (.ldih h f))))

/-- R71: BR and CALL go to PC + 8 × sext(OFS, 32); BRC goes there when its predicate XOR NEG is 1 and falls through otherwise; CALL pushes
the address of the next instruction; RET goes to the popped address when it is a multiple of 8. -/
def Obligations.BranchesAndCalls : Prop := ∀ (h : Hdr) (f : FBR) (s s0 s1 : State) (t : Stream) (a : Word), s.lane = some t →
  let target := t.pc + BitVec.ofInt 64 (8 * f.ofs.toInt)
  (s.entered (.br h f) = some s0 → exec (.br h f) s = .next (s0.retired (.br h f) target)) ∧
  (s.entered (.brc h f) = some s0 →
    exec (.brc h f) s = .next (s0.retired (.brc h f) (if xor (s0.pred f.x) (f.fn.getLsbD 0) then target else s.nextPc (.brc h f)))) ∧
  (s.entered (.call h f) = some s0 → s0.room f.x = true →
    exec (.call h f) s = .next ((s0.put h f.x (some (t.pc + 8)) false).retired (.call h f) target)) ∧
  (s.entered (.ret h f) = some s0 → s0.scalars [f.x] = some ([a], s1) → a.toNat % 8 = 0 →
    exec (.ret h f) s = .next (s1.retired (.ret h f) a))

/-! ### Loops, coordinates and queues (R32, R72 to R79, R109) -/

/-- R74, as log 74 reads it (DESIGN CHOICE: an instruction outside the body's addresses that the stream reaches while the loop runs counts as
in the loop's body): stage n of a loop of T source iterations is active in kernel iteration k when n ≤ k and k − n < T (for a loop that no soft stop has
reopened), and the innermost running loop alone decides; an instruction whose stage is inactive is skipped: it reads, pops, pushes and
reserves nothing, moves no token, and leaves the program counter at the next instruction; no memory, other stream's register or queue
changes. -/
def Obligations.InactiveStageIsSkipped : Prop :=
  (∀ (lp : Loop) (k n : Nat), lp.f = 0 → (lp.active k n = true ↔ n ≤ k ∧ k - n < lp.t)) ∧
  (∀ (t : Stream) (l : Fin 5) (lp : Loop) (n : Nat), t.loops.get l = some lp → (∀ m : Fin 5, m < l → t.loops.get m = none) →
    t.skips n = !lp.active (Coord.ix t.coord l) n) ∧
  (∀ (i : Instr) (e : Enc) (s : State) (j : Job), i.enc = some e → s.own = some j → s.skipped i = true →
    ∃ k : Job, exec i s = .next (s.setJob s.cur.1 k) ∧
      k = { j with
        streams := k.streams
        seq := j.seq + 1 } ∧
      (∀ st : StreamId, st ≠ s.cur.2 → k.stream st = { j.stream st with tried := false }) ∧
      (let a := j.stream s.cur.2
       let b := k.stream s.cur.2
       b = { a with
         pc := s.nextPc i
         cause := 0
         last := b.last
         adv := b.adv
         tried := false }))

/-- R32: an advance at a level below its end adds 1 to it, clears the levels below and leaves the levels above. -/
def Obligations.AdvanceCoordinate : Prop := ∀ (c : Coord) (n : Nat), n < 5 → Coord.ix c n + 1 < 2 ^ levelWidth n →
  (advanceAt c n).2 = none ∧ Coord.ix (advanceAt c n).1 n = Coord.ix c n + 1 ∧
    (∀ m, m < n → Coord.ix (advanceAt c n).1 m = 0) ∧ (∀ m, n < m → m < 5 → Coord.ix (advanceAt c n).1 m = Coord.ix c m) ∧
    c < (advanceAt c n).1

/-- R72: LOOP with K = 0 goes to its end; with K > 0 it opens its loop at the level, goes to its start, and leaves the coordinate. The trip
count is the TRIP field or the popped word. Stated for a stream that no soft stop has resumed. -/
def Obligations.LoopOpens : Prop := ∀ (h : Hdr) (f : FLP) (s s0 s1 : State) (j : Job) (v : Word), s.entered (.loop h f) = some s0 →
  (if f.tsrc then s0.scalars [f.trip.setWidth 7] = some ([v], s1) else v = BitVec.ofNat 64 f.trip.toNat ∧ s1 = s0) →
  s1.own = some j →
  let t := j.stream s.cur.2
  let lvl := f.level.toNat
  let stages := f.nst.toNat + 1
  let endo := t.pc + BitVec.ofNat 64 (8 * f.endo.toNat)
  (∀ l : Fin 5, l.val ≤ lvl → t.loops.get l = none) → (∀ m, m ≤ lvl → Coord.ix t.coord m = 0) → t.reopen = none →
    (v.toNat = 0 → exec (.loop h f) s = .next (s1.retired (.loop h f) endo)) ∧
    (v.toNat ≠ 0 → exec (.loop h f) s = .next (((s1.onLane (fun t => { t with loops := t.loops.set (fin5 lvl) (some
        { t := v.toNat, s := stages, k := v.toNat + stages - 1, f := 0, start := t.pc + 8, endo := endo, at_ := t.pc, num := j.seq }) })).trace
      s.cur.1 3 s.cur.2 0 (some t.coord) h.stage.toNat j.seq (BitVec.ofNat 64 (v.toNat + stages - 1))).retired (.loop h f) (t.pc + 8)))

/-- R76, R77: SETC to the current coordinate does nothing; to a greater one, and ADVC, leave the stream waiting to make one advance; GETC
pushes a level or the coordinate word; GETFR pushes FRONT. -/
def Obligations.Coordinates : Prop := ∀ (h : Hdr) (s s0 s1 : State) (j : Job) (w : Word), s0.own = some j →
  let t := j.stream s.cur.2
  let waits (u : State) (c : Coord) : State := u.onLane (fun t => { t with adv := some { target := c, loop := none, tooFar := none } })
  (∀ f : FCI, s.entered (.setcImmediate h f) = some s0 →
    (wordCoord f.cw = t.coord → exec (.setcImmediate h f) s = .next (s0.retired (.setcImmediate h f) (s.nextPc (.setcImmediate h f)))) ∧
    (t.coord < wordCoord f.cw → t.loopUpTo (highestChanged t.coord (wordCoord f.cw)) = false →
      exec (.setcImmediate h f) s = .next ((waits s0 (wordCoord f.cw)).retired (.setcImmediate h f) (s.nextPc (.setcImmediate h f))))) ∧
  (∀ f : FRR, s.entered (.setcRegister h f) = some s0 → s0.scalars [f.a] = some ([w], s1) → w.getLsbD 63 = true → w.getLsbD 62 = false →
    (wordCoord w = t.coord → exec (.setcRegister h f) s = .next (s1.retired (.setcRegister h f) (s.nextPc (.setcRegister h f)))) ∧
    (t.coord < wordCoord w → t.loopUpTo (highestChanged t.coord (wordCoord w)) = false →
      exec (.setcRegister h f) s = .next ((waits s1 (wordCoord w)).retired (.setcRegister h f) (s.nextPc (.setcRegister h f))))) ∧
  (∀ f : FRR, s.entered (.advc h f) = some s0 → t.loopUpTo f.fn.toNat = false → Coord.ix t.coord f.fn.toNat + 1 ≠ 2 ^ levelWidth f.fn.toNat →
    exec (.advc h f) s = .next ((waits s0 (advanceAt t.coord f.fn.toNat).1).retired (.advc h f) (s.nextPc (.advc h f)))) ∧
  (∀ f : FRR, s.entered (.getc h f) = some s0 → s0.room f.d = true →
    exec (.getc h f) s = .next ((s0.put h f.d (some (if f.fn.toNat < 5 then BitVec.ofNat 64 (Coord.ix t.coord f.fn.toNat)
      else BitVec.ofNat 64 (2 ^ 63 + t.coord.toNat))) false).retired (.getc h f) (s.nextPc (.getc h f)))) ∧
  (∀ f : FRR, s.entered (.getfr h f) = some s0 → s0.live = true → s0.room f.d = true →
    exec (.getfr h f) s = .next ((s0.arrived h f.d 1 (optCoordWord j.front)).retired (.getfr h f) (s.nextPc (.getfr h f))))

/-- R75: LCLAMP issues a clamp of the job at the level; with TGT the supervisor clamps every job that the handle names in its partition. -/
def Obligations.ClampIsIssued : Prop := ∀ (h : Hdr) (f : FLP) (s s0 s1 : State) (j : Job) (w : Word), s.entered (.lclamp h f) = some s0 →
  (if f.tsrc then s0.scalars [f.trip.setWidth 7] = some ([w], s1) else s1 = s0) → s1.own = some j →
  let limit := if f.tsrc then w.toNat % 2 ^ 16 else f.trip.toNat
  let mine : Clamp := { core := s.cur.1, handle := j.handle, level := fin5 f.level.toNat, limit := limit, arm := false }
  let hd : Handle := BitVec.ofNat 32 (w.toNat / 2 ^ 16)
  ((f.tsrc = false ∨ (w.getLsbD 63 = false ∧ w.toNat / 2 ^ 48 = 0)) →
    exec (.lclamp h f) s = .next (State.retired { s1 with clamps := s1.clamps ++ [mine] } (.lclamp h f) (s.nextPc (.lclamp h f)))) ∧
  (f.tsrc = true → w.toNat / 2 ^ 48 = 2 ^ 15 → s1.isSup = true → s1.partOfHandle hd = some j.part →
    exec (.lclamp h f) s = .next (State.retired { s1 with clamps := s1.clamps ++ (s1.coresOf hd).map (fun k =>
      { core := k, handle := hd, level := fin5 f.level.toNat, limit := limit, arm := true }) } (.lclamp h f) (s.nextPc (.lclamp h f))))

/-- R78: TOK has major 0x0D, minor 0x00, format RR, every specifier none and FN 0, and without marks the word 0x34; it performs the token pops
and pushes of its header, and nothing else. -/
def Obligations.TokMovesTokensOnly : Prop := ∀ (h : Hdr) (f : FRR),
  (Instr.tok h f).enc = some ⟨0x0D, 0x00, h, .rr f⟩ ∧ ((Instr.tok h f).wf = true ↔ f = ⟨0, 0, 0, 0, 0⟩) ∧
  encode (.tok ⟨0, false, false, false, false⟩ ⟨0, 0, 0, 0, 0⟩) = some 0x0000000000000034 ∧
  ∀ (s s0 : State), s.entered (.tok h f) = some s0 → exec (.tok h f) s = .next (s0.retired (.tok h f) (s.nextPc (.tok h f)))

/-- R79, R109: QDROP and QCLR discard entries, QDEPTH pushes the depth, and BIND binds one of s0 to s30, while it is empty, to a free
channel. -/
def Obligations.QueueManagement : Prop := ∀ (h : Hdr) (f : FRR) (s s0 s1 : State) (j : Job), s0.own = some j →
  let t := j.stream s.cur.2
  let depth (x : Spec) : Nat := match Spec.reg x with
    | some r => (t.regs.get r).items.length
    | none => 0
  (s.entered (.qdrop h f) = some s0 → s0.drops f.a f.fn.toNat = some s1 →
    exec (.qdrop h f) s = .next (s1.retired (.qdrop h f) (s.nextPc (.qdrop h f)))) ∧
  (s.entered (.qclr h f) = some s0 → s0.drops f.a (depth f.a) = some s1 →
    exec (.qclr h f) s = .next (s1.retired (.qclr h f) (s.nextPc (.qclr h f)))) ∧
  (s.entered (.qdepth h f) = some s0 → s0.room f.d = true → s0.live = true →
    exec (.qdepth h f) s = .next ((if (Spec.reg f.a).any (fun r => (j.bound s.cur.2 r).isSome) then s0.arrived h f.d 6 (BitVec.ofNat 64 (depth f.a))
      else s0.put h f.d (some (BitVec.ofNat 64 (depth f.a))) false).retired (.qdepth h f) (s.nextPc (.qdepth h f)))) ∧
  (s.entered (.bind h f) = some s0 → ∀ r, Spec.reg f.d = some r → (t.regs.get r).items = [] → j.bound s.cur.2 r = none →
    j.bindings.any (fun b => decide (b.ch = fin8 f.fn.toNat) && j.bindingLive b) = false →
    let new : Binding := ⟨j.seq, fin8 f.fn.toNat, s.cur.2, r, ⟨t.coord, h.stage⟩, none⟩
    exec (.bind h f) s = .next ((s0.onOwn (fun j => { j with bindings := j.bindings ++ [new] })).retired (.bind h f) (s.nextPc (.bind h f))))

/-- R83: TRAP raises the cause of its immediate with the popped value as information word: the job's trap is taken at the instruction's
stamp, and nothing of the instruction's own retires.
R89, R133, R134: a trap names the cut before its stamp: it starts the job's landing, or replaces one at a higher cut, whose request stays
pending when it is one that lasts.
R63: every instruction traps with 0x01 at an ill-formed field or a stage that no loop has, after that with 0x02 in a stream that may not
run it, and after that with 0x13 when it is the supervisor's; R21, R36: a two-source instruction traps with 0x03 when its first source is an
empty unbound register, with 0x06 when the head entry is stamped above the stream, and with 0x04 when its destination holds four entries;
R32, R35: ADVC at the end of a level, and SETC to a lesser coordinate, trap with 0x05; R71: RET traps with 0x09 at a target that is no
multiple of 8. -/
def Obligations.TrapIsTaken : Prop :=
  (∀ (i : Instr) (e : Enc) (s : State) (j : Job), i.enc = some e → s.own = some j → j.mayIssue s.cur.2 = true →
    let t := j.stream s.cur.2
    ((i.wf = false ∨ t.stageOk e.h.stage.toNat = false) → traps i s s 0x01 i.firstWord) ∧
    (i.wf = true → t.stageOk e.h.stage.toNat = true →
      ((encStreams e).contains s.cur.2 = false → traps i s s 0x02 i.firstWord) ∧
      ((encStreams e).contains s.cur.2 = true → supOnly e = true → s.isSup = false → traps i s s 0x13 i.firstWord))) ∧
  (∀ (i : Instr) (h : Hdr) (f : FRR) (g : Word → Word → Word), alu2 i = some (h, f, g) →
    ∀ (s s0 s1 : State) (j : Job) (r : Fin 31), s.entered i = some s0 →
    (s0.own = some j → Spec.reg f.a = some r →
      (((j.stream s.cur.2).regs.get r).items = [] → j.bound s.cur.2 r = none → traps i s s0 0x03 (specInfo f.a)) ∧
      (∀ (e : QEntry Word) (l : List (QEntry Word)) (v : Word), ((j.stream s.cur.2).regs.get r).items = e :: l → e.val = some v →
        (j.stream s.cur.2).coord < e.stamp.coord → traps i s s0 0x06 (coordWord e.stamp.coord))) ∧
    (∀ a b : Word, s0.scalars [f.a, f.b] = some ([a, b], s1) → s1.own = some j → Spec.reg f.d = some r →
      4 ≤ ((j.stream s.cur.2).regs.get r).items.length → traps i s s1 0x04 (specInfo f.d))) ∧
  (∀ (h : Hdr) (s s0 s1 : State) (t : Stream), s0.lane = some t →
    (∀ f : FRR, s.entered (.advc h f) = some s0 → t.loopUpTo f.fn.toNat = false → Coord.ix t.coord f.fn.toNat + 1 = 2 ^ levelWidth f.fn.toNat →
      traps (.advc h f) s s0 0x05 (coordWord (BitVec.ofNat 62
        (t.coord.toNat / 2 ^ levelLo f.fn.toNat * 2 ^ levelLo f.fn.toNat + 2 ^ levelLo f.fn.toNat)))) ∧
    (∀ f : FCI, s.entered (.setcImmediate h f) = some s0 → wordCoord f.cw < t.coord →
      traps (.setcImmediate h f) s s0 0x05 (coordWord (wordCoord f.cw))) ∧
    (∀ (f : FBR) (a : Word), s.entered (.ret h f) = some s0 → s0.scalars [f.x] = some ([a], s1) → a.toNat % 8 ≠ 0 →
      traps (.ret h f) s s1 0x09 a)) ∧
  (∀ (h : Hdr) (f : FRI) (s s0 s1 : State) (v : Word), s.entered (.trap h f) = some s0 →
    s0.scalars [f.a] = some ([v], s1) →
      exec (.trap h f) s = .next (s1.raise s.cur.1 { cause := BitVec.ofNat 8 f.imm.toNat, org := s.origin h, unit := 0, reason := 0, info := v, va := 0 })) ∧
  (∀ (j : Job) (t : TrapRec),
    let taken : Job := { j with landing := some ⟨t.org.stamp.coord.toNat, .trap t⟩ }
    (j.landing = none → j.takeTrap t = taken) ∧
    (∀ l, j.landing = some l → t.org.stamp.coord.toNat < l.bound →
      ((∀ r k c x, l.why ≠ .request r k c x) → j.takeTrap t = taken) ∧
      (∀ r k c x, l.why = .request r k c x → r.lasts = true → j.stop = none → j.takeTrap t = { taken with stop := some r })))


/-- R86, R88, R89, R95: YIELD and BKPT place their request at the current coordinate, the latter marked BRK with its tag; STOPAT with VALID = 1
places a request on the issuing job, which its register form with VALID = 0 cancels; the supervisor's reaches the job that the handle names.
That a handle word of 0 in any register and the issuing job's own handle name the issuing core's job alone is the model's choice (log 71). -/
def Obligations.StopRequests : Prop := ∀ (h : Hdr) (s s0 s1 : State) (j : Job) (w b : Word), s0.own = some j → s0.cur = s.cur →
  let t := j.stream s.cur.2
  let req (c : Coord) (brk : Bool) (kind : BitVec 4) (tag : BitVec 5) : StopReq :=
    { coord := c, brk := brk, kind := kind, origin := 0, st := s.cur.2, unit := 0, stage := h.stage, tag := tag, pc := t.pc, soft := none }
  let asked (u : State) (w : Word) : State := if w.getLsbD 63 then u.placed (req (wordCoord w) false 1 0) else u.onOwn (fun j => { j with stop := none })
  (∀ f : FRR, s.entered (.yield h f) = some s0 →
    exec (.yield h f) s = .next ((s0.placed (req t.coord false 8 0)).retired (.yield h f) (s.nextPc (.yield h f)))) ∧
  (∀ f : FRR, s.entered (.bkpt h f) = some s0 →
    exec (.bkpt h f) s = .next ((s0.placed (req t.coord true 5 f.fn)).retired (.bkpt h f) (s.nextPc (.bkpt h f)))) ∧
  (∀ f : FCI, s.entered (.stopatImmediate h f) = some s0 →
    exec (.stopatImmediate h f) s = .next ((s0.placed (req (wordCoord f.cw) false 1 0)).retired (.stopatImmediate h f)
      (s.nextPc (.stopatImmediate h f)))) ∧
  (∀ f : FRR, s.entered (.stopatRegister h f) = some s0 → s0.scalars [f.a, f.b] = some ([w, b], s1) → (w.getLsbD 63 && w.getLsbD 62) = false →
    (b.setWidth 32 = 0 ∨ b.setWidth 32 = j.handle →
      exec (.stopatRegister h f) s = .next ((asked s1 w).retired (.stopatRegister h f) (s.nextPc (.stopatRegister h f)))) ∧
    (b.setWidth 32 ≠ (0 : Handle) → b.setWidth 32 ≠ j.handle → s1.isSup = true → s1.partOfHandle (b.setWidth 32) = some j.part →
      exec (.stopatRegister h f) s = .next (((s1.coresOf (b.setWidth 32)).foldl (fun u c => u.stopAt c (b.setWidth 32) w
        { coord := wordCoord w, brk := false, kind := 1, origin := 2, st := .c, unit := 5, stage := h.stage, tag := 0, pc := 0, soft := none }) s1).retired
        (.stopatRegister h f) (s.nextPc (.stopatRegister h f)))))

namespace Sys2Proof.Claims

/-- The rows of SWR, one constructor for each register that the opcode table names apart (R80). -/
def swrs : Instr → Option (Hdr × FRR)
  | .swr h f | .swrStopat h f | .swrEvmask h f | .swrRmode h f | .swrSrseed h f | .swrMseed h f | .swrTraprec h f | .swrEmap h f
  | .swrEgcfg h f | .swrCkpair h f => some (h, f)
  | _ => none
/-- The restored registers that SWR changes at once (R82): RMODE, FZCTL, SRSEED, MCONST and MSTAT by their numbers of R81. -/
def restored : Nat → Option RReg
  | 0 => some .rmode
  | 1 => some .fzctl
  | 2 => some .srseed
  | 4 => some .mconst
  | 5 => some .mstat
  | _ => none
/-- The registers whose writes are held (R82, R131): TRAPREC 0, TOFS, TSCL, EGCFG, EMAP, CKPAIR, CKSEAL, TVEC and EVMASK. -/
def heldReg (fn idx : Nat) : Bool := ([17, 18, 19, 21, 22, 23, 25, 26] : List Nat).contains fn || decide (fn = 13 ∧ idx = 0)

/-- The state after a wait of k units on a semaphore of the core's cluster has been served at once (R135, R252). -/
def unitsTaken (s : State) (e : SemEntry) (k : Nat) : State :=
  let m := s.sem (clusterOf s.cur.1) e.phys
  let x := takeUnits k m.units
  (s.setSem (clusterOf s.cur.1) e.phys { m with units := x.2 }).onOwn (fun j =>
    { j with semTaken := j.semTaken ++ [⟨e.phys, x.1.map (fun u => (u.n, u.owner)), (j.stream s.cur.2).coord⟩] })
/-- A wait of k units is served at once: no waiter is ahead, the count suffices, and no unit of a private semaphore is stamped above the
stream (R36, R252). -/
def unitsReady (s : State) (t : Stream) (e : SemEntry) (k : Nat) : Bool :=
  let m := s.sem (clusterOf s.cur.1) e.phys
  m.waiters.isEmpty && decide (k ≤ m.count) && (e.shared || (unitAbove (takeUnits k m.units).1 t.coord).isNone)

end Sys2Proof.Claims

/-! ### System registers and the supervisor (R80 to R97, R395) -/

/-- R80, R81: SRD pops the index and pushes the register's value, as a recorded arrival.
R81: what SRD shows of FRONT, FTIME, RMODE, FZCTL, the job's TRAPREC and, to a job that is not the supervisor, GTIME. -/
def Obligations.SystemRegisterRead : Prop :=
  (∀ (h : Hdr) (f : FRR) (s s0 s1 : State) (j : Job) (x : Word), s.entered (.srd h f) = some s0 →
    s0.scalars [f.a] = some ([x], s1) → f.fn.toNat ≤ 26 → x.toNat ≤ sysIndexMax f.fn.toNat → s1.own = some j → s1.live = true → s1.room f.d = true →
      exec (.srd h f) s = .next ((s1.arrived h f.d 1 (s1.sysReg j f.fn.toNat x.toNat)).retired (.srd h f) (s.nextPc (.srd h f)))) ∧
  (∀ (s : State) (j : Job) (p : Partition) (n : Nat),
    s.sysReg j 8 0 = optCoordWord j.front ∧ s.sysReg j 15 0 = s.ftime ∧ s.sysReg j 0 0 = j.rreg .rmode ∧ s.sysReg j 1 0 = j.rreg .fzctl ∧
    (s.part j.part = some p → j.held = [] →
      s.sysReg j 16 0 = p.tofs + BitVec.ofNat 64 (s.ftime.toNat * p.tscl.toNat / 2 ^ 32) ∧
      (n < 4 → s.isSup = false → s.sysReg j 13 n = (j.traprec.toList.getD n 0))))


/-- R80 to R82, R123, R235: SWR pops the index and the value; a restored register changes at once, MSEED joins the matrix engine's queue,
STOPAT places or cancels a request, the supervisor's registers are held, and the others ignore the write. -/
def Obligations.SystemRegisterWrite : Prop := ∀ (i : Instr) (h : Hdr) (f : FRR), swrs i = some (h, f) →
  ∀ (s s0 s1 : State) (j : Job) (x v : Word), s.entered i = some s0 → s0.scalars [f.a, f.b] = some ([x, v], s1) →
  f.fn.toNat ≤ 26 → x.toNat ≤ sysIndexMax f.fn.toNat → s1.own = some j →
  let t := j.stream s.cur.2
  let fn := f.fn.toNat
  let req : StopReq := { coord := wordCoord v, brk := v.getLsbD 62, kind := if v.getLsbD 62 then 5 else 1, origin := 1, st := s.cur.2, unit := 0,
                         stage := h.stage, tag := 0, pc := t.pc, soft := none }
  (∀ r, restored fn = some r → exec i s = .next ((s1.onOwn (fun j => j.rchange t.coord r (.write v))).retired i (s.nextPc i))) ∧
  (fn = 3 → s1.queueRoom .me = true → exec i s = .next ((s1.queueing .me h (.mseed v)).retired i (s.nextPc i))) ∧
  (fn = 9 → exec i s = .next ((if v.getLsbD 63 then s1.placed req else s1.onOwn (fun j => { j with stop := none })).retired i (s.nextPc i))) ∧
  (heldReg fn x.toNat = true → j.replay.replaying = false →
    exec i s = .next ((s1.holding h (.swr f.fn x v)).retired i (s.nextPc i))) ∧
  (restored fn = none → fn ≠ 3 → fn ≠ 9 → heldReg fn x.toNat = false → exec i s = .next (s1.retired i (s.nextPc i)))

/-- R84, R85: ERET goes to the saved address with delivery enabled; WAITEV takes the next enabled event, or pushes 0 with NB when there is
none. -/
def Obligations.EventReturnAndWait : Prop := ∀ (h : Hdr) (f : FRR) (s s0 : State) (j : Job) (p : Partition), s0.own = some j →
  s0.part j.part = some p →
  let t := j.stream s.cur.2
  (s.entered (.eret h f) = some s0 → p.inEntry = true →
    exec (.eret h f) s = .next ((s0.setPart j.part { p with delivery := true, inEntry := false }).retired (.eret h f) p.savedPc)) ∧
  (s.entered (.waitev h f) = some s0 → s0.room f.d = true →
    (∀ ev, p.nextEvent = some ev →
      let taken : EvTaken := ⟨t.coord, ev.word, (match ev with
        | .entry n e => some (e, n)
        | _ => none), p.shownRec⟩
      exec (.waitev h f) s = .next ((((s0.put h f.d (some ev.word) false).setPart j.part (p.clearEvent ev)).onOwn (fun j =>
        { j with evTaken := j.evTaken ++ [taken] })).retired (.waitev h f) (s.nextPc (.waitev h f)))) ∧
    (p.nextEvent = none → f.fn.getLsbD 0 = true →
      exec (.waitev h f) s = .next ((s0.put h f.d (some 0) false).retired (.waitev h f) (s.nextPc (.waitev h f)))))

/-- R90, R139, R297, R344: RESUME is major 0x11, minor 0x03 in format RR; it acts on every core of the named launch of the own partition and
pushes 2 where there is no such launch, 1 where no job of it is STOPPED or SAVED, and 0 where one was: a job STOPPED on its core continues
from its landed cut and runs, unless a hard pre-emption has still to save it, and a SAVED one is WAITING again at its base level. That a job
that goes on leaves a save that the supervisor has commanded is the model's choice (log 91). -/
def Obligations.ResumePushesStatus : Prop := ∀ (h : Hdr) (f : FRR),
  (Instr.resume h f).enc = some ⟨0x11, 0x03, h, .rr f⟩ ∧
  ∀ (s s0 s1 : State) (j : Job) (v : Word), s.entered (.resume h f) = some s0 → s0.scalars [f.a] = some ([v], s1) → s1.own = some j →
    s1.room f.d = true →
    let hd : Handle := v.setWidth 32
    let answers (u : State) (n : Word) : Prop := exec (.resume h f) s = .next ((u.put h f.d (some n) false).retired (.resume h f) (s.nextPc (.resume h f)))
    (s1.jobs.find? (fun g => g.handle = hd) = none → answers s1 2) ∧
    (∀ g, s1.jobs.find? (fun g => g.handle = hd) = some g → g.part = j.part → s.cur.1 ∉ g.cores →
      answers (s1.resumeLaunch hd).1 (s1.resumeLaunch hd).2 ∧
      ((∀ c ∈ g.cores, ∀ (i : Fin 8) (q : JobSlot), (s1.core c).slots.get i = some q → q.handle = hd → q.state ≠ .stopped ∧ q.state ≠ .saved) →
        answers s1 1) ∧
      (∀ (c : CoreId) (i : Fin 8) (q : JobSlot), g.cores = [c] → (s1.core c).slots.get i = some q → q.handle = hd →
        (∀ (n : Fin 8) (x : JobSlot), (s1.core c).slots.get n = some x → x.handle = hd → n = i) →
        (q.state = .stopped → (s1.core c).on = some i →
          s1.savePending c hd = false →
          answers ((((s1.unsaved c hd).onJob c Job.continueFrom).setJState c .running).markLanding c) 0) ∧
        (q.state = .saved →
          answers (s1.setSlot c i (some { q with state := .waiting, cur := q.base, entryTime := s1.ftime })) 0)))

/-- R94: MBOX copies the mailbox's oldest message to 64 aligned bytes of the own scratchpad, removes it provisionally and pushes 2^63 plus
the number of messages left, once C's earlier accesses to the core's pool have been performed (R377); from an empty mailbox with NB it pushes
0. -/
def Obligations.MailboxMessage : Prop := ∀ (h : Hdr) (f : FRR) (s s0 s1 s2 s3 : State) (j : Job) (p : Partition) (n b : Word) (off : Nat),
  s.entered (.mbox h f) = some s0 → s0.scalars [f.a, f.b] = some ([n, b], s1) → s1.own = some j → n.toNat < 16 → b.toNat % 64 = 0 →
  ownScratch (s1.who s.cur.1 j) b.toNat 64 = some off → s1.part j.part = some p →
  let box := p.mailboxes.get ⟨n.toNat % 16, Nat.mod_lt _ (by decide)⟩
  let t := j.stream s.cur.2
  (box = [] → f.fn.getLsbD 0 = true → s1.room f.d = true →
    exec (.mbox h f) s = .next ((s1.put h f.d (some 0) false).retired (.mbox h f) (s.nextPc (.mbox h f)))) ∧
  (∀ msg rest, box = msg :: rest → s1.ownPoolOps (s1.who s.cur.1 j) j = false → Runs (writePool h s.cur.1 off (msg.take 32) false) s1 () s2 →
    Runs (writePool h s.cur.1 (off + 32) (msg.drop 32) false) s2 () s3 →
    let u := (s3.setPart j.part { p with
      mailboxes := p.mailboxes.set (n.toNat % 16) rest (Nat.mod_lt _ (by decide))
      mbxTaken := p.mbxTaken ++ [(n.toNat % 16, msg, t.coord)] }).holding h (.mbox (n.toNat % 16))
    u.room f.d = true →
    exec (.mbox h f) s = .next ((u.put h f.d (some (BitVec.ofNat 64 (2 ^ 63 + rest.length))) false).retired (.mbox h f) (s.nextPc (.mbox h f))))

/-- R87, R320: FENCE completes once no effect of its stream that is not held back is pending at its scope; from team scope on its number is
kept, so that the effects held back keep its order when they are released: those of the job's other streams too, which is the model's choice
(log 86).
R91, R343: SPAWN pops the descriptor's address and the token, reserves its status entry, which cannot be read at SPAWN's own coordinate, and
holds the launch; that a recording job keeps the place of the record at SPAWN's issue is the model's choice (log 87).
R93: RDV ends its stream with its loops closed, after which the frontier moves as far as it may (R37). -/
def Obligations.FenceSpawnRdv : Prop := ∀ (h : Hdr) (f : FRR) (s s0 s1 : State) (j : Job) (a b : Word),
  (s.entered (.fence h f) = some s0 → s0.own = some j → s0.fencePending s.cur.1 j s.cur.2 f.fn.toNat = false →
    let kept (t : Stream) : Stream := { t with fences := s0.fencesKept s.cur.1 j s.cur.2 ++ [(j.seq, f.fn.toNat)] }
    exec (.fence h f) s = .next ((if f.fn.toNat < 3 then s0 else s0.onLane kept).retired (.fence h f) (s.nextPc (.fence h f)))) ∧
  (s.entered (.spawn h f) = some s0 → s0.scalars [f.a, f.b] = some ([a, b], s1) → s1.own = some j → a.toNat % 64 = 0 →
    s1.live = true → s1.room f.d = true →
    exec (.spawn h f) s = .next ((((s1.keeping h 7).put h f.d none true).holding h (.spawn (f.fn.setWidth 2) a b)).retired (.spawn h f) (s.nextPc (.spawn h f)))) ∧
  (s.entered (.rdv h f) = some s0 →
    exec (.rdv h f) s = .next (((s0.onLane (fun t => { t with phase := .rdv, loops := Vector.replicate 5 none, adv := none })).retired (.rdv h f)
      (s.nextPc (.rdv h f))).settleFront s.cur.1))

/-- R395, R396: SNAP fires the partition's trigger, or joins a capture that is not 256 cycles past, whose time its header shows; TMARK puts
the popped value into a record of kind 1. -/
def Obligations.DebugMarks : Prop := ∀ (h : Hdr) (f : FRR) (s s0 s1 : State) (j : Job) (p : Partition) (v : Word),
  (s.entered (.snap h f) = some s0 → s0.own = some j → s0.part j.part = some p →
    let new : Trigger := ⟨f.fn, s0.ftime + 64, some (s.cur.1, j.handle, s0.origin h), p.cores, false⟩
    let fires : Prop := exec (.snap h f) s = .next ((s0.setPart j.part { p with trigger := some new }).retired (.snap h f) (s.nextPc (.snap h f)))
    (p.trigger = none → fires) ∧
    (∀ g, p.trigger = some g → g.time.toNat + 256 < s0.ftime.toNat → fires) ∧
    (∀ g, p.trigger = some g → s0.ftime.toNat ≤ g.time.toNat + 256 →
      exec (.snap h f) s = .next ((s0.trace s.cur.1 2 s.cur.2 f.fn.toNat (some (j.stream s.cur.2).coord) h.stage.toNat j.seq g.time).retired
        (.snap h f) (s.nextPc (.snap h f))))) ∧
  (s.entered (.tmark h f) = some s0 → s0.scalars [f.a] = some ([v], s1) → s1.own = some j →
    exec (.tmark h f) s = .next ((s1.trace s.cur.1 1 s.cur.2 f.fn.toNat (some (j.stream s.cur.2).coord) h.stage.toNat j.seq v).retired
      (.tmark h f) (s.nextPc (.tmark h f))))

/-! ### Semaphores, barriers, supersteps (R250 to R253, R266, R307 to R312) -/

/-- R252, R253: SEMW and SEMWT of 0 units, of units that are there with no waiter ahead, and after their wait has been served; SEMWT pushes
1, or 3 in the cycle of its deadline, and 0 when the deadline has passed; SEMS signals a private semaphore at once and holds the signal of
a shared one. -/
def Obligations.SemaphoreUse : Prop := ∀ (h : Hdr) (f : FRR) (s s0 s1 : State) (j : Job) (n d : Word) (e : SemEntry), s1.own = some j →
  s1.semEntry s.cur.1 j f.fn = some e → j.replay.replaying = false →
  let t := j.stream s.cur.2
  let k := n.toNat % 2 ^ 32
  let idle (u : State) : State := u.onLane (fun t => { t with wait := .none })
  let now : Word := if d = s1.ftime then 3 else 1
  (s.entered (.semw h f) = some s0 → s0.scalars [f.a] = some ([n], s1) →
    (t.wait = .none → k = 0 → exec (.semw h f) s = .next (s1.retired (.semw h f) (s.nextPc (.semw h f)))) ∧
    (t.wait = .none → k ≠ 0 → unitsReady s1 t e k = true →
      exec (.semw h f) s = .next ((unitsTaken s1 e k).retired (.semw h f) (s.nextPc (.semw h f)))) ∧
    (∀ st, t.wait = .semServed st → exec (.semw h f) s = .next ((idle s1).retired (.semw h f) (s.nextPc (.semw h f))))) ∧
  (s.entered (.semwt h f) = some s0 → s0.scalars [f.a, f.b] = some ([n, d], s1) → s1.live = true → s1.room f.d = true →
    (t.wait = .none → k = 0 → exec (.semwt h f) s = .next ((s1.arrived h f.d 5 now).retired (.semwt h f) (s.nextPc (.semwt h f)))) ∧
    (t.wait = .none → k ≠ 0 → unitsReady s1 t e k = true →
      exec (.semwt h f) s = .next (((unitsTaken s1 e k).arrived h f.d 5 now).retired (.semwt h f) (s.nextPc (.semwt h f)))) ∧
    (t.wait = .none → k ≠ 0 → (s1.sem (clusterOf s.cur.1) e.phys).count < k → d < s1.ftime →
      exec (.semwt h f) s = .next ((s1.arrived h f.d 5 0).retired (.semwt h f) (s.nextPc (.semwt h f)))) ∧
    (∀ st, t.wait = .semServed st →
      exec (.semwt h f) s = .next (((idle s1).arrived h f.d 5 (BitVec.ofNat 64 st)).retired (.semwt h f) (s.nextPc (.semwt h f))))) ∧
  (s.entered (.sems h f) = some s0 → s0.scalars [f.a] = some ([n], s1) →
    (k = 0 → exec (.sems h f) s = .next (s1.retired (.sems h f) (s.nextPc (.sems h f)))) ∧
    (k ≠ 0 → e.shared = true → exec (.sems h f) s = .next ((s1.holding h (.sems e.phys k)).retired (.sems h f) (s.nextPc (.sems h f)))) ∧
    (k ≠ 0 → e.shared = false → exec (.sems h f) s = .next ((s1.setSem (clusterOf s.cur.1) e.phys
      ((s1.sem (clusterOf s.cur.1) e.phys).signal k (some (j.handle, s.cur.1, ⟨t.coord, h.stage⟩)))).retired (.sems h f) (s.nextPc (.sems h f)))))

/-- R266, R308, R309, R312: BARR completes when its wait has been served, and with W at once when the phase of its last arrival has passed;
a timed BARR pushes its status; SSTEP pushes the passage's T0 and starts the job's next superstep. The first try of a BARR whose phase has not
passed, and that of an SSTEP whose superstep has not, leave an arrival with the job's arrival number, which rises by 1, and wait. -/
def Obligations.BarrierAndSuperstep : Prop := ∀ (h : Hdr) (f : FRR) (s s0 s1 : State) (j : Job) (d : Word), s1.own = some j →
  j.replay.replaying = false → (f.fn.getLsbD 0 = true → 2 ≤ j.level.toNat) →
  let t := j.stream s.cur.2
  let crew := f.fn.getLsbD 0
  let a := if crew then j.arrCrew else j.arrTeam
  let idle (u : State) : State := u.onLane (fun t => { t with wait := .none })
  (s.entered (.barr h f) = some s0 → f.fn.getLsbD 1 = false → s1 = s0 →
    (∀ st, t.wait = .barrServed st → exec (.barr h f) s = .next ((idle s1).retired (.barr h f) (s.nextPc (.barr h f)))) ∧
    (t.wait = .none → f.fn.getLsbD 2 = true → (a = 0 ∨ a - 1 < s1.phase s.cur.1 j crew) →
      exec (.barr h f) s = .next (s1.retired (.barr h f) (s.nextPc (.barr h f)))) ∧
    (t.wait = .none → f.fn.getLsbD 2 = false → s1.phase s.cur.1 j crew ≤ a →
      ∃ (u : State) (k : Job), exec (.barr h f) s = .next u ∧ u.own = some k ∧ k.arrivals = j.arrivals ++ [⟨s.origin h, crew, false, a⟩] ∧
        (if crew then k.arrCrew = a + 1 ∧ k.arrTeam = j.arrTeam else k.arrTeam = a + 1 ∧ k.arrCrew = j.arrCrew) ∧ k.arrStep = j.arrStep ∧
        (k.stream s.cur.2).wait = .barr crew (some a) none ∧ (k.stream s.cur.2).pc = t.pc)) ∧
  (s.entered (.barr h f) = some s0 → f.fn.getLsbD 1 = true → s0.scalars [f.a] = some ([d], s1) → s1.live = true → s1.room f.d = true →
    (∀ st, t.wait = .barrServed st →
      exec (.barr h f) s = .next (((idle s1).arrived h f.d 5 (BitVec.ofNat 64 st)).retired (.barr h f) (s.nextPc (.barr h f)))) ∧
    (t.wait = .none → f.fn.getLsbD 2 = true → (a = 0 ∨ a - 1 < s1.phase s.cur.1 j crew) →
      exec (.barr h f) s = .next ((s1.arrived h f.d 5 (if d = s1.ftime then 3 else 1)).retired (.barr h f) (s.nextPc (.barr h f))))) ∧
  (s.entered (.sstep h f) = some s0 → s1 = s0 → s1.live = true → s1.room f.d = true →
    (∀ t0, t.wait = .sstepPassed t0 →
      exec (.sstep h f) s = .next ((((idle s1).onOwn (fun j => { j with passages := j.passages ++ [(t.coord, t0)] })).arrived h f.d 8 t0).retired
        (.sstep h f) (s.nextPc (.sstep h f)))) ∧
    (t.wait = .none → (s1.jobs.find? (fun g => g.handle = j.handle)).bind (fun g => g.t0s[j.arrStep]?) = none →
      ∃ (u : State) (k : Job), exec (.sstep h f) s = .next u ∧ u.own = some k ∧ k.arrivals = j.arrivals ++ [⟨s.origin h, false, true, j.arrStep⟩] ∧
        k.arrStep = j.arrStep + 1 ∧ k.arrTeam = j.arrTeam ∧ k.arrCrew = j.arrCrew ∧ (k.stream s.cur.2).wait = .sstep ∧
        (k.stream s.cur.2).pc = t.pc))

/-- R116, R285, R286, R311: SEND holds an aligned block of 32 to 16,384 bytes of a scratchpad; TLBI reserves its completion entry and holds the
invalidation, of one page or of the tenant. -/
def Obligations.SendAndTlbi : Prop := ∀ (h : Hdr) (s s0 s1 : State) (j : Job), s1.own = some j → j.replay.replaying = false →
  (∀ (f : FM) (src ga n dep : Word) (place : CoreId × Nat), s.entered (.send h f) = some s0 →
    s0.scalars [f.d, f.base, f.idx, f.aux] = some ([src, ga, n, dep], s1) → dep.toNat < 2 ^ 32 → 0 < n.toNat → n.toNat ≤ 16384 →
    n.toNat % 32 = 0 → src.toNat % 32 = 0 → ga.toNat % 32 = 0 → s1.scratchRun (s1.who s.cur.1 j) src n.toNat = .ok place →
    exec (.send h f) s = .next ((s1.holding h (.send src ga n.toNat dep.toNat (f.opt.getLsbD 0))).retired (.send h f) (s.nextPc (.send h f)))) ∧
  (∀ (f : FRR) (a : Word), s.entered (.tlbiPage h f) = some s0 → s0.scalars [f.a] = some ([a], s1) → s1.room f.d = true →
    exec (.tlbiPage h f) s = .next (((s1.put h f.d none true).holding h (.tlbi false (f.fn.setWidth 3) a)).retired (.tlbiPage h f)
      (s.nextPc (.tlbiPage h f)))) ∧
  (∀ (f : FRR), s.entered (.tlbiTenant h f) = some s0 → s1 = s0 → s1.room f.d = true →
    exec (.tlbiTenant h f) s = .next (((s1.put h f.d none true).holding h (.tlbi true (f.fn.setWidth 3) 0)).retired (.tlbiTenant h f)
      (s.nextPc (.tlbiTenant h f))))

namespace Sys2Proof.Claims

/-- The single-word atomics of R242 to R244 with their operation and the sub-kind of their record (R400): a third operand or none. -/
def atomics : Instr → Option (Hdr × FM × AOp × Bool × Nat)
  | .aadd h f => some (h, f, if f.ty = 0 then .addF else .addN, false, 2)
  | .axch h f => some (h, f, .xch, false, 2)
  | .acas h f => some (h, f, .cas, true, 2)
  | .aincw h f => some (h, f, .incw, false, 2)
  | .afaddb h f => some (h, f, .faddb, true, 2)
  | .await h f => some (h, f, .await (f.opt.setWidth 2), false, 3)
  | _ => none

end Sys2Proof.Claims

/-! ### Accesses and stores at their issue (R98 to R117, R240 to R247) -/

/-- R103 to R105: LD, RLD, LDT and GATHER reserve their entry, the tile loads in a fed queue, and leave their read pending; RLD sends its
request. -/
def Obligations.LoadsReserveAndPend : Prop := ∀ (h : Hdr) (f : FM) (s s0 s1 : State) (j : Job) (b x p : Word), s1.own = some j →
  j.replay.replaying = false →
  let n := tyBytes f.ty
  let a := b + x * BitVec.ofNat 64 n
  let q : Fin 16 := tileIdx f.d.toNat
  (s.entered (.ld h f) = some s0 → s0.scalars [f.base, f.idx] = some ([b, x], s1) → a.toNat < 2 ^ 56 → a.toNat % n = 0 →
    (inWindow a.toNat = true → ∃ l, s1.window (s1.who s.cur.1 j) .r a.toNat n = .ok l) → s1.room f.d = true →
    exec (.ld h f) s = .next (((s1.put h f.d none false).pending h (.ld a f.ty)).retired (.ld h f) (s.nextPc (.ld h f)))) ∧
  (s.entered (.rld h f) = some s0 → s0.scalars [f.base, f.idx] = some ([b, x], s1) → a.toNat % n = 0 → s1.room f.d = true →
    s1.live = true →
    let u := ((s1.keeping h 4).put h f.d none false).pending h (.rld a f.ty)
    ∀ k, u.own = some k → exec (.rld h f) s = .next ((u.request s.cur.1 k k.seq (u.origin h) a (.read f.ty)).retired (.rld h f) (s.nextPc (.rld h f)))) ∧
  (s.entered (.ldt h f) = some s0 → s0.scalars [f.base, f.idx] = some ([b, x], s1) → b.toNat % 16 = 0 → x.toNat % 16 = 0 → s1.fedRoom f.d = true →
    exec (.ldt h f) s = .next (((s1.putTile h f.d.toNat none).pending h (.ldt b x f.ty q)).retired (.ldt h f) (s.nextPc (.ldt h f)))) ∧
  (s.entered (.gather h f) = some s0 → s0.scalars [f.base, f.idx, f.aux] = some ([b, x, p], s1) → b.toNat % 16 = 0 → x.toNat % 64 = 0 →
    p.toNat % 16 = 0 → s1.fedRoom f.d = true →
    exec (.gather h f) s = .next (((s1.putTile h f.d.toNat none).pending h (.gather b x p f.ty (decide (f.opt = 1)) q)).retired (.gather h f)
      (s.nextPc (.gather h f))))

/-- R106, R107: GEN pushes base + Σ coef[j] × y[j] of its generator; GEN.base and GEN.coef write the popped value. -/
def Obligations.Generators : Prop := ∀ (h : Hdr) (f : FRR) (s s0 s1 : State) (t : Stream) (v x : Word), s0.lane = some t →
  let i := fin8 (f.fn.toNat % 8)
  let g := t.gens.get i
  let y (n : Nat) : Word := BitVec.ofInt 64 (t.sourceIx h.stage.toNat n)
  (s.entered (.gen h f) = some s0 → s0.room f.d = true →
    exec (.gen h f) s = .next ((s0.put h f.d (some (g.base + g.coef.get 0 * y 0 + g.coef.get 1 * y 1 + g.coef.get 2 * y 2 + g.coef.get 3 * y 3 +
      g.coef.get 4 * y 4)) false).retired (.gen h f) (s.nextPc (.gen h f)))) ∧
  (s.entered (.genBase h f) = some s0 → s0.scalars [f.a] = some ([v], s1) →
    exec (.genBase h f) s = .next ((s1.onLane (fun t => { t with gens := t.gens.set i.val { t.gens.get i with base := v } })).retired (.genBase h f)
      (s.nextPc (.genBase h f)))) ∧
  (s.entered (.genCoef h f) = some s0 → s0.scalars [f.a, f.b] = some ([x, v], s1) → x.toNat ≤ 4 →
    exec (.genCoef h f) s = .next ((s1.onLane (fun t =>
      { t with gens := t.gens.set i.val (Gen.mk (t.gens.get i).base ((t.gens.get i).coef.set (fin5 x.toNat).val v)) })).retired (.genCoef h f)
      (s.nextPc (.genCoef h f))))

/-- R108, R110: CPY places a copy of bytes, or to a channel a copy of whole elements of 8 to 64 bits, in the copy engine's queue; the form
with three levels takes its counts and strides from the popped words.
R112: PUB of a page with PUBLISH holds the flip of the page's buffer. The order in which CPY pops its words is the model's reading (log
34). -/
def Obligations.CopiesAndPub : Prop :=
  (∀ (h : Hdr) (s s0 s1 : State) (d b n ds os : Word),
    let lo (w : Word) : Int := (w.setWidth 32).toInt
    let hi (w : Word) : Int := ((w >>> 32).setWidth 32).toInt
    let good (ty : BitVec 5) (g : CopyGeo) : Bool :=
      if d.getLsbD 63 then decide (d.toNat % 2 ^ 63 < 8 ∧ 0x0D ≤ ty.toNat ∧ ty.toNat ≤ 0x14 ∧ g.n0 * 8 % tyWidth ty.toNat = 0) else decide (ty = 0x11)
    let kind (ty : BitVec 5) (g : CopyGeo) : CmdKind := if d.getLsbD 63 then .copyChan g (fin8 (d.toNat % 8)) ty else .copy g
    (∀ f : FM, s.entered (.cpy h f) = some s0 → s0.scalars [f.d, f.base, f.aux] = some ([d, b, n], s1) → n.toNat < 2 ^ 24 →
      let g : CopyGeo := ⟨b, d, n.toNat, 1, 1, 0, 0, 0, 0⟩
      good f.ty g = true → s1.queueRoom .ce = true →
      exec (.cpy h f) s = .next ((s1.queueing .ce h (kind f.ty g)).retired (.cpy h f) (s.nextPc (.cpy h f)))) ∧
    (∀ f : FME, s.entered (.cpyThreeLevels h f) = some s0 → s0.scalars [f.m.d, f.m.base, f.m.aux, f.m.idx, f.e1] = some ([d, b, n, ds, os], s1) →
      let g : CopyGeo := ⟨b, d, n.toNat % 2 ^ 24, n.toNat / 2 ^ 24 % 2 ^ 20, n.toNat / 2 ^ 44, lo ds, hi ds, lo os, hi os⟩
      good f.m.ty g = true → s1.queueRoom .ce = true →
      exec (.cpyThreeLevels h f) s = .next ((s1.queueing .ce h (kind f.m.ty g)).retired (.cpyThreeLevels h f) (s.nextPc (.cpyThreeLevels h f))))) ∧
  (∀ (h : Hdr) (f : FM) (s s0 s1 : State) (j : Job) (a e : Word), s.entered (.pub h f) = some s0 →
    s0.scalars [f.base] = some ([a], s1) → s1.own = some j → s1.leafAt (s1.who s.cur.1 j) a = .ok e → ptPub e = true →
    j.replay.replaying = false →
      exec (.pub h f) s = .next ((s1.holding h (.pub (flipOf e))).retired (.pub h f) (s.nextPc (.pub h f))))


/-- R113 to R116: ST, STT, SCATTER, RST, RSTA and RAT place their command in the store engine's queue; RAT reserves its entry, which cannot be
read at its own coordinate (R247). That a RAT without a third operand does not read AUX is the model's reading (log 70), and pitches are
unsigned in it (log 35). -/
def Obligations.StoresAreQueued : Prop := ∀ (h : Hdr) (f : FM) (s s0 s1 s2 : State) (j : Job) (v b x p : Word) (tile : Tile), s2.own = some j →
  s2.queueRoom .se = true → j.replay.replaying = false →
  let n := tyBytes f.ty
  let a := b + x * BitVec.ofNat 64 n
  let block : Prop := 0 < x.toNat ∧ x.toNat ≤ 16384 ∧ x.toNat % 32 = 0 ∧ v.toNat % 32 = 0 ∧ b.toNat % 32 = 0 ∧ p.toNat % 4 = 0
  let drained : Prop := s0.hasTiles = true ∧ s0.own.any (fun k => k.drained (f.d.toNat % 16)) = true ∧
    s0.tileAt (f.d.toNat % 16) false = some (tile, s1)
  (s.entered (.st h f) = some s0 → s0.scalars [f.d, f.base, f.idx] = some ([v, b, x], s2) → a.toNat < 2 ^ 56 → a.toNat % n = 0 →
    Runs (checkBusy a) s2 () s2 →
    exec (.st h f) s = .next ((s2.queueing .se h (.st a v f.ty)).retired (.st h f) (s.nextPc (.st h f)))) ∧
  (s.entered (.stt h f) = some s0 → drained → s1.scalars [f.base, f.idx] = some ([b, x], s2) → b.toNat % 16 = 0 → x.toNat % 16 = 0 →
    exec (.stt h f) s = .next ((s2.queueing .se h (.stt b x f.ty tile)).retired (.stt h f) (s.nextPc (.stt h f)))) ∧
  (s.entered (.scatter h f) = some s0 → drained → s1.scalars [f.base, f.idx, f.aux] = some ([b, x, p], s2) → b.toNat % 16 = 0 → x.toNat % 64 = 0 →
    p.toNat % 16 = 0 →
    exec (.scatter h f) s = .next ((s2.queueing .se h (.scatter b x p f.ty tile)).retired (.scatter h f) (s.nextPc (.scatter h f)))) ∧
  (s.entered (.rst h f) = some s0 → s0.scalars [f.d, f.base, f.idx, f.aux] = some ([v, b, x, p], s2) → block →
    exec (.rst h f) s = .next ((s2.queueing .se h (.rst v b x.toNat p false)).retired (.rst h f) (s.nextPc (.rst h f)))) ∧
  (s.entered (.rsta h f) = some s0 → s0.scalars [f.d, f.base, f.idx, f.aux] = some ([v, b, x, p], s2) → block →
    exec (.rsta h f) s = .next ((s2.queueing .se h (.rst v b x.toNat p true)).retired (.rsta h f) (s.nextPc (.rsta h f)))) ∧
  (s.entered (.rat h f) = some s0 →
    (if f.opt = 2 ∨ f.opt = 4 then s0.scalars [f.base, f.idx, f.aux] = some ([b, v, p], s2)
      else s0.scalars [f.base, f.idx] = some ([b, v], s2) ∧ p = 0) → b.toNat % 4 = 0 → s2.room f.d = true →
    s2.live = true → exec (.rat h f) s = .next ((((s2.keeping h 2).put h f.d none true).queueing .se h (.rat (ratOp f.opt) b (v.setWidth 32) (p.setWidth 32))).retired (.rat h f)
      (s.nextPc (.rat h f))))

/-- R240 to R245: an atomic or AWAIT of an aligned word whose place is an accumulator word (or, through a SYS page, host memory) reserves its
entry and is left pending; the entry of an AWAIT orders its reader (R378). -/
def Obligations.AtomicsPend : Prop := ∀ (i : Instr) (h : Hdr) (f : FM) (op : AOp) (three : Bool) (sub : Nat), atomics i = some (h, f, op, three, sub) →
  ∀ (s s0 s1 : State) (j : Job) (a v c : Word), s.entered i = some s0 →
  (if three then s0.scalars [f.base, f.idx, f.aux] = some ([a, v, c], s1) else s0.scalars [f.base, f.idx] = some ([a, v], s1) ∧ c = 0) →
  s1.own = some j → s1.live = true → a.toNat < 2 ^ 56 → a.toNat % 4 = 0 →
  (inWindow a.toNat = true → ∃ p, s1.atomicPlace (s1.who s.cur.1 j) op a = .ok p) → s1.room f.d = true →
    let u := (s1.keeping h sub).put h f.d none false
    exec i s = .next (((if sub = 3 then u.awaiting else u).pending h (.atomic op a (v.setWidth 32) (c.setWidth 32))).retired i (s.nextPc i))

/-! ### The matrix engine at issue (R218 to R235) -/

/-- R219, R220, R228, R230, R235: MFMT queues a format word; MCB, MZERO and MSEED queue their command; MCOMMIT moves the batch's open set to its
committed set; MWAIT completes once no committed command of the batch is left, and clears the set.
R218, R221: MMA pops its scratchpad operands' registers, A's before B's, and one format word, samples MCONST and FZCTL, and joins the queue
and the open set of its batch. Where a rule leaves the queues' order open it is the model's reading (log 31). -/
def Obligations.MatrixControlAndMma : Prop :=
  (∀ (h : Hdr) (s s0 s1 : State) (j : Job) (w : Word), s1.own = some j →
    let t := j.stream s.cur.2
    let fz : BitVec 16 := (j.rreg .fzctl).setWidth 16
    let entry : QEntry Word := ⟨some w, ⟨t.coord, h.stage⟩, .none, false, j.seq, none⟩
    (∀ f : FRR, s.entered (.mfmt h f) = some s0 → s0.scalars [f.a] = some ([w], s1) → fmtOk w = true → j.fmtQ.items.length < 16 →
      j.fmtQ.items.length + j.fmtQ.popped.length < 32 →
      exec (.mfmt h f) s = .next ((s1.onOwn (fun j => { j with fmtQ := ⟨j.fmtQ.items ++ [entry], j.fmtQ.popped⟩ })).retired (.mfmt h f)
        (s.nextPc (.mfmt h f)))) ∧
    (∀ f : FM, s.entered (.mcb h f) = some s0 → s0.scalars [f.base] = some ([w], s1) → w.toNat % 32 = 0 → s1.queueRoom .me = true →
      exec (.mcb h f) s = .next ((s1.queueing .me h (.mcb ⟨f.opt.toNat % 4, Nat.mod_lt _ (by decide)⟩ w fz)).retired (.mcb h f) (s.nextPc (.mcb h f)))) ∧
    (∀ f : FRR, s.entered (.mzero h f) = some s0 → s1 = s0 → f.fn.toNat < j.hdr.acg → s1.queueRoom .me = true →
      exec (.mzero h f) s = .next ((s1.queueing .me h (.mzero f.fn)).retired (.mzero h f) (s.nextPc (.mzero h f)))) ∧
    (∀ f : FRR, s.entered (.mseed h f) = some s0 → s0.scalars [f.a] = some ([w], s1) → s1.queueRoom .me = true →
      exec (.mseed h f) s = .next ((s1.queueing .me h (.mseed w)).retired (.mseed h f) (s.nextPc (.mseed h f)))) ∧
    (∀ f : FRR, s.entered (.mcommit h f) = some s0 → s1 = s0 →
      let b : BitVec 4 := f.fn.setWidth 4
      exec (.mcommit h f) s = .next ((s1.onOwn (fun j => { j with
        openSet := j.openSet.filter (fun x => x.1 ≠ b)
        committed := j.committed ++ (j.openSet.filter (fun x => x.1 = b)).map (fun x => (b, x.2, t.coord, j.seq)) })).retired (.mcommit h f)
        (s.nextPc (.mcommit h f)))) ∧
    (∀ f : FRR, s.entered (.mwait h f) = some s0 → s1 = s0 →
      let b : BitVec 4 := f.fn.setWidth 4
      (∀ c ∈ j.committed, c.1 = b → ∀ q ∈ j.meQ, q.id ≠ c.2.1) →
      exec (.mwait h f) s = .next ((s1.onOwn (fun j => { j with committed := j.committed.filter (fun c => c.1 ≠ b) })).retired (.mwait h f)
        (s.nextPc (.mwait h f))))) ∧
  (∀ (h : Hdr) (f : FMX) (s s0 s1 s2 : State) (j : Job) (x1 x2 y1 y2 w : Word) (e : QEntry Word)
      (l : List (QEntry Word)), s.entered (.mma h f) = some s0 →
    (if f.ak then s0.scalars [f.a1, f.a2] = some ([x1, x2], s1) else x1 = 0 ∧ x2 = 0 ∧ s1 = s0) →
    (if f.bk then s1.scalars [f.b1, f.b2] = some ([y1, y2], s2) else y1 = 0 ∧ y2 = 0 ∧ s2 = s1) →
    s2.own = some j → (f.ak = false ∨ f.bk = false → j.hdr.tdep ≠ 0) → f.acc.toNat < j.hdr.acg →
    j.fmtQ.items = e :: l → e.usable (j.stream s.cur.2).coord = some w → s2.queueRoom .me = true →
    let popped := s2.onOwn (fun j => { j with fmtQ := j.fmtQ.pop (j.stream s.cur.2).coord j.seq })
    let queued := popped.queueing .me h (.mma f w x1 x2 y1 y2 ((j.rreg .mconst).setWidth 32) ((j.rreg .fzctl).setWidth 16))
    exec (.mma h f) s = .next ((queued.onOwn (fun j => { j with openSet := j.openSet ++ [(f.batch, j.seq)] })).retired (.mma h f) (s.nextPc (.mma h f))))


/-- R229, R230: MRD of an element of a tile in the grant that no committed or open command writes reserves its entry and is left pending; MWR
writes the low 32 bits of the value there under the retraction log. What MRD and MWR wait for is the model's reading (log 20). -/
def Obligations.MatrixElements : Prop := ∀ (h : Hdr) (f : FRR) (s s0 s1 s2 : State) (j : Job) (a v : Word), s1.own = some j →
  let w := s1.who s.cur.1 j
  let off := w.acBase + f.fn.toNat * 65536 + a.toNat / 128 * 512 + a.toNat % 128 * 4
  f.fn.toNat < j.hdr.acg → a.toNat < 2 ^ 14 → s1.busyTile w j (w.tile f.fn.toNat) = false → s1.openTile w j (w.tile f.fn.toNat) = false →
  (s.entered (.mrd h f) = some s0 → s0.scalars [f.a] = some ([a], s1) → s1.room f.d = true →
    exec (.mrd h f) s = .next (((s1.put h f.d none false).pending h (.mrd f.fn (a.setWidth 14))).retired (.mrd h f) (s.nextPc (.mrd h f)))) ∧
  (s.entered (.mwr h f) = some s0 → s0.scalars [f.a, f.b] = some ([a, v], s1) →
    s1.opWaits w j ⟨j.seq, ⟨.c, ⟨0, 0⟩, j.seq, 0⟩, .mrd f.fn (a.setWidth 14), none, 0⟩ = false →
    Runs (writeBytes h s.cur.1 off (leBytes 4 (v.toNat % 2 ^ 32))) s1 () s2 →
    exec (.mwr h f) s = .next (s2.retired (.mwr h f) (s.nextPc (.mwr h f))))

/-- R231 to R234: MSTL and MSTF with a well-formed store word and aligned addresses join the queue and the open set of their batch, sampling the
rounding mode and FZCTL; MSTF with block scales pops the scale address too. -/
def Obligations.MatrixStores : Prop := ∀ (i : Instr) (h : Hdr) (f : FM) (lns mx : Bool),
  (i = .mstl h f ∧ lns = true ∧ mx = false ∨ i = .mstf h f ∧ lns = false ∧ mx = decide (f.opt = 1)) →
  ∀ (s s0 s1 : State) (j : Job) (w a p x : Word), s.entered i = some s0 →
  (if mx then s0.scalars [f.d, f.base, f.idx, f.aux] = some ([w, a, p, x], s1) else s0.scalars [f.d, f.base, f.idx] = some ([w, a, p], s1) ∧ x = 0) →
  s1.own = some j →
  let sw := storeWord w
  w.toNat < 2 ^ 41 → (sw.up = true → mx = true) → sw.rm ≠ 7 → sw.row0 + sw.rows ≤ 128 → sw.col0 + sw.cols ≤ 128 →
  sw.cols * tyWidth f.ty.toNat % 8 = 0 → (mx = true → sw.col0 % 32 = 0 ∧ sw.cols % 32 = 0 ∧ x.toNat % 4 = 0) → sw.acc.toNat < j.hdr.acg →
  a.toNat % 32 = 0 → p.toNat % 32 = 0 → s1.queueRoom .me = true →
    exec i s = .next (((s1.queueing .me h (.mst lns sw a p f.ty (if mx then some x else none) (Rm.select sw.rm ((j.rreg .rmode).toNat % 8))
      ((j.rreg .fzctl).setWidth 16))).onOwn (fun j => { j with openSet := j.openSet ++ [(sw.batch, j.seq)] })).retired i (s.nextPc i))

namespace Sys2Proof.Claims

/-- The operation of each base form whose operands are tiles (R189 to R198). -/
def tileOps : Instr → Option (Hdr × FVB × EOp)
  | .vadd h f => some (h, f, .add)
  | .vsub h f => some (h, f, .sub)
  | .vmul h f => some (h, f, .mul)
  | .vfma h f => some (h, f, .fma)
  | .vdiv h f => some (h, f, .div)
  | .vabs h f => some (h, f, .abs)
  | .vneg h f => some (h, f, .neg)
  | .vmin h f => some (h, f, .min)
  | .vmax h f => some (h, f, .max)
  | .vminp h f => some (h, f, .minp)
  | .vmaxp h f => some (h, f, .maxp)
  | .vand h f => some (h, f, .and)
  | .vor h f => some (h, f, .or)
  | .vxor h f => some (h, f, .xor)
  | .vshl h f => some (h, f, .shl)
  | .vshr h f => some (h, f, .shr)
  | .vexp2 h f => some (h, f, .exp2)
  | .vlog2 h f => some (h, f, .log2)
  | .vrcp h f => some (h, f, .rcp)
  | .vrsq h f => some (h, f, .rsq)
  | .vtanh h f => some (h, f, .tanh)
  | .vcvt h f => some (h, f, (.cvt f.fn.toNat))
  | _ => none
/-- The plan of each base form that reads or writes a scratchpad, and of each V-form (R196, R197, R204, R206). -/
def plans : Instr → Option (Hdr × FVB × (BitVec 1024 → VPlan))
  | .vqmx h f => some (h, f, basePlan f (.qmx (f.fn.toNat % 4) (f.fn.getLsbD 4)))
  | .vdqmx h f => some (h, f, basePlan f (.dqmx f.fn.toNat))
  | .vld h f => some (h, f, basePlan f .load)
  | .vst h f => some (h, f, basePlan f .store)
  | .vaddVf h f => some (h, f.vb, vfPlan f (.elem .add))
  | .vsubVf h f => some (h, f.vb, vfPlan f (.elem .sub))
  | .vmulVf h f => some (h, f.vb, vfPlan f (.elem .mul))
  | .vfmaVf h f => some (h, f.vb, vfPlan f (.elem .fma))
  | .vdivVf h f => some (h, f.vb, vfPlan f (.elem .div))
  | .vabsVf h f => some (h, f.vb, vfPlan f (.elem .abs))
  | .vnegVf h f => some (h, f.vb, vfPlan f (.elem .neg))
  | .vminVf h f => some (h, f.vb, vfPlan f (.elem .min))
  | .vmaxVf h f => some (h, f.vb, vfPlan f (.elem .max))
  | .vminpVf h f => some (h, f.vb, vfPlan f (.elem .minp))
  | .vmaxpVf h f => some (h, f.vb, vfPlan f (.elem .maxp))
  | .vandVf h f => some (h, f.vb, vfPlan f (.elem .and))
  | .vorVf h f => some (h, f.vb, vfPlan f (.elem .or))
  | .vxorVf h f => some (h, f.vb, vfPlan f (.elem .xor))
  | .vshlVf h f => some (h, f.vb, vfPlan f (.elem .shl))
  | .vshrVf h f => some (h, f.vb, vfPlan f (.elem .shr))
  | .vexp2Vf h f => some (h, f.vb, vfPlan f (.elem .exp2))
  | .vlog2Vf h f => some (h, f.vb, vfPlan f (.elem .log2))
  | .vrcpVf h f => some (h, f.vb, vfPlan f (.elem .rcp))
  | .vrsqVf h f => some (h, f.vb, vfPlan f (.elem .rsq))
  | .vtanhVf h f => some (h, f.vb, vfPlan f (.elem .tanh))
  | .vcvtVf h f => some (h, f.vb, vfPlan f (.elem (.cvt f.vb.fn.toNat)))
  | .vselVf h f => some (h, f.vb, vfPlan f .sel)
  | .vqmxVf h f => some (h, f.vb, vfPlan f (.qmx (f.vb.fn.toNat % 4) (f.vb.fn.getLsbD 4)))
  | .vdqmxVf h f => some (h, f.vb, vfPlan f (.dqmx f.vb.fn.toNat))
  | .vldVf h f => some (h, f.vb, vfPlan f .load)
  | .vstVf h f => some (h, f.vb, vfPlan f .store)
  | _ => none
/-- The operation of each element-wise N-form (R207). -/
def nestOps : Instr → Option (Hdr × FVN × EOp)
  | .vaddNest h f => some (h, f, .add)
  | .vsubNest h f => some (h, f, .sub)
  | .vmulNest h f => some (h, f, .mul)
  | .vdivNest h f => some (h, f, .div)
  | .vabsNest h f => some (h, f, .abs)
  | .vnegNest h f => some (h, f, .neg)
  | .vminNest h f => some (h, f, .min)
  | .vmaxNest h f => some (h, f, .max)
  | .vminpNest h f => some (h, f, .minp)
  | .vmaxpNest h f => some (h, f, .maxp)
  | .vandNest h f => some (h, f, .and)
  | .vorNest h f => some (h, f, .or)
  | .vxorNest h f => some (h, f, .xor)
  | .vshlNest h f => some (h, f, .shl)
  | .vshrNest h f => some (h, f, .shr)
  | .vcvtNest h f => some (h, f, (.cvt f.vb.fn.toNat))
  | _ => none

/-- What V samples at issue (R171, R172, R176). -/
def sampled (j : Job) (rm : BitVec 3) : LaneCtx :=
  ⟨(j.rreg .fzctl).toNat, Rm.select rm ((j.rreg .rmode).toNat % 8), (j.rreg .srseed).toNat, j.rnow.vdraws⟩
/-- The state after flags have gone to RMODE (R171). -/
def vFlagged (s : State) (c : Coord) (fl : Fl) : State :=
  if fl.rmodeBits ≠ 0 then s.onOwn (fun j => j.rchange c .rmode (.flags (BitVec.ofNat 64 fl.rmodeBits))) else s
/-- The state after the draws of n positions in SR mode (R175, R176). -/
def vDrawn (s : State) (c : Coord) (x : LaneCtx) (n : Nat) : State :=
  if x.mode = .sr then s.onOwn (fun j => j.rchange c .srseed (.draws ((n + 255) / 256))) else s
/-- The state after the flags of n positions have gone to RMODE and, in SR mode, their draws are made. -/
def vEnd (s : State) (c : Coord) (x : LaneCtx) (n : Nat) (fl : Fl) : State := vDrawn (vFlagged s c fl) c x n

/-- An iteration of a plan reads its sources (R204, R206). -/
def reads (p : VPlan) (bases : List Word) (i : Nat) (s : State) (a b c : Tile × Option Nat) (sc : State) : Prop :=
  let loads := decide (p.step = .load) && (match p.d with
    | .queue _ => true
    | _ => false)
  ∃ sa sb : State, Runs (p.a.read bases i (!loads)) s a sa ∧ Runs (p.b.read bases i true) sa b sb ∧ Runs (p.c.read bases i true) sb c sc
/-- The destination takes the result that the step computes from the sources (R196, R197, R204, R206). -/
def puts (p : VPlan) (h : Hdr) (bases : List Word) (x : LaneCtx) (i : Nat) (a b c : Tile × Option Nat) (sc : State) (f : Fl) (u : State) : Prop :=
  let scale := bases.getD (p.scale.getD 0) 0 + BitVec.ofNat 64 (32 * i)
  let all (_ : Nat) : Bool := true
  match p.step with
  | .elem op =>
    let r := tileOp op p.ty x (1024 * i) p.men p.mask a.1 b.1 c.1
    f = r.2 ∧ Runs (p.d.write h bases i r.1 .none p.vform all) sc () u
  | .sel => f = Fl.clear ∧ Runs (p.d.write h bases i (tileSel p.mask a.1 b.1) .none p.vform all) sc () u
  | .qmx ty up =>
    let scales := qmxScales p.ty ty x.fz up a.1
    let r := tileQmx p.ty ty x (1024 * i) scales a.1
    f = r.2 ∧ ∃ v, Runs (writeScales h scale scales) sc () v ∧ Runs (p.d.write h bases i r.1 .none p.vform all) v () u
  | .dqmx ty => ∃ scales v, Runs (readScales scale) sc scales v ∧
    (let r := tileDqmx p.ty ty x (1024 * i) scales a.1
     f = r.2 ∧ Runs (p.d.write h bases i r.1 .none p.vform all) v () u)
  | .load =>
    let v : Tile := Vector.ofFn (fun k => if isOn p.men p.mask k.val then a.1.get k else 0)
    f = Fl.clear ∧ Runs (p.d.write h bases i v (match a.2 with
      | some pa => .poison pa
      | none => .none) p.vform all) sc () u
  | .store => f = Fl.clear ∧ Runs (p.d.write h bases i a.1 .none p.vform (isOn p.men p.mask)) sc () u
/-- One iteration of a plan: it reads its sources and writes its destination. -/
def iteration (p : VPlan) (h : Hdr) (bases : List Word) (x : LaneCtx) (i : Nat) (s : State) (f : Fl) (u : State) : Prop :=
  ∃ a b c sc, reads p bases i s a b c sc ∧ puts p h bases x i a b c sc f u
/-- The iterations from i on, n of them, with the flags they set. -/
def iterations (p : VPlan) (h : Hdr) (bases : List Word) (x : LaneCtx) : Nat → Nat → Fl → State → Fl → State → Prop
  | 0, _, fl, s, fl', t => fl' = fl ∧ t = s
  | n + 1, i, fl, s, fl', t => ∃ f u, iteration p h bases x i s f u ∧ iterations p h bases x n (i + 1) (fl.or f) u fl' t
/-- What an operand of a plan of cnt iterations needs at issue: tile queues for a queue, and for segments a scratchpad that holds each (R204). -/
def operandOk (s : State) (bases : List Word) (cnt : Nat) : VOpd → Prop
  | .unused => True
  | .queue _ => s.hasTiles = true
  | .seg k step ty => ∀ i, i < cnt → ∃ place, Runs (scratchPlace (segAddr bases k step i) 16 (tileBytes ty)) s place s

/-- The elements of an N-form from a list of points on, each with its index: the sources can be read and the result is written (R207). -/
def points (h : Hdr) (f : FVN) (op : EOp) (d a b : Word) (x : LaneCtx) : List (List Nat × Nat) → Fl → State → Fl → State → Prop
  | [], fl, s, fl', t => fl' = fl ∧ t = s
  | pe :: l, fl, s, fl', t => ∃ (va vb : Nat) (u : State),
    let ty := f.vb.ty.toNat
    let aty := VStep.aTy (.elem op) ty
    let r := elemOp op ty x.fz x.mode (x.z pe.2) va vb 0
    Runs (vnRead (vnBit a aty f.sa f.ua pe.1) aty) s va s ∧
    (if 2 ≤ op.sources then Runs (vnRead (vnBit b ty f.sb f.ub pe.1) ty) s vb s else vb = 0) ∧
    Runs (vnWrite h (vnBit d ty f.sd f.ud pe.1) ty r.1) s () u ∧ points h f op d a b x l (fl.or r.2) u fl' t
/-- The groups of VREDR.nest: the elements of each can be read, and their reduction is written (R208). -/
def groups (h : Hdr) (f : FVN) (d a : Word) (x : LaneCtx) : List (List Nat × Nat) → Fl → State → Fl → State → Prop
  | [], fl, s, fl', t => fl' = fl ∧ t = s
  | pe :: l, fl, s, fl', t => ∃ (vs : List Nat) (u : State),
    let ty := f.vb.ty.toNat
    let r := reduce f.vb.fn.toNat ty x.fz x.mode (x.z (pe.2 * vnCount f 0)) vs
    vs.length = vnCount f 0 ∧
    (∀ k, k < vnCount f 0 → Runs (vnRead (vnBit a ty f.sa f.ua (pe.1.set 0 k)) ty) s (vs.getD k 0) s) ∧
    Runs (vnWrite h (vnBit d ty f.sd f.ud pe.1) ty r.1) s () u ∧ groups h f d a x l (fl.or r.2) u fl' t

/-- The integer types of the vector engine with their width and sign (R49, R164). -/
def intTypes : List (Nat × Nat × Bool) :=
  [(0x0D, 8, true), (0x0E, 16, true), (0x0F, 32, true), (0x11, 8, false), (0x12, 16, false), (0x13, 32, false)]
/-- The number of an integer code of width w, signed or not (R164). -/
def codeNum (w : Nat) (sg : Bool) (a : Nat) : Int :=
  if sg = true ∧ 2 ^ (w - 1) ≤ a % 2 ^ w then ((a % 2 ^ w : Nat) : Int) - ((2 ^ w : Nat) : Int) else ((a % 2 ^ w : Nat) : Int)
/-- The slot of an integer v modulo 2^w: sign-extended for a signed type, zero-extended otherwise (R185, R189). -/
def wrapped (w : Nat) (sg : Bool) (v : Int) : BitVec 32 := BitVec.ofInt 32 (codeNum w sg (v % ((2 ^ w : Nat) : Int)).toNat)
/-- The least and the greatest number of an integer type. -/
def intLeast (w : Nat) (sg : Bool) : Int := if sg then -((2 ^ (w - 1) : Nat) : Int) else 0
def intMost (w : Nat) (sg : Bool) : Int := if sg then ((2 ^ (w - 1) : Nat) : Int) - 1 else ((2 ^ w : Nat) : Int) - 1
/-- An f32 code is a NaN, and a signalling one (R162). -/
def nan32 (a : Nat) : Bool := decide (0x7F800000 < a % 2 ^ 31)
def snan32 (a : Nat) : Bool := nan32 a && decide (a / 2 ^ 22 % 2 = 0)
/-- A finite f32 code as an integer number of units of 2^-149 (R161). -/
def units32 (a : Nat) : Int :=
  let ex := a / 2 ^ 23 % 2 ^ 8
  let m : Nat := if ex = 0 then a % 2 ^ 23 else (a % 2 ^ 23 + 2 ^ 23) * 2 ^ (ex - 1)
  if a / 2 ^ 31 % 2 = 1 then -(m : Int) else (m : Int)
/-- The order of two f32 codes that are no NaN, with -0 below +0 (R191). -/
def below32 (a b : Nat) : Bool :=
  decide (units32 a < units32 b) || (decide (units32 a = units32 b) && decide (a / 2 ^ 31 % 2 = 1) && decide (b / 2 ^ 31 % 2 = 0))

end Sys2Proof.Claims

/-! ### The vector unit (R183 to R210) -/

/-- R189 to R198: a base form on tiles reads its one, two or three sources, pushes the operation's tile, sets its flags and falls through.
R186: an element that is on receives the operation's result on the slots at its place, any other the slot of TA; the flags are those of the
elements that are on. R185, R189, R191: the integer results, modulo 2^w. R190, R191: the f32 results on a NaN; VABS and VNEG; VMIN and VMAX
of numbers; a sum that f32 holds is that sum, with no flag. R178, R195: integer to integer saturates with NV, and f32 to integer truncates
under RTZ and saturates with NV; the examples of R191 and R195. -/
def Obligations.VectorOnTiles : Prop :=
  (∀ (i : Instr) (h : Hdr) (f : FVB) (op : EOp), tileOps i = some (h, f, op) →
    ∀ (s s0 s1 : State) (j : Job) (ts : List Tile), s.entered i = some s0 → s0.own = some j → j.hdr.tdep ≠ 0 →
    s0.tiles ([f.ta, f.tb, f.tc].take op.sources) = some (ts, s1) → s1.tileRoom f.td = true →
    let t := j.stream s.cur.2
    let x := sampled j f.rm
    let r := tileOp op f.ty.toNat x 0 f.men (t.masks.get (fin8 f.mask.toNat)) (ts.getD 0 Tile.zero) (ts.getD 1 Tile.zero) (ts.getD 2 Tile.zero)
    exec i s = .next ((vEnd (s1.putTile h f.td.toNat (some r.1)) t.coord x 1024 r.2).retired i (s.nextPc i))) ∧
  (∀ (op : EOp) (ty : Nat) (x : LaneCtx) (e0 : Nat) (men : Bool) (mask : BitVec 1024) (a b c : Tile),
    let r := tileOp op ty x e0 men mask a b c
    let el (k : Fin 1024) : Nat × Fl := elemOp op ty x.fz x.mode (x.z (e0 + k.val)) (a.get k).toNat (b.get k).toNat (c.get k).toNat
    let on (k : Fin 1024) : Prop := men = false ∨ mask.getLsbD k.val = true
    (∀ k : Fin 1024, (on k → r.1.get k = slotOf ty (el k).1) ∧ (¬ on k → r.1.get k = a.get k)) ∧
    (∀ g ∈ [Fl.nv, Fl.dz, Fl.of, Fl.uf, Fl.nx], g r.2 = true ↔ ∃ k : Fin 1024, on k ∧ g (el k).2 = true)) ∧
  (∀ (ty w : Nat) (sg : Bool), (ty, w, sg) ∈ intTypes → ∀ (fz z a b c : Nat) (m : Rm),
    let el (op : EOp) : Nat × Fl := elemOp op ty fz m z a b c
    let is (op : EOp) (v : Int) : Prop := slotOf ty (el op).1 = wrapped w sg v ∧ (el op).2 = Fl.clear
    let na := codeNum w sg a
    let nb := codeNum w sg b
    is .add (na + nb) ∧ is .sub (na - nb) ∧ is .mul (na * nb) ∧ is .neg (-na) ∧ is .abs (na.natAbs : Int) ∧
    is .min (if na < nb then na else nb) ∧ is .max (if na < nb then nb else na) ∧
    (∀ ts ws ss, (ts, ws, ss) ∈ intTypes →
      let v := codeNum ws ss a
      let r := elemOp (.cvt ts) ty fz m z a b c
      slotOf ty r.1 = wrapped w sg (if v < intLeast w sg then intLeast w sg else if intMost w sg < v then intMost w sg else v) ∧
        (r.2.nv = true ↔ v < intLeast w sg ∨ intMost w sg < v)) ∧
    (a % 2 ^ 31 < 0x7F800000 → fz % 2 = 0 →
      let v := (units32 a).tdiv ((2 ^ 149 : Nat) : Int)
      let r := elemOp (.cvt 0) ty fz .rtz z a b c
      slotOf ty r.1 = wrapped w sg (if v < intLeast w sg then intLeast w sg else if intMost w sg < v then intMost w sg else v) ∧
        (r.2.nv = true ↔ v < intLeast w sg ∨ intMost w sg < v))) ∧
  (∀ (fz z a b c : Nat) (m : Rm), fz % 4 = 0 → z < 2 ^ 64 →
    let el (op : EOp) : Nat × Fl := elemOp op 0 fz m z a b c
    let is (op : EOp) (r : Nat) (nv : Bool) : Prop := slotOf 0 (el op).1 = BitVec.ofNat 32 r ∧ (el op).2 = ⟨nv, false, false, false, false⟩
    is .abs (a % 2 ^ 31) false ∧ is .neg ((a % 2 ^ 32) ^^^ 2 ^ 31) false ∧
    ((nan32 a || nan32 b) = true → ∀ op ∈ [EOp.add, .sub, .mul, .div, .minp, .maxp], is op 0x7FC00000 (snan32 a || snan32 b)) ∧
    ((snan32 a || snan32 b) = true → is .min 0x7FC00000 true ∧ is .max 0x7FC00000 true) ∧
    ((snan32 a || snan32 b) = false → nan32 a = true →
      is .min (if nan32 b then 0x7FC00000 else b) false ∧ is .max (if nan32 b then 0x7FC00000 else b) false) ∧
    ((snan32 a || snan32 b) = false → nan32 a = false → nan32 b = true → is .min a false ∧ is .max a false) ∧
    (nan32 a = false → nan32 b = false →
      is .min (if below32 a b then a else b) false ∧ is .max (if below32 a b then b else a) false) ∧
    (a % 2 ^ 31 < 0x7F800000 → b % 2 ^ 31 < 0x7F800000 → ∀ q, q < 2 ^ 32 → q % 2 ^ 31 < 0x7F800000 → units32 q ≠ 0 →
      (units32 a + units32 b = units32 q → is .add q false) ∧ (units32 a - units32 b = units32 q → is .sub q false))) ∧
  (∀ z : Nat, elemOp .min 0 0 .rne z 0x7FC00001 0x80000000 0 = (0x80000000, Fl.clear) ∧
    elemOp .minp 0 0 .rne z 0x7FC00001 0x80000000 0 = (0x7FC00000, Fl.clear) ∧
    elemOp .min 0 0 .rne z 0x7F800001 0x3F800000 0 = (0x7FC00000, Fl.inv true) ∧
    (elemOp (.cvt 0) 2 0 .rne z 0x3F80C000 0 0).1 = 0x3F81 ∧ (elemOp (.cvt 0) 2 0 .rtz z 0x3F80C000 0 0).1 = 0x3F80)

/-- R193: VSEL takes each element of A where the mask has a 1 and of B elsewhere.
R199, R200, R203, R205: the moves of slots, by an index popped from SX or without one, the reductions along rows and columns, VNET and
VGEN. R186, R199: a move gives an element that is on the slot at its source place, any other its own slot, and the source places of the five
moves. R200: an integer add is the sum of the elements of the row or the column that are on, modulo 2^w, in each of its places. R205: the
element (r, c) of VGEN's tile. -/
def Obligations.VectorSelectAndMoves : Prop :=
  (∀ (h : Hdr) (f : FVB) (s s0 s1 : State) (j : Job) (a b v : Tile), s.entered (.vsel h f) = some s0 →
    s0.own = some j → j.hdr.tdep ≠ 0 → s0.tiles [f.ta, f.tb] = some ([a, b], s1) → s1.tileRoom f.td = true →
    let t := j.stream s.cur.2
    (∀ k : Fin 1024, v.get k = if (t.masks.get (fin8 f.mask.toNat)).getLsbD k.val then a.get k else b.get k) →
    exec (.vsel h f) s = .next ((vEnd (s1.putTile h f.td.toNat (some v)) t.coord (sampled j f.rm) 1024 Fl.clear).retired (.vsel h f)
      (s.nextPc (.vsel h f)))) ∧
  (∀ (h : Hdr) (f : FVB) (s s0 s1 s2 : State) (j : Job) (a : Tile) (n : Word), s0.own = some j → j.hdr.tdep ≠ 0 →
    let t := j.stream s.cur.2
    let mask := t.masks.get (fin8 f.mask.toNat)
    let x := sampled j f.rm
    let moved (i : Instr) (u : State) (src : Fin 1024 → Fin 1024) : Prop :=
      exec i s = .next ((u.putTile h f.td.toNat (some (tileMove src f.men mask a))).retired i (s.nextPc i))
    let reduced (i : Instr) (r : Tile × Fl) : Prop :=
      exec i s = .next ((vEnd (s1.putTile h f.td.toNat (some r.1)) t.coord x 1024 r.2).retired i (s.nextPc i))
    (s0.tile f.ta = some (a, s1) → s1.scalars [f.sx] = some ([n], s2) → s2.tileRoom f.td = true →
      (s.entered (.vrotr h f) = some s0 → moved (.vrotr h f) s2 (srcRotr n.toNat)) ∧ (s.entered (.vrotc h f) = some s0 → moved (.vrotc h f) s2 (srcRotc n.toNat)) ∧
      (s.entered (.vbcr h f) = some s0 → moved (.vbcr h f) s2 (srcBcr n.toNat)) ∧ (s.entered (.vbcc h f) = some s0 → moved (.vbcc h f) s2 (srcBcc n.toNat))) ∧
    (s0.tile f.ta = some (a, s1) → s1.tileRoom f.td = true →
      (s.entered (.vtrn h f) = some s0 → moved (.vtrn h f) s1 srcTrn) ∧
      (s.entered (.vnet h f) = some s0 → moved (.vnet h f) s1 (srcNet (t.nets.get (fin8 f.fn.toNat)))) ∧
      (s.entered (.vredr h f) = some s0 → reduced (.vredr h f) (tileRedr f.fn.toNat f.ty.toNat x f.men mask a)) ∧
      (s.entered (.vredc h f) = some s0 → reduced (.vredc h f) (tileRedc f.fn.toNat f.ty.toNat x f.men mask a))) ∧
    (s.entered (.vgen h f) = some s0 → s0.scalars [f.sx] = some ([n], s1) → s1.tileRoom f.td = true →
      exec (.vgen h f) s = .next ((s1.putTile h f.td.toNat (some (tileGen n f.men mask))).retired (.vgen h f) (s.nextPc (.vgen h f))))) ∧
  (∀ (src : Fin 1024 → Fin 1024) (men : Bool) (mask : BitVec 1024) (a : Tile) (k : Fin 1024),
    (tileMove src men mask a).get k = if men = false ∨ mask.getLsbD k.val = true then a.get (src k) else a.get k) ∧
  (∀ (n : Nat) (k : Fin 1024) (r c : Nat), k.val = 64 * r + c → c < 64 →
    (srcRotr n k).val = 64 * r + (c + n) % 64 ∧ (srcRotc n k).val = 64 * ((r + n) % 16) + c ∧ (srcBcr n k).val = 64 * r + n % 64 ∧
    (srcBcc n k).val = 64 * (n % 16) + c ∧ (srcTrn k).val = 64 * (c % 16) + (16 * (c / 16) + r)) ∧
  (∀ (ty w : Nat) (sg : Bool), (ty, w, sg) ∈ intTypes → ∀ (x : LaneCtx) (men : Bool) (mask : BitVec 1024) (a : Tile) (k : Fin 1024) (r c : Nat),
    k.val = 64 * r + c → c < 64 →
    let term (e : Nat) : Int := if men = false ∨ mask.getLsbD e = true then codeNum w sg (a.toList.getD e 0).toNat else 0
    (tileRedr 0 ty x men mask a).1.get k = wrapped w sg ((List.range 64).map (fun n => term (64 * r + n))).sum ∧
    (tileRedc 0 ty x men mask a).1.get k = wrapped w sg ((List.range 16).map (fun n => term (64 * n + c))).sum) ∧
  (∀ (n : Word) (men : Bool) (mask : BitVec 1024) (k : Fin 1024) (r c : Nat), k.val = 64 * r + c → c < 64 →
    (tileGen n men mask).get k = if men = false ∨ mask.getLsbD k.val = true
      then BitVec.ofInt 32 ((n.toNat : Int) + r * ((n >>> 48).setWidth 16).toInt + c * ((n >>> 32).setWidth 16).toInt) else 0)


/-- R27, R192, R202: VCMP writes a mask and VNETSET a network register from 64 bytes of a scratchpad; the old value is saved with the stream's
coordinate. -/
def Obligations.VectorCompareAndNetwork : Prop := ∀ (h : Hdr) (f : FVB) (s s0 s1 : State) (j : Job), s0.own = some j →
  let t := j.stream s.cur.2
  let mask := t.masks.get (fin8 f.mask.toNat)
  let x := sampled j 0
  (∀ a b : Tile, s.entered (.vcmp h f) = some s0 → j.hdr.tdep ≠ 0 → s0.tiles [f.ta, f.tb] = some ([a, b], s1) → t.maskHist.length < 16 →
    let r := tileCmp f.fn.toNat f.ty.toNat x.fz f.men mask a b
    let d := fin8 f.td.toNat
    exec (.vcmp h f) s = .next ((vEnd (s1.onLane (fun t => { t with
      masks := t.masks.set d.val r.1
      maskHist := t.maskHist ++ [(d, t.masks.get d, t.coord)] })) t.coord x 1024 r.2).retired (.vcmp h f) (s.nextPc (.vcmp h f)))) ∧
  (∀ (a : Word) (place : CoreId × Nat) (bs : List Byte), s.entered (.vnetset h f) = some s0 → s0.scalars [f.sx] = some ([a], s1) →
    Runs (scratchPlace a 64 64) s1 place s1 → Runs (readPool place.1 place.2 64 a) s1 bs s1 → t.netHist.length < 8 →
    let d := fin8 f.fn.toNat
    exec (.vnetset h f) s = .next ((s1.onLane (fun t => { t with
      nets := t.nets.set d.val (BitVec.ofNat 352 (leNat bs))
      netHist := t.netHist ++ [(d, t.nets.get d, t.coord)] })).retired (.vnetset h f) (s.nextPc (.vnetset h f))))

/-- R13, R175, R196, R197, R204, R206: VLD pops its address and reads its segment; VST, VQMX and VDQMX read their tiles, then pop their
address; a V-form pops its bases, checks its operands, makes the draws of all its positions and then its iterations in order. The flags are
set at the end. The operand kinds of the V-forms of VLD and VST, and how poison in a segment acts, are the model's reading (logs 9, 30). -/
def Obligations.VectorPlans : Prop := ∀ (i : Instr) (h : Hdr) (f : FVB) (plan : BitVec 1024 → VPlan), plans i = some (h, f, plan) →
  ∀ (s s0 s1 s2 : State) (j : Job) (bases : List Word) (fl : Fl), s.entered i = some s0 → s0.own = some j →
  let t := j.stream s.cur.2
  let p := plan (t.masks.get (fin8 f.mask.toNat))
  let x := sampled j f.rm
  let checked : Prop := (∀ o ∈ [p.a, p.b, p.c, p.d], operandOk s1 bases p.cnt o) ∧
    (∀ k, p.scale = some k → ∀ n, n < p.cnt → ∃ place, Runs (scratchPlace (bases.getD k 0 + BitVec.ofNat 64 (32 * n)) 32 32) s1 place s1)
  let ends : Prop := exec i s = .next ((vEnd s2 t.coord x 1024 fl).retired i (s.nextPc i))
  (p.vform = false → p.step = .load → s0.scalars (List.replicate p.nbases f.sx) = some (bases, s1) → checked →
    iteration p h bases x 0 s1 fl s2 → ends) ∧
  (∀ a b c u, p.vform = false → p.step ≠ .load → reads p [] 0 s0 a b c u → u.scalars (List.replicate p.nbases f.sx) = some (bases, s1) →
    checked → puts p h bases x 0 a b c s1 fl s2 → ends) ∧
  (p.vform = true → s0.scalars (List.replicate p.nbases f.sx) = some (bases, s1) → checked → Runs (p.d.checkDest p.cnt) s1 () s1 →
    (∀ o ∈ [p.a, p.b, p.c], Runs (VOpd.checkSource p.cnt o) s1 () s1) →
    iterations p h bases x p.cnt 0 Fl.clear (vDrawn s1 t.coord x (1024 * p.cnt)) fl s2 →
    exec i s = .next ((vFlagged (s2.onLane (fun t => { t with prog := none })) t.coord fl).retired i (s.nextPc i)))

/-- R207, R208: an N-form pops its bases from SX, checks every address, and computes its elements in lexicographic order of their points. -/
def Obligations.VectorNests : Prop := ∀ (h : Hdr) (f : FVN) (s s0 s1 s2 : State) (j : Job) (d a b : Word) (fl : Fl), s0.own = some j →
  let t := j.stream s.cur.2
  let x := sampled j f.vb.rm
  let ty := f.vb.ty.toNat
  let unit (n : Nat) : Nat := Nat.max 1 (tyWidth n / 8)
  (∀ (i : Instr) (op : EOp), nestOps i = some (h, f, op) → s.entered i = some s0 →
    let aty := VStep.aTy (.elem op) ty
    let two := decide (2 ≤ op.sources)
    let pts := vnPoints f (vnCount f 0)
    (if two then s0.scalars [f.vb.sx, f.vb.sx, f.vb.sx] = some ([d, a, b], s1) else s0.scalars [f.vb.sx, f.vb.sx] = some ([d, a], s1) ∧ b = 0) →
    d.toNat % unit ty = 0 → a.toNat % unit aty = 0 → (two = true → b.toNat % unit ty = 0) →
    (∀ pt ∈ pts, Runs (vnCheck (vnBit d ty f.sd f.ud pt) ty) s1 () s1 ∧ Runs (vnCheck (vnBit a aty f.sa f.ua pt) aty) s1 () s1 ∧
      (two = true → Runs (vnCheck (vnBit b ty f.sb f.ub pt) ty) s1 () s1)) →
    points h f op d a b x pts.zipIdx Fl.clear s1 fl s2 →
    exec i s = .next ((vEnd s2 t.coord x pts.length fl).retired i (s.nextPc i))) ∧
  (s.entered (.vredrNest h f) = some s0 → f.sd.toNat % 256 = 0 → s0.scalars [f.vb.sx, f.vb.sx] = some ([d, a], s1) →
    d.toNat % unit ty = 0 → a.toNat % unit ty = 0 →
    (∀ pt ∈ vnPoints f 1, Runs (vnCheck (vnBit d ty f.sd f.ud pt) ty) s1 () s1) →
    (∀ pt ∈ vnPoints f (vnCount f 0), Runs (vnCheck (vnBit a ty f.sa f.ua pt) ty) s1 () s1) →
    groups h f d a x (vnPoints f 1).zipIdx Fl.clear s1 fl s2 →
    exec (.vredrNest h f) s = .next ((vEnd s2 t.coord x (vnPoints f (vnCount f 0)).length fl).retired (.vredrNest h f) (s.nextPc (.vredrNest h f))))

namespace Sys2Proof.Claims

/-- After an operation of the job on a core has left u: streams that stalled look again, and the frontier moves as far as it may (R37). -/
def settled (s u : State) (c : CoreId) : State := State.settleFront (State.onJob { u with cur := s.cur } c Job.stir) c
/-- The state in which an operation of a stream's origin runs. -/
def asStream (s : State) (c : CoreId) (o : Origin) : State := { s with cur := (c, o.st) }
/-- An operation leaves u, with its value in the entry it reserved. -/
def filled (s u : State) (c : CoreId) (o : PendOp) (v : Word) (m : Mark) : State :=
  settled s (u.onJob c (fun j => (j.dropOp o.id).fill o.org.st o.id v m)) c
/-- An operation leaves u, with its tile in the entry it reserved. -/
def filledTile (s u : State) (c : CoreId) (o : PendOp) (q : Fin 16) (v : Tile) (m : Mark) : State :=
  settled s (u.onJob c (fun j => (j.dropOp o.id).fillTile q o.id v m)) c
/-- The pending operation o of the job on a core may go on: it lies inside the cut of any landing and waits for no earlier one. -/
def mayGo (s : State) (c : CoreId) (j : Job) (o : PendOp) : Bool := j.lives o.org.stamp.coord && !s.opWaits (s.who c j) j o
/-- An engine's command leaves u and its queue. -/
def finished (s u : State) (c : CoreId) (e : Engine) (id : Nat) : State :=
  settled s (u.onJob c (fun j => j.setQueue e ((j.queue e).filter (fun q => q.id ≠ id)))) c
/-- An engine's command has begun with what it has read. -/
def started (s u : State) (c : CoreId) (e : Engine) (id : Nat) (x : Started) : State :=
  settled s (u.onJob c (fun j => j.onCmd e id (fun q => { q with started := some x }))) c

/-- Commands that read nothing when they start. -/
def startsBare : CmdKind → Bool
  | .st _ _ _ | .stt _ _ _ _ | .rat _ _ _ _ | .send _ _ _ _ _ | .mseed _ => true
  | _ => false

end Sys2Proof.Claims

/-! ### Events of the streams and engines (R20, R28, R39, R75, R108 to R113, R218, R240 to R248) -/

/-- R20, R28, R39, R75: a stream makes its advance when no request holds it, no push blocks it and its lead stays within LEADW; the oldest
push of a direction is made once its instruction has completed, and blocks its stream while the FIFO is full; a pending load reads and
fills its entry; a clamp reaches the job on its core, where every stream with a loop running at its level, and no other, takes T = min(T, max(L, m))
and K = T + S - 1, with m the greatest k + 1 over those streams. That each of these is one step of its own, and when it may take place, is the
model's reading (logs 4, 26). -/
def Obligations.StreamEvents : Prop := ∀ (s u : State) (c : CoreId) (st : StreamId) (j k : Job),
  (s.job c = some j → (j.stream st).phase = .issuing → (j.stream st).adv.isSome = true →
    u = ((s.settleFront c).onJob c Job.checkStop).markLanding c → u.job c = some k →
    let t := k.stream st
    ∀ a, t.adv = some a → k.landing.all (fun l => l.inside a.target) = true → t.pushes.any (fun p => p.blocked) = false →
      Stream.lead k t + 1 ≤ k.hdr.leadw.toNat → a.tooFar = none →
      let v := u.iterationEnd c st k t a
      exec (.advance c st) s = .next ((v.onJob c (fun j => j.onStream st (fun t =>
        Stream.enterCoord { t with ring := t.ring ++ [Stream.snap k st (v.part k.part) a (k.stream st)] } a))).settleFront c)) ∧
  (∀ (n : Bool) (p : Push), s.job c = some j → (j.stream st).pushes.find? (fun p => p.toNext = n) = some p → j.lives p.coord = true →
    s.doneThrough c j st p.seq = true →
    let q := j.toks.get (fifoIdx st n)
    let gone := j.setStream st { j.stream st with pushes := (j.stream st).pushes.erase p }
    let token : QEntry Unit := ⟨some (), ⟨p.coord, p.stage⟩, .none, false, p.seq, none⟩
    (q.slots < 8 → exec (.tokenPush c st n) s = .next ((s.setJob c (Job.stir { gone with
      toks := gone.toks.set (fifoIdx st n) { q with items := q.items ++ [token] } })).settleFront c)) ∧
    (8 ≤ q.slots → (q.items ≠ [] ∨ ∃ x ∈ q.popped, x.2.1 < p.coord) → exec (.tokenPush c st n) s = .next (s.setJob c (j.setStream st { j.stream st with
      pushes := (j.stream st).pushes.map (fun x => if x = p then { x with blocked := true } else x) })))) ∧
  (∀ (id : Nat) (o : PendOp), s.job c = some j → j.op id = some o → mayGo s c j o = true →
    (∀ a ty g, o.kind = .ld a ty → u = asStream s c o.org → Runs (readMem true a (tyBytes ty)) u g u →
      exec (.entryFill c id) s = .next (filled s u c o (extendElem ty.toNat g.nat) g.mark)) ∧
    (∀ a p ty q rows, o.kind = .ldt a p ty q → u = asStream s c o.org →
      Runs (readRows (rowBytes ty.toNat) ((List.range 16).map (fun r => some (a + BitVec.ofNat 64 r * p)))) u rows u →
      exec (.entryFill c id) s = .next (filledTile s u c o q (unpackRows ty.toNat (rows.map Got.nat)) (rowsMark rows))) ∧
    (∀ t l p ty z q, o.kind = .gather t l p ty z q → Runs (gatherRead o t l p ty z q) (asStream s c o.org) () u →
      exec (.entryFill c id) s = .next (settled s u c)) ∧
    (∀ tile posn, o.kind = .mrd tile posn → Runs (mrdRead o tile posn) (asStream s c o.org) () u →
      exec (.entryFill c id) s = .next (settled s u c))) ∧
  (∀ (l : Fin 5) (limit m : Nat), s.job c = some j →
    (∃ (x : StreamId) (lp : Loop), (j.stream x).loops.get l = some lp ∧ Coord.ix (j.stream x).coord l + 1 = m) →
    (∀ (x : StreamId) (lp : Loop), (j.stream x).loops.get l = some lp → Coord.ix (j.stream x).coord l + 1 ≤ m) →
    (∀ lp, (j.stream st).loops.get l = some lp →
      let now := Nat.min lp.t (Nat.max limit m)
      (j.clamp l limit).stream st = { j.stream st with loops := (j.stream st).loops.set l (some { lp with
        t := now
        k := now + lp.s - 1 }) }) ∧
    ((j.stream st).loops.get l = none → (j.clamp l limit).stream st = j.stream st)) ∧
  (∀ (n : Nat) (x : Clamp), s.clamps[n]? = some x → s.job x.core = some j → j.handle = x.handle → j.landing = none →
    (j.clamp x.level x.limit).arms x = none →
    exec (.lclampApply n) s = .next (State.setJob { s with clamps := s.clamps.eraseIdx n } x.core (j.clamp x.level x.limit)))

/-- R108, R110, R112, R113, R118, R218, R240, R244, R245: an engine's command starts in its turn with what it reads and completes with what it
writes; what another core has written and must not show yet it waits for (R87, log 86); in particular an ST, an STT, an RAT, a SEND, an MSEED and, at FRONT, an MZERO start with nothing read, and a copy of one segment in a
sector of a pool with its bytes; an MSEED completes with its write, and an aligned ST with its store in a pool, in the release buffer beyond
FRONT, or in memory. A copy to a channel delivers its next element; an atomic on the own core's accumulator reads, changes and writes its
word, and one on another core's, through a page, is held; an AWAIT on the own core's accumulator completes when its word satisfies its
condition or did so at an earlier read. That each of these is one step of its own, and when it may take place, is the model's reading (logs
4, 31, 36). -/
def Obligations.EngineEvents : Prop := ∀ (s : State) (c : CoreId) (j : Job), s.job c = some j →
  (∀ (e : Engine) (id : Nat) (q : Cmd), j.cmd e id = some q →
    let u := asStream s c q.org
    let w := u.who c j
    (s.mayBegin (s.who c j) j e q = true →
      (∀ v, Runs (startBody e q) u () v → exec (.engineCommandStart c e id) s = .next (settled s v c)) ∧
      (startsBare q.kind = true → exec (.engineCommandStart c e id) s = .next (started s u c e id .none)) ∧
      (∀ tile, q.kind = .mzero tile → j.beyond q.org.stamp.coord = false →
        exec (.engineCommandStart c e id) s = .next (started s u c e id .none)) ∧
      (∀ g i k p, q.kind = .copy g → g.loops = [i] → pieces (g.from i).toNat g.n0 = [((g.from i).toNat, g.n0)] →
        u.resolve w .r (g.from i) g.n0 = .ok (.pool k p) → u.veiled c j.handle k p g.n0 = false → exec (.engineCommandStart c e id) s =
          .next (started s u c e id (.bytes (u.seenBytes c j (poolKey k p) (u.keyBytes (poolKey k p) g.n0).bytes))))) ∧
    (∀ x, q.started = some x →
      (∀ v, j.mayFinish q = true → Runs (completeBody e q x) u () v → exec (.engineCommandComplete c e id) s = .next (settled s v c)) ∧
      (∀ v, q.kind = .mseed v → exec (.engineCommandComplete c e id) s =
        .next (finished s (u.onJob c (fun j => j.rchange q.org.stamp.coord .mseed (.write v))) c e id)) ∧
      (∀ a v ty, q.kind = .st a v ty → j.lives q.org.stamp.coord = true → 0 < tyBytes ty → tyBytes ty ≤ 8 →
        a.toNat % tyBytes ty = 0 → 8 % tyBytes ty = 0 →
        let bs := leBytes (tyBytes ty) v.toNat
        (∀ k p t, u.resolve w .w a (tyBytes ty) = .ok (.pool k p) → u.poolWrite c q.org k p bs false = .done t →
          exec (.engineCommandComplete c e id) s = .next (finished s t c e id)) ∧
        (∀ pa sys n, u.resolve w .w a (tyBytes ty) = .ok (.mem pa none sys n) →
          let h : Held := ⟨q.id, q.org, .store pa bs false, some a.toNat⟩
          (j.beyond q.org.stamp.coord = true → j.relSectors + h.sectors ≤ 2048 → exec (.engineCommandComplete c e id) s =
            .next (finished s (u.onJob c (fun j => { j with held := heldAdd j.held h }.count 13 h.sectors)) c e id)) ∧
          (j.beyond q.org.stamp.coord = false → u.isFleet (dieOf c) pa = false → exec (.engineCommandComplete c e id) s =
            .next (finished s (u.storeOut c w.part (some ⟨c, w.handle, q.org⟩) pa bs false false) c e id)))))) ∧
  (∀ (ch : BitVec 3) (q : Cmd) (g : CopyGeo) (k : Fin 8) (ty : BitVec 5) (bs : List (Byte × Option Nat)) (b : Binding),
    j.ceQ.find? (fun q => q.begun && q.toChannel ch.toFin) = some q →
    q.kind = .copyChan g k ty → q.started = some (.bytes bs) → j.pairCopy ch.toFin q.id (bs.length / tyBytes ty) = some b →
    j.lives q.org.stamp.coord = true → q.delivered < bs.length / tyBytes ty →
    let r := (j.stream b.st).regs.get b.reg
    r.items.length < 4 → r.items.length + r.popped.length < 8 →
    exec (.channelElementDelivery c ch) s = .next (s.setJob c ((((j.onStream b.st (fun t => { t with
      regs := t.regs.set b.reg { r with items := r.items ++ [q.element b ty bs] } })).setBinding { b with
      copy := b.copy.map (fun (z : Nat × Nat) => (z.1, z.2 - 1)) }).onCmd .ce q.id (fun q => { q with delivered := q.delivered + 1 })).stir))) ∧
  (∀ (id : Nat) (o : PendOp) (op : AOp) (a : Word) (x y : BitVec 32), j.op id = some o → mayGo s c j o = true →
    s.atomicWaits (s.who c j) j o = false → o.kind = .atomic op a x y → j.replay.recording = false →
    let u := asStream s c o.org
    let w := u.who c j
    let own (p : Nat) : Prop := u.atomicPlace w op a = .ok (.word c p) ∧ u.veiled c j.handle c p 4 = false ∧ u.busyFault w j c p = none ∧
      u.poolPoison c p 4 = none ∧
      (u.seenBytes c j (poolKey c p) ((memBytes u.mem (poolKey c p) 4).map (fun b => (b, none)))).all (fun b => b.2.isNone) = true
    ((∀ cc, op ≠ .await cc) →
      (∀ p t, own p →
        let old := u.seenWord c j (poolKey c p)
        u.poolWrite c o.org c p (leBytes 4 (atomicNew op old x y).1.toNat) false = .done t →
        exec (.atomicApply c id) s = .next (filled s t c o (atomicOld old (atomicNew op old x y).2) .none)) ∧
      (∀ k t off, u.atomicPlace w op a = .ok (.home k t off) → j.relSectors ≤ 2048 →
        let h : Held := ⟨o.id, o.org, .atomic op (u.accGa k t off) x y none, if inWindow a.toNat then none else some a.toNat⟩
        exec (.atomicApply c id) s = .next (settled s (u.onJob c (fun j =>
          (({ j with held := heldAdd j.held h }.count 13 h.sectors).dropOp o.id).markHeld o.org.st o.id)) c))) ∧
    (∀ cc, op = .await cc →
      (∀ z, o.hit = some z → exec (.awaitSatisfied c id) s = .next (filled s u c o (z.setWidth 64) .none)) ∧
      (∀ p, o.hit = none → own p → awaitHolds cc (u.seenWord c j (poolKey c p)) x = true →
        exec (.awaitSatisfied c id) s = .next (filled s u c o ((u.seenWord c j (poolKey c p)).setWidth 64) .none))))

/-! ### Landings and scheduling (R75, R93, R125, R140, R148, R262, R297 to R306) -/

/-- R125, R126, R140: a landing completes when every stream is at the cut and nothing inside it is outstanding; stuck waits trap, one after
the other, when nothing else can happen; a hard pre-emption makes a running job land after FRONT, and a stopped one be saved. That each of
these is one step of its own, and when it may take place, is the model's reading (logs 4, 37, 39). -/
def Obligations.LandingEvents : Prop := ∀ (s u : State) (c : CoreId) (j k : Job) (l m : Landing),
  (s.job c = some j → j.landing = some l → (s.core c).slot.any (fun q => q.state = .landing) = true → s.mayLand c j l = true →
    u = s.frontLand c j l → u.job c = some k → k.landing = some m → u.mayLand c k m = true →
    exec (.landingComplete c) s = .next (u.landed c k m)) ∧
  (s.job c = some j → j.landing = some l →
    let stuck (st : StreamId) : Bool := !(j.stream st).atCut l.bound && (j.stream st).adv.isNone && s.selfWait c j (j.stream st)
    (∀ st ∈ StreamId.all, (j.stream st).atCut l.bound = true ∨ stuck st = true) →
    (∀ st ∈ StreamId.all, (j.stream st).pushes = []) → j.ops = [] → j.cmds = [] → s.abroad c j.handle l.bound = false →
    exec (.stuckWaitTrap c) s = .next ((StreamId.all.filter stuck).foldl (fun s st => s.raise c (trapRec 0x06
      (optCoordWord (maxCoord (j.heldCoords.filter (fun x => l.inside x)))) 0 0 ⟨st, ⟨(j.stream st).coord, (j.stream st).waitStage⟩, j.seq, (j.stream st).pc⟩)) s)) ∧
  (∀ (x : CoreId × Handle) (q : JobSlot), s.preempts.find? (fun x => x.1 = c) = some x → (s.core c).slot = some q → s.job c = some j →
    q.handle = x.2 →
    let gone : State := { s with preempts := s.preempts.erase x }
    ((q.state = .running ∨ q.state = .landing) →
      exec (.hardPreemption c) s = .next ((gone.setJob c (j.hardStop 0x10 (optCoordWord j.front))).markLanding c)) ∧
    (q.state = .stopped →
      exec (.hardPreemption c) s = .next (let x : Saving := ⟨q.part, q.handle, none, false, [c]⟩
        if s.saves.contains x then gone else { gone with saves := s.saves ++ [x] })))

/-- R93, R262, R297, R298, R301, R304: a free core chooses its first waiting job, a core-level one to start at once and another as a hold, and
drops its hold on any other; a launch that all of its cores hold starts on all of them together; waiting raises a job's level; a launch is
checked and offered and its status fills its entry; and a job that has reached RDV on every stream with nothing left ends, which frees its
queue entry. That each of these is one step of its own, and when it may take place, is the model's reading (logs 4, 42, 43, 51). -/
def Obligations.SchedulingEvents : Prop := ∀ (s u v : State) (c : CoreId) (j : Job),
  (∀ (i : Fin 8) (q : JobSlot), (s.core c).free = true → (s.core c).firstWaiting s.ftime = some (i, q) →
    let n := Nat.min 3 (q.base.toNat + (s.ftime - q.entryTime).toNat / 80000)
    let held := s.setCore c { s.core c with
      slots := Vector.ofFn (fun m => ((s.core c).slots.get m).map (fun x =>
        if m = i then { x with state := .holding, cur := x.levelAt s.ftime, running := x.levelAt s.ftime }
        else if x.state = .holding then { x with state := .waiting } else x)) }
    q.levelAt s.ftime = BitVec.ofNat 2 n ∧
    (∀ r, q.launchLevel = 0 → held.clearLeft c i = (u, true) → (u.core c).slots.get i = some r → u.startJob c i r = some v →
      exec (.jobChoice c) s = .next { v with jobs := v.jobs.map (fun g => if g.handle = q.handle then { g with started := true } else g) }) ∧
    (q.launchLevel ≠ 0 → exec (.jobChoice c) s = .next held)) ∧
  (∀ (g : Group), s.jobs.find? (fun x => x.handle = g.handle) = some g →
    let slots := g.cores.filterMap (fun c => ((s.core c).slotOf g.handle).map (fun x => (c, x.1, x.2)))
    let held := slots.filter (fun x => decide (x.2.2.state = .holding))
    held ≠ [] → (∀ x ∈ slots, x.2.2.state ≠ .waiting) → (∀ x ∈ held, (s.core x.1).free = true) →
    (∀ x ∈ held, ∀ y, (s.core x.1).firstWaiting s.ftime = some y → y.1 = x.2.1) → (∀ x ∈ held, (s.core x.1).left x.2.1 = none) →
    (if g.level.toNat < 2 then u = s else s.allocCrews g.handle g.cores = some u) →
    held.foldlM (fun (t : State) x => t.startHeld g.handle x.1) u = some v →
    exec (.launchStart g.handle) s = .next { v with jobs := v.jobs.map (fun x => if x.handle = g.handle then { x with started := true } else x) }) ∧
  (∀ (i : BitVec 3) (q : JobSlot), (s.core c).slots.get i.toFin = some q → (q.state = .waiting ∨ q.state = .holding) →
    let n := Nat.min 3 (q.base.toNat + (s.ftime - q.entryTime).toNat / 80000)
    exec (.jobAging c i) s = .next (s.setSlot c i.toFin (some { q with cur := BitVec.ofNat 2 n }))) ∧
  (∀ (n : Nat) (l : Launch), s.launches[n]? = some l →
    (l.answer = none → exec (.launchOffer n) s = .next { (s.offer l).1 with
      launches := (s.offer l).1.launches.set n { l with answer := some (s.offer l).2 } }) ∧
    (∀ w, l.answer = some w → s.job l.core = some j → j.handle = l.handle →
      exec (.spawnStatusFill n) s = .next ((State.fillEntryOf { s with launches := s.launches.eraseIdx n } l.core l.handle l.org.st l.entry w
        .none).recordArrival l.core l.org 7 w false))) ∧
  (∀ (q : JobSlot) (g : Group), u = s.settleFront c → u.job c = some j → (u.core c).slot = some q → q.state = .running →
    u.jobDone c j = true →
    v = State.freeJobBlocks ((((u.pokeTiles c j).traceRelease c).endOn c).keepContext c j.handle) c j.handle →
    (v.jobs.map (fun (g : Group) => if g.handle = j.handle then g.ended c j else g)).find? (fun g => g.handle = j.handle) = some g →
    let w : State := { v with
      jobs := v.jobs.map (fun (g : Group) => if g.handle = j.handle then g.ended c j else g) }
    let team := g.cores.filter (fun x => decide (x.val / 4 = c.val / 4))
    let freed := if team.all (fun x => g.done.contains x) then team.foldl (fun s x => s.leaveCore x g.handle) w else w
    exec (.jobEnd c) s = .next (if g.cores.all (fun x => g.done.contains x) then freed.complete g else freed))

/-- R252, R253, R257, R259, R266, R267, R307 to R309, R312: the supervisor enters its vectored entry with the interrupted address saved; an
armed timer fires; a semaphore's oldest waiter takes its units, or times out; a core's barrier arrival is counted, and its timed wait
ends; and the participants of a superstep pass at T0. That each of these is one step of its own, and when it may take place, is the
model's reading (logs 4, 28). -/
def Obligations.SynchronisationEvents : Prop := ∀ (s : State) (c : CoreId) (j : Job),
  (∀ (pn : PartId) (p : Partition), s.part pn = some p → s.job p.supcore = some j → j.handle = p.supHandle → p.evmask.getLsbD 8 = true →
    p.delivery = true → p.nextEvent ≠ none → (j.stream .c).phase = .issuing → (j.stream .c).wait = .none →
    (s.core p.supcore).slot.any (fun q => q.state = .running || q.state = .landing) = true →
    let k := if (j.stream .c).adv.any (fun a => a.loop.isNone) then j.undoLast .c else j
    exec (.eventEntry pn) s = .next ((s.setJob p.supcore (k.onStream .c (fun t => { t with
      pc := p.tvec
      adv := none
      wait := .none
      cause := 0
      tried := false }))).setPart pn (p.enter (k.stream .c).pc))) ∧
  (∀ (pn : PartId) (p : Partition), s.part pn = some p → p.armed = true →
    (s.ftime.toNat % 2 ^ 48 + 2 ^ 48 - p.evmask.toNat / 2 ^ 16) % 2 ^ 48 < 2 ^ 47 →
    exec (.timerFire pn) s = .next (s.setPart pn { p with timerFlag := true, armed := false })) ∧
  (∀ (cl : BitVec 6) (n : BitVec 8) (w : SemWaiter) (rest : List SemWaiter), (s.sem cl.toFin n).waiters = w :: rest →
    w.n ≤ (s.sem cl.toFin n).count → w.deadline.all (fun t => decide (s.ftime ≤ t)) = true → s.job w.core = some j →
    j.lives w.org.stamp.coord = true →
    let x := takeUnits w.n (s.sem cl.toFin n).units
    (w.shared = true ∨ unitAbove x.1 w.org.stamp.coord = none) →
    exec (.semaphoreWaitServed cl n) s = .next ((s.setSem cl.toFin n ⟨x.2, rest⟩).onJob w.core (fun j =>
      { j.served w (servedStatus s.ftime w.deadline) with
        semTaken := j.semTaken ++ [⟨n, x.1.map (fun u => (u.n, u.owner)), w.org.stamp.coord⟩] }))) ∧
  (∀ (w : SemWaiter),
    let late (w : SemWaiter) : Bool := decide (w.core = c) && w.deadline.any (fun t => decide (t < s.ftime))
    let cl := s.clusters.get (clusterOf c)
    cl.sems.toList.findSome? (fun m => m.waiters.find? late) = some w →
    exec (.semwtTimeout c) s = .next (State.onJob { s with
      clusters := s.clusters.set (clusterOf c) { cl with
        sems := cl.sems.map (fun (m : Sem) => { m with waiters := m.waiters.filter (fun x => !late x) }) } } c (fun j => j.served w 0))) ∧
  (∀ (crew : Bool) (u : State) (a : Arrival) (g : Group), u = s.settleFront c → u.job c = some j →
    j.arrivals.find? (fun a => a.sstep || a.crew = crew) = some a → u.jobs.find? (fun g => g.handle = j.handle) = some g →
    u.mayArrive c j a = true →
    let v := u.setJob c { j with arrivals := j.arrivals.filter (fun x => x.org.seq ≠ a.org.seq) }
    let l := if g.ssteps.contains c then g.ssteps else g.ssteps ++ [c]
    (a.sstep = true → a.a < g.t0s.length → exec (.barrierArrival c crew) s = .next v) ∧
    (a.sstep = true → g.t0s.length ≤ a.a → exec (.barrierArrival c crew) s = .next { v with
      jobs := v.jobs.map (fun x => if x.handle = g.handle then
        (if g.cores.all (fun x => l.contains x) then { g with ssteps := [], t0s := g.t0s ++ [ceil256 u.ftime] } else { g with ssteps := l }) else x) }) ∧
    (∀ b, a.sstep = false → crew = false → v.sharedBlock (clusterOf c) j.handle = some b →
      let k := u.block (clusterOf c) b
      let members := g.cores.filter (fun x => decide (x.val / 4 = c.val / 4))
      let x := countArrival k.phase k.arrived c a.a members
      exec (.barrierArrival c crew) s = .next ((v.setBlock (clusterOf c) b { k with phase := x.1, arrived := x.2 } false).passBarr
        j.handle false members))) ∧
  (∀ (k : Bool) (ph : Option Nat) (d : Word), s.job c = some j → (j.stream .c).wait = .barr k ph (some d) → d < s.ftime →
    exec (.barrierTimeout c) s = .next (s.setJob c (j.onStream .c (fun x => { x with wait := .barrServed 0 })).stir)) ∧
  (∀ (g : Group) (t0 : Word), s.jobs.find? (fun x => x.handle = g.handle) = some g → g.cores = [c] → s.job c = some j →
    j.handle = g.handle → (j.stream .c).wait = .sstep → g.t0s[j.arrStep - 1]? = some t0 → t0 ≤ s.ftime →
    exec (.superstepPassage g.handle) s = .next (s.setJob c (j.onStream .c (fun x => { x with wait := .sstepPassed t0 })).stir))

/-! ### Work that has left a core (R103, R112, R116, R117, R249, R276, R286, R290, R310, R311, R356) -/

/-- R103, R116, R117, R246, R276, R281, R356: a remote store is written at its target and raises its flag; an accumulation adds there; an
atomic on an accumulator word reads, changes and writes it and answers; a read is answered with its bytes; and a request that fails or
times out marks the entry it was to fill, or makes the job of a store land. R356: a request takes 10 µs × TOUT of its group at most while that
drains, and 1 ms otherwise. That each of these is one step of its own, and when it may
take place, is the model's reading (logs 4, 46, 47, 49, 86). -/
def Obligations.RemoteRequests : Prop :=
  (∀ (s : State) (n : Nat) (r : Remote), s.remotes[n]? = some r → r.way.isSome = true →
    let gone : State := { s with remotes := s.remotes.eraseIdx n }
    (s.behind n r = false → s.failed r = none → s.holdsBack r = false →
      (s.fenced r = false →
        (∀ bs bad flag acc l f, r.kind = .store bs bad flag acc → s.targetRun r.part r.ga bs.length acc = .ok l →
          s.flagTarget r.part r.ga flag = .ok f →
          (s.refusesRun r.part r.handle l = true →
            exec (.remoteStoreApply n) s = .next (gone.failLate r.core r.handle ⟨0x08, r.org, 4, 0, r.ga, 0⟩)) ∧
          (s.refusesRun r.part r.handle l = false → l.any s.logged = false → s.logged (f, 4) = false →
            exec (.remoteStoreApply n) s = .next (if acc then (gone.addRun l bs).raiseFlag f else (gone.putRun r.part l bs bad).raiseFlag f))) ∧
        (∀ bs bad t, r.kind = .plain bs bad → s.target r.part r.ga bs.length = .ok t → s.logged (t, bs.length) = false →
          exec (.remoteStoreApply n) s = .next (gone.putTarget t bs bad)) ∧
        (∀ op v c ext key co, r.kind = .atomic op v c ext → s.accTarget r.part r.ga 4 = .ok (.here key co) → s.logged (.here key co, 4) = false →
          s.atomicLate r ext = false →
          let old : BitVec 32 := BitVec.ofNat 32 (leNat (memBytes s.mem key 4))
          exec (.remoteStoreApply n) s = .next ((s.putTarget (.here key co) (leBytes 4 (atomicNew op old v c).1.toNat) false).answer n r
            (atomicOld old (atomicNew op old v c).2) .none))) ∧
      (∀ ty key co, r.kind = .read ty → s.target r.part r.ga (tyBytes ty) = .ok (.here key co) →
        (∀ c, co = some c → s.veiled r.core r.handle c (key - poolKey c 0) (tyBytes ty) = false) →
        let g : Got := ⟨s.readFor r key (tyBytes ty), none⟩
        exec (.remoteRead n) s = .next (s.answer n r (extendElem ty.toNat g.nat) g.mark))) ∧
    (∀ reason : BitVec 16,
      (∀ x, s.failed r = some x → exec (.remoteFailure n reason) s = .next (s.fail n r x)) ∧
      (s.failed r = none → s.holdsBack r = false → s.leaves r = true → (∀ pa op v c, r.kind ≠ .hostAtomic pa op v c) → r.mayFail reason = true →
        exec (.remoteFailure n reason) s = .next (s.fail n r reason)) ∧
      (∀ pa op v c, s.failed r = none → s.holdsBack r = false → r.kind = .hostAtomic pa op v c → 1 ≤ reason.toNat → reason.toNat ≤ 10 →
        exec (.remoteFailure n reason) s = .next (s.fail n r reason))) ∧
    (∀ w, r.way = some w → (s.limit w ≤ (s.ftime - r.sentAt).toNat ∨ s.dropped w = true) →
      exec (.requestTimeout n) s = .next (s.fail n r 0x0003)) ∧
    (∀ bs bad flag acc reason, r.kind = .store bs bad flag acc → s.fail n r reason = gone.failStore r.core r.handle r.org r.ga reason)) ∧
  (∀ (s : State) (w : Way), (∀ g, w.group = some g → (s.groups.get g.toFin).drains = true → s.limit w = 12500 * (s.groups.get g.toFin).tout.toNat) ∧
    ((∀ g, w.group = some g → (s.groups.get g.toFin).drains = false) → s.limit w = 1250000))

/-- R112, R249, R286, R288, R290, R311, R347: a SEND's next chunk leaves in the first owned and empty slot, goes on from a router in one, and is
written at its target when it arrives; one that fails, or is out for the time that R356 gives, makes its job land; a PUB exchanges the images
of its buffer; a TLBI drops the translations in its scope and answers 1 once the stores made by them are performed; a write that waited for
a log entry is made; and the scrubber poisons a line that cannot be corrected.
R318: a write that passes the gate is applied at its home and forwarded to the copies; an update changes a copy, and update and tick move
the clock; a fetch is answered with the line and the home's clock; and the line fills the reader's copy. R288: a write to a PUBLISH page takes
the image that is the shadow when it arrives. That each of these is one step of its own, and when it may take place, is the model's reading
(logs 4, 24, 48, 78). -/
def Obligations.ServiceAndFleetEvents : Prop :=
  (∀ (s : State) (n : Nat),
    (∀ (c : CoreId) (id : Nat) (x : Sending), s.sendings.find? (fun x => decide (x.core = c ∧ x.id = id)) = some x →
      s.spreadBefore x.core x.handle (fun o => decide (o.seq < x.fence)) = false →
      let ga := x.ga + BitVec.ofNat 64 x.sent
      let k := Nat.min 64 (x.n - x.sent)
      let b := s.chunkBytes x k
      (∀ w l p t, s.sendWay x = .ok (some (w, l, p)) → s.departure x = some t → t ≤ s.ftime.toNat → s.slotFirst t none (some x) = true →
        let leaves (y : Chunk) : Prop := exec (.sendChunkDeparture c id) s =
          .next (State.numbered { s with chunks := s.chunks ++ [y], sendings := s.sentOne x t } (dieOf c) (ga.toNat / 2 ^ 48) w)
        leaves (s.chunkOf x t w l p) ∧
        (∀ stop, l = .target stop →
          let hops := hopsFrom x.ccw (stopOf x.core) stop
          leaves { core := x.core, handle := x.handle, part := x.part, sendId := x.id, org := x.org, ga := ga, bs := b.1, bad := b.2
                   last := decide (x.n ≤ x.sent + k), ccw := x.ccw, legs := [⟨ringOf (dieOf x.core) x.ccw, stopOf x.core, hops, t⟩]
                   die := dieOf x.core, stop := stop, arrives := t + 2 * hops + 8, final := true, packet := p, way := w
                   epoch := s.module.routeEpoch, sentAt := s.ftime, tick := s.tick })) ∧
      (∀ r, s.sendWay x = .error r → exec (.sendChunkDeparture c id) s =
        .next (State.failStore { s with sendings := s.sendings.erase x } x.core x.handle x.org x.ga r))) ∧
    (∀ (x : Chunk), s.chunks[n]? = some x →
      let gone : State := { s with
        chunks := s.chunks.eraseIdx n
        legs := (s.legs ++ x.legs).filter (fun l => decide (s.ftime.toNat ≤ l.left + 32)) }
      (∀ t l p, x.arrives ≤ s.ftime.toNat → x.final = false → s.chunkLeads x = .ok (some (l, p)) → s.onward x = some t → t ≤ s.ftime.toNat →
        s.slotFirst t (some (x, n)) none = true →
        exec (.sendChunkArrival n) s = .next { s with chunks := s.chunks.set n (s.chunkOn x t l p) }) ∧
      (∀ r, x.arrives ≤ s.ftime.toNat → x.final = false → s.chunkLeads x = .error r →
        exec (.sendChunkArrival n) s = .next (gone.failStore x.core x.handle x.org x.ga r)) ∧
      (∀ l, x.arrives ≤ s.ftime.toNat → x.final = true → s.chunkBehind n x = false → s.dropped x.way = false →
        s.targetRun x.part x.ga x.bs.length false = .ok l → s.refusesRun x.part x.handle l = false → l.any s.logged = false →
        exec (.sendChunkArrival n) s = .next ((gone.putRun x.part l x.bs x.bad).settleFront x.core)) ∧
      ((s.limit x.way ≤ (s.ftime - x.sentAt).toNat ∨ s.dropped x.way = true) →
        exec (.requestTimeout (s.remotes.length + n)) s = .next (gone.failStore x.core x.handle x.org x.ga 0x0003))) ∧
    (∀ (x : Service), s.services[n]? = some x →
      (∀ b, x.kind = .pub b → s.fleet.any (fun m => (m.shadowOf x.core x.handle).any (fun o => decide (o.st = x.org.st ∧ o.seq < x.id))) = false →
        exec (.pubFlip n) s = .next (State.flipImages { s with services := s.services.eraseIdx n } b)) ∧
      (∀ (tenant : Bool) (scope : BitVec 3) (a : Word), x.kind = .tlbi tenant scope a →
        (∀ l, x.waits = some l → (∀ y ∈ l, s.unperformed y = false) → exec (.tlbiExecute n) s =
          .next (State.fillEntryOf { s with services := s.services.eraseIdx n } x.core x.handle x.org.st x.id 1 .none)) ∧
        (x.waits = none → s.fleet = [] → s.remotes = [] →
          let hit (t : TlbEntry) : Bool := decide (t.part = x.part) && t.inScope x.core scope.toNat &&
            (tenant || decide (t.va ≤ a.toNat ∧ a.toNat < t.va + t.size))
          let l := s.translated x.part (fun c => coreInScope c x.core scope.toNat) (fun p => tenant || decide (p / 65536 = a.toNat / 65536) ||
            (s.tlb.filter hit).any (fun t => decide (t.va ≤ p ∧ p < t.va + t.size)))
          let y : Service := { x with waits := some l }
          let u : State := { s with
            services := s.services.set n y
            tlb := s.tlb.filter (fun t => !hit t)
            walker := s.walker.filter (fun e => !(decide (e.part = x.part) && e.inScope x.core scope.toNat && (tenant || e.covers a.toNat))) }
          exec (.tlbiExecute n) s = .next (if l.any u.unperformed then u else
            State.fillEntryOf { u with services := u.services.eraseIdx n } x.core x.handle x.org.st x.id 1 .none)))) ∧
    (∀ (w : LogWait), s.logWaits[n]? = some w →
      (∀ c p, w.place = .pool c p → s.logged (.here (poolKey c p) (some c), w.bs.length) = false →
        exec (.logWaitRelease n) s = .next (State.pokeClear { s with logWaits := s.logWaits.eraseIdx n } (poolKey c p) w.bs)) ∧
      (∀ pa, w.place = .mem pa → exec (.logWaitRelease n) s = .next (State.pokeHome { s with logWaits := s.logWaits.eraseIdx n } pa w.bs))) ∧
    (∀ (d : DieId) (line : Nat), (exec (.patrolScrub d line false) s = .next s) ∧
      (line * 64 < 0x1800000000 →
        exec (.patrolScrub d line true) s = .next ((s.poisonRun (d.val * 2 ^ 48 + line * 64) 64).report (.patrol d line))))) ∧
  (∀ (s : State) (n : Nat),
    let gone : State := { s with fleet := s.fleet.eraseIdx n }
    let free (a b : DieId) : Prop := s.carries (fun _ => true) a b = true
    (∀ src home line off bs v bad whole pub by_, s.fleet[n]? = some (.write src home line off bs v bad whole pub by_) →
      (s.dies.get home).gate v home src = true → free src home →
      let pa := s.writePa (.mem (line * 64 + off) pub false false)
      let poked := gone.pokeClear pa bs
      let u := if bad then poked.poisonRun pa bs.length else if whole then poked.cleanLine (pa / 64) else poked
      let v' := (u.setCount home src v).forward home src pa bs v by_
      (pub = none → pa = line * 64 + off ∧ exec (.fleetWriteArrival n) s = .next v') ∧
      (∀ i x, pub = some i → by_ = some x → exec (.fleetWriteArrival n) s = .next (v'.settleFront x.core))) ∧
    (∀ dst src line off bs v bad by_, s.fleet[n]? = some (.update dst src line off bs v bad by_) → (s.dies.get dst).gate v dst src = true →
      s.queuedBefore n (dst, line) = false → free (homeOf line) dst →
      let d := s.dies.get dst
      exec (.fleetUpdateArrival n) s = .next (State.setCount { gone with
        dies := s.dies.set dst { d with cache := d.cache.map (fun l => if l.line = line then
          { l with bytes := l.bytes.take off ++ bs ++ l.bytes.drop (off + bs.length), bad := bad } else l) } } dst src v)) ∧
    (∀ dst src v by_, s.fleet[n]? = some (.tick dst src v by_) → (s.dies.get dst).gate v dst src = true → free src dst →
      exec (.fleetUpdateArrival n) s = .next (gone.setCount dst src v)) ∧
    (∀ src home line q, s.fleet[n]? = some (.fetch src home line q) → (s.dies.get home).reached q home = true → free src home →
      let h := s.dies.get home
      exec (.fleetFetch n) s = .next { s with
        dies := s.dies.set home { h with directory := if h.directory.contains (line, src) then h.directory else (line, src) :: h.directory }
        fleet := s.fleet.eraseIdx n ++ [.line src home line (memBytes s.mem (line * 64) 64) h.clock (s.poisonAt (line * 64) 64).isSome] }) ∧
    (∀ dst home line bs v bad, s.fleet[n]? = some (.line dst home line bs v bad) → (s.dies.get dst).reached v dst = true →
      s.queuedBefore n (dst, line) = false → free home dst →
      let d := s.dies.get dst
      let rest := d.cache.filter (fun l => l.line ≠ line)
      rest.length < fleetLines →
      exec (.fleetFetchReceipt n) s = .next { s with fleet := s.fleet.eraseIdx n, dies := s.dies.set dst { d with cache := rest ++ [⟨line, bs, bad⟩] } }))

/-! ### The host port and the debug window (R241, R325 to R329, R341, R392 to R397) -/

/-- R241, R325 to R329, R338, R339, R341: a whole message enters a mailbox with room and sets its flag, and is counted where it is broken or the
box is full; a request for Brim waits in its mailbox; a host write of owned DRAM is made in all its sectors (after it, records that have waited for room in the trace ring may enter it,
R394), and a read changes nothing; a host AtomicOp changes an accumulator word, once no AWAIT that came over the fabric waits there (R248);
PCTL resumes or restarts a stopped supervisor; VF Enable and the steps of a teardown. That each of these is one step of its own, and when it
may take place, is the model's reading (logs 4, 50, 61); the model's choices too are the handle of a restarted supervisor (log 41), how a
teardown falls into steps (log 64), and which functions and mailboxes take a message when (log 82). -/
def Obligations.HostEvents : Prop := ∀ (s : State) (pn : PartId) (p : Partition),
  (∀ (n : BitVec 4) (msg : List Byte) (whole : Bool), s.module.vfEnable = true → s.part pn = some p → p.tearing = 0 → p.pstate.toNat < 3 →
    s.logWaits.any (fun w => w.by_ = some pn) = false →
    let box := p.mailboxes.get n.toFin
    (whole = true → msg.length = 64 → box.length < 8 → exec (.mailboxWrite (some pn) n msg whole) s = .next (s.setPart pn { p with
      mailboxes := p.mailboxes.set n.toFin (box ++ [msg])
      mbxFlags := p.mbxFlags ||| (1 <<< n.toNat) })) ∧
    (whole = true → msg.length = 64 → 8 ≤ box.length →
      exec (.mailboxWrite (some pn) n msg whole) s = .next (s.setPart pn { p with ovfcnt := p.ovfcnt + 1 })) ∧
    ((whole = false ∨ msg.length ≠ 64) → exec (.mailboxWrite (some pn) n msg whole) s = .next (s.setPart pn { p with badcnt := p.badcnt + 1 }))) ∧
  (∀ (n : BitVec 4) (msg : List Byte) (m : Fin 4), 3 ≤ s.module.step → n.toNat = m.val → msg.length = 64 →
    (s.module.requests.get m).length < 8 → exec (.mailboxWrite none n msg true) s = .next { s with
      module := { s.module with requests := s.module.requests.set m.val (s.module.requests.get m ++ [(msg, s.ftime)]) m.isLt } }) ∧
  (∀ a len, exec (.hostBar2Access pn a none len) s = .next s) ∧
  (∀ (a len key : Nat) (bs : List Byte), s.vf pn = some p → p.down = false → pieces a bs.length = [(a, bs.length)] →
    s.hostKey pn p .w a bs.length = some (.here key none) →
    exec (.hostBar2Access pn a (some bs) len) s = .next ((s.pokeHome key (bs.take bs.length)).traceWake pn)) ∧
  (∀ (a key : Nat) (op : BitVec 2) (f : AOp) (v c : BitVec 32) (e : Word) (lvl : Nat) (co : Option CoreId), s.vf pn = some p → p.down = false →
    hostOp op = some f → a % 4 = 0 → s.hostLeaf pn p .rw a = some (e, lvl) → ptApl e = 2 → ptPa e = 0 →
    s.hostKey pn p .rw a 4 = some (.here key co) → s.poisonAt key 4 = none → s.logged (.here key co, 4) = false →
    s.awaitAhead (keyCore key) .fabric (fun _ _ _ => true) = false →
    exec (.hostAtomicop pn a op 32 v c) s = .next (s.pokeClear key (leBytes 4 (atomicNew f (BitVec.ofNat 32 (leNat (memBytes s.mem key 4))) v c).1.toNat))) ∧
  (∀ v, exec (.hostRegisterWrite none 0x408 v) s = .next { s with module := { s.module with brrd := v } }) ∧
  (s.vf pn = some p → p.pstate = 2 →
    exec (.hostRegisterWrite (some pn) 0x880 1) s = exec (.pctlResume pn) s ∧
    exec (.hostRegisterWrite (some pn) 0x880 2) s = exec (.pctlRestart pn) s ∧
    exec (.pctlResume pn) s = .next ((s.resumeLaunch p.supHandle).1.onPart pn (fun p => { p with pstate := 1 })) ∧
    (∀ t, s.module.brimUp = true → (s.endSup p).startSup pn (p.supHandle.toNat / 2 ^ 13 + 1) = some t →
      exec (.pctlRestart pn) s = .next t) ∧
    (s.module.brimUp = false → exec (.pctlRestart pn) s = .next (s.setPart pn { p with restartAsked := true }))) ∧
  (3 ≤ s.module.step →
    exec (.vfEnable true) s = .next { s with module := { s.module with vfEnable := true } } ∧
    exec (.vfEnable false) s = .next { s with
      module := { s.module with vfEnable := false }
      parts := s.parts.map (fun x => x.map (fun p => if p.pstate.toNat < 3 then { p with pstate := 3, tearing := 1 } else p)) }) ∧
  (s.part pn = some p →
    (p.tearing = 3 → exec (.vfTeardown pn) s = .next (s.setPart pn { p with
      tearing := 4
      ovfcnt := p.ovfcnt + BitVec.ofNat 64 p.unread
      mailboxes := Vector.replicate 16 []
      mbxTaken := [] })) ∧
    (p.tearing = 5 → exec (.vfTeardown pn) s = .next ((s.dropJobs pn p).onPart pn (fun p => { p with
      tearing := 0
      pstate := 4
      mitten := []
      ckBusy := none
      events := []
      eventsWait := [] }))))

/-- R329, R392, R393, R396, R397: the debug window takes TCTL, and TRBASE and TRSIZE while tracing is off; DBGSTOP places a request of origin 1;
the timed trigger fires at TRIGAT; and a core of the partition captures its group of records once the trigger's time has come. That each
of these is one step of its own, and when it may take place, is the model's reading (logs 4, 52, 53). -/
def Obligations.DebugEvents : Prop := ∀ (s : State) (pn : PartId) (p : Partition) (v : Word), s.part pn = some p →
  (s.module.vfEnable = true → p.tearing = 0 → p.pstate.toNat < 3 →
    exec (.tctl pn v) s = .next (s.setPart pn { p with tctl := v &&& 0xE000000000000F7C }) ∧
    (p.tctl.getLsbD 63 = false → v.toNat % 64 = 0 → exec (.trbase pn v) s = .next (s.setPart pn { p with trbase := v })) ∧
    (p.tctl.getLsbD 63 = false → ∀ n, n < 17 → v = BitVec.ofNat 64 (2 ^ (8 + n)) → exec (.trsize pn v) s = .next (s.setPart pn { p with trsize := v })) ∧
    (p.tctl.getLsbD 63 = true → exec (.trbase pn v) s = .next (s.setPart pn p) ∧ exec (.trsize pn v) s = .next (s.setPart pn p)) ∧
    (∀ j, s.job (coreOf p.dbgcore.toNat) = some j → j.part = pn →
      exec (.dbgstop pn v) s = .next (s.stopAt (coreOf p.dbgcore.toNat) j.handle v
        { coord := wordCoord v, brk := v.getLsbD 62, kind := if v.getLsbD 62 then 5 else 1, origin := 1, st := .c, unit := 5, stage := 0, tag := 0,
          pc := 0, soft := none }))) ∧
  (p.trigArmed = true → p.trigat ≤ s.ftime →
    exec (.trigat pn) s = .next { State.onPart (State.fireTrigger { s with ftime := p.trigat } pn (BitVec.ofNat 5 (Config.freeWord s.tick 52).toNat) none).1 pn
      (fun p => { p with trigArmed := false }) with ftime := s.ftime }) ∧
  (∀ (c : CoreId) (t : Trigger) (q : JobSlot) (j : Job), p.trigger = some t → t.time ≤ s.ftime → c ∈ t.left → p.tctl.getLsbD 3 = true →
    (s.core c).slot = some q → s.job c = some j → j.part = pn → (q.state = .running ∨ q.state = .landing ∨ q.state = .stopped) →
    exec (.snapshotCapture pn c) s = .next ((s.setPart pn { p with
      trigger := some { t with left := t.left.filter (fun x => x ≠ c) } }).captureGroup pn c j t))

/-! ### Mitten, Brim, Crown and bring-up (R238, R322, R329, R331 to R342, R418) -/

/-- R238, R329, R331 to R342: Mitten takes up a command and completes a save; a governor window, a measurement, a nonce and a quote; Brim's
requests with their replies; the recovery path; and the steps of bring-up, after which every die link is up and every group is aligned. That
each of these is one step of its own, and when it may take place, is the model's reading (logs 4, 54 to 59); the model's choices too are what
CREATE_PARTITION's plan writes (log 77) and the handle of the supervisor that it starts (log 41). -/
def Obligations.ModuleEvents : Prop := ∀ (s t : State) (pn : PartId) (p : Partition),
  (∀ (m : MittenCmd) (rest : List MittenCmd), s.part pn = some p → p.mitten = m :: rest → m.taken = false →
    let n := s.mittenResult pn m
    let u (live : Bool) : State := State.putResult { s.setPart pn { p with mitten := { m with taken := true } :: rest } with
      saves := s.saves ++ [⟨pn, m.handle, some m.slot, live, if n = 0 then (s.setPart pn { p with
        mitten := { m with taken := true } :: rest }).stoppedCores m.handle else []⟩] } pn m.slot n
    (m.op ≠ 2 → exec (.mittenSave pn m.slot) s = .next (u false)) ∧ (m.op = 2 → exec (.mittenSavelive pn m.slot) s = .next (u true))) ∧
  (∀ (n : Nat) (x : Saving), s.saves[n]? = some x → x.slot = none → s.saveAll x.handle false x.cores = .ok t →
    exec (.mittenSaveDone n) s = .next { t with saves := t.saves.eraseIdx n }) ∧
  (∀ (n k : Nat) (x : Saving), s.saves[n]? = some x → x.slot = some k → s.saveAll x.handle x.live x.cores = .ok t →
    exec (.mittenSaveDone n) s = .next (State.endCommand { t with saves := t.saves.set n { x with cores := [] } } n { x with cores := [] })) ∧
  (∀ c, (s.ftime.toNat % 1250 = 0 → ∃ b : Nat, b ≤ 1250 ∧ 125 ≤ b ∧ ∃ src,
      exec (.governorWindow c) s = .next (s.setCore c { s.core c with budget := BitVec.ofNat 11 b, govsrc := src })) ∧
    (s.ftime.toNat % 1250 ≠ 0 → exec (.governorWindow c) s = .next s)) ∧
  (∀ power temps, exec (.powerMeasurement power temps) s = .next { s with module := { s.module with power := power, temps := temps } }) ∧
  (∀ nonce : List Byte, nonce.length = 32 →
    exec (.attestationNonce none nonce) s = .next { s with module := { s.module with nonce := nonce, quoteReady := false } } ∧
    (s.vf pn = some p → exec (.attestationNonce (some pn) nonce) s = .next (s.setPart pn { p with nonce := nonce, quoteReady := false }))) ∧
  (s.part pn = some p → p.quoteReady = false → p.nonce.length = 32 →
    let quote := s.module.crownQuote s.tick (pn.val + 1) p.nonce (p.record pn)
    exec (.quoteReady (some pn) quote) s =
      .next (State.setPart { s with module := s.module.signed } pn { p with quote := quote, quoteReady := true })) ∧
  (s.brim = true → ∀ (r : List Byte) (m : Fin 4), s.module.asked r = some m →
    let w : State := { s with module := { s.module with requests := s.module.requests.set m.val (s.module.requests.get m).tail m.isLt } }
    (∀ plan u, reqOk 0x01 22 r = true → req r 8 8 ≠ 0 → w.freePart = some pn →
      let clmask := BitVec.ofNat 64 (req r 8 8)
      w.planFree clmask (fun d => req r (16 + 2 * d) 2) (maskGroups (req r 24 2)) plan = true →
      u = w.carryOut pn clmask (maskGroups (req r 24 2)) plan → u.planMapped pn plan = true → u.startSup pn 1 = some t →
      exec (.createPartition r plan) s = .next (t.reply r 0 (leBytes 1 pn.val ++ leBytes 1 (pn.val + 1)))) ∧
    (reqOk 0x02 1 r = true → req r 8 1 < 32 → pn = partOf (req r 8 1) → s.part pn = some p → s.module.vfEnable = false → p.tearing = 0 →
      let u := (w.dropJobs pn p).zeroUnits ((s.owners.filter (fun o => o.2 = pn)).map Prod.fst)
      let v := u.freeGroups pn
      exec (.destroyPartition r) s = .next (State.reply { v with
        owners := v.owners.filter (fun o => o.2 ≠ pn)
        parts := v.parts.set pn none } r 0 [])) ∧
    (reqOk 0x03 0 r = true → exec (.readTelemetry r) s = .next (w.reply r 0 (leBytes 4 s.module.power.toNat ++
      [0, 1, 2, 3].flatMap (fun i => leBytes 2 (s.module.temps.getD i 0).toNat) ++ leBytes 2 s.module.feed.toNat))) ∧
    (∀ g : Fin 16, reqOk 0x04 2 r = true → req r 8 1 = g.val → req r 9 1 < 3 → (s.groups.get g).assigned = none →
      (req r 9 1 = 1 → s.module.groupOff g.val = false) →
      let u := w.setGroup g { s.groups.get g with persReq := BitVec.ofNat 4 (req r 9 1) }
      exec (.setPersonality r) s = .next (u.reply r 0 (leBytes 8 (egstat (u.groups.get g)).toNat))) ∧
    (reqOk 0x05 5 r = true → req r 8 2 < 2 ^ 14 → req r 10 1 % 2 = 0 → 2 ≤ req r 10 1 → req r 11 1 % 2 = 0 → 2 ≤ req r 11 1 → 1 ≤ req r 12 1 →
      s.torusUp = false → exec (.setNode r) s = .next (State.reply { w with module := { w.module with
        node := BitVec.ofNat 14 (req r 8 2)
        dx := BitVec.ofNat 8 (req r 10 1)
        dy := BitVec.ofNat 8 (req r 11 1)
        dz := BitVec.ofNat 8 (req r 12 1) } } r 0 []))) ∧
  (∀ x, s.module.brimUp = true → (∃ l ∈ s.module.requests.toList, x ∈ l) → 125000000 ≤ (s.ftime - x.2).toNat →
    exec .brimTimeout s = .next (State.raiseRecovery { s with module := { s.module with
      brimUp := false
      recOpen := true
      recResult := 0
      recBytes := [] } })) ∧
  (∀ msg : List Byte, s.module.recOpen = true → msg.length = 64 →
    let m := s.module
    let bytes := m.recBytes ++ msg
    exec (.recoveryMessage msg) s = .next (match Config.imageLength bytes with
      | none => { s with module := { m with recBytes := bytes, recResult := 0 } }
      | some n => if bytes.length < n then { s with module := { m with recBytes := bytes, recResult := 0 } } else match refusal (bytes.take n) with
        | some r => { s with module := { m with recBytes := [], recResult := r } }
        | none => State.restartsDue (State.raiseRecovery
            { s with module := { m.runs (bytes.take n) with recBytes := bytes, recResult := 1, recOpen := false } }))) ∧
  (s.module.step = 0 →
    (s.module.brimUp = true → exec .powerGood s = .next { s with module := { s.module with step := 1 } }) ∧
    (s.module.brimUp = false → s.module.recOpen = false → exec .powerGood s = .next (match refusal Config.brimImage with
      | none => { s with module := { s.module.runs Config.brimImage with step := 1 } }
      | some _ => s.openRecovery))) ∧
  (s.module.step = 1 → ∃ (f : Word) (feed : BitVec 16), exec .powerGood s = .next { s with
    dieLinks := s.trainLinks
    groups := s.groups.map (fun g => { g with talign := true })
    mem := zeroDram s.mem
    ftime := f
    module := { s.module with step := 2, feed := feed } }) ∧
  (∀ n : Fin 16, (s.trainLinks.get n).state = 2 ∧ (s.trainLinks.get n).width = 16 ∧ (s.trainLinks.get n).speed = 1) ∧
  (s.module.step = 2 → exec .powerGood s = .next { s with module := { s.module with step := 3 } })
/-! ### The fabric (R346, R352, R359 to R367) -/

namespace Sys2Proof.Claims

/-- A control flit of a type that authenticates at a port which talks (R362): the port is x, and y is x with no failure counted. -/
def accepted (s : State) (g : BitVec 5) (type : Nat) (bs : List Byte) (x y : Group16) : Prop :=
  s.port g = x ∧ x.talks = true ∧ s.authentic g bs = true ∧ flitNat bs 0 1 = type ∧ flitNat bs 1 1 = 1 ∧ y = { x with authFails := 0 }

end Sys2Proof.Claims

/-- R361 to R366: a control flit whose tag fails is dropped and counted, and the eighth in a row takes the link down with AUTH. A group's flit
authenticates under the key of its direction, or under the next one once that has been announced. A descriptor that agrees brings the link up,
and after three retries the greatest common configuration does; a swap that is asked for is announced for flit N, 64 ahead, and one that is
answered holds from flit N on; a key change is noted for flit N, and its answer lets the old key go; and a
change of personality is joined; a flit with the time of the package's master aligns it when the times are near. What a port does over a
die link, where the other end's flit has come, is the model's reading (log 62). Which package is the master, and its estimate of any other
time, is free (log 79). That each of these is one step of its own, and when it may take place, is the
model's reading (logs 4, 14, 62, 63). -/
def Obligations.ControlFlits : Prop := ∀ (s : State) (g : BitVec 5) (bs : List Byte) (x y : Group16),
  (g.toNat < 16 → (s.authentic g bs = true ↔ bs.length = 64 ∧ (bs.drop 48 = tagBytes g false (s.port g).rxEpoch.toNat (bs.take 48) ∨
    ((s.port g).rxKeyAt.isSome = true ∧ bs.drop 48 = tagBytes g false ((s.port g).rxEpoch + 1).toNat (bs.take 48))))) ∧
  (g.toNat < 16 → ∀ u : State, u.taken g = u) ∧
  (s.port g = x → x.talks = true → s.authentic g bs = false →
    let dropped : State := if 8 ≤ x.authFails + 1 then s.linkDown g x 5 else s.setPort g { x with authFails := x.authFails + 1 }
    exec (.lsd g bs) s = .next dropped ∧ exec (.swapreq g bs) s = .next dropped ∧ exec (.swapack g bs) s = .next dropped ∧
      exec (.keychg g bs) s = .next dropped ∧ exec (.keyack g bs) s = .next dropped) ∧
  (accepted s g 1 bs x y →
    let z : Group16 := { y with peer := (bs.drop 16).take 32 }
    let ends (u : State) : Prop := exec (.lsd g bs) s = .next (u.taken g)
    (x.state = 1 ∨ x.state = 3 ∨ x.state = 5) → x.width ≠ 0 → x.peer = [] → s.neighbours g z.peer = true →
    (z.agrees z.peer = true → ends (s.linkUp g z 2)) ∧
    (z.agrees z.peer = false → x.retry.toNat < 3 → ends (s.setPort g (z.retrain (x.retry + 1)))) ∧
    (z.agrees z.peer = false → 3 ≤ x.retry.toNat → (∀ w, z.common z.peer = .ok w → ends (s.linkUp g w 3)) ∧
      (∀ r, z.common z.peer = .error r → ends (s.linkDown g z r)))) ∧
  (accepted s g 2 bs x y → x.up = true → flitNat bs 16 1 < 16 →
    let lane := BitVec.ofNat 5 (flitNat bs 16 1)
    let n := x.txSeq + 64
    let ends (w : Group16) : Prop := exec (.swapreq g bs) s = .next ((s.setPort g w).taken g)
    (x.swapMap = lane → ends y) ∧
    (x.swapMap ≠ lane → x.swapMap ≠ 31 → x.swapAt = none → ends (y.retrain 0)) ∧
    (x.swapMap = 31 → x.swapAt = none → ends (({ y with swapAt := some (lane, n) } : Group16).send g 3 n.toNat (leBytes 1 lane.toNat)))) ∧
  (accepted s g 3 bs x y →
    let lane := BitVec.ofNat 5 (flitNat bs 16 1)
    exec (.swapack g bs) s = .next ((s.setPort g (if x.swapAsked = some lane then
      { y with rxSwapAt := some (lane, BitVec.ofNat 64 (flitNat bs 8 8)) } else y)).taken g)) ∧
  (accepted s g 4 bs x y →
    exec (.keychg g bs) s = .next ((s.setPort g (if BitVec.ofNat 32 (flitNat bs 16 4) = x.rxEpoch + 1 ∧ x.rxKeyAt = none then
      { y with rxKeyAt := some (BitVec.ofNat 64 (flitNat bs 8 8)) } else y)).taken g)) ∧
  (accepted s g 5 bs x y →
    (flitNat bs 16 4 ≠ x.epoch.toNat → exec (.keyack g bs) s = .next ((s.setPort g y).taken g)) ∧
    (flitNat bs 16 4 = x.epoch.toNat → ∀ n, x.keyAt = some n → x.txAcked < n →
      exec (.keyack g bs) s = .next ((s.setPort g { y with
        txAcked := n
        keyAt := none }).taken g))) ∧
  (∀ (n : Word) (lane : BitVec 5) (sent acked : Nat) (limit rx : Word),
    let a := x.sends sent acked limit
    let b := x.receives g rx
    (x.swapAt = some (lane, n) → if n ≤ a.txSeq then a.swapMap = lane ∧ a.swapAt = none else a.swapMap = x.swapMap ∧ a.swapAt = x.swapAt) ∧
    (x.keyAt = some n → a.keyAt = if a.txAcked < n then some n else none) ∧
    (x.rxSwapAt = some (lane, n) → if n ≤ rx then b.rxSwap = lane ∧ b.rxSwapAt = none else b.rxSwap = x.rxSwap ∧ b.rxSwapAt = x.rxSwapAt) ∧
    (x.rxKeyAt = some n → if n < rx then b.rxEpoch = x.rxEpoch + 1 ∧ b.rxKeyAt = none else b.rxEpoch = x.rxEpoch ∧ b.rxKeyAt = x.rxKeyAt)) ∧
  (∀ k : BitVec 4, g = portOf k →
    (accepted s g 6 bs x y → x.changing = false →
      let kind := BitVec.ofNat 4 (flitNat bs 16 1)
      let drop := BitVec.ofNat 64 (flitNat bs 24 8)
      exec (.persreq k bs) s = .next ((s.drain k.toNat).setPort g ((y.change kind drop).send g 7 x.txSeq.toNat
        (leBytes 8 kind.toNat ++ leBytes 8 drop.toNat)))) ∧
    (accepted s g 7 bs x y → exec (.persack k bs) s = .next (s.setPort g { y with acked := x.changing })) ∧
    (accepted s g 8 bs x y →
      let u := s.setPort g y
      let sent := BitVec.ofNat 64 (flitNat bs 16 8)
      let near : Bool := decide (u.ftime.toNat ≤ sent.toNat + 165 ∧ sent.toNat + 155 ≤ u.ftime.toNat)
      u.isMaster = false → flitNat x.peer 0 2 / 4 = u.masterNode →
      exec (.time k bs) s = .next (State.alignAll { u with module := { u.module with
        ahead := if u.ftime.toNat = sent.toNat + 160 then none else some (decide (sent.toNat + 160 < u.ftime.toNat)) } } near)))

/-- R346, R352, R359 to R367: a change of personality begins under Brim and drops its link at its time; a link comes up or goes down with a new
route epoch; a bad lane is swapped once; a key rotates; fabric time is sent; and a launch that a split has parted lands, then ends. That
each of these is one step of its own, and when it may take place, is the model's reading (logs 4, 62, 64). -/
def Obligations.FabricEvents : Prop := ∀ (s : State) (g : BitVec 5) (x : Group16),
  (∀ k : BitVec 4, x = s.groups.get k.toFin →
    (s.brim = true → x.changing = false → (x.persReq = 1 → s.module.groupOff k.toNat = false) → x.persReq ≠ x.pers →
      x.admits x.persReq = true → x.talks = false →
      exec (.personalityChange k) s = .next ((s.drain k.toNat).setPort (portOf k)
        (x.change x.persReq (s.ftime + BitVec.ofNat 64 (12500 * x.tout.toNat))))) ∧
    (x.changing = true → x.state = 4 → x.dropAt ≤ s.ftime → (∀ r ∈ s.remotes, r.way.bind Way.group ≠ some k) →
      (∀ r ∈ s.chunks, r.way.group ≠ some k) →
      let z : Group16 := { x with
        pers := x.persNew
        width := 0
        speed := 0
        enc := false
        retry := 0
        swapMap := 31
        rxSwap := 31
        swapAsked := none
        swapAt := none
        rxSwapAt := none
        peer := [] }
      (x.persNew = 0 → exec (.linkDrop k) s = .next (((s.setPort (portOf k) { z with state := 0, changing := false }).flipEmap k.toNat).newEpoch)) ∧
      (x.persNew ≠ 0 → exec (.linkDrop k) s = .next (s.setPort (portOf k) { z with state := 5 }))) ∧
    (x.talks = true → x.up = true →
      exec (.timeFlitSend k) s = .next (s.setPort (portOf k) (x.send (portOf k) 8 x.txSeq.toNat (leBytes 8 s.ftime.toNat))))) ∧
  (∀ (width : BitVec 8) (speed : BitVec 4), s.port g = x → (x.state = 1 ∨ x.state = 3 ∨ x.state = 5 ∨ x.state = 6) → x.width = 0 → x.pers ≠ 0 →
    speed ≠ 0 → width.toNat ∈ [1, 2, 4, 8, 16] → ∃ ok : BitVec 17,
    let y : Group16 := { x with
      width := width
      speed := speed.setWidth 8
      state := if x.state = 6 then 1 else x.state
      laneOk := ok }
    let z := y.send g 1 x.txSeq.toNat (s.descriptor g y)
    (x.pers = 1 → x.peer = [] → exec (.linkTrained g width speed) s = .next (s.setPort g z)) ∧
    (x.pers = 1 → x.peer ≠ [] → s.neighbours g x.peer = true → z.agrees x.peer = true → exec (.linkTrained g width speed) s = .next (s.linkUp g z 2)) ∧
    (x.pers ≠ 1 → exec (.linkTrained g width speed) s = .next (s.linkUp g y 2))) ∧
  (∀ reason : BitVec 8, s.port g = x → x.state ≠ 0 → x.state ≠ 6 → 1 ≤ reason.toNat → reason.toNat ≤ 6 →
    exec (.linkDown g reason) s = .next (s.linkDown g x reason)) ∧
  (∀ (lane : BitVec 5) (flits corrected eye : Nat), s.port g = x → x.talks = true → x.up = true → lane.toNat < 16 →
    (flits < corrected * 100000 ∨ eye < 20) → x.rxSwap = 31 → x.swapAsked = none →
    let y : Group16 := { x with laneOk := x.laneOk &&& ~~~((1 : BitVec 17) <<< lane.toNat), swapAsked := some lane }
    exec (.laneHealthSample g lane flits corrected eye) s = .next (s.setPort g (y.send g 2 x.txSeq.toNat (leBytes 1 lane.toNat)))) ∧
  (s.port g = x → x.up = true → x.keyAt = none →
    let n := x.txSeq
    let now (y : Group16) : Group16 := { y with
      epoch := x.epoch + 1
      keyAt := some n
      keyFrom := n }
    (x.talks = true → exec (.keyRotation g) s = .next (s.setPort g (now (x.send g 4 n.toNat (leBytes 4 (x.epoch.toNat + 1)))))) ∧
    (x.talks = false → x.pers = 2 → exec (.keyRotation g) s = .next (s.setPort g (now x)))) ∧
  (∀ (k : Group), s.jobs.find? (fun y => y.handle = k.handle) = some k → s.isSplit k = true →
    let u : State := { s with jobs := s.jobs.map (fun (y : Group) => if y.handle = k.handle then { y with linkLost := true } else y) }
    let running (c : CoreId) : Bool := (u.core c).lands && (u.job c).any (fun j => j.handle = k.handle)
    (k.cores.any running = true → exec (.fleetSplit k.handle) s = .next (k.cores.foldl (fun s c => if running c then
      (s.onJob c (fun j => j.hardStop 0x10 (optCoordWord j.front))).markLanding c else s) u)) ∧
    (k.cores.any running = false →
      let first := k.cores.headD 0
      let lost : Group := { k with linkLost := true }
      let last := if k.done.contains first then lost else match u.lastJob first k.handle with
        | some j => { lost with front := optCoordWord j.front, lastRec := j.traprec }
        | none => lost
      exec (.fleetSplit k.handle) s = .next (State.complete (k.cores.foldl (fun s c => s.leaveCore c k.handle)
        ((k.cores.filter (fun c => !k.done.contains c)).foldl (fun s c => s.loseJob k.handle k.part c) u)) last)))

/-! ### Cuff (R355, R368 to R374) -/

/-- R355, R368 to R374: a pairing is refused, adopted or completed; a store of the partner reaches memory and its generation's slot; a seal by
this keeper and its answer to this owner; CKSEAL fails its checks or begins its operation; and a restore and a dump end. That each of
these is one step of its own, and when it may take place, is the model's reading (logs 4, 65 to 67); a dump fails at its end where a page is no
longer mapped (log 67). -/
def Obligations.CuffEvents : Prop := ∀ (s : State) (pn : PartId) (p : Partition), s.part pn = some p →
  (p.ckStatus = 1 →
    let low := p.ckpair &&& 0x01FFFFFFFFFFF000
    let word := s.cuffWrite pn (p.ckpair.toNat % 2 ^ 56 / 2 ^ 12 * 2 ^ 12 + 56)
    (∀ feed force size, size ≠ p.ck 2 → exec (.pairing pn feed force size) s = .next (s.setPart pn { p with ckpair := low + BitVec.ofNat 64 (5 * 2 ^ 60) })) ∧
    (p.ckpair.getLsbD 56 = false → exec (.pairing pn s.module.feed false (p.ck 2)) s = .next
      ((word (leBytes 8 (s.module.feed.toNat + s.module.feed.toNat * 2 ^ 16))).setPart pn { p with ckpair := low + BitVec.ofNat 64 (3 * 2 ^ 60) })) ∧
    (∀ feed : BitVec 16, exec (.pairing pn feed true (p.ck 2)) s = .next
      (let q : Partition := { p with
        ckpair := low + BitVec.ofNat 64 (2 * 2 ^ 60) + 1 <<< 59
        ckgen := 1
        ckFirst := 1
        sealedGens := []
        ckNo := (word (leBytes 8 (s.module.feed.toNat + feed.toNat * 2 ^ 16))).tick }
      State.openSlot ((word (leBytes 8 (s.module.feed.toNat + feed.toNat * 2 ^ 16))).setPart pn q) pn q 1))) ∧
  (∀ (n a : Nat) (data : List Byte) (d : DieId) (o i : Nat), p.paired = true → p.down = false → regionOf a = .dram d o →
    s.owners.contains (a / 65536, pn) = true → a % 64 + data.length ≤ 64 →
    (p.ckMap.find? (fun x => decide (x.1 = a / 4096)) = none → exec (.keeperStore pn n a data) s = .next (s.pokeHome a data)) ∧
    (p.ckMap.find? (fun x => decide (x.1 = a / 4096)) = some (a / 4096, i) →
      let u := s.pokeHome a data
      let v := if u.slotHolds pn p n false then u else u.openSlot pn p n
      exec (.keeperStore pn n a data) s = .next ((v.cuffWrite pn (p.ckData n i + a % 4096) data).cuffWrite pn (p.ckRec n i + 8) [1]))) ∧
  (∀ n : Nat, exec (.sealSet pn n none) s = .next (s.sealKept pn p n)) ∧
  (∀ (n status : Nat) (man : List Byte) (start : Word), p.ckBusy = some (1, n, start) →
    (status = 3 → exec (.sealSet pn n (some (status, man))) s = .next (s.setPart pn { p with ckBusy := none, ckseal := cksealWord 3 1 6 })) ∧
    (status ≤ 1 → s.storesOut pn (p.ck 0 % 2 ^ 14) start = false →
      let q : Partition := { p with ckBusy := none, ckseal := cksealWord 2 1 0, sealedGens := p.sealedGens ++ [n] }
      exec (.sealSet pn n (some (status, man))) s = .next ((s.setPart pn q).resultBlock pn q n status man))) ∧
  (∀ (k : Nat) (v : Word), s.ckReqs[k]? = some (pn, v) → (∀ x ∈ s.ckReqs.take k, x.1 ≠ pn) → pteBits p.ckseal 63 62 ≠ 1 →
    let u : State := { s with ckReqs := s.ckReqs.eraseIdx k }
    let n := pteBits v 47 0
    (pteBits v 61 60 = 1 →
      (p.paired = false → exec (.cksealSeal k) s = .next (u.ckFail pn p 1 1)) ∧
      (p.paired = true → p.ckgen.toNat ≠ n → exec (.cksealSeal k) s = .next (u.ckFail pn p 1 2)) ∧
      (p.paired = true → p.ckgen.toNat = n → exec (.cksealSeal k) s = .next (u.ckStart pn { p with ckgen := p.ckgen + 1 } 1 n))) ∧
    (pteBits v 61 60 = 2 →
      (p.paired = false → exec (.cksealRestore k) s = .next (u.ckFail pn p 2 1)) ∧
      (p.paired = true → 0 < n → p.ckFirst ≤ n → n < p.ckgen.toNat → p.ckgen.toNat ≤ n + 2 → p.sealedGens.contains n = true →
        exec (.cksealRestore k) s = .next (u.ckStart pn p 2 n)) ∧
      (p.paired = true → (n = 0 ∨ n = p.ckgen.toNat ∨ n + 2 < p.ckgen.toNat ∨ (p.ckFirst ≤ n ∧ n < p.ckgen.toNat ∧ p.sealedGens.contains n = false)) →
        exec (.cksealRestore k) s = .next (u.ckFail pn p 2 3))) ∧
    (pteBits v 61 60 = 3 →
      (u.dumpOk pn p (u.unitsOf pn).length = false → exec (.cksealDump k) s = .next (u.ckFail pn p 3 5)) ∧
      (u.dumpOk pn p (u.unitsOf pn).length = true → exec (.cksealDump k) s = .next (u.ckStart pn p 3 0)))) ∧
  (∀ (n : Nat) (start : Word) (header : List Byte) (records pages : List (List Byte)), p.ckBusy = some (2, n, start) →
    let got (i : Nat) : Option (List Byte) := restorePage (s.keyNo p n) n (records.getD i []) (pages.getD i [])
    let man := manifestOf header records
    ((∀ i, i < p.ckPages → (got i).isSome = true) → s.manifestOk pn p n header records = true →
      let u := (List.range p.ckPages).foldl (fun s i => s.cuffWrite pn (p.ck 1 + 4096 * i)
        ((((List.range p.ckPages).map got).getD i none).getD [])) s
      let absent := (List.range p.ckPages).any (fun i => decide (leNat (((records.getD i []).drop 8).take 1) = 0))
      let old := decide (n < p.ckFirst ∨ p.ckgen.toNat < n)
      let q : Partition := { p with
        ckBusy := none
        ckseal := cksealWord 2 2 0
        ckgen := BitVec.ofNat 64 (n + 1)
        ckFirst := if old then n + 1 else p.ckFirst
        sealedGens := if old then [] else p.sealedGens.filter (fun x => decide (x ≤ n)) }
      exec (.cksealRestoreDone pn header records pages) s = .next ((u.setPart pn q).resultBlock pn q n (bitNat absent) man)) ∧
    (∀ i, i < p.ckPages → got i = none → ∃ first, first ≤ i ∧ got first = none ∧
      (let q : Partition := { p with ckBusy := none, ckseal := cksealWord 3 2 4 }
      exec (.cksealRestoreDone pn header records pages) s = .next (((s.cuffWrite pn (p.ck 1) (List.replicate (p.ck 2) 0)).setPart pn q).resultBlock
        pn q n first man)))) ∧
  (∀ (n : Nat) (start : Word), p.ckBusy = some (3, n, start) →
    let us := s.unitsOf pn
    let u := s.dumpWrite pn p (p.ck 6) (leBytes 8 us.length ++ leBytes 8 start.toNat ++ List.replicate 4080 0 ++ us.flatMap (fun u => leBytes 8 (u * 65536)))
    let v := us.zipIdx.foldl (fun s x => s.dumpWrite pn p (p.ck 6 + dumpBase us.length + x.2 * 65536) (memBytes s.mem (x.1 * 65536) 65536)) u
    exec (.cksealDumpDone pn) s = .next (v.setPart pn { p with
      ckBusy := none
      ckseal := if s.dumpOk pn p us.length then cksealWord 2 3 0 else cksealWord 3 3 5 }))


namespace Sys2Proof.Claims

/-! ### What an instruction leaves as it was -/

/-- The scalar registers and the predicates of a stream that no specifier of a list names are as before. -/
def sameFiles (l : List Spec) (a b : Stream) : Prop :=
  (∀ r : Fin 31, (∀ x ∈ l, Spec.file x = true ∨ Spec.reg x ≠ some r) → b.regs.get r = a.regs.get r) ∧
  (∀ n : Nat, n < 8 → (∀ x ∈ l, Spec.file x = false ∨ Spec.num x % 8 ≠ n) → b.preds.getLsbD n = a.preds.getLsbD n)
/-- The streams of the job after an instruction of one of them that names the specifiers l and has retired: the others are as they were, but
that they may look again at what they wait for; its own keeps its coordinate, loops, masks, generators, network registers, rings and
counters, and its registers and predicates outside l. What it has read of AWAITs may add orders to it (R378). -/
def laneFrame (s : State) (l : List Spec) (j k : Job) : Prop :=
  (∀ st : StreamId, st ≠ s.cur.2 → k.stream st = { j.stream st with tried := false }) ∧
  (let a := j.stream s.cur.2
   let b := k.stream s.cur.2
   b = { a with
     regs := b.regs
     preds := b.preds
     pc := b.pc
     pushes := b.pushes
     cause := b.cause
     last := b.last
     adv := b.adv
     prog := b.prog
     tried := b.tried
     fences := b.fences
     awaited := b.awaited } ∧ a.fences <+: b.fences ∧ (a.awaited = [] → b.fences = a.fences) ∧ sameFiles l a b)
/-- The token FIFOs are as before, but those that the header pops (R28). -/
def tokenFrame (s : State) (h : Hdr) (j k : Job) : Prop :=
  ∀ n : Fin 8, (h.pbp = true → n ≠ fifoIdx s.cur.2.prev true) → (h.pbn = true → n ≠ fifoIdx s.cur.2.next false) → k.toks.get n = j.toks.get n
/-- The tile queues outside a list are as before. -/
def tileFrame (l : List (Fin 16)) (j k : Job) : Prop := ∀ q : Fin 16, q ∉ l → k.tiles.get q = j.tiles.get q

/-- The instructions that change only scalar registers, predicates and the program counter, with the specifiers they name. -/
def registerOnly : Instr → Option (Hdr × List Spec)
  | .add h f | .sub h f | .mul h f | .mulh h f | .div h f | .rem h f | .and h f | .or h f | .xor h f | .shl h f | .shr h f | .sar h f
  | .rot h f | .min h f | .max h f => some (h, [f.a, f.b, f.d])
  | .clz h f | .popc h f | .mov h f => some (h, [f.a, f.d])
  | .sel h f => some (h, [f.a, f.b, f.d])
  | .cmpEq h f | .cmpNe h f | .cmpLt h f | .cmpLe h f | .cmpLtu h f | .cmpLeu h f => some (h, [f.a, f.b, f.d])
  | .addi h f => some (h, [f.a, f.d])
  | .ldi h f | .ldih h f => some (h, [f.d])
  | .br h _ | .brc h _ => some (h, [])
  | .call h f | .ret h f => some (h, [f.x])
  | .tok h _ => some (h, [])
  | .qdrop h f | .qclr h f => some (h, [f.a])
  | .getc h f | .gen h f => some (h, [f.d])
  | _ => none
/-- The instructions that leave an operation, a command or an effect behind, with the specifiers and the tile queues that they name. -/
def leaves : Instr → Option (Hdr × List Spec × List (Fin 16))
  | .ld h f | .rld h f => some (h, [f.base, f.idx, f.d], [])
  | .ldt h f => some (h, [f.base, f.idx], [tileIdx f.d.toNat])
  | .gather h f => some (h, [f.base, f.idx, f.aux], [tileIdx f.d.toNat])
  | .cpy h f => some (h, [f.d, f.base, f.aux], [])
  | .cpyThreeLevels h f => some (h, [f.m.d, f.m.base, f.m.aux, f.m.idx, f.e1], [])
  | .pub h f => some (h, [f.base], [])
  | .st h f => some (h, [f.d, f.base, f.idx], [])
  | .stt h f => some (h, [f.base, f.idx], [tileIdx f.d.toNat])
  | .scatter h f => some (h, [f.base, f.idx, f.aux], [tileIdx f.d.toNat])
  | .rst h f | .rsta h f => some (h, [f.d, f.base, f.idx, f.aux], [])
  | .rat h f => some (h, (if f.opt = 2 ∨ f.opt = 4 then [f.aux] else []) ++ [f.base, f.idx, f.d], [])
  | .aadd h f | .axch h f | .aincw h f | .await h f => some (h, [f.base, f.idx, f.d], [])
  | .acas h f | .afaddb h f => some (h, [f.base, f.idx, f.aux, f.d], [])
  | .mfmt h f | .mseed h f => some (h, [f.a], [])
  | .mcb h f => some (h, [f.base], [])
  | .mma h f => some (h, (if f.ak then [f.a1, f.a2] else []) ++ (if f.bk then [f.b1, f.b2] else []), [])
  | .mcommit h _ | .mwait h _ | .mzero h _ => some (h, [], [])
  | .mrd h f => some (h, [f.a, f.d], [])
  | .mstl h f => some (h, [f.d, f.base, f.idx], [])
  | .mstf h f => some (h, (if f.opt = 1 then [f.aux] else []) ++ [f.d, f.base, f.idx], [])
  | _ => none
/-- The vector instructions that read and write tile queues only, with the tile queues they name and SX. -/
def tileOnly : Instr → Option (Hdr × List Spec × List (Fin 16))
  | .vsel h f => some (h, [], [tileIdx f.ta.toNat, tileIdx f.tb.toNat, tileIdx f.td.toNat])
  | .vrotr h f | .vrotc h f | .vbcr h f | .vbcc h f => some (h, [f.sx], [tileIdx f.ta.toNat, tileIdx f.td.toNat])
  | .vtrn h f | .vredr h f | .vredc h f | .vnet h f => some (h, [], [tileIdx f.ta.toNat, tileIdx f.td.toNat])
  | .vgen h f => some (h, [f.sx], [tileIdx f.td.toNat])
  | i => (tileOps i).map (fun x => (x.1, [], [tileIdx x.2.1.ta.toNat, tileIdx x.2.1.tb.toNat, tileIdx x.2.1.tc.toNat, tileIdx x.2.1.td.toNat]))

/-- A key lies outside the run of n bytes of a core's pool from place p on. -/
def outside (key : Nat) (place : CoreId × Nat) (n : Nat) : Prop := key < poolKey place.1 place.2 ∨ poolKey place.1 place.2 + n ≤ key

end Sys2Proof.Claims

/-! ### The whole machine -/

/-- R44, R63: a step whose move is a stream that may issue fetches the words at its program counter and, when they decode to i, is the
execution of i there, after which time passes; a word that begins no instruction and words that decode to none trap with cause 0x01, the
first word as information. The supervisor's C stream enters its vectored entry first, where an event is due (R259). A step whose move is an
event is the execution of that event, after which time passes.
In time AWAITs read their words again (R244), the TLBs, the walkers and the fetch of code come to hold what they may, a memory error may be
met and recorded (log 76), requests that have stalled are routed, released signals and launches that wait for nothing more take effect (logs
62, 79), and data flits move at the ports that are up (log 62); FTIME, LEADCYC, GOVSTALL, the counters of cycles and the partitions'
accounts move by amounts that the model leaves free (logs 1, 5, 7, 12). No register, no queue of a stream and no program counter changes,
and no memory but for a memory error. -/
def Obligations.StepRunsDecoded : Prop :=
  (∀ (s u : State) (c : CoreId) (st : StreamId) (j : Job),
    s.pick = (some (.issue c st), u) → (u.atStream c st).own = some j → j.mayIssue st = true →
    let v := u.atStream c st
    let pc := (j.stream st).pc
    (st = .c → v.mustEnter j.part c = true → step s = .next (v.enterEvent j.part).pass) ∧
    ((st = .c → v.mustEnter j.part c = false) → ∀ first : Word, v.fetchWord (v.who c j) pc = .ok first →
      let undecoded := step s = .next (v.raise c { cause := 0x01, org := ⟨st, ⟨(j.stream st).coord, field first.toNat 18 2⟩, j.seq, pc⟩
                                                   unit := 0, reason := 0, info := first, va := pc }).pass
      (wordsOf first.toNat = none → undecoded) ∧
      (∀ n bits : Nat, wordsOf first.toNat = some n → v.fetchWords (v.who c j) pc n = .ok bits →
        (∀ i : Instr, decode bits = .ok i → step s = afterStep (exec i v)) ∧
        (∀ e, decode bits = .error e → undecoded)))) ∧
  (∀ (s u : State) (i : Instr), s.pick = (some (.event i), u) → i.enc = none → step s = afterStep (exec i u)) ∧
  (∀ t : State, afterStep (.next t) = .next t.pass ∧
    let v := t.watch.cacheWalk.cacheNonLeaf.keepCode.seeCode
    let w := v.meetError.meetCxl
    v = { t with
      cores := v.cores
      tlb := v.tlb
      walker := v.walker
      code := v.code } ∧
    w.cores = v.cores ∧
    t.pass = { w with
      cores := t.pass.cores
      parts := t.pass.parts
      remotes := t.pass.remotes
      services := t.pass.services
      launches := t.pass.launches
      clusters := t.pass.clusters
      groups := t.pass.groups
      dieLinks := t.pass.dieLinks
      dies := t.pass.dies
      fleet := t.pass.fleet
      module := { w.module with ueSent := t.pass.module.ueSent, routeEpoch := t.pass.module.routeEpoch }
      ftime := t.pass.ftime
      tick := t.pass.tick } ∧
    t.pass.remotes.map (fun r => { r with way := none, epoch := 0 }) = w.remotes.map (fun r => { r with way := none, epoch := 0 }) ∧
    (t.services = [] → t.pass.launches = t.launches ∧ t.pass.clusters = t.clusters ∧ t.pass.services = []) ∧
    ((∀ g : BitVec 5, (t.port g).up = false) → t.pass.groups = t.groups ∧ t.pass.dieLinks = t.dieLinks ∧ t.pass.dies = w.dies ∧
      t.pass.fleet = t.fleet ∧ t.pass.module.routeEpoch = t.module.routeEpoch) ∧
    t.ftime ≤ t.pass.ftime ∧ t.pass.tick = t.tick + 1 ∧
    (∀ (c : CoreId) (j : Job), t.job c = some j → ∃ (k : Job) (f : PendOp → Option (BitVec 32)), t.pass.job c = some k ∧
      k = { j with
        streams := k.streams
        govstall := k.govstall
        usedcyc := k.usedcyc
        counters := k.counters
        ops := j.ops.map (fun o => { o with hit := f o }) } ∧
      ∀ st : StreamId, k.stream st = { j.stream st with leadcyc := (k.stream st).leadcyc }))

/-- R44, R45, R51 to R61: words that the spec writes out decode to the instructions it writes beside them. -/
def Obligations.DecodeWords : Prop :=
  let h : Hdr := ⟨0, false, false, false, false⟩
  decode 0x000000C100200004 = .ok (.add h ⟨0, 1, 0x41, 0, 2⟩) ∧
  decode 0x000000050010010C = .ok (.ldi h ⟨5, 0, 1⟩) ∧
  decode 0x0003000400000024 = .ok (.loop h ⟨3, 4, false, 0, 0⟩) ∧
  decode 0x0000000000020034 = .ok (.tok ⟨0, true, false, false, false⟩ ⟨0, 0, 0, 0, 0⟩) ∧
  decode (0x0000000000000245 + 2 ^ 64 * 0x8000000000000003) = .ok (.stopatImmediate h ⟨0x8000000000000003⟩) ∧
  decode 0x0000014168520080 = .ok (.st ⟨0, true, false, false, false⟩ ⟨0, 0, 2, 0x41, 0x0D, 5⟩) ∧
  decode (0x45000260000000C1 + 2 ^ 64 * 0x0000000800803008) =
    .ok (.vaddVf h ⟨0, 0, 128, 128, 3, 8, ⟨0x45, 0, false, 0, 0, 0x13, 0, 0, 0, 0⟩⟩) ∧
  decode (0x3080C101000002F1 + 2 ^ 64 * 0x00000000000FFFFF) =
    .ok (.mma h ⟨0, false, 0, 0, false, 0, 0, false, 63, 127, 127, true, true, 4, 3, 2, 1, 0, false, false, false, 0⟩) ∧
  decode 0x0000000000040034 = .ok (.tok ⟨1, false, false, false, false⟩ ⟨0, 0, 0, 0, 0⟩) ∧
  decode 0x00000000000FFFFF = .error .badLen3 ∧ decode 0x0000000800803008 = .error .badMinor

/-- R45, R51 to R61: every well-formed instruction that has an encoding encodes; decoding its words gives it back, and its bytes in memory order decode to it and
leave what follows them. What the checks of a CPY type and of MASK refuse beside the rules' words is the model's reading (log 10). -/
def Obligations.EncodeDecode : Prop := ∀ i : Instr, i.wf = true →
  (∀ e : Enc, i.enc = some e → ∃ (n : Nat) (bs : List Byte), encode i = some n ∧ encodeBytes i = some bs ∧ decode n = .ok i) ∧
  (∀ n : Nat, encode i = some n → decode n = .ok i) ∧
  (∀ bs rest : List Byte, encodeBytes i = some bs → decodeBytes (bs ++ rest) = .ok (i, rest))

/-- Every step keeps the canonical form of the memory: its keys strictly rising and no byte listed that reads as an unlisted one (the
model's form of R145, R275 and R276). -/
def Obligations.StepMemCanonical : Prop := ∀ s t : State, s.MemOk → step s = .next t → t.MemOk

/-- What reset leaves: no job, no partition, semaphores at 0 (R250), flip bits 0 (R288), clocks 0 (R317), BUDGET 1,250 and SRC 0 (R238),
TOUT 100 (R359), the module before its first step of bring-up (R341); and memory that lists nothing, which reads 0 (for host and CXL memory
the model's choice, log 3). -/
def Obligations.ResetState : Prop :=
  State.reset.MemOk ∧ (∀ a, memByte State.reset.mem a = 0) ∧ State.reset.poison = [] ∧ State.reset.module.step = 0 ∧
  State.reset.module.vfEnable = false ∧ (∀ pn, State.reset.part pn = none) ∧
  (∀ c, State.reset.job c = none ∧ (∀ i, (State.reset.core c).slots.get i = none) ∧ (State.reset.core c).budget = 1250 ∧
    (State.reset.core c).govsrc = 0) ∧
  (∀ cl n, (State.reset.sem cl n).count = 0) ∧
  (∀ d : DieId, (State.reset.dies.get d).flips = [] ∧ (State.reset.dies.get d).clock = Vector.replicate 4 0) ∧
  (∀ g, (State.reset.groups.get g).tout = 100 ∧ (State.reset.groups.get g).state = 0)

/-! ### Frames (R18 to R30, R42, R100, R129, R183) -/

/-- The frame of an instruction that changes scalar registers, predicates and the program counter only, when it retires: the module but the
job on its core, every byte of memory, the job's tiles, restored registers, accumulators and pending work, its other streams, and every
register, predicate and token FIFO that the instruction does not name are as before. -/
def Obligations.ScalarFrame : Prop := ∀ (i : Instr) (h : Hdr) (l : List Spec), registerOnly i = some (h, l) →
  ∀ (s t : State) (j k : Job), exec i s = .next t → s.own = some j → t.own = some k → k.seq = j.seq + 1 →
    t = s.setJob s.cur.1 k ∧ (∀ a, memByte t.mem a = memByte s.mem a) ∧
    k = { j with
      streams := k.streams
      toks := k.toks
      seq := k.seq
      counters := k.counters } ∧
    laneFrame s l j k ∧ (k.stream s.cur.2).prog = (j.stream s.cur.2).prog ∧ (k.stream s.cur.2).awaited = (j.stream s.cur.2).awaited ∧
    tokenFrame s h j k

/-- The frame of an instruction that leaves work behind, of a job that does not replay, when it retires: every byte of memory is as before,
and so are the registers, predicates, tile queues and token FIFOs that it does not name; the work that was there before it stays; only RLD
sends a request, which counts an Ultra Ethernet message where it leaves by one; only an AWAIT adds to what orders its reader (R378), and only
for a job that records is a place kept in the buffer of the trace (R400). -/
def Obligations.IssueFrame : Prop := ∀ (i : Instr) (h : Hdr) (l : List Spec) (q : List (Fin 16)), leaves i = some (h, l, q) →
  ∀ (s t : State) (j k : Job), exec i s = .next t → s.own = some j → t.own = some k → j.replay.replaying = false → k.seq = j.seq + 1 →
    t = { s.setJob s.cur.1 k with remotes := t.remotes, module := { s.module with ueSent := t.module.ueSent } } ∧
    ((∀ f, i ≠ .rld h f) → t.remotes = s.remotes ∧ t.module = s.module) ∧
    (∀ a, memByte t.mem a = memByte s.mem a) ∧
    k = { j with
      streams := k.streams
      tiles := k.tiles
      toks := k.toks
      seq := k.seq
      counters := k.counters
      ops := k.ops
      meQ := k.meQ
      ceQ := k.ceQ
      seQ := k.seQ
      fmtQ := k.fmtQ
      openSet := k.openSet
      committed := k.committed
      held := k.held
      trace := k.trace
      tileTail := k.tileTail
      tileLeft := k.tileLeft } ∧
    (j.ops <+: k.ops ∧ j.meQ <+: k.meQ ∧ j.ceQ <+: k.ceQ ∧ j.seQ <+: k.seQ ∧ j.held <+: k.held ∧ j.trace <+: k.trace) ∧
    (j.replay.recording = false → k.trace = j.trace) ∧
    (k.stream s.cur.2).awaited = (j.stream s.cur.2).awaited ++ (match i with
      | .await _ _ => [j.seq]
      | _ => []) ∧
    laneFrame s l j k ∧ tileFrame q j k ∧ tokenFrame s h j k

/-- The frame of a vector instruction on tiles when it retires: every byte of memory is as before, and so are the registers, predicates,
masks, tile queues and token FIFOs that it does not name; of the restored registers only RMODE and SRSEED may change (R171, R176). -/
def Obligations.TileFrame : Prop := ∀ (i : Instr) (h : Hdr) (l : List Spec) (q : List (Fin 16)), tileOnly i = some (h, l, q) →
  ∀ (s t : State) (j k : Job), exec i s = .next t → s.own = some j → t.own = some k → k.seq = j.seq + 1 →
    t = s.setJob s.cur.1 k ∧ (∀ a, memByte t.mem a = memByte s.mem a) ∧
    k = { j with
      streams := k.streams
      tiles := k.tiles
      toks := k.toks
      seq := k.seq
      counters := k.counters
      rlog := k.rlog
      tileTail := k.tileTail
      tileLeft := k.tileLeft } ∧
    (∀ r : RReg, r ≠ .rmode → r ≠ .srseed → k.rreg r = j.rreg r) ∧
    (∀ n : Fin 16, n ∉ q → k.tileTail.get n = j.tileTail.get n) ∧ (∀ x ∈ k.tileLeft, x ∈ j.tileLeft ∨ x.1 ∈ q) ∧
    (k.stream s.cur.2).awaited = (j.stream s.cur.2).awaited ∧ laneFrame s l j k ∧ tileFrame q j k ∧ tokenFrame s h j k

/-- The frame in memory of the instructions that write a pool at once, when they retire: MWR changes no byte outside its element's four,
MBOX none outside its 64, a base form or a V-form none outside its destination's segments and its scale blocks, and an N-form none outside
its elements. The places stored to are computed as the instruction computes them, in the state s1 that its scalar reads leave. -/
def Obligations.StoreFrame : Prop := ∀ (i : Instr) (s s0 s1 t : State) (j k : Job) (bases : List Word) (key : Nat), s.entered i = some s0 →
  exec i s = .next t → s.own = some j → t.own = some k → k.seq = j.seq + 1 →
  (∀ h f, i = .mwr h f → s0.scalars [f.a, f.b] = some (bases, s1) →
    outside key (s.cur.1, (s1.who s.cur.1 j).elemOff f.fn (bases.getD 0 0).toNat) 4 → memByte t.mem key = memByte s.mem key) ∧
  (∀ h f, i = .mbox h f → s0.scalars [f.a, f.b] = some (bases, s1) →
    (∀ off, ownScratch (s1.who s.cur.1 j) (bases.getD 1 0).toNat 64 = some off → outside key (s.cur.1, off) 64) →
    memByte t.mem key = memByte s.mem key) ∧
  (∀ h f plan, plans i = some (h, f, plan) →
    let p : VPlan := plan ((j.stream s.cur.2).masks.get (fin8 f.mask.toNat))
    s0.scalars (List.replicate p.nbases f.sx) = some (bases, s1) →
    (∀ b step ty, p.d = .seg b step ty → ∀ n place, n < p.cnt →
      Runs (scratchPlace (segAddr bases b step n) 16 (tileBytes ty)) s1 place s1 → outside key place (tileBytes ty)) →
    (∀ ty up, p.step = .qmx ty up → ∀ n place, n < p.cnt →
      Runs (scratchPlace (bases.getD (p.scale.getD 0) 0 + BitVec.ofNat 64 (32 * n)) 32 32) s1 place s1 → outside key place 32) →
    memByte t.mem key = memByte s.mem key) ∧
  (∀ h f op, nestOps i = some (h, f, op) →
    let ty := f.vb.ty.toNat
    s0.scalars (List.replicate (if 2 ≤ op.sources then 3 else 2) f.vb.sx) = some (bases, s1) →
    (∀ pt ∈ vnPoints f (vnCount f 0), ∀ place, let e := vnByte (vnBit (bases.getD 0 0) ty f.sd f.ud pt) ty
      Runs (scratchPlace e.1 1 e.2.2) s1 place s1 → outside key place e.2.2) →
    memByte t.mem key = memByte s.mem key) ∧
  (∀ h f, i = .vredrNest h f →
    let ty := f.vb.ty.toNat
    s0.scalars [f.vb.sx, f.vb.sx] = some (bases, s1) →
    (∀ pt ∈ vnPoints f 1, ∀ place, let e := vnByte (vnBit (bases.getD 0 0) ty f.sd f.ud pt) ty
      Runs (scratchPlace e.1 1 e.2.2) s1 place s1 → outside key place e.2.2) →
    memByte t.mem key = memByte s.mem key)
end

