-- ==== Sys2Proof/Laws/Memory.lean ====
section
/-!
SUPPORT. The memory as canonical data: every operation on it keeps the canonical form, a read after a write gives what was written, and a
write leaves every other byte alone.
-/
namespace Sys2Proof.Machine

set_option Elab.async false

/-! ### The canonical form -/

theorem Memory.wf_iff (m : List Host.Cell) : Memory.wf m = true ↔ List.Pairwise (fun a b => a.1 < b.1) m ∧ ∀ c ∈ m, c.2 ≠ 0 := by
  simp [Memory.wf, List.all_eq_true]
theorem Memory.wf_nil : Memory.wf [] = true := by decide
/-- Leaving cells out keeps the form. -/
theorem Memory.wf_filter {m : List Host.Cell} (p : Host.Cell → Bool) (h : Memory.wf m = true) : Memory.wf (m.filter p) = true := by
  rw [Memory.wf_iff] at *
  exact ⟨h.1.filter _, fun c hc => h.2 c (List.mem_filter.1 hc).1⟩

/-- The cells of a run lie in it, hold no 0, and rise. -/
theorem cellsFrom_mem {a : Nat} {bs : List Byte} {c : Host.Cell} (h : c ∈ cellsFrom a bs) : a ≤ c.1 ∧ c.1 < a + bs.length ∧ c.2 ≠ 0 := by
  induction bs generalizing a with
  | nil => simp [cellsFrom] at h
  | cons b bs ih =>
    unfold cellsFrom at h
    simp only [List.length_cons]
    split at h
    · obtain ⟨h1, h2, h3⟩ := ih h
      exact ⟨by omega, by omega, h3⟩
    · rename_i hb
      rcases List.mem_cons.1 h with rfl | h
      · exact ⟨le_refl _, by simp, hb⟩
      · obtain ⟨h1, h2, h3⟩ := ih h
        exact ⟨by omega, by omega, h3⟩
theorem cellsFrom_pairwise (a : Nat) (bs : List Byte) : List.Pairwise (fun x y => x.1 < y.1) (cellsFrom a bs) := by
  induction bs generalizing a with
  | nil => simp [cellsFrom]
  | cons b bs ih =>
    unfold cellsFrom
    split
    · exact ih (a + 1)
    · exact List.pairwise_cons.2 ⟨fun c hc => by have := cellsFrom_mem hc; omega, ih (a + 1)⟩
/-- A write keeps the form. -/
theorem Memory.wf_memWrite {m : List Host.Cell} (a : Nat) (bs : List Byte) (h : Memory.wf m = true) : Memory.wf (memWrite m a bs) = true := by
  rw [Memory.wf_iff] at *
  unfold memWrite
  refine ⟨List.pairwise_append.2 ⟨List.pairwise_append.2 ⟨h.1.filter _, cellsFrom_pairwise a bs, ?_⟩, h.1.filter _, ?_⟩, ?_⟩
  · intro x hx y hy
    have := cellsFrom_mem hy
    have := (List.mem_filter.1 hx).2
    simp only [decide_eq_true_eq] at this
    omega
  · intro x hx y hy
    have hy := (List.mem_filter.1 hy).2
    simp only [decide_eq_true_eq] at hy
    rcases List.mem_append.1 hx with hx | hx
    · have hx := (List.mem_filter.1 hx).2
      simp only [decide_eq_true_eq] at hx
      omega
    · have := cellsFrom_mem hx; omega
  · intro c hc
    rcases List.mem_append.1 hc with hc | hc
    · rcases List.mem_append.1 hc with hc | hc
      · exact h.2 c (List.mem_filter.1 hc).1
      · exact (cellsFrom_mem hc).2.2
    · exact h.2 c (List.mem_filter.1 hc).1

/-! ### Reads and writes -/

/-- The byte of a list of cells that starts with the key's cell, with another cell, or holds no cell of the key. -/
theorem memByte_cons (c : Host.Cell) (m : List Host.Cell) (k : Nat) : memByte (c :: m) k = if c.1 = k then c.2 else memByte m k := by
  unfold memByte
  by_cases h : c.1 = k <;> simp [h]
theorem memByte_none {m : List Host.Cell} {k : Nat} (h : ∀ c ∈ m, c.1 ≠ k) : memByte m k = 0 := by
  induction m with
  | nil => rfl
  | cons c m ih => rw [memByte_cons, if_neg (h c (by simp)), ih (fun x hx => h x (List.mem_cons_of_mem _ hx))]
theorem memByte_append_left {l m : List Host.Cell} {k : Nat} (h : ∀ c ∈ m, c.1 ≠ k) : memByte (l ++ m) k = memByte l k := by
  induction l with
  | nil => exact memByte_none h
  | cons c l ih => rw [List.cons_append, memByte_cons, memByte_cons, ih]
theorem memByte_append_right {l m : List Host.Cell} {k : Nat} (h : ∀ c ∈ l, c.1 ≠ k) : memByte (l ++ m) k = memByte m k := by
  induction l with
  | nil => rfl
  | cons c l ih => rw [List.cons_append, memByte_cons, if_neg (h c (by simp)), ih (fun x hx => h x (List.mem_cons_of_mem _ hx))]
theorem memByte_filter {m : List Host.Cell} {p : Host.Cell → Bool} {k : Nat} (h : ∀ c ∈ m, c.1 = k → p c = true) :
    memByte (m.filter p) k = memByte m k := by
  induction m with
  | nil => rfl
  | cons c m ih =>
    have hm := ih (fun x hx => h x (List.mem_cons_of_mem _ hx))
    by_cases hc : p c = true
    · rw [List.filter_cons_of_pos hc, memByte_cons, memByte_cons, hm]
    · have : c.1 ≠ k := fun e => hc (h c (by simp) e)
      rw [List.filter_cons_of_neg hc, memByte_cons, if_neg this, hm]
theorem memByte_cellsFrom (a : Nat) (bs : List Byte) (i : Nat) (h : i < bs.length) : memByte (cellsFrom a bs) (a + i) = bs[i] := by
  induction bs generalizing a i with
  | nil => simp at h
  | cons b bs ih =>
    unfold cellsFrom
    cases i with
    | zero =>
      split
      · rename_i hb
        rw [memByte_none (fun c hc => by have := cellsFrom_mem hc; omega)]
        simp [hb]
      · simp [memByte_cons]
    | succ i =>
      have e : a + (i + 1) = a + 1 + i := by omega
      simp only [List.length_cons] at h
      split
      · rw [e, ih (a + 1) i (by omega)]; rfl
      · rw [memByte_cons, if_neg (by dsimp only; omega), e, ih (a + 1) i (by omega)]; rfl

/-- A WRITE LEAVES EVERY OTHER BYTE ALONE. -/
theorem memByte_memWrite_outside (m : List Host.Cell) (a : Nat) (bs : List Byte) (k : Nat) (h : k < a ∨ a + bs.length ≤ k) :
    memByte (memWrite m a bs) k = memByte m k := by
  unfold memWrite
  rcases h with h | h
  · rw [memByte_append_left (fun c hc => by have := (List.mem_filter.1 hc).2; simp only [decide_eq_true_eq] at this; omega),
      memByte_append_left (fun c hc => by have := cellsFrom_mem hc; omega), memByte_filter (fun c _ e => by simp [e, h])]
  · rw [memByte_append_right, memByte_filter (fun c _ e => by simp [e, h])]
    intro c hc
    rcases List.mem_append.1 hc with hc | hc
    · have := (List.mem_filter.1 hc).2; simp only [decide_eq_true_eq] at this; omega
    · have := cellsFrom_mem hc; omega
/-- A READ AFTER A WRITE gives the byte written. -/
theorem memByte_memWrite_inside (m : List Host.Cell) (a : Nat) (bs : List Byte) (i : Nat) (h : i < bs.length) :
    memByte (memWrite m a bs) (a + i) = bs[i] := by
  unfold memWrite
  rw [memByte_append_left (fun c hc => by have := (List.mem_filter.1 hc).2; simp only [decide_eq_true_eq] at this; omega),
    memByte_append_right (fun c hc => by have := (List.mem_filter.1 hc).2; simp only [decide_eq_true_eq] at this; omega),
    memByte_cellsFrom a bs i h]
theorem memBytes_memWrite (m : List Host.Cell) (a : Nat) (bs : List Byte) : memBytes (memWrite m a bs) a bs.length = bs := by
  apply List.ext_getElem
  · simp [memBytes]
  · intro i h1 h2
    simp only [memBytes, List.getElem_map, List.getElem_range]
    exact memByte_memWrite_inside m a bs i h2
theorem memBytes_memWrite_outside (m : List Host.Cell) (a : Nat) (bs : List Byte) (k n : Nat) (h : k + n ≤ a ∨ a + bs.length ≤ k) :
    memBytes (memWrite m a bs) k n = memBytes m k n := by
  unfold memBytes
  apply List.map_congr_left
  intro i hi
  have := List.mem_range.1 hi
  exact memByte_memWrite_outside m a bs _ (by omega)

/-- Two canonical memories that read alike are equal. -/
theorem Memory.wf_ext {m n : List Host.Cell} (hm : Memory.wf m = true) (hn : Memory.wf n = true) (h : ∀ k, memByte m k = memByte n k) : m = n := by
  have mem_iff : ∀ {l : List Host.Cell}, Memory.wf l = true → ∀ c : Host.Cell, c ∈ l ↔ c.2 ≠ 0 ∧ memByte l c.1 = c.2 := by
    intro l hl
    rw [Memory.wf_iff] at hl
    induction l with
    | nil => intro c; simp [memByte]; tauto
    | cons x l ih =>
      have hx := List.pairwise_cons.1 hl.1
      have hi := ih ⟨hx.2, fun c hc => hl.2 c (List.mem_cons_of_mem _ hc)⟩
      intro c
      rw [memByte_cons, List.mem_cons]
      by_cases e : x.1 = c.1
      · rw [if_pos e]
        constructor
        · rintro (rfl | hc)
          · exact ⟨hl.2 _ (by simp), rfl⟩
          · have := hx.1 c hc; omega
        · rintro ⟨-, h2⟩; exact .inl (Prod.ext e.symm h2.symm)
      · rw [if_neg e, ← hi c]
        constructor
        · rintro (rfl | hc)
          · exact absurd rfl e
          · exact hc
        · exact .inr
  have same : ∀ c, c ∈ m ↔ c ∈ n := fun c => by rw [mem_iff hm, mem_iff hn, h]
  rw [Memory.wf_iff] at hm hn
  have anti : Std.Antisymm (fun a b : Host.Cell => a.1 < b.1) := ⟨fun a b h1 h2 => absurd h1 (by omega)⟩
  have nodup : ∀ {l : List Host.Cell}, List.Pairwise (fun a b => a.1 < b.1) l → l.Nodup := fun hl => hl.imp (fun {a b} hab e => by subst e; omega)
  exact List.Perm.eq_of_pairwise (fun a b _ _ h1 h2 => absurd h1 (by omega)) hm.1 hn.1 ((List.perm_ext_iff_of_nodup (nodup hm.1) (nodup hn.1)).2 same)

/-! ### The operations of the state -/

theorem State.reset_memOk : State.reset.MemOk := Memory.wf_nil
theorem State.MemOk.poke {s : State} (h : s.MemOk) (k : Nat) (bs : List Byte) : (s.poke k bs).MemOk := Memory.wf_memWrite k bs h
theorem State.MemOk.pokeClear {s : State} (h : s.MemOk) (k : Nat) (bs : List Byte) : (s.pokeClear k bs).MemOk := Memory.wf_memWrite k bs h
theorem State.pokeHome_mem (s : State) (k : Nat) (bs : List Byte) : (s.pokeHome k bs).mem = memWrite s.mem k bs := by
  unfold State.pokeHome; dsimp only; split <;> rfl
theorem State.MemOk.pokeHome {s : State} (h : s.MemOk) (k : Nat) (bs : List Byte) : (s.pokeHome k bs).MemOk := by
  unfold State.MemOk; rw [State.pokeHome_mem]; exact Memory.wf_memWrite k bs h
theorem State.MemOk.clearPool {s : State} (h : s.MemOk) (c : CoreId) (n : Nat) : (s.clearPool c n).MemOk := Memory.wf_filter _ h
theorem State.MemOk.zeroDram {s : State} (h : s.MemOk) : Memory.wf (zeroDram s.mem) = true := Memory.wf_filter _ h
theorem State.MemOk.zeroUnits {s : State} (h : s.MemOk) (us : List Nat) : (s.zeroUnits us).MemOk := Memory.wf_filter _ h
/-- A placed program stands in canonical memory. -/
theorem placedMemory_memWf {m : List Host.Cell} (w : Nat) (h : Memory.wf m = true) : Memory.wf (placedMemory m w) = true := by
  unfold placedMemory
  exact Memory.wf_memWrite _ _ (Memory.wf_memWrite _ _ (Memory.wf_memWrite _ _ (Memory.wf_memWrite _ _ (Memory.wf_memWrite _ _ h))))

end Sys2Proof.Machine
end

