-- ==== Sys2Proof/Laws/PerInstr.lean ====
section
/-!
SUPPORT. For each instruction, that its opcode pair and operand fields name it (R61): the part of the round trip that differs between
instructions.
-/
namespace Sys2Proof.Laws.OpPair

set_option Elab.async false

/-- The opcode pair, the header and the operand fields of a well-formed instruction name that instruction. -/
def Statement (i : Instr) : Prop :=
  i.wf = true → ∀ e, i.enc = some e → instrOf e.major.toNat e.minor.toNat e.h e.f = some i

/-- ADD. -/
theorem add (h : Hdr) (f : FRR) : Statement (.add h f) := by
  intro _ e he
  cases he
  rfl
/-- SUB. -/
theorem sub (h : Hdr) (f : FRR) : Statement (.sub h f) := by
  intro _ e he
  cases he
  rfl
/-- MUL. -/
theorem mul (h : Hdr) (f : FRR) : Statement (.mul h f) := by
  intro _ e he
  cases he
  rfl
/-- MULH. -/
theorem mulh (h : Hdr) (f : FRR) : Statement (.mulh h f) := by
  intro _ e he
  cases he
  rfl
/-- DIV. -/
theorem div (h : Hdr) (f : FRR) : Statement (.div h f) := by
  intro _ e he
  cases he
  rfl
/-- REM. -/
theorem rem (h : Hdr) (f : FRR) : Statement (.rem h f) := by
  intro _ e he
  cases he
  rfl
/-- AND. -/
theorem and (h : Hdr) (f : FRR) : Statement (.and h f) := by
  intro _ e he
  cases he
  rfl
/-- OR. -/
theorem or (h : Hdr) (f : FRR) : Statement (.or h f) := by
  intro _ e he
  cases he
  rfl
/-- XOR. -/
theorem xor (h : Hdr) (f : FRR) : Statement (.xor h f) := by
  intro _ e he
  cases he
  rfl
/-- SHL. -/
theorem shl (h : Hdr) (f : FRR) : Statement (.shl h f) := by
  intro _ e he
  cases he
  rfl
/-- SHR. -/
theorem shr (h : Hdr) (f : FRR) : Statement (.shr h f) := by
  intro _ e he
  cases he
  rfl
/-- SAR. -/
theorem sar (h : Hdr) (f : FRR) : Statement (.sar h f) := by
  intro _ e he
  cases he
  rfl
/-- ROT. -/
theorem rot (h : Hdr) (f : FRR) : Statement (.rot h f) := by
  intro _ e he
  cases he
  rfl
/-- MIN. -/
theorem min (h : Hdr) (f : FRR) : Statement (.min h f) := by
  intro _ e he
  cases he
  rfl
/-- MAX. -/
theorem max (h : Hdr) (f : FRR) : Statement (.max h f) := by
  intro _ e he
  cases he
  rfl
/-- CLZ. -/
theorem clz (h : Hdr) (f : FRR) : Statement (.clz h f) := by
  intro _ e he
  cases he
  rfl
/-- POPC. -/
theorem popc (h : Hdr) (f : FRR) : Statement (.popc h f) := by
  intro _ e he
  cases he
  rfl
/-- SEL. -/
theorem sel (h : Hdr) (f : FRR) : Statement (.sel h f) := by
  intro _ e he
  cases he
  rfl
/-- MOV. -/
theorem mov (h : Hdr) (f : FRR) : Statement (.mov h f) := by
  intro _ e he
  cases he
  rfl
/-- CMP_EQ. -/
theorem cmpEq (h : Hdr) (f : FRR) : Statement (.cmpEq h f) := by
  intro _ e he
  cases he
  rfl
/-- CMP_NE. -/
theorem cmpNe (h : Hdr) (f : FRR) : Statement (.cmpNe h f) := by
  intro _ e he
  cases he
  rfl
/-- CMP_LT. -/
theorem cmpLt (h : Hdr) (f : FRR) : Statement (.cmpLt h f) := by
  intro _ e he
  cases he
  rfl
/-- CMP_LE. -/
theorem cmpLe (h : Hdr) (f : FRR) : Statement (.cmpLe h f) := by
  intro _ e he
  cases he
  rfl
/-- CMP_LTU. -/
theorem cmpLtu (h : Hdr) (f : FRR) : Statement (.cmpLtu h f) := by
  intro _ e he
  cases he
  rfl
/-- CMP_LEU. -/
theorem cmpLeu (h : Hdr) (f : FRR) : Statement (.cmpLeu h f) := by
  intro _ e he
  cases he
  rfl
/-- ADDI. -/
theorem addi (h : Hdr) (f : FRI) : Statement (.addi h f) := by
  intro _ e he
  cases he
  rfl
/-- LDI. -/
theorem ldi (h : Hdr) (f : FLI) : Statement (.ldi h f) := by
  intro _ e he
  cases he
  rfl
/-- LDIH. -/
theorem ldih (h : Hdr) (f : FLI) : Statement (.ldih h f) := by
  intro _ e he
  cases he
  rfl
/-- BR. -/
theorem br (h : Hdr) (f : FBR) : Statement (.br h f) := by
  intro _ e he
  cases he
  rfl
/-- BRC. -/
theorem brc (h : Hdr) (f : FBR) : Statement (.brc h f) := by
  intro _ e he
  cases he
  rfl
/-- CALL. -/
theorem call (h : Hdr) (f : FBR) : Statement (.call h f) := by
  intro _ e he
  cases he
  rfl
/-- RET. -/
theorem ret (h : Hdr) (f : FBR) : Statement (.ret h f) := by
  intro _ e he
  cases he
  rfl
/-- LOOP. -/
theorem loop (h : Hdr) (f : FLP) : Statement (.loop h f) := by
  intro _ e he
  cases he
  rfl
/-- LCLAMP. -/
theorem lclamp (h : Hdr) (f : FLP) : Statement (.lclamp h f) := by
  intro _ e he
  cases he
  rfl
/-- SETC_REGISTER. -/
theorem setcRegister (h : Hdr) (f : FRR) : Statement (.setcRegister h f) := by
  intro _ e he
  cases he
  rfl
/-- SETC_IMMEDIATE. -/
theorem setcImmediate (h : Hdr) (f : FCI) : Statement (.setcImmediate h f) := by
  intro _ e he
  cases he
  rfl
/-- ADVC. -/
theorem advc (h : Hdr) (f : FRR) : Statement (.advc h f) := by
  intro _ e he
  cases he
  rfl
/-- GETC. -/
theorem getc (h : Hdr) (f : FRR) : Statement (.getc h f) := by
  intro _ e he
  cases he
  rfl
/-- GETFR. -/
theorem getfr (h : Hdr) (f : FRR) : Statement (.getfr h f) := by
  intro _ e he
  cases he
  rfl
/-- TOK. -/
theorem tok (h : Hdr) (f : FRR) : Statement (.tok h f) := by
  intro _ e he
  cases he
  rfl
/-- BIND. -/
theorem bind (h : Hdr) (f : FRR) : Statement (.bind h f) := by
  intro _ e he
  cases he
  rfl
/-- QDROP. -/
theorem qdrop (h : Hdr) (f : FRR) : Statement (.qdrop h f) := by
  intro _ e he
  cases he
  rfl
/-- QDEPTH. -/
theorem qdepth (h : Hdr) (f : FRR) : Statement (.qdepth h f) := by
  intro _ e he
  cases he
  rfl
/-- QCLR. -/
theorem qclr (h : Hdr) (f : FRR) : Statement (.qclr h f) := by
  intro _ e he
  cases he
  rfl
/-- SRD. -/
theorem srd (h : Hdr) (f : FRR) : Statement (.srd h f) := by
  intro _ e he
  cases he
  rfl
/-- SWR: the registers that have no row of their own. -/
theorem swr (h : Hdr) (f : FRR) : Statement (.swr h f) := by
  intro hw e he
  cases he
  simp only [Instr.wf, Bool.and_eq_true, Bool.not_eq_true', swrOwnRow] at hw
  show some (swrOf h f) = _
  unfold swrOf
  split <;> simp_all
  all_goals bv_omega
/-- SWR_STOPAT. -/
theorem swrStopat (h : Hdr) (f : FRR) : Statement (.swrStopat h f) := by
  intro hw e he
  cases he
  simp only [Instr.wf, Bool.and_eq_true, beq_iff_eq] at hw
  show some (swrOf h f) = _
  simp_all [swrOf]
/-- SWR_EVMASK. -/
theorem swrEvmask (h : Hdr) (f : FRR) : Statement (.swrEvmask h f) := by
  intro hw e he
  cases he
  simp only [Instr.wf, Bool.and_eq_true, beq_iff_eq] at hw
  show some (swrOf h f) = _
  simp_all [swrOf]
/-- SWR_RMODE. -/
theorem swrRmode (h : Hdr) (f : FRR) : Statement (.swrRmode h f) := by
  intro hw e he
  cases he
  simp only [Instr.wf, Bool.and_eq_true, beq_iff_eq] at hw
  show some (swrOf h f) = _
  simp_all [swrOf]
/-- SWR_SRSEED. -/
theorem swrSrseed (h : Hdr) (f : FRR) : Statement (.swrSrseed h f) := by
  intro hw e he
  cases he
  simp only [Instr.wf, Bool.and_eq_true, beq_iff_eq] at hw
  show some (swrOf h f) = _
  simp_all [swrOf]
/-- SWR_MSEED. -/
theorem swrMseed (h : Hdr) (f : FRR) : Statement (.swrMseed h f) := by
  intro hw e he
  cases he
  simp only [Instr.wf, Bool.and_eq_true, beq_iff_eq] at hw
  show some (swrOf h f) = _
  simp_all [swrOf]
/-- SWR_TRAPREC. -/
theorem swrTraprec (h : Hdr) (f : FRR) : Statement (.swrTraprec h f) := by
  intro hw e he
  cases he
  simp only [Instr.wf, Bool.and_eq_true, beq_iff_eq] at hw
  show some (swrOf h f) = _
  simp_all [swrOf]
/-- SWR_EMAP. -/
theorem swrEmap (h : Hdr) (f : FRR) : Statement (.swrEmap h f) := by
  intro hw e he
  cases he
  simp only [Instr.wf, Bool.and_eq_true, beq_iff_eq] at hw
  show some (swrOf h f) = _
  simp_all [swrOf]
/-- SWR_EGCFG. -/
theorem swrEgcfg (h : Hdr) (f : FRR) : Statement (.swrEgcfg h f) := by
  intro hw e he
  cases he
  simp only [Instr.wf, Bool.and_eq_true, beq_iff_eq] at hw
  show some (swrOf h f) = _
  simp_all [swrOf]
/-- SWR_CKPAIR. -/
theorem swrCkpair (h : Hdr) (f : FRR) : Statement (.swrCkpair h f) := by
  intro hw e he
  cases he
  simp only [Instr.wf, Bool.and_eq_true, beq_iff_eq] at hw
  show some (swrOf h f) = _
  simp_all [swrOf]
/-- TRAP. -/
theorem trap (h : Hdr) (f : FRI) : Statement (.trap h f) := by
  intro _ e he
  cases he
  rfl
/-- ERET. -/
theorem eret (h : Hdr) (f : FRR) : Statement (.eret h f) := by
  intro _ e he
  cases he
  rfl
/-- WAITEV. -/
theorem waitev (h : Hdr) (f : FRR) : Statement (.waitev h f) := by
  intro _ e he
  cases he
  rfl
/-- YIELD. -/
theorem yield (h : Hdr) (f : FRR) : Statement (.yield h f) := by
  intro _ e he
  cases he
  rfl
/-- FENCE. -/
theorem fence (h : Hdr) (f : FRR) : Statement (.fence h f) := by
  intro _ e he
  cases he
  rfl
/-- STOPAT_REGISTER. -/
theorem stopatRegister (h : Hdr) (f : FRR) : Statement (.stopatRegister h f) := by
  intro _ e he
  cases he
  rfl
/-- STOPAT_IMMEDIATE. -/
theorem stopatImmediate (h : Hdr) (f : FCI) : Statement (.stopatImmediate h f) := by
  intro _ e he
  cases he
  rfl
/-- RESUME. -/
theorem resume (h : Hdr) (f : FRR) : Statement (.resume h f) := by
  intro _ e he
  cases he
  rfl
/-- SPAWN. -/
theorem spawn (h : Hdr) (f : FRR) : Statement (.spawn h f) := by
  intro _ e he
  cases he
  rfl
/-- RDV. -/
theorem rdv (h : Hdr) (f : FRR) : Statement (.rdv h f) := by
  intro _ e he
  cases he
  rfl
/-- MBOX. -/
theorem mbox (h : Hdr) (f : FRR) : Statement (.mbox h f) := by
  intro _ e he
  cases he
  rfl
/-- SEMW. -/
theorem semw (h : Hdr) (f : FRR) : Statement (.semw h f) := by
  intro _ e he
  cases he
  rfl
/-- SEMS. -/
theorem sems (h : Hdr) (f : FRR) : Statement (.sems h f) := by
  intro _ e he
  cases he
  rfl
/-- SEMWT. -/
theorem semwt (h : Hdr) (f : FRR) : Statement (.semwt h f) := by
  intro _ e he
  cases he
  rfl
/-- BARR. -/
theorem barr (h : Hdr) (f : FRR) : Statement (.barr h f) := by
  intro _ e he
  cases he
  rfl
/-- SSTEP. -/
theorem sstep (h : Hdr) (f : FRR) : Statement (.sstep h f) := by
  intro _ e he
  cases he
  rfl
/-- SEND. -/
theorem send (h : Hdr) (f : FM) : Statement (.send h f) := by
  intro _ e he
  cases he
  rfl
/-- TLBI_PAGE. -/
theorem tlbiPage (h : Hdr) (f : FRR) : Statement (.tlbiPage h f) := by
  intro hw e he
  cases he
  simp only [Instr.wf, Bool.and_eq_true, tlbiFn, decide_eq_true_eq] at hw
  show tlbiOf h f = _
  unfold tlbiOf
  rw [(show f.fn.toNat / 8 = _ from hw.2.1)]
  rfl
/-- TLBI_TENANT. -/
theorem tlbiTenant (h : Hdr) (f : FRR) : Statement (.tlbiTenant h f) := by
  intro hw e he
  cases he
  simp only [Instr.wf, Bool.and_eq_true, tlbiFn, decide_eq_true_eq] at hw
  show tlbiOf h f = _
  unfold tlbiOf
  rw [(show f.fn.toNat / 8 = _ from hw.2.1)]
  rfl
/-- BKPT. -/
theorem bkpt (h : Hdr) (f : FRR) : Statement (.bkpt h f) := by
  intro _ e he
  cases he
  rfl
/-- SNAP. -/
theorem snap (h : Hdr) (f : FRR) : Statement (.snap h f) := by
  intro _ e he
  cases he
  rfl
/-- TMARK. -/
theorem tmark (h : Hdr) (f : FRR) : Statement (.tmark h f) := by
  intro _ e he
  cases he
  rfl
/-- LD. -/
theorem ld (h : Hdr) (f : FM) : Statement (.ld h f) := by
  intro _ e he
  cases he
  rfl
/-- LDT. -/
theorem ldt (h : Hdr) (f : FM) : Statement (.ldt h f) := by
  intro _ e he
  cases he
  rfl
/-- GATHER. -/
theorem gather (h : Hdr) (f : FM) : Statement (.gather h f) := by
  intro _ e he
  cases he
  rfl
/-- GEN. -/
theorem gen (h : Hdr) (f : FRR) : Statement (.gen h f) := by
  intro hw e he
  cases he
  simp only [Instr.wf, Bool.and_eq_true, decide_eq_true_eq] at hw
  show genOf h f = _
  unfold genOf
  rw [(show f.fn.toNat / 8 = _ from hw.2)]
  rfl
/-- GEN_BASE. -/
theorem genBase (h : Hdr) (f : FRR) : Statement (.genBase h f) := by
  intro hw e he
  cases he
  simp only [Instr.wf, Bool.and_eq_true, decide_eq_true_eq] at hw
  show genOf h f = _
  unfold genOf
  rw [(show f.fn.toNat / 8 = _ from hw.2)]
  rfl
/-- GEN_COEF. -/
theorem genCoef (h : Hdr) (f : FRR) : Statement (.genCoef h f) := by
  intro hw e he
  cases he
  simp only [Instr.wf, Bool.and_eq_true, decide_eq_true_eq] at hw
  show genOf h f = _
  unfold genOf
  rw [(show f.fn.toNat / 8 = _ from hw.2)]
  rfl
/-- CPY. -/
theorem cpy (h : Hdr) (f : FM) : Statement (.cpy h f) := by
  intro _ e he
  cases he
  rfl
/-- CPY_THREE_LEVELS. -/
theorem cpyThreeLevels (h : Hdr) (f : FME) : Statement (.cpyThreeLevels h f) := by
  intro _ e he
  cases he
  rfl
/-- PUB. -/
theorem pub (h : Hdr) (f : FM) : Statement (.pub h f) := by
  intro _ e he
  cases he
  rfl
/-- RLD. -/
theorem rld (h : Hdr) (f : FM) : Statement (.rld h f) := by
  intro _ e he
  cases he
  rfl
/-- ST. -/
theorem st (h : Hdr) (f : FM) : Statement (.st h f) := by
  intro _ e he
  cases he
  rfl
/-- STT. -/
theorem stt (h : Hdr) (f : FM) : Statement (.stt h f) := by
  intro _ e he
  cases he
  rfl
/-- SCATTER. -/
theorem scatter (h : Hdr) (f : FM) : Statement (.scatter h f) := by
  intro _ e he
  cases he
  rfl
/-- RST. -/
theorem rst (h : Hdr) (f : FM) : Statement (.rst h f) := by
  intro _ e he
  cases he
  rfl
/-- RSTA. -/
theorem rsta (h : Hdr) (f : FM) : Statement (.rsta h f) := by
  intro _ e he
  cases he
  rfl
/-- RAT. -/
theorem rat (h : Hdr) (f : FM) : Statement (.rat h f) := by
  intro _ e he
  cases he
  rfl
/-- AADD. -/
theorem aadd (h : Hdr) (f : FM) : Statement (.aadd h f) := by
  intro _ e he
  cases he
  rfl
/-- AXCH. -/
theorem axch (h : Hdr) (f : FM) : Statement (.axch h f) := by
  intro _ e he
  cases he
  rfl
/-- ACAS. -/
theorem acas (h : Hdr) (f : FM) : Statement (.acas h f) := by
  intro _ e he
  cases he
  rfl
/-- AINCW. -/
theorem aincw (h : Hdr) (f : FM) : Statement (.aincw h f) := by
  intro _ e he
  cases he
  rfl
/-- AFADDB. -/
theorem afaddb (h : Hdr) (f : FM) : Statement (.afaddb h f) := by
  intro _ e he
  cases he
  rfl
/-- AWAIT. -/
theorem await (h : Hdr) (f : FM) : Statement (.await h f) := by
  intro _ e he
  cases he
  rfl
/-- VADD. -/
theorem vadd (h : Hdr) (f : FVB) : Statement (.vadd h f) := by
  intro _ e he
  cases he
  rfl
/-- VADD_VF. -/
theorem vaddVf (h : Hdr) (f : FVF) : Statement (.vaddVf h f) := by
  intro _ e he
  cases he
  rfl
/-- VSUB. -/
theorem vsub (h : Hdr) (f : FVB) : Statement (.vsub h f) := by
  intro _ e he
  cases he
  rfl
/-- VSUB_VF. -/
theorem vsubVf (h : Hdr) (f : FVF) : Statement (.vsubVf h f) := by
  intro _ e he
  cases he
  rfl
/-- VMUL. -/
theorem vmul (h : Hdr) (f : FVB) : Statement (.vmul h f) := by
  intro _ e he
  cases he
  rfl
/-- VMUL_VF. -/
theorem vmulVf (h : Hdr) (f : FVF) : Statement (.vmulVf h f) := by
  intro _ e he
  cases he
  rfl
/-- VFMA. -/
theorem vfma (h : Hdr) (f : FVB) : Statement (.vfma h f) := by
  intro _ e he
  cases he
  rfl
/-- VFMA_VF. -/
theorem vfmaVf (h : Hdr) (f : FVF) : Statement (.vfmaVf h f) := by
  intro _ e he
  cases he
  rfl
/-- VDIV. -/
theorem vdiv (h : Hdr) (f : FVB) : Statement (.vdiv h f) := by
  intro _ e he
  cases he
  rfl
/-- VDIV_VF. -/
theorem vdivVf (h : Hdr) (f : FVF) : Statement (.vdivVf h f) := by
  intro _ e he
  cases he
  rfl
/-- VABS. -/
theorem vabs (h : Hdr) (f : FVB) : Statement (.vabs h f) := by
  intro _ e he
  cases he
  rfl
/-- VABS_VF. -/
theorem vabsVf (h : Hdr) (f : FVF) : Statement (.vabsVf h f) := by
  intro _ e he
  cases he
  rfl
/-- VNEG. -/
theorem vneg (h : Hdr) (f : FVB) : Statement (.vneg h f) := by
  intro _ e he
  cases he
  rfl
/-- VNEG_VF. -/
theorem vnegVf (h : Hdr) (f : FVF) : Statement (.vnegVf h f) := by
  intro _ e he
  cases he
  rfl
/-- VMIN. -/
theorem vmin (h : Hdr) (f : FVB) : Statement (.vmin h f) := by
  intro _ e he
  cases he
  rfl
/-- VMIN_VF. -/
theorem vminVf (h : Hdr) (f : FVF) : Statement (.vminVf h f) := by
  intro _ e he
  cases he
  rfl
/-- VMAX. -/
theorem vmax (h : Hdr) (f : FVB) : Statement (.vmax h f) := by
  intro _ e he
  cases he
  rfl
/-- VMAX_VF. -/
theorem vmaxVf (h : Hdr) (f : FVF) : Statement (.vmaxVf h f) := by
  intro _ e he
  cases he
  rfl
/-- VMINP. -/
theorem vminp (h : Hdr) (f : FVB) : Statement (.vminp h f) := by
  intro _ e he
  cases he
  rfl
/-- VMINP_VF. -/
theorem vminpVf (h : Hdr) (f : FVF) : Statement (.vminpVf h f) := by
  intro _ e he
  cases he
  rfl
/-- VMAXP. -/
theorem vmaxp (h : Hdr) (f : FVB) : Statement (.vmaxp h f) := by
  intro _ e he
  cases he
  rfl
/-- VMAXP_VF. -/
theorem vmaxpVf (h : Hdr) (f : FVF) : Statement (.vmaxpVf h f) := by
  intro _ e he
  cases he
  rfl
/-- VCMP. -/
theorem vcmp (h : Hdr) (f : FVB) : Statement (.vcmp h f) := by
  intro _ e he
  cases he
  rfl
/-- VSEL. -/
theorem vsel (h : Hdr) (f : FVB) : Statement (.vsel h f) := by
  intro _ e he
  cases he
  rfl
/-- VSEL_VF. -/
theorem vselVf (h : Hdr) (f : FVF) : Statement (.vselVf h f) := by
  intro _ e he
  cases he
  rfl
/-- VAND. -/
theorem vand (h : Hdr) (f : FVB) : Statement (.vand h f) := by
  intro _ e he
  cases he
  rfl
/-- VAND_VF. -/
theorem vandVf (h : Hdr) (f : FVF) : Statement (.vandVf h f) := by
  intro _ e he
  cases he
  rfl
/-- VOR. -/
theorem vor (h : Hdr) (f : FVB) : Statement (.vor h f) := by
  intro _ e he
  cases he
  rfl
/-- VOR_VF. -/
theorem vorVf (h : Hdr) (f : FVF) : Statement (.vorVf h f) := by
  intro _ e he
  cases he
  rfl
/-- VXOR. -/
theorem vxor (h : Hdr) (f : FVB) : Statement (.vxor h f) := by
  intro _ e he
  cases he
  rfl
/-- VXOR_VF. -/
theorem vxorVf (h : Hdr) (f : FVF) : Statement (.vxorVf h f) := by
  intro _ e he
  cases he
  rfl
/-- VSHL. -/
theorem vshl (h : Hdr) (f : FVB) : Statement (.vshl h f) := by
  intro _ e he
  cases he
  rfl
/-- VSHL_VF. -/
theorem vshlVf (h : Hdr) (f : FVF) : Statement (.vshlVf h f) := by
  intro _ e he
  cases he
  rfl
/-- VSHR. -/
theorem vshr (h : Hdr) (f : FVB) : Statement (.vshr h f) := by
  intro _ e he
  cases he
  rfl
/-- VSHR_VF. -/
theorem vshrVf (h : Hdr) (f : FVF) : Statement (.vshrVf h f) := by
  intro _ e he
  cases he
  rfl
/-- VCVT. -/
theorem vcvt (h : Hdr) (f : FVB) : Statement (.vcvt h f) := by
  intro _ e he
  cases he
  rfl
/-- VCVT_VF. -/
theorem vcvtVf (h : Hdr) (f : FVF) : Statement (.vcvtVf h f) := by
  intro _ e he
  cases he
  rfl
/-- VQMX. -/
theorem vqmx (h : Hdr) (f : FVB) : Statement (.vqmx h f) := by
  intro _ e he
  cases he
  rfl
/-- VQMX_VF. -/
theorem vqmxVf (h : Hdr) (f : FVF) : Statement (.vqmxVf h f) := by
  intro _ e he
  cases he
  rfl
/-- VDQMX. -/
theorem vdqmx (h : Hdr) (f : FVB) : Statement (.vdqmx h f) := by
  intro _ e he
  cases he
  rfl
/-- VDQMX_VF. -/
theorem vdqmxVf (h : Hdr) (f : FVF) : Statement (.vdqmxVf h f) := by
  intro _ e he
  cases he
  rfl
/-- VEXP2. -/
theorem vexp2 (h : Hdr) (f : FVB) : Statement (.vexp2 h f) := by
  intro _ e he
  cases he
  rfl
/-- VEXP2_VF. -/
theorem vexp2Vf (h : Hdr) (f : FVF) : Statement (.vexp2Vf h f) := by
  intro _ e he
  cases he
  rfl
/-- VLOG2. -/
theorem vlog2 (h : Hdr) (f : FVB) : Statement (.vlog2 h f) := by
  intro _ e he
  cases he
  rfl
/-- VLOG2_VF. -/
theorem vlog2Vf (h : Hdr) (f : FVF) : Statement (.vlog2Vf h f) := by
  intro _ e he
  cases he
  rfl
/-- VRCP. -/
theorem vrcp (h : Hdr) (f : FVB) : Statement (.vrcp h f) := by
  intro _ e he
  cases he
  rfl
/-- VRCP_VF. -/
theorem vrcpVf (h : Hdr) (f : FVF) : Statement (.vrcpVf h f) := by
  intro _ e he
  cases he
  rfl
/-- VRSQ. -/
theorem vrsq (h : Hdr) (f : FVB) : Statement (.vrsq h f) := by
  intro _ e he
  cases he
  rfl
/-- VRSQ_VF. -/
theorem vrsqVf (h : Hdr) (f : FVF) : Statement (.vrsqVf h f) := by
  intro _ e he
  cases he
  rfl
/-- VTANH. -/
theorem vtanh (h : Hdr) (f : FVB) : Statement (.vtanh h f) := by
  intro _ e he
  cases he
  rfl
/-- VTANH_VF. -/
theorem vtanhVf (h : Hdr) (f : FVF) : Statement (.vtanhVf h f) := by
  intro _ e he
  cases he
  rfl
/-- VROTR. -/
theorem vrotr (h : Hdr) (f : FVB) : Statement (.vrotr h f) := by
  intro _ e he
  cases he
  rfl
/-- VROTC. -/
theorem vrotc (h : Hdr) (f : FVB) : Statement (.vrotc h f) := by
  intro _ e he
  cases he
  rfl
/-- VBCR. -/
theorem vbcr (h : Hdr) (f : FVB) : Statement (.vbcr h f) := by
  intro _ e he
  cases he
  rfl
/-- VBCC. -/
theorem vbcc (h : Hdr) (f : FVB) : Statement (.vbcc h f) := by
  intro _ e he
  cases he
  rfl
/-- VREDR. -/
theorem vredr (h : Hdr) (f : FVB) : Statement (.vredr h f) := by
  intro _ e he
  cases he
  rfl
/-- VREDC. -/
theorem vredc (h : Hdr) (f : FVB) : Statement (.vredc h f) := by
  intro _ e he
  cases he
  rfl
/-- VTRN. -/
theorem vtrn (h : Hdr) (f : FVB) : Statement (.vtrn h f) := by
  intro _ e he
  cases he
  rfl
/-- VNETSET. -/
theorem vnetset (h : Hdr) (f : FVB) : Statement (.vnetset h f) := by
  intro _ e he
  cases he
  rfl
/-- VNET. -/
theorem vnet (h : Hdr) (f : FVB) : Statement (.vnet h f) := by
  intro _ e he
  cases he
  rfl
/-- VLD. -/
theorem vld (h : Hdr) (f : FVB) : Statement (.vld h f) := by
  intro _ e he
  cases he
  rfl
/-- VLD_VF. -/
theorem vldVf (h : Hdr) (f : FVF) : Statement (.vldVf h f) := by
  intro _ e he
  cases he
  rfl
/-- VST. -/
theorem vst (h : Hdr) (f : FVB) : Statement (.vst h f) := by
  intro _ e he
  cases he
  rfl
/-- VST_VF. -/
theorem vstVf (h : Hdr) (f : FVF) : Statement (.vstVf h f) := by
  intro _ e he
  cases he
  rfl
/-- VGEN. -/
theorem vgen (h : Hdr) (f : FVB) : Statement (.vgen h f) := by
  intro _ e he
  cases he
  rfl
/-- VADD_NEST. -/
theorem vaddNest (h : Hdr) (f : FVN) : Statement (.vaddNest h f) := by
  intro _ e he
  cases he
  rfl
/-- VSUB_NEST. -/
theorem vsubNest (h : Hdr) (f : FVN) : Statement (.vsubNest h f) := by
  intro _ e he
  cases he
  rfl
/-- VMUL_NEST. -/
theorem vmulNest (h : Hdr) (f : FVN) : Statement (.vmulNest h f) := by
  intro _ e he
  cases he
  rfl
/-- VDIV_NEST. -/
theorem vdivNest (h : Hdr) (f : FVN) : Statement (.vdivNest h f) := by
  intro _ e he
  cases he
  rfl
/-- VABS_NEST. -/
theorem vabsNest (h : Hdr) (f : FVN) : Statement (.vabsNest h f) := by
  intro _ e he
  cases he
  rfl
/-- VNEG_NEST. -/
theorem vnegNest (h : Hdr) (f : FVN) : Statement (.vnegNest h f) := by
  intro _ e he
  cases he
  rfl
/-- VMIN_NEST. -/
theorem vminNest (h : Hdr) (f : FVN) : Statement (.vminNest h f) := by
  intro _ e he
  cases he
  rfl
/-- VMAX_NEST. -/
theorem vmaxNest (h : Hdr) (f : FVN) : Statement (.vmaxNest h f) := by
  intro _ e he
  cases he
  rfl
/-- VMINP_NEST. -/
theorem vminpNest (h : Hdr) (f : FVN) : Statement (.vminpNest h f) := by
  intro _ e he
  cases he
  rfl
/-- VMAXP_NEST. -/
theorem vmaxpNest (h : Hdr) (f : FVN) : Statement (.vmaxpNest h f) := by
  intro _ e he
  cases he
  rfl
/-- VAND_NEST. -/
theorem vandNest (h : Hdr) (f : FVN) : Statement (.vandNest h f) := by
  intro _ e he
  cases he
  rfl
/-- VOR_NEST. -/
theorem vorNest (h : Hdr) (f : FVN) : Statement (.vorNest h f) := by
  intro _ e he
  cases he
  rfl
/-- VXOR_NEST. -/
theorem vxorNest (h : Hdr) (f : FVN) : Statement (.vxorNest h f) := by
  intro _ e he
  cases he
  rfl
/-- VSHL_NEST. -/
theorem vshlNest (h : Hdr) (f : FVN) : Statement (.vshlNest h f) := by
  intro _ e he
  cases he
  rfl
/-- VSHR_NEST. -/
theorem vshrNest (h : Hdr) (f : FVN) : Statement (.vshrNest h f) := by
  intro _ e he
  cases he
  rfl
/-- VCVT_NEST. -/
theorem vcvtNest (h : Hdr) (f : FVN) : Statement (.vcvtNest h f) := by
  intro _ e he
  cases he
  rfl
/-- VREDR_NEST. -/
theorem vredrNest (h : Hdr) (f : FVN) : Statement (.vredrNest h f) := by
  intro _ e he
  cases he
  rfl
/-- MFMT. -/
theorem mfmt (h : Hdr) (f : FRR) : Statement (.mfmt h f) := by
  intro _ e he
  cases he
  rfl
/-- MCB. -/
theorem mcb (h : Hdr) (f : FM) : Statement (.mcb h f) := by
  intro _ e he
  cases he
  rfl
/-- MMA. -/
theorem mma (h : Hdr) (f : FMX) : Statement (.mma h f) := by
  intro _ e he
  cases he
  rfl
/-- MCOMMIT. -/
theorem mcommit (h : Hdr) (f : FRR) : Statement (.mcommit h f) := by
  intro _ e he
  cases he
  rfl
/-- MWAIT. -/
theorem mwait (h : Hdr) (f : FRR) : Statement (.mwait h f) := by
  intro _ e he
  cases he
  rfl
/-- MRD. -/
theorem mrd (h : Hdr) (f : FRR) : Statement (.mrd h f) := by
  intro _ e he
  cases he
  rfl
/-- MWR. -/
theorem mwr (h : Hdr) (f : FRR) : Statement (.mwr h f) := by
  intro _ e he
  cases he
  rfl
/-- MZERO. -/
theorem mzero (h : Hdr) (f : FRR) : Statement (.mzero h f) := by
  intro _ e he
  cases he
  rfl
/-- MSTL. -/
theorem mstl (h : Hdr) (f : FM) : Statement (.mstl h f) := by
  intro _ e he
  cases he
  rfl
/-- MSTF. -/
theorem mstf (h : Hdr) (f : FM) : Statement (.mstf h f) := by
  intro _ e he
  cases he
  rfl
/-- MSEED. -/
theorem mseed (h : Hdr) (f : FRR) : Statement (.mseed h f) := by
  intro _ e he
  cases he
  rfl
/-- LCLAMP_APPLY: an event has no encoding. -/
theorem lclampApply (k : Nat) : Statement (.lclampApply k) := by
  intro _ e he
  cases he
/-- CKSEAL_SEAL: an event has no encoding. -/
theorem cksealSeal (k : Nat) : Statement (.cksealSeal k) := by
  intro _ e he
  cases he
/-- CKSEAL_RESTORE: an event has no encoding. -/
theorem cksealRestore (k : Nat) : Statement (.cksealRestore k) := by
  intro _ e he
  cases he
/-- CKSEAL_DUMP: an event has no encoding. -/
theorem cksealDump (k : Nat) : Statement (.cksealDump k) := by
  intro _ e he
  cases he
/-- ADVANCE: an event has no encoding. -/
theorem advance (core : CoreId) (st : StreamId) : Statement (.advance core st) := by
  intro _ e he
  cases he
/-- ENTRY_FILL: an event has no encoding. -/
theorem entryFill (core : CoreId) (id : Nat) : Statement (.entryFill core id) := by
  intro _ e he
  cases he
/-- TOKEN_PUSH: an event has no encoding. -/
theorem tokenPush (core : CoreId) (st : StreamId) (toNext : Bool) : Statement (.tokenPush core st toNext) := by
  intro _ e he
  cases he
/-- ENGINE_COMMAND_START: an event has no encoding. -/
theorem engineCommandStart (core : CoreId) (e : Engine) (id : Nat) : Statement (.engineCommandStart core e id) := by
  intro _ e he
  cases he
/-- ENGINE_COMMAND_COMPLETE: an event has no encoding. -/
theorem engineCommandComplete (core : CoreId) (e : Engine) (id : Nat) : Statement (.engineCommandComplete core e id) := by
  intro _ e he
  cases he
/-- CHANNEL_ELEMENT_DELIVERY: an event has no encoding. -/
theorem channelElementDelivery (core : CoreId) (ch : BitVec 3) : Statement (.channelElementDelivery core ch) := by
  intro _ e he
  cases he
/-- LANDING_COMPLETE: an event has no encoding. -/
theorem landingComplete (core : CoreId) : Statement (.landingComplete core) := by
  intro _ e he
  cases he
/-- STUCK_WAIT_TRAP: an event has no encoding. -/
theorem stuckWaitTrap (core : CoreId) : Statement (.stuckWaitTrap core) := by
  intro _ e he
  cases he
/-- HARD_PREEMPTION: an event has no encoding. -/
theorem hardPreemption (core : CoreId) : Statement (.hardPreemption core) := by
  intro _ e he
  cases he
/-- JOB_CHOICE: an event has no encoding. -/
theorem jobChoice (core : CoreId) : Statement (.jobChoice core) := by
  intro _ e he
  cases he
/-- LAUNCH_START: an event has no encoding. -/
theorem launchStart (handle : BitVec 32) : Statement (.launchStart handle) := by
  intro _ e he
  cases he
/-- JOB_AGING: an event has no encoding. -/
theorem jobAging (core : CoreId) (slot : BitVec 3) : Statement (.jobAging core slot) := by
  intro _ e he
  cases he
/-- LAUNCH_OFFER: an event has no encoding. -/
theorem launchOffer (k : Nat) : Statement (.launchOffer k) := by
  intro _ e he
  cases he
/-- SPAWN_STATUS_FILL: an event has no encoding. -/
theorem spawnStatusFill (k : Nat) : Statement (.spawnStatusFill k) := by
  intro _ e he
  cases he
/-- JOB_END: an event has no encoding. -/
theorem jobEnd (core : CoreId) : Statement (.jobEnd core) := by
  intro _ e he
  cases he
/-- EVENT_ENTRY: an event has no encoding. -/
theorem eventEntry (p : PartId) : Statement (.eventEntry p) := by
  intro _ e he
  cases he
/-- TIMER_FIRE: an event has no encoding. -/
theorem timerFire (p : PartId) : Statement (.timerFire p) := by
  intro _ e he
  cases he
/-- SEMAPHORE_WAIT_SERVED: an event has no encoding. -/
theorem semaphoreWaitServed (cl : BitVec 6) (sem : BitVec 8) : Statement (.semaphoreWaitServed cl sem) := by
  intro _ e he
  cases he
/-- SEMWT_TIMEOUT: an event has no encoding. -/
theorem semwtTimeout (core : CoreId) : Statement (.semwtTimeout core) := by
  intro _ e he
  cases he
/-- BARRIER_ARRIVAL: an event has no encoding. -/
theorem barrierArrival (core : CoreId) (crew : Bool) : Statement (.barrierArrival core crew) := by
  intro _ e he
  cases he
/-- BARRIER_TIMEOUT: an event has no encoding. -/
theorem barrierTimeout (core : CoreId) : Statement (.barrierTimeout core) := by
  intro _ e he
  cases he
/-- SUPERSTEP_PASSAGE: an event has no encoding. -/
theorem superstepPassage (handle : BitVec 32) : Statement (.superstepPassage handle) := by
  intro _ e he
  cases he
/-- SEND_CHUNK_DEPARTURE: an event has no encoding. -/
theorem sendChunkDeparture (core : CoreId) (id : Nat) : Statement (.sendChunkDeparture core id) := by
  intro _ e he
  cases he
/-- SEND_CHUNK_ARRIVAL: an event has no encoding. -/
theorem sendChunkArrival (k : Nat) : Statement (.sendChunkArrival k) := by
  intro _ e he
  cases he
/-- ATOMIC_APPLY: an event has no encoding. -/
theorem atomicApply (core : CoreId) (id : Nat) : Statement (.atomicApply core id) := by
  intro _ e he
  cases he
/-- AWAIT_SATISFIED: an event has no encoding. -/
theorem awaitSatisfied (core : CoreId) (id : Nat) : Statement (.awaitSatisfied core id) := by
  intro _ e he
  cases he
/-- REMOTE_STORE_APPLY: an event has no encoding. -/
theorem remoteStoreApply (k : Nat) : Statement (.remoteStoreApply k) := by
  intro _ e he
  cases he
/-- REMOTE_READ: an event has no encoding. -/
theorem remoteRead (k : Nat) : Statement (.remoteRead k) := by
  intro _ e he
  cases he
/-- REMOTE_FAILURE: an event has no encoding. -/
theorem remoteFailure (k : Nat) (reason : BitVec 16) : Statement (.remoteFailure k reason) := by
  intro _ e he
  cases he
/-- PUB_FLIP: an event has no encoding. -/
theorem pubFlip (k : Nat) : Statement (.pubFlip k) := by
  intro _ e he
  cases he
/-- TLBI_EXECUTE: an event has no encoding. -/
theorem tlbiExecute (k : Nat) : Statement (.tlbiExecute k) := by
  intro _ e he
  cases he
/-- LOG_WAIT_RELEASE: an event has no encoding. -/
theorem logWaitRelease (k : Nat) : Statement (.logWaitRelease k) := by
  intro _ e he
  cases he
/-- PATROL_SCRUB: an event has no encoding. -/
theorem patrolScrub (die : DieId) (line : Nat) (bad : Bool) : Statement (.patrolScrub die line bad) := by
  intro _ e he
  cases he
/-- FLEET_WRITE_ARRIVAL: an event has no encoding. -/
theorem fleetWriteArrival (k : Nat) : Statement (.fleetWriteArrival k) := by
  intro _ e he
  cases he
/-- FLEET_UPDATE_ARRIVAL: an event has no encoding. -/
theorem fleetUpdateArrival (k : Nat) : Statement (.fleetUpdateArrival k) := by
  intro _ e he
  cases he
/-- FLEET_FETCH: an event has no encoding. -/
theorem fleetFetch (k : Nat) : Statement (.fleetFetch k) := by
  intro _ e he
  cases he
/-- FLEET_FETCH_RECEIPT: an event has no encoding. -/
theorem fleetFetchReceipt (k : Nat) : Statement (.fleetFetchReceipt k) := by
  intro _ e he
  cases he
/-- MAILBOX_WRITE: an event has no encoding. -/
theorem mailboxWrite (fn : Option PartId) (n : BitVec 4) (msg : List Byte) (whole : Bool) : Statement (.mailboxWrite fn n msg whole) := by
  intro _ e he
  cases he
/-- HOST_BAR2_ACCESS: an event has no encoding. -/
theorem hostBar2Access (vf : PartId) (a : Nat) (write : Option (List Byte)) (len : Nat) : Statement (.hostBar2Access vf a write len) := by
  intro _ e he
  cases he
/-- HOST_ATOMICOP: an event has no encoding. -/
theorem hostAtomicop (vf : PartId) (a : Nat) (op : BitVec 2) (width : Nat) (v c : BitVec 32) : Statement (.hostAtomicop vf a op width v c) := by
  intro _ e he
  cases he
/-- HOST_REGISTER_WRITE: an event has no encoding. -/
theorem hostRegisterWrite (fn : Option PartId) (off : Nat) (v : Word) : Statement (.hostRegisterWrite fn off v) := by
  intro _ e he
  cases he
/-- PCTL_RESUME: an event has no encoding. -/
theorem pctlResume (vf : PartId) : Statement (.pctlResume vf) := by
  intro _ e he
  cases he
/-- PCTL_RESTART: an event has no encoding. -/
theorem pctlRestart (vf : PartId) : Statement (.pctlRestart vf) := by
  intro _ e he
  cases he
/-- VF_TEARDOWN: an event has no encoding. -/
theorem vfTeardown (p : PartId) : Statement (.vfTeardown p) := by
  intro _ e he
  cases he
/-- MITTEN_SAVE: an event has no encoding. -/
theorem mittenSave (p : PartId) (slot : Nat) : Statement (.mittenSave p slot) := by
  intro _ e he
  cases he
/-- MITTEN_SAVELIVE: an event has no encoding. -/
theorem mittenSavelive (p : PartId) (slot : Nat) : Statement (.mittenSavelive p slot) := by
  intro _ e he
  cases he
/-- MITTEN_SAVE_DONE: an event has no encoding. -/
theorem mittenSaveDone (k : Nat) : Statement (.mittenSaveDone k) := by
  intro _ e he
  cases he
/-- GOVERNOR_WINDOW: an event has no encoding. -/
theorem governorWindow (core : CoreId) : Statement (.governorWindow core) := by
  intro _ e he
  cases he
/-- POWER_MEASUREMENT: an event has no encoding. -/
theorem powerMeasurement (power : BitVec 32) (temps : List (BitVec 16)) : Statement (.powerMeasurement power temps) := by
  intro _ e he
  cases he
/-- ATTESTATION_NONCE: an event has no encoding. -/
theorem attestationNonce (fn : Option PartId) (nonce : List Byte) : Statement (.attestationNonce fn nonce) := by
  intro _ e he
  cases he
/-- QUOTE_READY: an event has no encoding. -/
theorem quoteReady (fn : Option PartId) (quote : List Byte) : Statement (.quoteReady fn quote) := by
  intro _ e he
  cases he
/-- CREATE_PARTITION: an event has no encoding. -/
theorem createPartition (req : List Byte) (plan : Plan) : Statement (.createPartition req plan) := by
  intro _ e he
  cases he
/-- DESTROY_PARTITION: an event has no encoding. -/
theorem destroyPartition (req : List Byte) : Statement (.destroyPartition req) := by
  intro _ e he
  cases he
/-- READ_TELEMETRY: an event has no encoding. -/
theorem readTelemetry (req : List Byte) : Statement (.readTelemetry req) := by
  intro _ e he
  cases he
/-- SET_PERSONALITY: an event has no encoding. -/
theorem setPersonality (req : List Byte) : Statement (.setPersonality req) := by
  intro _ e he
  cases he
/-- SET_NODE: an event has no encoding. -/
theorem setNode (req : List Byte) : Statement (.setNode req) := by
  intro _ e he
  cases he
/-- BRIM_TIMEOUT: an event has no encoding. -/
theorem brimTimeout : Statement (.brimTimeout) := by
  intro _ e he
  cases he
/-- RECOVERY_MESSAGE: an event has no encoding. -/
theorem recoveryMessage (msg : List Byte) : Statement (.recoveryMessage msg) := by
  intro _ e he
  cases he
/-- POWER_GOOD: an event has no encoding. -/
theorem powerGood : Statement (.powerGood) := by
  intro _ e he
  cases he
/-- PERSONALITY_CHANGE: an event has no encoding. -/
theorem personalityChange (g : BitVec 4) : Statement (.personalityChange g) := by
  intro _ e he
  cases he
/-- LINK_DROP: an event has no encoding. -/
theorem linkDrop (g : BitVec 4) : Statement (.linkDrop g) := by
  intro _ e he
  cases he
/-- LINK_TRAINED: an event has no encoding. -/
theorem linkTrained (g : BitVec 5) (width : BitVec 8) (speed : BitVec 4) : Statement (.linkTrained g width speed) := by
  intro _ e he
  cases he
/-- LINK_DOWN: an event has no encoding. -/
theorem linkDown (g : BitVec 5) (reason : BitVec 8) : Statement (.linkDown g reason) := by
  intro _ e he
  cases he
/-- FLEET_SPLIT: an event has no encoding. -/
theorem fleetSplit (handle : BitVec 32) : Statement (.fleetSplit handle) := by
  intro _ e he
  cases he
/-- LSD: an event has no encoding. -/
theorem lsd (g : BitVec 5) (flit : List Byte) : Statement (.lsd g flit) := by
  intro _ e he
  cases he
/-- SWAPREQ: an event has no encoding. -/
theorem swapreq (g : BitVec 5) (flit : List Byte) : Statement (.swapreq g flit) := by
  intro _ e he
  cases he
/-- SWAPACK: an event has no encoding. -/
theorem swapack (g : BitVec 5) (flit : List Byte) : Statement (.swapack g flit) := by
  intro _ e he
  cases he
/-- KEYCHG: an event has no encoding. -/
theorem keychg (g : BitVec 5) (flit : List Byte) : Statement (.keychg g flit) := by
  intro _ e he
  cases he
/-- KEYACK: an event has no encoding. -/
theorem keyack (g : BitVec 5) (flit : List Byte) : Statement (.keyack g flit) := by
  intro _ e he
  cases he
/-- PERSREQ: an event has no encoding. -/
theorem persreq (g : BitVec 4) (flit : List Byte) : Statement (.persreq g flit) := by
  intro _ e he
  cases he
/-- PERSACK: an event has no encoding. -/
theorem persack (g : BitVec 4) (flit : List Byte) : Statement (.persack g flit) := by
  intro _ e he
  cases he
/-- TIME: an event has no encoding. -/
theorem time (g : BitVec 4) (flit : List Byte) : Statement (.time g flit) := by
  intro _ e he
  cases he
/-- TIME_FLIT_SEND: an event has no encoding. -/
theorem timeFlitSend (g : BitVec 4) : Statement (.timeFlitSend g) := by
  intro _ e he
  cases he
/-- LANE_HEALTH_SAMPLE: an event has no encoding. -/
theorem laneHealthSample (g : BitVec 5) (lane : BitVec 5) (flits corrected eye : Nat) : Statement (.laneHealthSample g lane flits corrected eye) := by
  intro _ e he
  cases he
/-- KEY_ROTATION: an event has no encoding. -/
theorem keyRotation (g : BitVec 5) : Statement (.keyRotation g) := by
  intro _ e he
  cases he
/-- KEEPER_STORE: an event has no encoding. -/
theorem keeperStore (p : PartId) (g a : Nat) (data : List Byte) : Statement (.keeperStore p g a data) := by
  intro _ e he
  cases he
/-- SEAL: an event has no encoding. -/
theorem sealSet (p : PartId) (g : Nat) (result : Option (Nat × List Byte)) : Statement (.sealSet p g result) := by
  intro _ e he
  cases he
/-- TCTL: an event has no encoding. -/
theorem tctl (vf : PartId) (v : Word) : Statement (.tctl vf v) := by
  intro _ e he
  cases he
/-- TRBASE: an event has no encoding. -/
theorem trbase (vf : PartId) (v : Word) : Statement (.trbase vf v) := by
  intro _ e he
  cases he
/-- TRSIZE: an event has no encoding. -/
theorem trsize (vf : PartId) (v : Word) : Statement (.trsize vf v) := by
  intro _ e he
  cases he
/-- TRIGAT: an event has no encoding. -/
theorem trigat (vf : PartId) : Statement (.trigat vf) := by
  intro _ e he
  cases he
/-- DBGSTOP: an event has no encoding. -/
theorem dbgstop (vf : PartId) (v : Word) : Statement (.dbgstop vf v) := by
  intro _ e he
  cases he
/-- SNAPSHOT_CAPTURE: an event has no encoding. -/
theorem snapshotCapture (p : PartId) (core : CoreId) : Statement (.snapshotCapture p core) := by
  intro _ e he
  cases he
/-- VF_ENABLE: an event has no encoding. -/
theorem vfEnable (on : Bool) : Statement (.vfEnable on) := by
  intro _ e he
  cases he
/-- REQUEST_TIMEOUT: an event has no encoding. -/
theorem requestTimeout (k : Nat) : Statement (.requestTimeout k) := by
  intro _ e he
  cases he
/-- PAIRING: an event has no encoding. -/
theorem pairing (p : PartId) (feed : BitVec 16) (force : Bool) (kwsize : Nat) : Statement (.pairing p feed force kwsize) := by
  intro _ e he
  cases he
/-- CKSEAL_RESTORE_DONE: an event has no encoding. -/
theorem cksealRestoreDone (p : PartId) (header : List Byte) (records pages : List (List Byte)) : Statement (.cksealRestoreDone p header records pages) := by
  intro _ e he
  cases he
/-- CKSEAL_DUMP_DONE: an event has no encoding. -/
theorem cksealDumpDone (p : PartId) : Statement (.cksealDumpDone p) := by
  intro _ e he
  cases he

end Sys2Proof.Laws.OpPair
end

