-- ==== Sys2Proof/Laws/State.lean ====
section
/-!
SUPPORT. One lemma for each field of the state and each update of it, so that no proof unfolds a record update.
-/
namespace Sys2Proof.Machine

set_option Elab.async false

@[simp] theorem State.setCore_clusters (s : State) (c : CoreId) (k : Core) : (s.setCore c k).clusters = s.clusters := rfl
@[simp] theorem State.setCore_dies (s : State) (c : CoreId) (k : Core) : (s.setCore c k).dies = s.dies := rfl
@[simp] theorem State.setCore_parts (s : State) (c : CoreId) (k : Core) : (s.setCore c k).parts = s.parts := rfl
@[simp] theorem State.setCore_groups (s : State) (c : CoreId) (k : Core) : (s.setCore c k).groups = s.groups := rfl
@[simp] theorem State.setCore_dieLinks (s : State) (c : CoreId) (k : Core) : (s.setCore c k).dieLinks = s.dieLinks := rfl
@[simp] theorem State.setCore_slotTables (s : State) (c : CoreId) (k : Core) : (s.setCore c k).slotTables = s.slotTables := rfl
@[simp] theorem State.setCore_mem (s : State) (c : CoreId) (k : Core) : (s.setCore c k).mem = s.mem := rfl
@[simp] theorem State.setCore_poison (s : State) (c : CoreId) (k : Core) : (s.setCore c k).poison = s.poison := rfl
@[simp] theorem State.setCore_owners (s : State) (c : CoreId) (k : Core) : (s.setCore c k).owners = s.owners := rfl
@[simp] theorem State.setCore_tlb (s : State) (c : CoreId) (k : Core) : (s.setCore c k).tlb = s.tlb := rfl
@[simp] theorem State.setCore_walker (s : State) (c : CoreId) (k : Core) : (s.setCore c k).walker = s.walker := rfl
@[simp] theorem State.setCore_code (s : State) (c : CoreId) (k : Core) : (s.setCore c k).code = s.code := rfl
@[simp] theorem State.setCore_launches (s : State) (c : CoreId) (k : Core) : (s.setCore c k).launches = s.launches := rfl
@[simp] theorem State.setCore_jobs (s : State) (c : CoreId) (k : Core) : (s.setCore c k).jobs = s.jobs := rfl
@[simp] theorem State.setCore_remotes (s : State) (c : CoreId) (k : Core) : (s.setCore c k).remotes = s.remotes := rfl
@[simp] theorem State.setCore_chunks (s : State) (c : CoreId) (k : Core) : (s.setCore c k).chunks = s.chunks := rfl
@[simp] theorem State.setCore_legs (s : State) (c : CoreId) (k : Core) : (s.setCore c k).legs = s.legs := rfl
@[simp] theorem State.setCore_sendings (s : State) (c : CoreId) (k : Core) : (s.setCore c k).sendings = s.sendings := rfl
@[simp] theorem State.setCore_fleet (s : State) (c : CoreId) (k : Core) : (s.setCore c k).fleet = s.fleet := rfl
@[simp] theorem State.setCore_services (s : State) (c : CoreId) (k : Core) : (s.setCore c k).services = s.services := rfl
@[simp] theorem State.setCore_logWaits (s : State) (c : CoreId) (k : Core) : (s.setCore c k).logWaits = s.logWaits := rfl
@[simp] theorem State.setCore_clamps (s : State) (c : CoreId) (k : Core) : (s.setCore c k).clamps = s.clamps := rfl
@[simp] theorem State.setCore_preempts (s : State) (c : CoreId) (k : Core) : (s.setCore c k).preempts = s.preempts := rfl
@[simp] theorem State.setCore_ckReqs (s : State) (c : CoreId) (k : Core) : (s.setCore c k).ckReqs = s.ckReqs := rfl
@[simp] theorem State.setCore_saves (s : State) (c : CoreId) (k : Core) : (s.setCore c k).saves = s.saves := rfl
@[simp] theorem State.setCore_module (s : State) (c : CoreId) (k : Core) : (s.setCore c k).module = s.module := rfl
@[simp] theorem State.setCore_ftime (s : State) (c : CoreId) (k : Core) : (s.setCore c k).ftime = s.ftime := rfl
@[simp] theorem State.setCore_tick (s : State) (c : CoreId) (k : Core) : (s.setCore c k).tick = s.tick := rfl
@[simp] theorem State.setCore_cur (s : State) (c : CoreId) (k : Core) : (s.setCore c k).cur = s.cur := rfl
@[simp] theorem State.setCore_agenda (s : State) (c : CoreId) (k : Core) : (s.setCore c k).agenda = s.agenda := rfl

@[simp] theorem State.setJob_clusters (s : State) (c : CoreId) (j : Job) : (s.setJob c j).clusters = s.clusters := rfl
@[simp] theorem State.setJob_dies (s : State) (c : CoreId) (j : Job) : (s.setJob c j).dies = s.dies := rfl
@[simp] theorem State.setJob_parts (s : State) (c : CoreId) (j : Job) : (s.setJob c j).parts = s.parts := rfl
@[simp] theorem State.setJob_groups (s : State) (c : CoreId) (j : Job) : (s.setJob c j).groups = s.groups := rfl
@[simp] theorem State.setJob_dieLinks (s : State) (c : CoreId) (j : Job) : (s.setJob c j).dieLinks = s.dieLinks := rfl
@[simp] theorem State.setJob_slotTables (s : State) (c : CoreId) (j : Job) : (s.setJob c j).slotTables = s.slotTables := rfl
@[simp] theorem State.setJob_mem (s : State) (c : CoreId) (j : Job) : (s.setJob c j).mem = s.mem := rfl
@[simp] theorem State.setJob_poison (s : State) (c : CoreId) (j : Job) : (s.setJob c j).poison = s.poison := rfl
@[simp] theorem State.setJob_owners (s : State) (c : CoreId) (j : Job) : (s.setJob c j).owners = s.owners := rfl
@[simp] theorem State.setJob_tlb (s : State) (c : CoreId) (j : Job) : (s.setJob c j).tlb = s.tlb := rfl
@[simp] theorem State.setJob_walker (s : State) (c : CoreId) (j : Job) : (s.setJob c j).walker = s.walker := rfl
@[simp] theorem State.setJob_code (s : State) (c : CoreId) (j : Job) : (s.setJob c j).code = s.code := rfl
@[simp] theorem State.setJob_launches (s : State) (c : CoreId) (j : Job) : (s.setJob c j).launches = s.launches := rfl
@[simp] theorem State.setJob_jobs (s : State) (c : CoreId) (j : Job) : (s.setJob c j).jobs = s.jobs := rfl
@[simp] theorem State.setJob_remotes (s : State) (c : CoreId) (j : Job) : (s.setJob c j).remotes = s.remotes := rfl
@[simp] theorem State.setJob_chunks (s : State) (c : CoreId) (j : Job) : (s.setJob c j).chunks = s.chunks := rfl
@[simp] theorem State.setJob_legs (s : State) (c : CoreId) (j : Job) : (s.setJob c j).legs = s.legs := rfl
@[simp] theorem State.setJob_sendings (s : State) (c : CoreId) (j : Job) : (s.setJob c j).sendings = s.sendings := rfl
@[simp] theorem State.setJob_fleet (s : State) (c : CoreId) (j : Job) : (s.setJob c j).fleet = s.fleet := rfl
@[simp] theorem State.setJob_services (s : State) (c : CoreId) (j : Job) : (s.setJob c j).services = s.services := rfl
@[simp] theorem State.setJob_logWaits (s : State) (c : CoreId) (j : Job) : (s.setJob c j).logWaits = s.logWaits := rfl
@[simp] theorem State.setJob_clamps (s : State) (c : CoreId) (j : Job) : (s.setJob c j).clamps = s.clamps := rfl
@[simp] theorem State.setJob_preempts (s : State) (c : CoreId) (j : Job) : (s.setJob c j).preempts = s.preempts := rfl
@[simp] theorem State.setJob_ckReqs (s : State) (c : CoreId) (j : Job) : (s.setJob c j).ckReqs = s.ckReqs := rfl
@[simp] theorem State.setJob_saves (s : State) (c : CoreId) (j : Job) : (s.setJob c j).saves = s.saves := rfl
@[simp] theorem State.setJob_module (s : State) (c : CoreId) (j : Job) : (s.setJob c j).module = s.module := rfl
@[simp] theorem State.setJob_ftime (s : State) (c : CoreId) (j : Job) : (s.setJob c j).ftime = s.ftime := rfl
@[simp] theorem State.setJob_tick (s : State) (c : CoreId) (j : Job) : (s.setJob c j).tick = s.tick := rfl
@[simp] theorem State.setJob_cur (s : State) (c : CoreId) (j : Job) : (s.setJob c j).cur = s.cur := rfl
@[simp] theorem State.setJob_agenda (s : State) (c : CoreId) (j : Job) : (s.setJob c j).agenda = s.agenda := rfl

@[simp] theorem State.setPart_cores (s : State) (p : PartId) (x : Partition) : (s.setPart p x).cores = s.cores := rfl
@[simp] theorem State.setPart_clusters (s : State) (p : PartId) (x : Partition) : (s.setPart p x).clusters = s.clusters := rfl
@[simp] theorem State.setPart_dies (s : State) (p : PartId) (x : Partition) : (s.setPart p x).dies = s.dies := rfl
@[simp] theorem State.setPart_groups (s : State) (p : PartId) (x : Partition) : (s.setPart p x).groups = s.groups := rfl
@[simp] theorem State.setPart_dieLinks (s : State) (p : PartId) (x : Partition) : (s.setPart p x).dieLinks = s.dieLinks := rfl
@[simp] theorem State.setPart_slotTables (s : State) (p : PartId) (x : Partition) : (s.setPart p x).slotTables = s.slotTables := rfl
@[simp] theorem State.setPart_mem (s : State) (p : PartId) (x : Partition) : (s.setPart p x).mem = s.mem := rfl
@[simp] theorem State.setPart_poison (s : State) (p : PartId) (x : Partition) : (s.setPart p x).poison = s.poison := rfl
@[simp] theorem State.setPart_owners (s : State) (p : PartId) (x : Partition) : (s.setPart p x).owners = s.owners := rfl
@[simp] theorem State.setPart_tlb (s : State) (p : PartId) (x : Partition) : (s.setPart p x).tlb = s.tlb := rfl
@[simp] theorem State.setPart_walker (s : State) (p : PartId) (x : Partition) : (s.setPart p x).walker = s.walker := rfl
@[simp] theorem State.setPart_code (s : State) (p : PartId) (x : Partition) : (s.setPart p x).code = s.code := rfl
@[simp] theorem State.setPart_launches (s : State) (p : PartId) (x : Partition) : (s.setPart p x).launches = s.launches := rfl
@[simp] theorem State.setPart_jobs (s : State) (p : PartId) (x : Partition) : (s.setPart p x).jobs = s.jobs := rfl
@[simp] theorem State.setPart_remotes (s : State) (p : PartId) (x : Partition) : (s.setPart p x).remotes = s.remotes := rfl
@[simp] theorem State.setPart_chunks (s : State) (p : PartId) (x : Partition) : (s.setPart p x).chunks = s.chunks := rfl
@[simp] theorem State.setPart_legs (s : State) (p : PartId) (x : Partition) : (s.setPart p x).legs = s.legs := rfl
@[simp] theorem State.setPart_sendings (s : State) (p : PartId) (x : Partition) : (s.setPart p x).sendings = s.sendings := rfl
@[simp] theorem State.setPart_fleet (s : State) (p : PartId) (x : Partition) : (s.setPart p x).fleet = s.fleet := rfl
@[simp] theorem State.setPart_services (s : State) (p : PartId) (x : Partition) : (s.setPart p x).services = s.services := rfl
@[simp] theorem State.setPart_logWaits (s : State) (p : PartId) (x : Partition) : (s.setPart p x).logWaits = s.logWaits := rfl
@[simp] theorem State.setPart_clamps (s : State) (p : PartId) (x : Partition) : (s.setPart p x).clamps = s.clamps := rfl
@[simp] theorem State.setPart_preempts (s : State) (p : PartId) (x : Partition) : (s.setPart p x).preempts = s.preempts := rfl
@[simp] theorem State.setPart_ckReqs (s : State) (p : PartId) (x : Partition) : (s.setPart p x).ckReqs = s.ckReqs := rfl
@[simp] theorem State.setPart_saves (s : State) (p : PartId) (x : Partition) : (s.setPart p x).saves = s.saves := rfl
@[simp] theorem State.setPart_module (s : State) (p : PartId) (x : Partition) : (s.setPart p x).module = s.module := rfl
@[simp] theorem State.setPart_ftime (s : State) (p : PartId) (x : Partition) : (s.setPart p x).ftime = s.ftime := rfl
@[simp] theorem State.setPart_tick (s : State) (p : PartId) (x : Partition) : (s.setPart p x).tick = s.tick := rfl
@[simp] theorem State.setPart_cur (s : State) (p : PartId) (x : Partition) : (s.setPart p x).cur = s.cur := rfl
@[simp] theorem State.setPart_agenda (s : State) (p : PartId) (x : Partition) : (s.setPart p x).agenda = s.agenda := rfl

@[simp] theorem State.poke_cores (s : State) (a : Nat) (bs : List Byte) : (s.poke a bs).cores = s.cores := rfl
@[simp] theorem State.poke_clusters (s : State) (a : Nat) (bs : List Byte) : (s.poke a bs).clusters = s.clusters := rfl
@[simp] theorem State.poke_dies (s : State) (a : Nat) (bs : List Byte) : (s.poke a bs).dies = s.dies := rfl
@[simp] theorem State.poke_parts (s : State) (a : Nat) (bs : List Byte) : (s.poke a bs).parts = s.parts := rfl
@[simp] theorem State.poke_groups (s : State) (a : Nat) (bs : List Byte) : (s.poke a bs).groups = s.groups := rfl
@[simp] theorem State.poke_dieLinks (s : State) (a : Nat) (bs : List Byte) : (s.poke a bs).dieLinks = s.dieLinks := rfl
@[simp] theorem State.poke_slotTables (s : State) (a : Nat) (bs : List Byte) : (s.poke a bs).slotTables = s.slotTables := rfl
@[simp] theorem State.poke_poison (s : State) (a : Nat) (bs : List Byte) : (s.poke a bs).poison = s.poison := rfl
@[simp] theorem State.poke_owners (s : State) (a : Nat) (bs : List Byte) : (s.poke a bs).owners = s.owners := rfl
@[simp] theorem State.poke_tlb (s : State) (a : Nat) (bs : List Byte) : (s.poke a bs).tlb = s.tlb := rfl
@[simp] theorem State.poke_walker (s : State) (a : Nat) (bs : List Byte) : (s.poke a bs).walker = s.walker := rfl
@[simp] theorem State.poke_code (s : State) (a : Nat) (bs : List Byte) : (s.poke a bs).code = s.code := rfl
@[simp] theorem State.poke_launches (s : State) (a : Nat) (bs : List Byte) : (s.poke a bs).launches = s.launches := rfl
@[simp] theorem State.poke_jobs (s : State) (a : Nat) (bs : List Byte) : (s.poke a bs).jobs = s.jobs := rfl
@[simp] theorem State.poke_remotes (s : State) (a : Nat) (bs : List Byte) : (s.poke a bs).remotes = s.remotes := rfl
@[simp] theorem State.poke_chunks (s : State) (a : Nat) (bs : List Byte) : (s.poke a bs).chunks = s.chunks := rfl
@[simp] theorem State.poke_legs (s : State) (a : Nat) (bs : List Byte) : (s.poke a bs).legs = s.legs := rfl
@[simp] theorem State.poke_sendings (s : State) (a : Nat) (bs : List Byte) : (s.poke a bs).sendings = s.sendings := rfl
@[simp] theorem State.poke_fleet (s : State) (a : Nat) (bs : List Byte) : (s.poke a bs).fleet = s.fleet := rfl
@[simp] theorem State.poke_services (s : State) (a : Nat) (bs : List Byte) : (s.poke a bs).services = s.services := rfl
@[simp] theorem State.poke_logWaits (s : State) (a : Nat) (bs : List Byte) : (s.poke a bs).logWaits = s.logWaits := rfl
@[simp] theorem State.poke_clamps (s : State) (a : Nat) (bs : List Byte) : (s.poke a bs).clamps = s.clamps := rfl
@[simp] theorem State.poke_preempts (s : State) (a : Nat) (bs : List Byte) : (s.poke a bs).preempts = s.preempts := rfl
@[simp] theorem State.poke_ckReqs (s : State) (a : Nat) (bs : List Byte) : (s.poke a bs).ckReqs = s.ckReqs := rfl
@[simp] theorem State.poke_saves (s : State) (a : Nat) (bs : List Byte) : (s.poke a bs).saves = s.saves := rfl
@[simp] theorem State.poke_module (s : State) (a : Nat) (bs : List Byte) : (s.poke a bs).module = s.module := rfl
@[simp] theorem State.poke_ftime (s : State) (a : Nat) (bs : List Byte) : (s.poke a bs).ftime = s.ftime := rfl
@[simp] theorem State.poke_tick (s : State) (a : Nat) (bs : List Byte) : (s.poke a bs).tick = s.tick := rfl
@[simp] theorem State.poke_cur (s : State) (a : Nat) (bs : List Byte) : (s.poke a bs).cur = s.cur := rfl
@[simp] theorem State.poke_agenda (s : State) (a : Nat) (bs : List Byte) : (s.poke a bs).agenda = s.agenda := rfl

@[simp] theorem State.setSem_cores (s : State) (l : Fin 64) (n : BitVec 8) (m : Sem) : (s.setSem l n m).cores = s.cores := rfl
@[simp] theorem State.setSem_dies (s : State) (l : Fin 64) (n : BitVec 8) (m : Sem) : (s.setSem l n m).dies = s.dies := rfl
@[simp] theorem State.setSem_parts (s : State) (l : Fin 64) (n : BitVec 8) (m : Sem) : (s.setSem l n m).parts = s.parts := rfl
@[simp] theorem State.setSem_groups (s : State) (l : Fin 64) (n : BitVec 8) (m : Sem) : (s.setSem l n m).groups = s.groups := rfl
@[simp] theorem State.setSem_dieLinks (s : State) (l : Fin 64) (n : BitVec 8) (m : Sem) : (s.setSem l n m).dieLinks = s.dieLinks := rfl
@[simp] theorem State.setSem_slotTables (s : State) (l : Fin 64) (n : BitVec 8) (m : Sem) : (s.setSem l n m).slotTables = s.slotTables := rfl
@[simp] theorem State.setSem_mem (s : State) (l : Fin 64) (n : BitVec 8) (m : Sem) : (s.setSem l n m).mem = s.mem := rfl
@[simp] theorem State.setSem_poison (s : State) (l : Fin 64) (n : BitVec 8) (m : Sem) : (s.setSem l n m).poison = s.poison := rfl
@[simp] theorem State.setSem_owners (s : State) (l : Fin 64) (n : BitVec 8) (m : Sem) : (s.setSem l n m).owners = s.owners := rfl
@[simp] theorem State.setSem_tlb (s : State) (l : Fin 64) (n : BitVec 8) (m : Sem) : (s.setSem l n m).tlb = s.tlb := rfl
@[simp] theorem State.setSem_walker (s : State) (l : Fin 64) (n : BitVec 8) (m : Sem) : (s.setSem l n m).walker = s.walker := rfl
@[simp] theorem State.setSem_code (s : State) (l : Fin 64) (n : BitVec 8) (m : Sem) : (s.setSem l n m).code = s.code := rfl
@[simp] theorem State.setSem_launches (s : State) (l : Fin 64) (n : BitVec 8) (m : Sem) : (s.setSem l n m).launches = s.launches := rfl
@[simp] theorem State.setSem_jobs (s : State) (l : Fin 64) (n : BitVec 8) (m : Sem) : (s.setSem l n m).jobs = s.jobs := rfl
@[simp] theorem State.setSem_remotes (s : State) (l : Fin 64) (n : BitVec 8) (m : Sem) : (s.setSem l n m).remotes = s.remotes := rfl
@[simp] theorem State.setSem_chunks (s : State) (l : Fin 64) (n : BitVec 8) (m : Sem) : (s.setSem l n m).chunks = s.chunks := rfl
@[simp] theorem State.setSem_legs (s : State) (l : Fin 64) (n : BitVec 8) (m : Sem) : (s.setSem l n m).legs = s.legs := rfl
@[simp] theorem State.setSem_sendings (s : State) (l : Fin 64) (n : BitVec 8) (m : Sem) : (s.setSem l n m).sendings = s.sendings := rfl
@[simp] theorem State.setSem_fleet (s : State) (l : Fin 64) (n : BitVec 8) (m : Sem) : (s.setSem l n m).fleet = s.fleet := rfl
@[simp] theorem State.setSem_services (s : State) (l : Fin 64) (n : BitVec 8) (m : Sem) : (s.setSem l n m).services = s.services := rfl
@[simp] theorem State.setSem_logWaits (s : State) (l : Fin 64) (n : BitVec 8) (m : Sem) : (s.setSem l n m).logWaits = s.logWaits := rfl
@[simp] theorem State.setSem_clamps (s : State) (l : Fin 64) (n : BitVec 8) (m : Sem) : (s.setSem l n m).clamps = s.clamps := rfl
@[simp] theorem State.setSem_preempts (s : State) (l : Fin 64) (n : BitVec 8) (m : Sem) : (s.setSem l n m).preempts = s.preempts := rfl
@[simp] theorem State.setSem_ckReqs (s : State) (l : Fin 64) (n : BitVec 8) (m : Sem) : (s.setSem l n m).ckReqs = s.ckReqs := rfl
@[simp] theorem State.setSem_saves (s : State) (l : Fin 64) (n : BitVec 8) (m : Sem) : (s.setSem l n m).saves = s.saves := rfl
@[simp] theorem State.setSem_module (s : State) (l : Fin 64) (n : BitVec 8) (m : Sem) : (s.setSem l n m).module = s.module := rfl
@[simp] theorem State.setSem_ftime (s : State) (l : Fin 64) (n : BitVec 8) (m : Sem) : (s.setSem l n m).ftime = s.ftime := rfl
@[simp] theorem State.setSem_tick (s : State) (l : Fin 64) (n : BitVec 8) (m : Sem) : (s.setSem l n m).tick = s.tick := rfl
@[simp] theorem State.setSem_cur (s : State) (l : Fin 64) (n : BitVec 8) (m : Sem) : (s.setSem l n m).cur = s.cur := rfl
@[simp] theorem State.setSem_agenda (s : State) (l : Fin 64) (n : BitVec 8) (m : Sem) : (s.setSem l n m).agenda = s.agenda := rfl

@[simp] theorem State.setPart_parts (s : State) (p : PartId) (x : Partition) : (s.setPart p x).parts = s.parts.set p (some x) := rfl
@[simp] theorem State.poke_mem (s : State) (a : Nat) (bs : List Byte) : (s.poke a bs).mem = memWrite s.mem a bs := rfl

/-- An element reads back as it was set. -/
@[simp] theorem vec_get_set {α : Type} {n : Nat} (v : Vector α n) (i : Fin n) (x : α) (h : i.val < n) : (v.set i.val x h).get i = x := by
  rw [Vector.get_eq_getElem]; simp
/-- Another element is unchanged. -/
theorem vec_get_set_ne {α : Type} {n : Nat} (v : Vector α n) {i k : Fin n} (x : α) (h : i.val < n) (e : i ≠ k) :
    (v.set i.val x h).get k = v.get k := by
  have : i.val ≠ k.val := fun e' => e (Fin.ext e')
  rw [Vector.get_eq_getElem, Vector.get_eq_getElem]; simp [this]

/-- A core reads back as it was set. -/
@[simp] theorem State.core_setCore (s : State) (c : CoreId) (k : Core) : (s.setCore c k).core c = k := by
  simp [State.core, State.setCore]
/-- Another core is unchanged. -/
theorem State.core_setCore_ne (s : State) {c d : CoreId} (k : Core) (h : c ≠ d) : (s.setCore c k).core d = s.core d := by
  simp [State.core, State.setCore, vec_get_set_ne _ _ _ h]
/-- The job of a core reads back as it was set. -/
@[simp] theorem State.job_setJob (s : State) (c : CoreId) (j : Job) : (s.setJob c j).job c = some j := by
  simp [State.job, State.setJob]
/-- The job of another core is unchanged. -/
theorem State.job_setJob_ne (s : State) {c d : CoreId} (j : Job) (h : c ≠ d) : (s.setJob c j).job d = s.job d := by
  simp [State.job, State.setJob, State.core_setCore_ne s _ h]
/-- Setting the job twice is setting it once. -/
@[simp] theorem State.setJob_setJob (s : State) (c : CoreId) (j k : Job) : (s.setJob c j).setJob c k = s.setJob c k := by
  simp [State.setJob, State.setCore, State.core]
/-- A stream reads back as it was set. -/
@[simp] theorem Job.stream_setStream (j : Job) (st : StreamId) (t : Stream) : (j.setStream st t).stream st = t := by
  simp [Job.stream, Job.setStream]
/-- Another stream is unchanged. -/
theorem Job.stream_setStream_ne (j : Job) {st x : StreamId} (t : Stream) (h : st ≠ x) : (j.setStream st t).stream x = j.stream x := by
  have : StreamId.fin st ≠ StreamId.fin x := by revert h; cases st <;> cases x <;> simp [StreamId.fin]
  simp [Job.stream, Job.setStream, vec_get_set_ne _ _ _ this]

@[simp] theorem State.onOwn_own (s : State) (f : Job → Job) : (s.onOwn f).own = s.own.map f := by
  unfold State.onOwn State.onJob State.own
  cases h : s.job s.cur.1 <;> simp [h]
@[simp] theorem State.onJob_clusters (s : State) (c : CoreId) (f : Job → Job) : (s.onJob c f).clusters = s.clusters := by
  unfold State.onJob; cases s.job c <;> rfl
@[simp] theorem State.onOwn_clusters (s : State) (f : Job → Job) : (s.onOwn f).clusters = s.clusters := State.onJob_clusters s _ f
@[simp] theorem State.onJob_dies (s : State) (c : CoreId) (f : Job → Job) : (s.onJob c f).dies = s.dies := by
  unfold State.onJob; cases s.job c <;> rfl
@[simp] theorem State.onOwn_dies (s : State) (f : Job → Job) : (s.onOwn f).dies = s.dies := State.onJob_dies s _ f
@[simp] theorem State.onJob_parts (s : State) (c : CoreId) (f : Job → Job) : (s.onJob c f).parts = s.parts := by
  unfold State.onJob; cases s.job c <;> rfl
@[simp] theorem State.onOwn_parts (s : State) (f : Job → Job) : (s.onOwn f).parts = s.parts := State.onJob_parts s _ f
@[simp] theorem State.onJob_groups (s : State) (c : CoreId) (f : Job → Job) : (s.onJob c f).groups = s.groups := by
  unfold State.onJob; cases s.job c <;> rfl
@[simp] theorem State.onOwn_groups (s : State) (f : Job → Job) : (s.onOwn f).groups = s.groups := State.onJob_groups s _ f
@[simp] theorem State.onJob_dieLinks (s : State) (c : CoreId) (f : Job → Job) : (s.onJob c f).dieLinks = s.dieLinks := by
  unfold State.onJob; cases s.job c <;> rfl
@[simp] theorem State.onOwn_dieLinks (s : State) (f : Job → Job) : (s.onOwn f).dieLinks = s.dieLinks := State.onJob_dieLinks s _ f
@[simp] theorem State.onJob_slotTables (s : State) (c : CoreId) (f : Job → Job) : (s.onJob c f).slotTables = s.slotTables := by
  unfold State.onJob; cases s.job c <;> rfl
@[simp] theorem State.onOwn_slotTables (s : State) (f : Job → Job) : (s.onOwn f).slotTables = s.slotTables := State.onJob_slotTables s _ f
@[simp] theorem State.onJob_mem (s : State) (c : CoreId) (f : Job → Job) : (s.onJob c f).mem = s.mem := by
  unfold State.onJob; cases s.job c <;> rfl
@[simp] theorem State.onOwn_mem (s : State) (f : Job → Job) : (s.onOwn f).mem = s.mem := State.onJob_mem s _ f
@[simp] theorem State.onJob_poison (s : State) (c : CoreId) (f : Job → Job) : (s.onJob c f).poison = s.poison := by
  unfold State.onJob; cases s.job c <;> rfl
@[simp] theorem State.onOwn_poison (s : State) (f : Job → Job) : (s.onOwn f).poison = s.poison := State.onJob_poison s _ f
@[simp] theorem State.onJob_owners (s : State) (c : CoreId) (f : Job → Job) : (s.onJob c f).owners = s.owners := by
  unfold State.onJob; cases s.job c <;> rfl
@[simp] theorem State.onOwn_owners (s : State) (f : Job → Job) : (s.onOwn f).owners = s.owners := State.onJob_owners s _ f
@[simp] theorem State.onJob_tlb (s : State) (c : CoreId) (f : Job → Job) : (s.onJob c f).tlb = s.tlb := by
  unfold State.onJob; cases s.job c <;> rfl
@[simp] theorem State.onOwn_tlb (s : State) (f : Job → Job) : (s.onOwn f).tlb = s.tlb := State.onJob_tlb s _ f
@[simp] theorem State.onJob_walker (s : State) (c : CoreId) (f : Job → Job) : (s.onJob c f).walker = s.walker := by
  unfold State.onJob; cases s.job c <;> rfl
@[simp] theorem State.onOwn_walker (s : State) (f : Job → Job) : (s.onOwn f).walker = s.walker := State.onJob_walker s _ f
@[simp] theorem State.onJob_code (s : State) (c : CoreId) (f : Job → Job) : (s.onJob c f).code = s.code := by
  unfold State.onJob; cases s.job c <;> rfl
@[simp] theorem State.onOwn_code (s : State) (f : Job → Job) : (s.onOwn f).code = s.code := State.onJob_code s _ f
@[simp] theorem State.onJob_launches (s : State) (c : CoreId) (f : Job → Job) : (s.onJob c f).launches = s.launches := by
  unfold State.onJob; cases s.job c <;> rfl
@[simp] theorem State.onOwn_launches (s : State) (f : Job → Job) : (s.onOwn f).launches = s.launches := State.onJob_launches s _ f
@[simp] theorem State.onJob_jobs (s : State) (c : CoreId) (f : Job → Job) : (s.onJob c f).jobs = s.jobs := by
  unfold State.onJob; cases s.job c <;> rfl
@[simp] theorem State.onOwn_jobs (s : State) (f : Job → Job) : (s.onOwn f).jobs = s.jobs := State.onJob_jobs s _ f
@[simp] theorem State.onJob_remotes (s : State) (c : CoreId) (f : Job → Job) : (s.onJob c f).remotes = s.remotes := by
  unfold State.onJob; cases s.job c <;> rfl
@[simp] theorem State.onOwn_remotes (s : State) (f : Job → Job) : (s.onOwn f).remotes = s.remotes := State.onJob_remotes s _ f
@[simp] theorem State.onJob_chunks (s : State) (c : CoreId) (f : Job → Job) : (s.onJob c f).chunks = s.chunks := by
  unfold State.onJob; cases s.job c <;> rfl
@[simp] theorem State.onOwn_chunks (s : State) (f : Job → Job) : (s.onOwn f).chunks = s.chunks := State.onJob_chunks s _ f
@[simp] theorem State.onJob_legs (s : State) (c : CoreId) (f : Job → Job) : (s.onJob c f).legs = s.legs := by
  unfold State.onJob; cases s.job c <;> rfl
@[simp] theorem State.onOwn_legs (s : State) (f : Job → Job) : (s.onOwn f).legs = s.legs := State.onJob_legs s _ f
@[simp] theorem State.onJob_sendings (s : State) (c : CoreId) (f : Job → Job) : (s.onJob c f).sendings = s.sendings := by
  unfold State.onJob; cases s.job c <;> rfl
@[simp] theorem State.onOwn_sendings (s : State) (f : Job → Job) : (s.onOwn f).sendings = s.sendings := State.onJob_sendings s _ f
@[simp] theorem State.onJob_fleet (s : State) (c : CoreId) (f : Job → Job) : (s.onJob c f).fleet = s.fleet := by
  unfold State.onJob; cases s.job c <;> rfl
@[simp] theorem State.onOwn_fleet (s : State) (f : Job → Job) : (s.onOwn f).fleet = s.fleet := State.onJob_fleet s _ f
@[simp] theorem State.onJob_services (s : State) (c : CoreId) (f : Job → Job) : (s.onJob c f).services = s.services := by
  unfold State.onJob; cases s.job c <;> rfl
@[simp] theorem State.onOwn_services (s : State) (f : Job → Job) : (s.onOwn f).services = s.services := State.onJob_services s _ f
@[simp] theorem State.onJob_logWaits (s : State) (c : CoreId) (f : Job → Job) : (s.onJob c f).logWaits = s.logWaits := by
  unfold State.onJob; cases s.job c <;> rfl
@[simp] theorem State.onOwn_logWaits (s : State) (f : Job → Job) : (s.onOwn f).logWaits = s.logWaits := State.onJob_logWaits s _ f
@[simp] theorem State.onJob_clamps (s : State) (c : CoreId) (f : Job → Job) : (s.onJob c f).clamps = s.clamps := by
  unfold State.onJob; cases s.job c <;> rfl
@[simp] theorem State.onOwn_clamps (s : State) (f : Job → Job) : (s.onOwn f).clamps = s.clamps := State.onJob_clamps s _ f
@[simp] theorem State.onJob_preempts (s : State) (c : CoreId) (f : Job → Job) : (s.onJob c f).preempts = s.preempts := by
  unfold State.onJob; cases s.job c <;> rfl
@[simp] theorem State.onOwn_preempts (s : State) (f : Job → Job) : (s.onOwn f).preempts = s.preempts := State.onJob_preempts s _ f
@[simp] theorem State.onJob_ckReqs (s : State) (c : CoreId) (f : Job → Job) : (s.onJob c f).ckReqs = s.ckReqs := by
  unfold State.onJob; cases s.job c <;> rfl
@[simp] theorem State.onOwn_ckReqs (s : State) (f : Job → Job) : (s.onOwn f).ckReqs = s.ckReqs := State.onJob_ckReqs s _ f
@[simp] theorem State.onJob_saves (s : State) (c : CoreId) (f : Job → Job) : (s.onJob c f).saves = s.saves := by
  unfold State.onJob; cases s.job c <;> rfl
@[simp] theorem State.onOwn_saves (s : State) (f : Job → Job) : (s.onOwn f).saves = s.saves := State.onJob_saves s _ f
@[simp] theorem State.onJob_module (s : State) (c : CoreId) (f : Job → Job) : (s.onJob c f).module = s.module := by
  unfold State.onJob; cases s.job c <;> rfl
@[simp] theorem State.onOwn_module (s : State) (f : Job → Job) : (s.onOwn f).module = s.module := State.onJob_module s _ f
@[simp] theorem State.onJob_ftime (s : State) (c : CoreId) (f : Job → Job) : (s.onJob c f).ftime = s.ftime := by
  unfold State.onJob; cases s.job c <;> rfl
@[simp] theorem State.onOwn_ftime (s : State) (f : Job → Job) : (s.onOwn f).ftime = s.ftime := State.onJob_ftime s _ f
@[simp] theorem State.onJob_tick (s : State) (c : CoreId) (f : Job → Job) : (s.onJob c f).tick = s.tick := by
  unfold State.onJob; cases s.job c <;> rfl
@[simp] theorem State.onOwn_tick (s : State) (f : Job → Job) : (s.onOwn f).tick = s.tick := State.onJob_tick s _ f
@[simp] theorem State.onJob_cur (s : State) (c : CoreId) (f : Job → Job) : (s.onJob c f).cur = s.cur := by
  unfold State.onJob; cases s.job c <;> rfl
@[simp] theorem State.onOwn_cur (s : State) (f : Job → Job) : (s.onOwn f).cur = s.cur := State.onJob_cur s _ f
@[simp] theorem State.onJob_agenda (s : State) (c : CoreId) (f : Job → Job) : (s.onJob c f).agenda = s.agenda := by
  unfold State.onJob; cases s.job c <;> rfl
@[simp] theorem State.onOwn_agenda (s : State) (f : Job → Job) : (s.onOwn f).agenda = s.agenda := State.onJob_agenda s _ f

end Sys2Proof.Machine
end

