-- ==== Sys2Proof/Laws/Run.lean ====
section
/-!
SUPPORT. What each shared operation of an instruction does, said once: the execution monad, the operand forms, the work left behind, and an
instruction whose body completes.
-/
namespace Sys2Proof.Machine

set_option Elab.async false

/-! ### The monad -/

theorem runs_pure {α : Type} (a : α) (s : State) : Runs (pure a) s a s := rfl
theorem runs_bind {α β : Type} {m : M α} {f : α → M β} {s t u : State} {a : α} {b : β} (h : Runs m s a t) (k : Runs (f a) t b u) :
    Runs (m >>= f) s b u := by
  unfold Runs EStateM.run at *
  simp [bind, EStateM.bind, h, k]
theorem runs_get (s : State) : Runs (get : M State) s s s := rfl
theorem runs_set (s t : State) : Runs (set t : M Unit) s () t := rfl
theorem runs_modify (f : State → State) (s : State) : Runs (modify f : M Unit) s () (f s) := rfl
theorem runs_curStream (s : State) : Runs curStream s s.cur.2 s := rfl
theorem runs_curCore (s : State) : Runs curCore s s.cur.1 s := rfl
theorem runs_trapIf {b : Bool} (c : BitVec 8) (w : Word) (s : State) (h : b = false) : Runs (trapIf b c w) s () s := by
  subst h; rfl
theorem runs_stallIf {b : Bool} (c : BitVec 4) (s : State) (h : b = false) : Runs (stallIf b c) s () s := by
  subst h; rfl
theorem runs_ite {α : Type} {c : Prop} [Decidable c] {x y : M α} {s t : State} {a : α} (hx : c → Runs x s a t) (hy : ¬c → Runs y s a t) :
    Runs (if c then x else y) s a t := by
  split
  · exact hx ‹_›
  · exact hy ‹_›

theorem State.own_job {s : State} {j : Job} (h : s.own = some j) : s.job s.cur.1 = some j := h
theorem runs_getJob {s : State} {j : Job} (h : s.own = some j) : Runs getJob s j s := by
  have h' := State.own_job h
  unfold Runs getJob EStateM.run
  simp [bind, EStateM.bind, get, getThe, MonadStateOf.get, EStateM.get, h', pure, EStateM.pure]
theorem runs_setJob (s : State) (j : Job) : Runs (setJob j) s () (s.setJob s.cur.1 j) := rfl
theorem State.onOwn_eq {s : State} {j : Job} (h : s.own = some j) (f : Job → Job) : s.onOwn f = s.setJob s.cur.1 (f j) := by
  have h' := State.own_job h
  simp [State.onOwn, State.onJob, h']
theorem runs_modifyJob {s : State} {j : Job} (f : Job → Job) (h : s.own = some j) : Runs (modifyJob f) s () (s.onOwn f) := by
  rw [State.onOwn_eq h]
  exact runs_bind (runs_getJob h) (runs_setJob s _)
theorem runs_getStream {s : State} {j : Job} (h : s.own = some j) : Runs getStream s (j.stream s.cur.2) s :=
  runs_bind (runs_getJob h) (runs_bind (runs_get s) (runs_pure _ s))
theorem runs_modifyStream {s : State} {j : Job} (f : Stream → Stream) (h : s.own = some j) : Runs (modifyStream f) s () (s.onLane f) :=
  runs_bind (runs_curStream s) (runs_modifyJob _ h)
theorem State.onLane_congr {s : State} {j : Job} {f g : Stream → Stream} (h : s.own = some j)
    (e : f (j.stream s.cur.2) = g (j.stream s.cur.2)) : s.onLane f = s.onLane g := by
  simp only [State.onLane, State.onOwn_eq h, Job.onStream, e]
theorem State.lane_eq {s : State} {j : Job} (h : s.own = some j) : s.lane = some (j.stream s.cur.2) := by simp [State.lane, h]
theorem State.origin_eq {s : State} {j : Job} (h : s.own = some j) (d : Hdr) :
    s.origin d = ⟨s.cur.2, ⟨(j.stream s.cur.2).coord, d.stage⟩, j.seq, (j.stream s.cur.2).pc⟩ := by
  have h' := State.own_job h
  simp [State.origin, h']
theorem runs_originOf {s : State} {j : Job} (d : Hdr) (h : s.own = some j) : Runs (originOf d) s (s.origin d) s := by
  rw [State.origin_eq h]
  exact runs_bind (runs_getJob h) (runs_bind (runs_curStream s) (runs_pure _ s))

/-! ### Operand forms (R20 to R30) -/

theorem checkEntry_runs {α : Type} {cur : Coord} {e : QEntry α} {v : α} (s : State) (h : e.usable cur = some v) :
    Runs (checkEntry cur e) s () s ∧ e.val = some v ∧ ¬ cur < e.stamp.coord := by
  unfold QEntry.usable at h
  split at h
  · cases h
  · rename_i hc
    simp only [Bool.or_eq_true, decide_eq_true_eq, not_or, not_not] at hc
    refine ⟨?_, h, hc.1⟩
    refine runs_bind (runs_trapIf _ _ s (by simp [hc.1])) ?_
    rw [hc.2]
    exact runs_pure () s

@[simp] theorem State.onLane_own (s : State) (f : Stream → Stream) : (s.onLane f).own = s.own.map (fun j => j.onStream s.cur.2 f) := by
  simp [State.onLane]
@[simp] theorem State.onLane_cur (s : State) (f : Stream → Stream) : (s.onLane f).cur = s.cur := by simp [State.onLane]

/-- A read of an entry changes the FENCEs of its stream alone. -/
@[simp] theorem Stream.reads_regs (id seq : Nat) (t : Stream) : (t.reads id seq).regs = t.regs := by unfold Stream.reads; split <;> rfl
@[simp] theorem Stream.reads_coord (id seq : Nat) (t : Stream) : (t.reads id seq).coord = t.coord := by unfold Stream.reads; split <;> rfl
/-- A job's stream after a change of it. -/
@[simp] theorem Job.stream_onStream (j : Job) (st : StreamId) (f : Stream → Stream) : (j.onStream st f).stream st = f (j.stream st) := by
  simp [Job.onStream]
@[simp] theorem Job.onStream_seq (j : Job) (st : StreamId) (f : Stream → Stream) : (j.onStream st f).seq = j.seq := rfl

/-- A scalar source that is readable gives its value and pops its entry. -/
theorem pop_runs {s t : State} {x : Spec} {v : Word} (h : s.scalar x = some (v, t)) : Runs (pop x) s v t := by
  unfold State.scalar at h
  unfold pop readScalar
  cases hr : Spec.reg x with
  | none => simp only [hr] at h ⊢; cases h; exact runs_pure 0 s
  | some r =>
    simp only [hr] at h ⊢
    cases hj : s.own with
    | none => simp [hj] at h
    | some j =>
      simp only [hj] at h
      refine runs_bind (runs_getJob hj) (runs_bind (runs_curStream s) ?_)
      cases hq : ((j.stream s.cur.2).regs.get r).items with
      | nil => simp [hq] at h
      | cons e l =>
        simp only [hq] at h ⊢
        split at h
        · cases h
        rename_i hm
        cases hu : e.usable (j.stream s.cur.2).coord with
        | none => simp [hu] at h
        | some w =>
          obtain ⟨hc, hv, _⟩ := checkEntry_runs s hu
          simp only [hu, Option.map_some, Option.some.injEq] at h
          simp only [hv]
          obtain ⟨rfl, rfl⟩ := h
          refine runs_bind (by simpa using hc) (runs_bind (runs_get s) (runs_bind (runs_stallIf _ s (by simpa using hm))
            (runs_bind (runs_modifyStream _ hj) ?_)))
          split
          · exact runs_pure _ _
          · have h' : (s.onLane (Stream.reads e.id j.seq)).own = some (j.onStream s.cur.2 (Stream.reads e.id j.seq)) := by simp [hj]
            refine runs_bind (runs_modifyStream _ h') ?_
            rw [State.onLane_congr (g := fun t => { t with regs := t.regs.set r ((t.regs.get r).pop t.coord j.seq) }) h' (by simp)]
            exact runs_pure _ _

/-- A scalar read keeps the executing stream and its job's place. -/
theorem scalar_keeps {s t : State} {x : Spec} {v : Word} (h : s.scalar x = some (v, t)) :
    t.cur = s.cur ∧ t.own.isSome = s.own.isSome := by
  unfold State.scalar at h
  split at h
  · cases h; simp
  · split at h
    · cases h
    · rename_i j hj
      dsimp only at h
      split at h
      · cases h
      · split at h
        · cases h
        · simp only [Option.map_eq_some_iff] at h
          obtain ⟨w, -, -, rfl⟩ := h
          split <;> simp [hj]

/-- The reads of scalar sources in order. -/
theorem scalars_cons {s u : State} {x : Spec} {l : List Spec} {v : Word} {vs : List Word} (h : s.scalars (x :: l) = some (v :: vs, u)) :
    ∃ t, s.scalar x = some (v, t) ∧ t.scalars l = some (vs, u) := by
  simp only [State.scalars] at h
  split at h
  · cases h
  · rename_i w t ht
    simp only [Option.map_eq_some_iff] at h
    obtain ⟨r, hr, ⟨rfl, rfl⟩, rfl⟩ := h
    exact ⟨t, ht, hr⟩
theorem scalars_nil {s u : State} (h : s.scalars [] = some ([], u)) : u = s := by
  have e : some (([] : List Word), s) = some ([], u) := h
  cases e
  rfl
theorem scalars_keeps {l : List Spec} {s t : State} {vs : List Word} (h : s.scalars l = some (vs, t)) :
    t.cur = s.cur ∧ t.own.isSome = s.own.isSome := by
  induction l generalizing s vs with
  | nil =>
    have e : some (([] : List Word), s) = some (vs, t) := h
    cases e
    simp
  | cons x l ih =>
    cases vs with
    | nil =>
      simp only [State.scalars] at h
      split at h
      · cases h
      · simp at h
    | cons v vs =>
      obtain ⟨u, hu, hl⟩ := scalars_cons h
      obtain ⟨a, b⟩ := scalar_keeps hu
      obtain ⟨c, d⟩ := ih hl
      exact ⟨c.trans a, d.trans b⟩

/-- A destination with room takes the pushed entry. -/
theorem pushEntry_runs {s : State} {x : Spec} {h : Hdr} {v : Option Word} {id : Nat} {held : Bool} {j : Job} (hj : s.own = some j)
    (hid : id = j.seq) (hr : s.room x = true) : Runs (pushEntry h x v id held) s () (s.put h x v held) := by
  subst hid
  unfold State.room at hr
  unfold pushEntry pushRoom State.put
  cases hx : Spec.reg x with
  | none => exact runs_bind (runs_pure () s) (runs_pure () s)
  | some r =>
    simp only [hx, hj, Bool.and_eq_true, Bool.not_eq_true', decide_eq_true_eq] at hr
    refine runs_bind (t := s) (a := ()) ?_ ?_
    · refine runs_bind (runs_getJob hj) (runs_bind (runs_curStream s) (runs_bind (runs_trapIf _ _ s ?_) ?_))
      · have : ¬ 4 ≤ ((j.stream s.cur.2).regs.get r).items.length := by omega
        simp [hr.1.1, this]
      · have : ¬ 8 ≤ ((j.stream s.cur.2).regs.get r).items.length + ((j.stream s.cur.2).regs.get r).popped.length := by omega
        simp only [this, if_false]
        exact runs_pure () s
    · refine runs_bind (runs_getStream hj) ?_
      unfold setReg
      have := runs_modifyStream (fun t => { t with regs := t.regs.set r.val (Queue.mk (((j.stream s.cur.2).regs.get r).items ++
          [⟨v, ⟨(j.stream s.cur.2).coord, h.stage⟩, .none, held, j.seq, none⟩]) ((j.stream s.cur.2).regs.get r).popped) r.isLt }) hj
      convert this using 1
      simp [State.onLane, State.onOwn_eq hj, Job.onStream]
theorem push_runs {s : State} {x : Spec} {h : Hdr} {v : Word} {j : Job} (hj : s.own = some j) (hr : s.room x = true) :
    Runs (push h x v) s () (s.put h x (some v) false) :=
  runs_bind (runs_getJob hj) (pushEntry_runs hj rfl hr)
theorem reserve_runs {s : State} {x : Spec} {h : Hdr} {held : Bool} {j : Job} (hj : s.own = some j) (hr : s.room x = true) :
    Runs (reserve h x held) s () (s.put h x none held) :=
  runs_bind (runs_getJob hj) (pushEntry_runs hj rfl hr)
@[simp] theorem State.put_cur (s : State) (h : Hdr) (x : Spec) (v : Option Word) (held : Bool) : (s.put h x v held).cur = s.cur := by
  unfold State.put; split <;> simp
@[simp] theorem State.put_own_isSome (s : State) (h : Hdr) (x : Spec) (v : Option Word) (held : Bool) :
    (s.put h x v held).own.isSome = s.own.isSome := by
  unfold State.put; split <;> simp

theorem readPred_runs {s : State} {j : Job} (x : Spec) (hj : s.own = some j) : Runs (readPred x) s (s.pred x) s := by
  simp only [State.pred, State.lane_eq hj]
  exact runs_bind (runs_getStream hj) (runs_pure _ s)
theorem writePred_runs {s : State} {j : Job} (x : Spec) (b : Bool) (hj : s.own = some j) : Runs (writePred x b) s () (s.putPred x b) :=
  runs_modifyStream _ hj

/-! ### Work left behind -/

theorem pend_runs {s : State} {j : Job} (h : Hdr) (k : OpKind) (hj : s.own = some j) : Runs (pend h k) s () (s.pending h k) :=
  runs_bind (runs_originOf h hj) (runs_modifyJob _ hj)
theorem hold_runs {s : State} {j : Job} (h : Hdr) (k : HeldKind) (hj : s.own = some j) : Runs (hold h k) s () (s.holding h k) :=
  runs_bind (runs_originOf h hj) (runs_modifyJob _ hj)
theorem enqueue_runs {s : State} {j : Job} (e : Engine) (h : Hdr) (k : CmdKind) (hj : s.own = some j) (hr : s.queueRoom e = true) :
    Runs (enqueue e h k) s () (s.queueing e h k) := by
  have : ¬ 16 ≤ j.queued e := by simp [State.queueRoom, hj] at hr; omega
  unfold enqueue State.queueing
  refine runs_bind (runs_getJob hj) ?_
  simp only [this, if_false]
  refine runs_bind (runs_originOf h hj) ?_
  rw [State.onOwn_eq hj]
  exact runs_setJob s _

/-! ### Tokens and the instruction around its body (R28, R63) -/

theorem popToken_runs {s t : State} {src : StreamId} {b : Bool} (h : s.takeToken src b = some t) : Runs (popToken src b) s () t := by
  unfold State.takeToken at h
  unfold popToken
  cases hj : s.own with
  | none => simp [hj] at h
  | some j =>
    simp only [hj] at h
    refine runs_bind (runs_getJob hj) (runs_bind (runs_getStream hj) ?_)
    cases hq : (j.toks.get (fifoIdx src b)).items with
    | nil => simp [hq] at h
    | cons e l =>
      simp only [hq] at h ⊢
      split at h
      · cases h
      · rename_i hc
        simp only [Bool.or_eq_true, decide_eq_true_eq, not_or, not_not] at hc
        cases h
        refine runs_bind (t := s) (a := ()) ?_ (runs_setJob s _)
        unfold checkEntry
        refine runs_bind (runs_trapIf _ _ s (by simp [hc.1])) ?_
        rw [hc.2]
        exact runs_pure () s
theorem takeToken_keeps {s t : State} {src : StreamId} {b : Bool} (h : s.takeToken src b = some t) :
    t.cur = s.cur ∧ t.own.isSome = s.own.isSome := by
  unfold State.takeToken at h
  split at h
  · cases h
  · split at h
    · cases h
    · dsimp only at h
      split at h
      · cases h
      · rename_i j hj _ _ _ _ _
        cases h
        refine ⟨rfl, ?_⟩
        rw [hj]; simp [State.own]
theorem popTokens_runs {s t : State} {h : Hdr} (e : s.takeTokens h = some t) : Runs (popTokens h) s () t := by
  unfold State.takeTokens at e
  unfold popTokens
  refine runs_bind (runs_curStream s) ?_
  cases hp : h.pbp
  · simp only [hp, Bool.false_eq_true, if_false] at e ⊢
    cases hb : h.pbn
    · simp only [hb, Bool.false_eq_true, if_false, Option.some.injEq] at e ⊢; subst e; exact runs_pure () s
    · simp only [hb, if_true] at e ⊢; exact popToken_runs e
  · simp only [hp, if_true] at e ⊢
    cases hm : s.takeToken s.cur.2.prev true with
    | none => simp [hm] at e
    | some u =>
      simp only [hm] at e
      refine runs_bind (popToken_runs hm) ?_
      cases hb : h.pbn
      · simp only [hb, Bool.false_eq_true, if_false, Option.some.injEq] at e ⊢; subst e; exact runs_pure () _
      · simp only [hb, if_true] at e ⊢; rw [← (takeToken_keeps hm).1]; exact popToken_runs e
theorem takeTokens_keeps {s t : State} {h : Hdr} (e : s.takeTokens h = some t) : t.cur = s.cur ∧ t.own.isSome = s.own.isSome := by
  unfold State.takeTokens at e
  split at e
  · cases e
  · rename_i u hu
    have hk : u.cur = s.cur ∧ u.own.isSome = s.own.isSome := by
      split at hu
      · exact takeToken_keeps hu
      · cases hu; simp
    split at e
    · have := takeToken_keeps e
      exact ⟨this.1.trans hk.1, this.2.trans hk.2⟩
    · cases e; exact hk
theorem entered_keeps {s t : State} {i : Instr} (h : s.entered i = some t) : t.cur = s.cur ∧ t.own.isSome = true := by
  unfold State.entered at h
  split at h
  · cases h
  · split at h
    · rename_i ha
      have := takeTokens_keeps h
      refine ⟨this.1, ?_⟩
      rw [this.2]
      unfold State.admits at ha
      cases hj : s.own <;> simp [hj] at ha ⊢
    · cases h

theorem takeToken_lane {s t : State} {src : StreamId} {b : Bool} (h : s.takeToken src b = some t) : t.lane = s.lane := by
  unfold State.takeToken at h
  split at h
  · cases h
  · split at h
    · cases h
    · dsimp only at h
      split at h
      · cases h
      · rename_i j hj _ _ _ _ _
        cases h
        rw [State.lane_eq hj]
        simp [State.lane, State.own, Job.stream]
/-- The token pops of an instruction leave its stream as it is. -/
theorem entered_lane {s t : State} {i : Instr} (h : s.entered i = some t) : t.lane = s.lane := by
  unfold State.entered at h
  split at h
  · cases h
  · split at h
    · unfold State.takeTokens at h
      split at h
      · cases h
      · rename_i u hu
        have hk : u.lane = s.lane := by
          split at hu
          · exact takeToken_lane hu
          · cases hu; rfl
        split at h
        · exact (takeToken_lane h).trans hk
        · cases h; exact hk
    · cases h

/-- AN INSTRUCTION COMPLETES when it enters and its body completes: the body's effect, then the retirement. -/
theorem runInstr_completes {i : Instr} {body : M (Option Word)} {s s0 s1 : State} {r : Option Word} (h : s.entered i = some s0)
    (hb : Runs body s0 r s1) (hc : s1.cur = s.cur) (ho : s1.own.isSome = true) :
    runInstr i body s = .next (s1.retired i (r.getD (s.nextPc i))) := by
  have h0 := h
  unfold State.entered at h
  unfold runInstr State.retired
  cases he : i.enc with
  | none => simp [he] at h
  | some e =>
    simp only [he] at h ⊢
    split at h
    · rename_i ha
      unfold State.admits at ha
      cases hj : s.own with
      | none => simp [hj] at ha
      | some j =>
        simp only [hj, Bool.and_eq_true, Bool.or_eq_true, Bool.not_eq_true'] at ha
        obtain ⟨⟨⟨⟨⟨⟨h1, h2⟩, h3⟩, h4⟩, h5⟩, h6⟩, h7⟩ := ha
        have hrun : Runs (attempt i e body) s () (s1.onOwn (fun j => j.retire s.cur.2 (r.getD (s.nextPc i)) e.h false)) := by
          unfold attempt
          refine runs_bind (runs_getJob hj) (runs_bind (runs_curStream s) ?_)
          simp only [h1, Bool.not_true, Bool.false_eq_true, if_false]
          refine runs_bind (runs_trapIf _ _ s (by simp [h2, h3])) ?_
          refine runs_bind (runs_trapIf _ _ s (by rw [h4]; rfl)) (runs_bind (runs_get s) ?_)
          refine runs_bind (runs_trapIf _ _ s (by rcases h5 with h5 | h5 <;> simp [h5])) ?_
          simp only [h6, h7, Bool.false_eq_true, if_false, if_true]
          refine runs_bind (popTokens_runs h) (runs_bind hb ?_)
          obtain ⟨j1, hj1⟩ := Option.isSome_iff_exists.mp ho
          refine runs_bind (runs_curStream s1) ?_
          have hn : (j.stream s.cur.2).pc + BitVec.ofNat 64 i.bytes = s.nextPc i := by simp [State.nextPc, State.lane_eq hj]
          rw [hn, hc]
          exact runs_modifyJob _ hj1
        unfold Runs at hrun
        rw [hrun, hc]
    · cases h

/-- An instruction that falls through completes when it enters and its body completes. -/
theorem straight_runs {body : M Unit} {s t : State} (h : Runs body s () t) : Runs (straight body) s none t := runs_bind h (runs_pure none t)
/-- AN INSTRUCTION THAT FALLS THROUGH COMPLETES when it enters and its body completes. -/
theorem straight_completes {i : Instr} {body : M Unit} {s s0 s1 : State} (h : s.entered i = some s0) (hb : Runs body s0 () s1)
    (hc : s1.cur = s.cur) (ho : s1.own.isSome = true) : runInstr i (straight body) s = .next (s1.retired i (s.nextPc i)) :=
  runInstr_completes (r := none) h (straight_runs hb) hc ho

end Sys2Proof.Machine
end

