-- ==== Sys2Proof/Laws/Stays.lean ====
section
/-!
SUPPORT. What an operation of an instruction can do to the state, whether it completes or stops: a relation that every shared operation
keeps is kept by the instructions built from them.
-/
namespace Sys2Proof.Machine

set_option Elab.async false

/-- The state that an operation leaves, whether it completes or stops. -/
def left {α : Type} (m : M α) (s : State) : State := match m.run s with
  | .ok _ t => t
  | .error _ t => t
/-- From s the operation leads to a state in the relation, whether it completes or stops. -/
def Stays {α : Type} (R : State → State → Prop) (m : M α) (s : State) : Prop := R s (left m s)

theorem stays_of_runs {α : Type} {R : State → State → Prop} {m : M α} {s t : State} {a : α} (h : Runs m s a t) (k : Stays R m s) : R s t := by
  unfold Stays left at k
  unfold Runs at h
  rwa [h] at k
theorem runs_bind_inv {α β : Type} {m : M α} {f : α → M β} {s u : State} {b : β} (h : Runs (m >>= f) s b u) :
    ∃ a t, Runs m s a t ∧ Runs (f a) t b u := by
  unfold Runs EStateM.run at *
  simp only [bind, EStateM.bind] at h
  split at h
  · exact ⟨_, _, ‹_›, h⟩
  · cases h
theorem runs_pure_inv {α : Type} {a b : α} {s t : State} (h : Runs (pure a) s b t) : b = a ∧ t = s := by
  cases h; exact ⟨rfl, rfl⟩
theorem runs_throw_inv {α : Type} {x : Stop} {s t : State} {a : α} (h : Runs (throw x) s a t) : False := by cases h
theorem runs_trapIf_inv {b : Bool} {c : BitVec 8} {w : Word} {s t : State} {x : Unit} (h : Runs (trapIf b c w) s x t) : b = false ∧ t = s := by
  cases b
  · cases h; exact ⟨rfl, rfl⟩
  · cases h
theorem runs_get_inv {s t a : State} (h : Runs (get : M State) s a t) : a = s ∧ t = s := by cases h; exact ⟨rfl, rfl⟩
theorem runs_curStream_inv {s t : State} {x : StreamId} (h : Runs curStream s x t) : x = s.cur.2 ∧ t = s := by cases h; exact ⟨rfl, rfl⟩
theorem runs_curCore_inv {s t : State} {a : CoreId} (h : Runs curCore s a t) : a = s.cur.1 ∧ t = s := by cases h; exact ⟨rfl, rfl⟩
theorem runs_getJob_inv {s t : State} {j : Job} (h : Runs getJob s j t) : s.own = some j ∧ t = s := by
  cases hj : s.own with
  | none =>
    have h' : s.job s.cur.1 = none := hj
    unfold Runs getJob EStateM.run at h
    simp [bind, EStateM.bind, get, getThe, MonadStateOf.get, EStateM.get, h', stall, throw, throwThe, MonadExceptOf.throw, EStateM.throw] at h
  | some k =>
    have := runs_getJob hj
    unfold Runs at this h
    rw [this] at h
    cases h; exact ⟨rfl, rfl⟩
theorem runs_getStream_inv {s t : State} {x : Stream} (h : Runs getStream s x t) : ∃ j, s.own = some j ∧ x = j.stream s.cur.2 ∧ t = s := by
  obtain ⟨j, u, hj, h1⟩ := runs_bind_inv h
  obtain ⟨hj, rfl⟩ := runs_getJob_inv hj
  obtain ⟨v, w, hv, h2⟩ := runs_bind_inv h1
  obtain ⟨rfl, rfl⟩ := runs_get_inv hv
  obtain ⟨rfl, rfl⟩ := runs_pure_inv h2
  exact ⟨j, hj, rfl, rfl⟩

section
variable {α β : Type} {R : State → State → Prop}

theorem stays_pure (hr : ∀ s, R s s) (a : α) (s : State) : Stays R (pure a : M α) s := hr s
theorem stays_throw (hr : ∀ s, R s s) (x : Stop) (s : State) : Stays R (throw x : M α) s := hr s
theorem stays_trap (hr : ∀ s, R s s) (c : BitVec 8) (w : Word) (s : State) : Stays R (trap c w : M α) s := hr s
theorem stays_stall (hr : ∀ s, R s s) (c : BitVec 4) (s : State) : Stays R (stall c : M α) s := hr s
theorem stays_trapIf (hr : ∀ s, R s s) (b : Bool) (c : BitVec 8) (w : Word) (s : State) : Stays R (trapIf b c w) s := by
  cases b <;> exact hr s
theorem stays_stallIf (hr : ∀ s, R s s) (b : Bool) (c : BitVec 4) (s : State) : Stays R (stallIf b c) s := by
  cases b <;> exact hr s
theorem stays_get (hr : ∀ s, R s s) (s : State) : Stays R (get : M State) s := hr s
theorem stays_curStream (hr : ∀ s, R s s) (s : State) : Stays R curStream s := hr s
theorem stays_curCore (hr : ∀ s, R s s) (s : State) : Stays R curCore s := hr s
theorem stays_bind (ht : ∀ s t u, R s t → R t u → R s u) {m : M α} {f : α → M β} {s : State} (h : Stays R m s)
    (k : ∀ a t, Runs m s a t → Stays R (f a) t) : Stays R (m >>= f) s := by
  unfold Stays left EStateM.run at *
  simp only [bind, EStateM.bind]
  cases hm : m s with
  | ok a t =>
    rw [hm] at h
    exact ht _ _ _ h (k a t hm)
  | error x t => rw [hm] at h; exact h
theorem stays_ite {c : Prop} [Decidable c] {x y : M α} {s : State} (h : c → Stays R x s) (k : ¬c → Stays R y s) :
    Stays R (if c then x else y) s := by
  split
  · exact h ‹_›
  · exact k ‹_›
theorem stays_getJob (hr : ∀ s, R s s) (s : State) : Stays R getJob s := by
  cases hj : s.own with
  | none =>
    have h' : s.job s.cur.1 = none := hj
    unfold Stays left getJob EStateM.run
    simp [bind, EStateM.bind, get, getThe, MonadStateOf.get, EStateM.get, h', stall, throw, throwThe, MonadExceptOf.throw, EStateM.throw, hr]
  | some k =>
    have := runs_getJob hj
    unfold Runs at this
    unfold Stays left
    rw [this]
    exact hr s
theorem stays_set {s t : State} (h : R s t) : Stays R (set t : M Unit) s := h
theorem stays_modify {f : State → State} {s : State} (h : R s (f s)) : Stays R (modify f : M Unit) s := h
theorem stays_setJob {j : Job} {s : State} (h : R s (s.setJob s.cur.1 j)) : Stays R (setJob j) s := h
theorem stays_modifyJob (hr : ∀ s, R s s) (ht : ∀ s t u, R s t → R t u → R s u) {f : Job → Job} {s : State}
    (h : ∀ j, s.own = some j → R s (s.setJob s.cur.1 (f j))) : Stays R (modifyJob f) s :=
  stays_bind ht (stays_getJob hr s) fun j t hj => by
    obtain ⟨hj, rfl⟩ := runs_getJob_inv hj
    exact stays_setJob (h j hj)
theorem stays_getStream (hr : ∀ s, R s s) (ht : ∀ s t u, R s t → R t u → R s u) (s : State) : Stays R getStream s :=
  stays_bind ht (stays_getJob hr s) fun _ t _ => stays_bind ht (stays_get hr t) fun _ _ _ => stays_pure hr _ _
theorem stays_modifyStream (hr : ∀ s, R s s) (ht : ∀ s t u, R s t → R t u → R s u) {f : Stream → Stream} {s : State}
    (h : ∀ j, s.own = some j → R s (s.setJob s.cur.1 (j.onStream s.cur.2 f))) : Stays R (modifyStream f) s :=
  stays_bind ht (stays_curStream hr s) fun st t hst => by
    obtain ⟨rfl, rfl⟩ := runs_curStream_inv hst
    exact stays_modifyJob hr ht h
theorem stays_originOf (hr : ∀ s, R s s) (ht : ∀ s t u, R s t → R t u → R s u) (h : Hdr) (s : State) : Stays R (originOf h) s :=
  stays_bind ht (stays_getJob hr s) fun _ t _ => stays_bind ht (stays_curStream hr t) fun _ _ _ => stays_pure hr _ _
end

end Sys2Proof.Machine
end

