-- ==== Sys2Proof/Laws/Reads.lean ====
section
/-!
SUPPORT. The checks and reads of an instruction that leave the state as it is, whether they complete or stop: each stays in every reflexive
and transitive relation, and where it completes, the state after it is the state before it.
-/
namespace Sys2Proof.Machine

set_option Elab.async false

section
variable {R : State → State → Prop} (hr : ∀ s, R s s) (ht : ∀ s t u, R s t → R t u → R s u)
include hr

theorem stays_faultTrap {α : Type} (f : AStop) (s : State) : Stays R (faultTrap f : M α) s := by
  cases f with
  | fault x => unfold faultTrap; exact stays_ite (fun _ => stays_throw hr _ s) (fun _ => stays_throw hr _ s)
  | fetch l => exact stays_throw hr _ s
  | fabric ga r => exact stays_throw hr _ s
  | drains => exact stays_throw hr _ s
include ht

theorem stays_whoNow (s : State) : Stays R whoNow s :=
  stays_bind ht (stays_get hr s) fun _ t _ => stays_bind ht (stays_getJob hr t) fun _ _ _ => stays_pure hr _ _
theorem stays_checkBusy (a : Word) (s : State) : Stays R (checkBusy a) s := by
  unfold checkBusy
  refine stays_bind ht (stays_whoNow hr ht s) fun w t _ => ?_
  refine stays_ite (fun _ => ?_) (fun _ => stays_pure hr _ _)
  split
  · refine stays_bind ht (stays_get hr t) fun x u _ => stays_bind ht (stays_getJob hr u) fun j v _ => ?_
    split
    · exact stays_throw hr _ _
    · exact stays_pure hr _ _
  · exact stays_pure hr _ _
theorem stays_scratchPlace (a : Word) (k n : Nat) (s : State) : Stays R (scratchPlace a k n) s := by
  unfold scratchPlace
  refine stays_bind ht (stays_whoNow hr ht s) fun w t _ => stays_bind ht (stays_trapIf hr _ _ _ t) fun _ u _ => ?_
  split
  · refine stays_bind ht (stays_trapIf hr _ _ _ _) fun _ v _ => stays_bind ht (stays_get hr v) fun x v' _ => ?_
    split
    · exact stays_pure hr _ _
    · exact stays_faultTrap hr _ _
  · exact stays_trap hr _ _ _
theorem stays_unveiled (k : CoreId) (p n : Nat) (s : State) : Stays R (unveiled k p n) s :=
  stays_bind ht (stays_get hr s) fun _ t _ => stays_bind ht (stays_getJob hr t) fun _ _ _ => stays_stallIf hr _ _ _
theorem stays_readPool (k : CoreId) (p n : Nat) (va : Word) (s : State) : Stays R (readPool k p n va) s := by
  unfold readPool
  refine stays_bind ht (stays_unveiled hr ht k p n s) fun _ r _ => stays_bind ht (stays_get hr r) fun x t _ => ?_
  split
  · exact stays_throw hr _ _
  · refine stays_bind ht (stays_getJob hr t) fun j u _ => ?_
    dsimp only
    split
    · exact stays_throw hr _ _
    · exact stays_pure hr _ _
theorem stays_readSeg (a : Word) (ty : Nat) (s : State) : Stays R (readSeg a ty) s :=
  stays_bind ht (stays_scratchPlace hr ht _ _ _ s) fun _ t _ => stays_bind ht (stays_unveiled hr ht _ _ _ t) fun _ u _ =>
    stays_bind ht (stays_get hr u) fun _ v _ => stays_bind ht (stays_getJob hr v) fun _ _ _ => stays_pure hr _ _
theorem stays_checkSource (cnt : Nat) (o : VOpd) (s : State) : Stays R (VOpd.checkSource cnt o) s := by
  cases o with
  | unused => exact stays_pure hr _ _
  | seg k st ty => exact stays_pure hr _ _
  | queue f => exact stays_bind ht (stays_getJob hr s) fun _ t _ => stays_trapIf hr _ _ _ t
theorem stays_checkDest (cnt : Nat) (o : VOpd) (s : State) : Stays R (VOpd.checkDest cnt o) s := by
  cases o with
  | unused => exact stays_pure hr _ _
  | seg k st ty => exact stays_pure hr _ _
  | queue f => exact stays_bind ht (stays_getJob hr s) fun _ t _ => stays_trapIf hr _ _ _ t
theorem stays_vnCheck (bit : Int) (ty : Nat) (s : State) : Stays R (vnCheck bit ty) s :=
  stays_bind ht (stays_scratchPlace hr ht _ _ _ s) fun _ _ _ => stays_pure hr _ _
theorem stays_vnRead (bit : Int) (ty : Nat) (s : State) : Stays R (vnRead bit ty) s :=
  stays_bind ht (stays_scratchPlace hr ht _ _ _ s) fun _ t _ => stays_bind ht (stays_readPool hr ht _ _ _ _ t) fun _ _ _ => stays_pure hr _ _

end

theorem checkBusy_keeps {a : Word} {s t : State} {x : Unit} (h : Runs (checkBusy a) s x t) : t = s :=
  (stays_of_runs (R := Eq) h (stays_checkBusy (fun _ => rfl) (fun _ _ _ => Eq.trans) a s)).symm
theorem scratchPlace_keeps {a : Word} {k n : Nat} {s t : State} {x : CoreId × Nat} (h : Runs (scratchPlace a k n) s x t) : t = s :=
  (stays_of_runs (R := Eq) h (stays_scratchPlace (fun _ => rfl) (fun _ _ _ => Eq.trans) a k n s)).symm
theorem readPool_keeps {k : CoreId} {p n : Nat} {va : Word} {s t : State} {x : List Byte} (h : Runs (readPool k p n va) s x t) : t = s :=
  (stays_of_runs (R := Eq) h (stays_readPool (fun _ => rfl) (fun _ _ _ => Eq.trans) k p n va s)).symm
theorem readSeg_keeps {a : Word} {ty : Nat} {s t : State} {x : Tile × Option Nat} (h : Runs (readSeg a ty) s x t) : t = s :=
  (stays_of_runs (R := Eq) h (stays_readSeg (fun _ => rfl) (fun _ _ _ => Eq.trans) a ty s)).symm
theorem checkSource_keeps {n : Nat} {o : VOpd} {s t : State} {x : Unit} (h : Runs (VOpd.checkSource n o) s x t) : t = s :=
  (stays_of_runs (R := Eq) h (stays_checkSource (fun _ => rfl) (fun _ _ _ => Eq.trans) n o s)).symm
theorem checkDest_keeps {n : Nat} {o : VOpd} {s t : State} {x : Unit} (h : Runs (VOpd.checkDest n o) s x t) : t = s :=
  (stays_of_runs (R := Eq) h (stays_checkDest (fun _ => rfl) (fun _ _ _ => Eq.trans) n o s)).symm
theorem vnRead_keeps {bit : Int} {ty : Nat} {s t : State} {x : Nat} (h : Runs (vnRead bit ty) s x t) : t = s :=
  (stays_of_runs (R := Eq) h (stays_vnRead (fun _ => rfl) (fun _ _ _ => Eq.trans) bit ty s)).symm

end Sys2Proof.Machine
end

