-- ==== Sys2Proof/Tests/Slice0.lean ====
section
/-!
SUPPORT. Tests: words that the spec writes out with their instructions, ill-formed terms that the checks refuse, single steps, and for each
statement a state that meets its hypotheses.
-/
open Sys2Proof Sys2Proof.Machine Sys2Proof.Claims

namespace Sys2Proof.Tests

-- one theorem after another: each waits for the kernel in a thread of its own otherwise
set_option Elab.async false

/-! ### Decoding: words of the spec's tables of worked encodings (R45, R51 to R61) -/

/-- The header without marks, at stage 0. -/
def h0 : Hdr := ⟨0, false, false, false, false⟩

/-- 03: `ADD s2, s1!, s1`; 17: `ADD s18, s13!, s17`. -/
theorem test_decode_add : decode 0x000000C100200004 = .ok (.add h0 ⟨0, 1, 0x41, 0, 2⟩) ∧
    decode 0x000008CD01200004 = .ok (.add h0 ⟨0, 0x11, 0x4D, 0, 0x12⟩) := by decide +kernel
/-- 03: `LDI s1, 5`. -/
theorem test_decode_ldi : decode 0x000000050010010C = .ok (.ldi h0 ⟨5, 0, 1⟩) := by decide +kernel
/-- 04: `LOOP 0, 4, 1`; 17: `LOOP 1, s4, 1` and `LOOP 0, s6!, 1`. -/
theorem test_decode_loop : decode 0x0003000400000024 = .ok (.loop h0 ⟨3, 4, false, 0, 0⟩) ∧
    decode 0x0007000402100024 = .ok (.loop h0 ⟨7, 4, true, 0, 1⟩) ∧ decode 0x0006004602000024 = .ok (.loop h0 ⟨6, 0x46, true, 0, 0⟩) := by
  decide +kernel
/-- 20: `LCLAMP 0, s3`. -/
theorem test_decode_lclamp : decode 0x0000000302000124 = .ok (.lclamp h0 ⟨0, 3, true, 0, 0⟩) := by decide +kernel
/-- R78: TOK without marks; 23: `TOK +pbp +pan` and `TOK +pbn +pap`; stage 1. -/
theorem test_decode_tok : decode 0x34 = .ok (.tok h0 ⟨0, 0, 0, 0, 0⟩) ∧
    decode 0x24034 = .ok (.tok ⟨0, true, false, false, true⟩ ⟨0, 0, 0, 0, 0⟩) ∧
    decode 0x18034 = .ok (.tok ⟨0, false, true, true, false⟩ ⟨0, 0, 0, 0, 0⟩) ∧
    decode 0x40034 = .ok (.tok ⟨1, false, false, false, false⟩ ⟨0, 0, 0, 0, 0⟩) := by decide +kernel
/-- 05: `QDEPTH s4, s1`. -/
theorem test_decode_qdepth : decode 0x0000000100400138 = .ok (.qdepth h0 ⟨0, 0, 1, 0, 4⟩) := by decide +kernel
/-- 03: `STOPAT 0:0:0:0:3` in two words; 20: `STOPAT s7, s20!`. -/
theorem test_decode_stopat : decode (0x0000000000000245 + 2 ^ 64 * 0x8000000000000003) = .ok (.stopatImmediate h0 ⟨0x8000000000000003⟩) ∧
    decode 0x00002A0700000144 = .ok (.stopatRegister h0 ⟨0, 0x54, 7, 0, 0⟩) := by decide +kernel
/-- 20: `WAITEV s9`, `RESUME s31, s20`, `MBOX s3, s1, s2`, `SPAWN.core s5, s12, s4`. -/
theorem test_decode_supervisor : decode 0x0000000000900440 = .ok (.waitev h0 ⟨0, 0, 0, 0, 9⟩) ∧
    decode 0x0000001401F00344 = .ok (.resume h0 ⟨0, 0, 0x14, 0, 0x1F⟩) ∧ decode 0x0000010100300248 = .ok (.mbox h0 ⟨0, 2, 1, 0, 3⟩) ∧
    decode 0x0000020C00500048 = .ok (.spawn h0 ⟨0, 4, 0x0C, 0, 5⟩) := by decide +kernel
/-- 23: `FENCE.crew`, `FENCE.fleet`, `FENCE.system`: scopes 4, 5 and 6 in FN. -/
theorem test_decode_fence : decode 0x20000044 = .ok (.fence h0 ⟨0, 0, 0, 4, 0⟩) ∧ decode 0x28000044 = .ok (.fence h0 ⟨0, 0, 0, 5, 0⟩) ∧
    decode 0x30000044 = .ok (.fence h0 ⟨0, 0, 0, 6, 0⟩) := by decide +kernel
/-- 12: `SEMW 3, s1`, `SEMWT s2, 5, s1, s3`, `SEMS 16, s1`. -/
theorem test_decode_semaphores : decode 0x000000011800004C = .ok (.semw h0 ⟨0, 0, 1, 3, 0⟩) ∧
    decode 0x000001812820024C = .ok (.semwt h0 ⟨0, 3, 1, 5, 2⟩) ∧ decode 0x000000018000014C = .ok (.sems h0 ⟨0, 0, 1, 16, 0⟩) := by
  decide +kernel
/-- 14: `BARR.team`, `BARR.crew`, `BARR.w.team`, `BARR.t.crew s2, s1`; `SSTEP s31`. -/
theorem test_decode_barriers : decode 0x50 = .ok (.barr h0 ⟨0, 0, 0, 0, 0⟩) ∧ decode 0x8000050 = .ok (.barr h0 ⟨0, 0, 0, 1, 0⟩) ∧
    decode 0x20000050 = .ok (.barr h0 ⟨0, 0, 0, 4, 0⟩) ∧ decode 0x0000000118200050 = .ok (.barr h0 ⟨0, 0, 1, 3, 2⟩) ∧
    decode 0x0000000001F00150 = .ok (.sstep h0 ⟨0, 0, 0, 0, 0x1F⟩) := by decide +kernel
/-- 17: `SEND.cw s1, s2, s3, s4`; 16: `TLBI.page.crew s2, s1` and `TLBI.tenant.fleet s2`. -/
theorem test_decode_send_tlbi : decode 0x0001018200100250 = .ok (.send h0 ⟨0, 4, 3, 2, 0, 1⟩) ∧
    decode 0x0000000120200054 = .ok (.tlbiPage h0 ⟨0, 0, 1, 4, 2⟩) ∧ decode 0x0000000068200054 = .ok (.tlbiTenant h0 ⟨0, 0, 0, 0x0D, 2⟩) := by
  decide +kernel
/-- 24: `TMARK 5, s7 ~1` and `SNAP 3`. -/
theorem test_decode_marks : decode 0x0000000728040258 = .ok (.tmark ⟨1, false, false, false, false⟩ ⟨0, 0, 7, 5, 0⟩) ∧
    decode 0x0000000018000158 = .ok (.snap h0 ⟨0, 0, 0, 3, 0⟩) := by decide +kernel
/-- 17: `LD.n32 s17, s16, s31` and `GATHER.f16 v0, s15, s18, s14!, zero`. -/
theorem test_decode_loads : decode 0x00000F9099100060 = .ok (.ld h0 ⟨0, 0, 0x1F, 0x10, 0x13, 0x11⟩) ∧
    decode 0x0033890F08000064 = .ok (.gather h0 ⟨1, 0x4E, 0x12, 0x0F, 1, 0⟩) := by decide +kernel
/-- 03: `ST.i8 s5, s1!, s2 +pan` and `CPY.i8 s3!, s4, s2!`; 12: `ST.n64 s4, s1, s6 +pan`. -/
theorem test_decode_stores : decode 0x0000014168520080 = .ok (.st ⟨0, true, false, false, false⟩ ⟨0, 0, 2, 0x41, 0x0D, 5⟩) ∧
    decode 0x001080046C30006C = .ok (.cpy h0 ⟨0, 0x42, 0, 4, 0x0D, 0x43⟩) ∧
    decode 0x00000301A0420080 = .ok (.st ⟨0, true, false, false, false⟩ ⟨0, 0, 6, 1, 0x14, 4⟩) := by decide +kernel
/-- 12: `AADD.f32 s6, s1, s2`, `ACAS.n32 s6, s1, s2, s3`, `AWAIT.eq s3, s1, s2 +pbn`. -/
theorem test_decode_atomics : decode 0x00000101006000A0 = .ok (.aadd h0 ⟨0, 0, 2, 1, 0, 6⟩) ∧
    decode 0x0000C101986002A0 = .ok (.acas h0 ⟨0, 3, 2, 1, 0x13, 6⟩) ∧
    decode 0x00000101983085A0 = .ok (.await ⟨0, false, false, true, false⟩ ⟨0, 0, 2, 1, 0x13, 3⟩) := by decide +kernel
/-- 11: `MFMT s5`, `MCOMMIT 0`, `MWAIT 1`, `MRD s6, acc0, s31`, `MWR acc1, s31, s31 +pap`. -/
theorem test_decode_matrix : decode 0x00000005000000F0 = .ok (.mfmt h0 ⟨0, 0, 5, 0, 0⟩) ∧ decode 0xF4 = .ok (.mcommit h0 ⟨0, 0, 0, 0, 0⟩) ∧
    decode 0x00000000080001F4 = .ok (.mwait h0 ⟨0, 0, 0, 1, 0⟩) ∧ decode 0x0000001F006002F4 = .ok (.mrd h0 ⟨0, 0, 0x1F, 0, 6⟩) ∧
    decode 0x00000F9F080103F4 = .ok (.mwr ⟨0, false, true, false, false⟩ ⟨0, 0x1F, 0x1F, 1, 0⟩) := by decide +kernel
/-- 12: `VST.f16 v0, s2 +pbn`; 17: `VST.f16 v4, s4!, m0`; 10: `VLD.f32 v0, s1`. -/
theorem test_decode_vector : decode 0x02000000010081D4 = .ok (.vst ⟨0, false, false, true, false⟩ ⟨2, 0, false, 0, 0, 0, 0, 0, 1, 0⟩) ∧
    decode 0x44040004010001D4 = .ok (.vst h0 ⟨0x44, 0, true, 0, 0, 0, 4, 0, 1, 0⟩) ∧
    decode 0x01000000000000D4 = .ok (.vld h0 ⟨1, 0, false, 0, 0, 0, 0, 0, 0, 0⟩) := by decide +kernel
/-- 03: a word whose LEN is 0b11 fails check 1 of R63, and the second word of a V-form read as a first word has no instruction. -/
theorem test_decode_refused : decode 0x00000000000FFFFF = .error .badLen3 ∧ decode 0x0000000800803008 = .error .badMinor := by decide +kernel
/-- R45: two words in memory, least significant byte first, and what follows them. -/
theorem test_decode_bytes : decodeBytes (leBytes 8 0x245 ++ leBytes 8 0x8000000000000003 ++ [7]) =
    .ok (.stopatImmediate h0 ⟨0x8000000000000003⟩, [7]) := by decide +kernel

/-! ### Well-formedness: an ill-formed term for each check (R47, R49, R50, R63), and its well-formed neighbour -/

/-- Operand classes (R47): none, source, destination, predicate, and scalar or predicate. -/
theorem test_wf_classes : (Instr.add h0 ⟨0, 2, 1, 0, 3⟩).wf = true ∧ (Instr.add h0 ⟨1, 2, 1, 0, 3⟩).wf = false ∧
    (Instr.add h0 ⟨0, 0x20, 1, 0, 3⟩).wf = false ∧ (Instr.add h0 ⟨0, 2, 1, 0, 0x43⟩).wf = false ∧
    (Instr.cmpEq h0 ⟨0, 2, 1, 0, 0x27⟩).wf = true ∧ (Instr.cmpEq h0 ⟨0, 2, 1, 0, 0x28⟩).wf = false ∧
    (Instr.mov h0 ⟨0, 0, 0x27, 0, 0x20⟩).wf = true ∧ (Instr.mov h0 ⟨0, 0, 0x28, 0, 0x20⟩).wf = false ∧
    (Instr.mov h0 ⟨0, 0, 1, 0, 0x28⟩).wf = false := by decide +kernel
/-- Function fields: reserved, bounded, and those that an instruction needs. -/
theorem test_wf_fn : (Instr.add h0 ⟨0, 2, 1, 1, 3⟩).wf = false ∧ (Instr.mulh h0 ⟨0, 2, 1, 2, 3⟩).wf = false ∧
    (Instr.qdrop h0 ⟨0, 0, 1, 0, 0⟩).wf = false ∧ (Instr.qdrop h0 ⟨0, 0, 1, 5, 0⟩).wf = false ∧ (Instr.fence h0 ⟨0, 0, 0, 0, 0⟩).wf = false ∧
    (Instr.fence h0 ⟨0, 0, 0, 7, 0⟩).wf = false ∧ (Instr.bind h0 ⟨0, 0, 0, 0, 31⟩).wf = false ∧ (Instr.bind h0 ⟨0, 0, 0, 8, 1⟩).wf = false := by
  decide +kernel
/-- Formats LI, BR, LP and CI (R52 to R55). -/
theorem test_wf_formats : (Instr.ldi h0 ⟨5, 2, 1⟩).wf = false ∧ (Instr.br h0 ⟨1, 0, 1⟩).wf = false ∧ (Instr.ret h0 ⟨1, 0, 1⟩).wf = false ∧
    (Instr.loop h0 ⟨0, 4, false, 0, 0⟩).wf = false ∧ (Instr.loop h0 ⟨3, 4, false, 0, 5⟩).wf = false ∧
    (Instr.loop h0 ⟨3, 128, true, 0, 0⟩).wf = false ∧ (Instr.lclamp h0 ⟨1, 3, true, 0, 0⟩).wf = false ∧
    (Instr.lclamp h0 ⟨0, 3, true, 1, 0⟩).wf = false ∧ (Instr.setcImmediate h0 ⟨3⟩).wf = false ∧
    (Instr.setcImmediate h0 ⟨0xC000000000000003⟩).wf = false := by decide +kernel
/-- TRAP's cause (R83), SWR's rows (R80), TLBI's kind and scope (R285), BARR's deadline (R308). -/
theorem test_wf_system : (Instr.trap h0 ⟨0x13, 1, 0, 0⟩).wf = true ∧ (Instr.trap h0 ⟨0x10, 1, 0, 0⟩).wf = false ∧
    (Instr.trap h0 ⟨0x14, 1, 0, 0⟩).wf = false ∧ (Instr.trap h0 ⟨0, 1, 0, 0⟩).wf = false ∧ (Instr.swr h0 ⟨0, 1, 31, 9, 0⟩).wf = false ∧
    (Instr.swrStopat h0 ⟨0, 1, 31, 8, 0⟩).wf = false ∧ (Instr.tlbiPage h0 ⟨0, 0, 1, 1, 2⟩).wf = false ∧
    (Instr.tlbiTenant h0 ⟨0, 0, 0, 5, 2⟩).wf = false ∧ (Instr.barr h0 ⟨0, 0, 1, 0, 2⟩).wf = false ∧
    (Instr.barr h0 ⟨0, 0, 1, 2, 2⟩).wf = true := by decide +kernel
/-- Types (R49): of a scalar access, a tile access, a copy, an atomic and RAT, and the option field. -/
theorem test_wf_access : (Instr.ld h0 ⟨0, 0, 31, 1, 3, 2⟩).wf = false ∧ (Instr.ld h0 ⟨1, 0, 31, 1, 0x13, 2⟩).wf = false ∧
    (Instr.ldt h0 ⟨0, 0, 31, 1, 0x14, 2⟩).wf = false ∧ (Instr.ldt h0 ⟨0, 0, 31, 1, 1, 16⟩).wf = false ∧
    (Instr.gather h0 ⟨2, 1, 1, 1, 1, 0⟩).wf = false ∧ (Instr.cpy h0 ⟨0, 1, 0, 1, 1, 1⟩).wf = false ∧
    (Instr.cpyThreeLevels h0 ⟨1, 1, ⟨0, 1, 1, 1, 0x11, 1⟩⟩).wf = false ∧ (Instr.axch h0 ⟨0, 0, 2, 1, 0, 3⟩).wf = false ∧
    (Instr.rat h0 ⟨0, 0, 2, 1, 0x13, 3⟩).wf = false ∧ (Instr.rat h0 ⟨5, 0, 2, 1, 0x13, 3⟩).wf = false ∧
    (Instr.await h0 ⟨4, 0, 2, 1, 0x13, 3⟩).wf = false ∧ (Instr.genBase h0 ⟨0, 0, 1, 7, 0⟩).wf = false := by decide +kernel
/-- Vector fields (R57, R184 to R186): unused operands, the mask, the rounding field, types and masks as destinations. -/
theorem test_wf_vector : (Instr.vadd h0 ⟨0, 0, false, 0, 0, 2, 1, 0, 0, 3⟩).wf = true ∧
    (Instr.vadd h0 ⟨0, 0, false, 0, 1, 2, 1, 0, 0, 3⟩).wf = false ∧ (Instr.vadd h0 ⟨1, 0, false, 0, 0, 2, 1, 0, 0, 3⟩).wf = false ∧
    (Instr.vadd h0 ⟨0, 0, false, 1, 0, 2, 1, 0, 0, 3⟩).wf = false ∧ (Instr.vadd h0 ⟨0, 0, false, 0, 0, 2, 1, 7, 0, 3⟩).wf = false ∧
    (Instr.vadd h0 ⟨0, 0, false, 0, 0, 2, 1, 1, 0x13, 3⟩).wf = false ∧ (Instr.vadd h0 ⟨0, 0, false, 0, 0, 2, 1, 0, 3, 3⟩).wf = false ∧
    (Instr.vsel h0 ⟨0, 0, false, 0, 0, 2, 1, 0, 0, 3⟩).wf = false ∧ (Instr.vcmp h0 ⟨0, 0, false, 0, 0, 2, 1, 0, 0, 8⟩).wf = false ∧
    (Instr.vredr h0 ⟨0, 3, false, 0, 0, 0, 1, 0, 0x13, 3⟩).wf = false ∧ (Instr.vqmx h0 ⟨1, 3, false, 0, 0, 0, 1, 0, 3, 3⟩).wf = false ∧
    (Instr.vcvt h0 ⟨0, 0x10, false, 0, 0, 0, 1, 0, 0, 3⟩).wf = false := by decide +kernel
/-- V-forms and N-forms (R58, R59, R206, R207): the count, a tile field of a segment, a step of a queue, VLD's segment, extents. -/
theorem test_wf_forms : (Instr.vaddVf h0 ⟨0, 0, 0, 0, 0, 1, ⟨0, 0, false, 0, 0, 2, 1, 0, 0, 3⟩⟩).wf = true ∧
    (Instr.vaddVf h0 ⟨0, 0, 0, 0, 0, 0, ⟨0, 0, false, 0, 0, 2, 1, 0, 0, 3⟩⟩).wf = false ∧
    (Instr.vaddVf h0 ⟨0, 0, 0, 0, 1, 1, ⟨0, 0, false, 0, 0, 2, 1, 0, 0, 3⟩⟩).wf = false ∧
    (Instr.vaddVf h0 ⟨0, 0, 1, 0, 0, 1, ⟨0, 0, false, 0, 0, 2, 1, 0, 0, 3⟩⟩).wf = false ∧
    (Instr.vldVf h0 ⟨0, 0, 0, 0, 0, 1, ⟨1, 0, false, 0, 0, 0, 0, 0, 0, 3⟩⟩).wf = false ∧
    (Instr.vaddNest h0 ⟨0, 0, 0, 0, 0, 0, 1, ⟨1, 0, false, 0, 0, 0, 0, 0, 0, 0⟩⟩).wf = true ∧
    (Instr.vaddNest h0 ⟨0, 0, 0, 0, 0, 0, 0, ⟨1, 0, false, 0, 0, 0, 0, 0, 0, 0⟩⟩).wf = false ∧
    (Instr.vaddNest h0 ⟨0, 0, 0, 0, 0, 0, 0x1000001, ⟨1, 0, false, 0, 0, 0, 0, 0, 0, 0⟩⟩).wf = false ∧
    (Instr.vnegNest h0 ⟨1, 0, 0, 0, 0, 0, 1, ⟨1, 0, false, 0, 0, 0, 0, 0, 0, 0⟩⟩).wf = false := by decide +kernel
/-- Matrix fields (R60, R220, R223, R231, R234): triangle and window fields, tile operands, and the types of MCB, MSTL and MSTF. -/
theorem test_wf_matrix : (Instr.mma h0 ⟨0, false, 0, 0, false, 0, 0, false, 63, 127, 127, true, true, 4, 3, 2, 1, 0, false, false, false, 0⟩).wf = true ∧
    (Instr.mma h0 ⟨0, false, 0, 0, false, 1, 0, false, 63, 127, 127, true, true, 4, 3, 2, 1, 0, false, false, false, 0⟩).wf = false ∧
    (Instr.mma h0 ⟨0, false, 0, 0, false, 0x80, 0, true, 63, 127, 127, true, true, 4, 3, 2, 1, 0, false, false, false, 0⟩).wf = false ∧
    (Instr.mma h0 ⟨0, false, 1, 0, false, 0, 0, false, 63, 127, 127, true, true, 4, 3, 2, 1, 0, false, false, false, 0⟩).wf = false ∧
    (Instr.mma h0 ⟨0, false, 0, 0, true, 0, 0, false, 63, 127, 127, true, true, 4, 3, 2, 1, 0, false, false, false, 0⟩).wf = false ∧
    (Instr.mma h0 ⟨1, false, 0, 0, false, 0, 0, false, 63, 127, 127, true, true, 4, 3, 2, 1, 0, false, false, false, 0⟩).wf = false ∧
    (Instr.mma h0 ⟨0, false, 0, 0, false, 0, 0, false, 63, 127, 127, false, true, 0, 3, 2, 1, 0, false, false, false, 0⟩).wf = false ∧
    (Instr.mcb h0 ⟨0, 0, 0, 1, 0, 0⟩).wf = false ∧ (Instr.mstl h0 ⟨0, 0, 2, 1, 0, 3⟩).wf = false ∧ (Instr.mstf h0 ⟨2, 0, 2, 1, 0, 3⟩).wf = false ∧
    (Instr.mstf h0 ⟨0, 0, 2, 1, 0x0D, 3⟩).wf = false := by decide +kernel

/-! ### States for the witnesses: a running job of partition 0 on core 0, which is its supervisor -/

/-- A queue entry with a value, pushed before the job's first coordinate. -/
def entry (v : Word) : QEntry Word := ⟨some v, ⟨0, 0⟩, .none, false, 0, none⟩
/-- The stream with values in scalar registers. -/
def regs (l : List (Nat × List Word)) (t : Stream) : Stream :=
  l.foldl (fun t x => { t with regs := t.regs.set (x.1 % 31) ⟨x.2.map entry, []⟩ (Nat.mod_lt _ (by decide)) }) t
/-- A stream of the job issues, with values in its registers, and the job is otherwise changed by g. -/
def lab (st : StreamId) (l : List (Nat × List Word)) (g : Job → Job) : State :=
  let s := ((State.reset.placeProgram 0).setBlock 0 0 ⟨[(0x2000, 0)], false, 0, []⟩ true).setBlock 0 1 ⟨[(0x2000, 0)], true, 0, []⟩ true
  { s.onJob 0 (fun j => g (j.onStream st (fun t => { regs l t with phase := .issuing, pc := 0x10040 }))) with cur := (0, st) }
/-- The instruction enters and its scalar sources read, with a property of the state after the token pops, the values and the state after the
reads. -/
def enters (s : State) (i : Instr) (l : List Spec) (p : State → List Word → State → Bool) : Bool :=
  (s.entered i).any (fun s0 => (s0.scalars l).any (fun r => p s0 r.1 r.2))
theorem enters_meets {s : State} {i : Instr} {l : List Spec} {p : State → List Word → State → Bool} (h : enters s i l p = true) :
    ∃ s0 vs s1, s.entered i = some s0 ∧ s0.scalars l = some (vs, s1) ∧ p s0 vs s1 = true := by
  unfold enters at h
  cases h0 : s.entered i with
  | none => simp [h0] at h
  | some s0 =>
    simp only [h0, Option.any_some] at h
    cases h1 : s0.scalars l with
    | none => simp [h1] at h
    | some r =>
      simp only [h1, Option.any_some] at h
      exact ⟨s0, r.1, r.2, rfl, h1, h⟩
/-- A property of the executing job. -/
def owns (s : State) (p : Job → Bool) : Bool := s.own.any p
/-- A property of the executing stream. -/
def runsOn (s : State) (p : Stream → Bool) : Bool := s.lane.any p
/-- The operation completes with a result and a state that have a property. -/
def completes {α : Type} (m : M α) (s : State) (p : α → State → Bool) : Bool := match m.run s with
  | .ok a t => p a t
  | .error _ _ => false
theorem completes_meets {α : Type} {m : M α} {s : State} {p : α → State → Bool} (h : completes m s p = true) :
    ∃ a t, Runs m s a t ∧ p a t = true := by
  unfold completes at h
  split at h
  · exact ⟨_, _, ‹_›, h⟩
  · cases h

/-! ### Witnesses: scalar instructions -/

theorem witness_AluTwoSources : enters (lab .c [(1, [5]), (2, [7])] id) (.sub h0 ⟨0, 2, 1, 0, 3⟩) [1, 2]
    (fun _ vs s1 => vs = [5, 7] && s1.room 3) = true := by decide +kernel
/-- A zero divisor, the most negative dividend by −1, and a destination that discards. -/
theorem witness_DivideAndRemainder :
    enters (lab .v [(1, [5]), (2, [0])] id) (.div h0 ⟨0, 2, 1, 1, 3⟩) [1, 2] (fun _ vs s1 => vs = [5, 0] && s1.room 3) = true ∧
    enters (lab .v [(1, [2 ^ 63]), (2, [-1])] id) (.rem h0 ⟨0, 2, 1, 0, 31⟩) [1, 2] (fun _ vs s1 => vs = [2 ^ 63, -1] && s1.room 31) = true := by
  decide +kernel
theorem witness_CountSelectAndMove :
    enters (lab .a [(1, [0])] id) (.clz h0 ⟨0, 0, 1, 0, 3⟩) [1] (fun _ vs s1 => vs = [0] && s1.room 3) = true ∧
    enters (lab .a [(1, [-1])] id) (.popc h0 ⟨0, 0, 1, 0, 3⟩) [1] (fun _ vs s1 => vs = [-1] && s1.room 3) = true ∧
    enters (lab .s [(1, [5]), (2, [7])] id) (.sel h0 ⟨0x27, 2, 1, 0, 3⟩) [1, 2] (fun _ vs s1 => vs = [5, 7] && s1.room 3) = true ∧
    enters (lab .s [(1, [5])] id) (.mov h0 ⟨0, 0, 1, 0, 0x27⟩) [1] (fun _ vs _ => vs = [5]) = true ∧
    enters (lab .s [] id) (.mov h0 ⟨0, 0, 0x20, 0, 3⟩) [] (fun s0 _ _ => !s0.pred 0x20 && s0.room 3) = true := by decide +kernel
theorem witness_CompareSetsPredicate : enters (lab .c [(1, [2 ^ 63]), (2, [0])] id) (.cmpLt h0 ⟨0, 2, 1, 0, 0x20⟩) [1, 2]
    (fun _ vs _ => vs = [2 ^ 63, 0]) = true ∧ compares (.cmpLt h0 ⟨0, 2, 1, 0, 0x20⟩) ≠ none := ⟨by decide +kernel, by intro h; cases h⟩
theorem witness_Immediates :
    enters (lab .c [(1, [0])] id) (.addi h0 ⟨0x1000000, 1, 0, 3⟩) [1] (fun _ vs s1 => vs = [0] && s1.room 3) = true ∧
    enters (lab .c [] id) (.ldi h0 ⟨0x80000000, 1, 3⟩) [] (fun s0 _ _ => s0.room 3) = true ∧
    enters (lab .c [] id) (.ldih h0 ⟨0xFFFFFFFF, 0, 3⟩) [] (fun s0 _ _ => s0.room 3) = true := by decide +kernel
theorem witness_BranchesAndCalls :
    enters (lab .c [] id) (.br h0 ⟨0x80000000, 0, 0⟩) [] (fun _ _ _ => true) = true ∧
    enters (lab .c [] id) (.brc h0 ⟨4, 1, 0x27⟩) [] (fun s0 _ _ => !s0.pred 0x27) = true ∧
    enters (lab .c [] id) (.call h0 ⟨4, 0, 3⟩) [] (fun s0 _ _ => s0.room 3) = true ∧
    enters (lab .c [(1, [0x10048])] id) (.ret h0 ⟨0, 0, 1⟩) [1] (fun _ vs _ => vs = [0x10048]) = true := by decide +kernel

/-! ### Witnesses: loops, coordinates, queues, stops -/

/-- A loop at a level in its first kernel iteration. -/
def loopAt (l : Fin 5) (n stages : Nat) (t : Stream) : Stream :=
  { t with loops := t.loops.set l (some ⟨n, stages, n + stages - 1, 0, 0x10040, 0x10060, 0x10038, 0⟩) }

theorem witness_InactiveStageIsSkipped :
    (let s := lab .c [] (fun j => j.onStream .c (loopAt 1 1 2))
     owns s (fun j => (j.stream .c).loops.get 0 = none && ((j.stream .c).loops.get 1).any (fun lp => lp.f = 0)) &&
       s.skipped (.add ⟨1, false, false, false, false⟩ ⟨0, 2, 1, 0, 3⟩)) = true := by decide +kernel
/-- Levels 0 and 4 just below their ends. -/
theorem witness_AdvanceCoordinate : Coord.ix 0xFFFE 0 + 1 < 2 ^ levelWidth 0 ∧
    Coord.ix (BitVec.ofNat 62 (254 * 2 ^ 54)) 4 + 1 < 2 ^ levelWidth 4 := by decide +kernel
theorem witness_LoopOpens :
    let ok (lvl : Nat) (s : State) : Bool := runsOn s (fun t => ([0, 1, 2, 3, 4] : List (Fin 5)).all (fun l => decide (lvl < l.val) || t.loops.get l = none) &&
      (List.range (lvl + 1)).all (fun m => decide (Coord.ix t.coord m = 0)) && t.reopen = none)
    enters (lab .c [(4, [0])] id) (.loop h0 ⟨7, 4, true, 0, 4⟩) [4] (fun _ vs s1 => vs = [0] && ok 4 s1) = true ∧
    enters (lab .c [] id) (.loop h0 ⟨3, 65535, false, 3, 0⟩) [] (fun s0 _ _ => ok 0 s0) = true := by decide +kernel
theorem witness_Coordinates :
    enters (lab .c [] id) (.setcImmediate h0 ⟨2 ^ 63⟩) [] (fun s0 _ _ => runsOn s0 (fun t => wordCoord (2 ^ 63) = t.coord)) = true ∧
    enters (lab .c [] id) (.setcImmediate h0 ⟨2 ^ 63 + 1⟩) [] (fun s0 _ _ => runsOn s0 (fun t => decide (t.coord < wordCoord (2 ^ 63 + 1)) &&
      !t.loopUpTo (highestChanged t.coord (wordCoord (2 ^ 63 + 1))))) = true ∧
    enters (lab .c [(1, [2 ^ 63])] id) (.setcRegister h0 ⟨0, 0, 1, 0, 0⟩) [1] (fun s0 vs _ => vs = [2 ^ 63] && runsOn s0 (fun t => t.coord = 0)) = true ∧
    enters (lab .c [(1, [2 ^ 63 + 5])] id) (.setcRegister h0 ⟨0, 0, 1, 0, 0⟩) [1] (fun s0 vs _ => vs = [2 ^ 63 + 5] && runsOn s0 (fun t =>
      !t.loopUpTo (highestChanged t.coord (wordCoord (2 ^ 63 + 5))))) = true ∧
    enters (lab .c [] id) (.advc h0 ⟨0, 0, 0, 4, 0⟩) [] (fun s0 _ _ => runsOn s0 (fun t => !t.loopUpTo 4 && decide (Coord.ix t.coord 4 + 1 ≠ 256))) = true ∧
    enters (lab .c [] id) (.getc h0 ⟨0, 0, 0, 5, 3⟩) [] (fun s0 _ _ => s0.room 3) = true ∧
    enters (lab .c [] id) (.getfr h0 ⟨0, 0, 0, 0, 3⟩) [] (fun s0 _ _ => s0.live && s0.room 3) = true := by decide +kernel
theorem witness_ClampIsIssued :
    enters (lab .c [] id) (.lclamp h0 ⟨0, 65535, false, 0, 4⟩) [] (fun _ _ s1 => s1.own.isSome) = true ∧
    enters (lab .c [(3, [7])] id) (.lclamp h0 ⟨0, 3, true, 0, 0⟩) [3] (fun _ vs s1 => vs = [7] && s1.own.isSome) = true ∧
    enters (lab .c [(3, [2 ^ 63 + 0x20000007])] id) (.lclamp h0 ⟨0, 3, true, 0, 0⟩) [3] (fun _ vs s1 => vs = [2 ^ 63 + 0x20000007] && s1.isSup &&
      owns s1 (fun j => s1.partOfHandle 0x2000 = some j.part)) = true := by decide +kernel
/-- A token of the previous stream is there to pop. -/
theorem witness_TokMovesTokensOnly :
    enters (lab .c [] (fun j => { j with toks := j.toks.set (fifoIdx StreamId.c.prev true) ⟨[⟨some (), ⟨0, 0⟩, .none, false, 0, none⟩], []⟩ }))
      (.tok ⟨0, true, true, false, true⟩ ⟨0, 0, 0, 0, 0⟩) [] (fun _ _ _ => true) = true := by decide +kernel
theorem witness_QueueManagement :
    enters (lab .c [(1, [5, 6])] id) (.qdrop h0 ⟨0, 0, 1, 2, 0⟩) [] (fun s0 _ _ => (s0.drops 1 2).isSome) = true ∧
    enters (lab .c [(1, [5, 6, 7, 8])] id) (.qclr h0 ⟨0, 0, 1, 0, 0⟩) [] (fun s0 _ _ => (s0.drops 1 4).isSome) = true ∧
    enters (lab .c [(1, [5, 6])] id) (.qdepth h0 ⟨0, 0, 1, 0, 3⟩) [] (fun s0 _ _ => s0.room 3 && s0.live) = true ∧
    enters (lab .c [(1, [5])] (fun j => { j with bindings := [⟨0, 3, .c, 1, ⟨0, 0⟩, none⟩] })) (.qdepth h0 ⟨0, 0, 1, 0, 31⟩) [] (fun s0 _ _ => s0.room 31 && s0.live &&
      owns s0 (fun j => (j.bound .c 1).isSome)) = true ∧
    enters (lab .c [] id) (.bind h0 ⟨0, 0, 0, 7, 30⟩) [] (fun s0 _ _ => owns s0 (fun j => ((j.stream .c).regs.get 30).items.isEmpty &&
      (j.bound .c 30).isNone && !j.bindings.any (fun b => decide (b.ch = fin8 7) && j.bindingLive b))) = true := by decide +kernel
/-- A trap of the job, and a landing at a higher cut that the trap replaces. -/
theorem witness_TrapIsTaken :
    enters (lab .c [(1, [77])] id) (.trap h0 ⟨0x13, 1, 0, 0⟩) [1] (fun _ vs _ => vs = [77]) = true ∧
    owns (lab .c [] id) (fun j => j.landing.isNone) = true ∧
    owns (lab .c [] (fun j => { j with landing := some ⟨1, .trap ⟨7, ⟨.s, ⟨1, 0⟩, 0, 0⟩, 0, 0, 0, 0⟩⟩ }))
      (fun j => j.landing.any (fun l => decide ((0 : Coord).toNat < l.bound))) = true ∧
    (let r : StopReq := ⟨0, false, 1, 0, .c, 0, 0, 0, 0, none⟩
     owns (lab .c [] (fun j => { j with landing := some ⟨1, .request r 1 0x10 0⟩ }))
       (fun j => j.landing.any (fun l => decide ((0 : Coord).toNat < l.bound)) && r.lasts && j.stop.isNone)) = true := by decide +kernel
/-- The checks of R63: an ill-formed field, a stage of no loop, a store in C, RESUME outside the supervisor. -/
theorem witness_TrapIsTaken_checks :
    let may (s : State) (p : Job → Bool) : Bool := owns s (fun j => j.mayIssue .c && p j)
    may (lab .c [] id) (fun j => !(Instr.add h0 ⟨0, 2, 1, 1, 3⟩).wf && !(j.stream .c).stageOk 1 && (j.stream .c).stageOk 0) = true ∧
    (Instr.st h0 ⟨0, 0, 2, 1, 0x14, 5⟩).wf = true ∧ (Instr.st h0 ⟨0, 0, 2, 1, 0x14, 5⟩).enc.any (fun e => !(encStreams e).contains .c) = true ∧
    may { lab .c [] id with cur := (0, .c), parts := (State.reset.placeProgram 0).parts.map (fun p => p.map (fun p => { p with supcore := 1 })) }
      (fun _ => (Instr.resume h0 ⟨0, 0, 1, 0, 3⟩).enc.any (fun e => (encStreams e).contains .c && supOnly e)) = true ∧
    State.isSup { lab .c [] id with parts := (State.reset.placeProgram 0).parts.map (fun p => p.map (fun p => { p with supcore := 1 })) } = false := by
  decide +kernel
/-- An empty unbound source, one stamped above the stream, a full destination; ADVC at the end of level 4, SETC to a lesser coordinate, RET to
a target that is no multiple of 8. -/
theorem witness_TrapIsTaken_operands :
    let above (j : Job) : Job := j.onStream .c (fun t => { t with regs := t.regs.set 1 ⟨[⟨some 5, ⟨1, 0⟩, .none, false, 0, none⟩], []⟩ })
    let moved (c : Coord) (j : Job) : Job := j.onStream .c (fun t => { t with coord := c })
    enters (lab .c [] id) (.sub h0 ⟨0, 2, 1, 0, 3⟩) [] (fun s0 _ _ => owns s0 (fun j => ((j.stream .c).regs.get 1).items.isEmpty && (j.bound .c 1).isNone)) = true ∧
    enters (lab .c [] above) (.sub h0 ⟨0, 2, 1, 0, 3⟩) [] (fun s0 _ _ => runsOn s0 (fun t => (t.regs.get 1).items.head?.any (fun e =>
      e.val.isSome && decide (t.coord < e.stamp.coord)))) = true ∧
    enters (lab .c [(1, [5]), (2, [7]), (3, [1, 2, 3, 4])] id) (.sub h0 ⟨0, 2, 1, 0, 3⟩) [1, 2] (fun _ vs s1 => vs = [5, 7] &&
      runsOn s1 (fun t => decide (4 ≤ (t.regs.get 3).items.length))) = true ∧
    enters (lab .c [] (moved (BitVec.ofNat 62 (255 * 2 ^ 54)))) (.advc h0 ⟨0, 0, 0, 4, 0⟩) [] (fun s0 _ _ => runsOn s0 (fun t => !t.loopUpTo 4 &&
      decide (Coord.ix t.coord 4 + 1 = 256))) = true ∧
    enters (lab .c [] (moved 5)) (.setcImmediate h0 ⟨2 ^ 63 + 4⟩) [] (fun s0 _ _ => runsOn s0 (fun t => decide (wordCoord (2 ^ 63 + 4) < t.coord))) = true ∧
    enters (lab .c [(1, [0x10049])] id) (.ret h0 ⟨0, 0, 1⟩) [1] (fun _ vs _ => vs = [0x10049]) = true := by decide +kernel
theorem witness_StopRequests :
    enters (lab .c [] id) (.yield h0 ⟨0, 0, 0, 0, 0⟩) [] (fun s0 _ _ => s0.own.isSome && s0.cur = (0, .c)) = true ∧
    enters (lab .c [] id) (.bkpt h0 ⟨0, 0, 0, 31, 0⟩) [] (fun s0 _ _ => s0.own.isSome && s0.cur = (0, .c)) = true ∧
    enters (lab .c [] id) (.stopatImmediate h0 ⟨2 ^ 63 + 3⟩) [] (fun s0 _ _ => s0.own.isSome && s0.cur = (0, .c)) = true ∧
    enters (lab .c [(7, [2 ^ 63 + 3]), (20, [0])] id) (.stopatRegister h0 ⟨0, 20, 7, 0, 0⟩) [7, 20]
      (fun s0 vs _ => vs = [2 ^ 63 + 3, 0] && s0.cur = (0, .c)) = true ∧
    enters (lab .c [(7, [0]), (20, [0x2000])] id) (.stopatRegister h0 ⟨0, 20, 7, 0, 0⟩) [7, 20]
      (fun s0 vs _ => vs = [0, 0x2000] && owns s0 (fun j => decide (j.handle = 0x2000))) = true ∧
    (let s := lab .c [(7, [0]), (20, [0x4000])] id
     enters { s with jobs := s.jobs ++ [⟨0x4000, 0, 0, [1], [], false, true, false, 0, Vector.replicate 4 0, [], [], []⟩] }
      (.stopatRegister h0 ⟨0, 20, 7, 0, 0⟩) [7, 20] (fun _ vs s1 => vs = [0, 0x4000] && s1.isSup &&
        owns s1 (fun j => decide (j.handle ≠ 0x4000) && s1.partOfHandle 0x4000 = some j.part)) = true) := by decide +kernel

/-! ### Witnesses: system registers, the supervisor, debugging -/

/-- The partition of the job, changed. -/
def onPart (f : Partition → Partition) (s : State) : State := s.onPart 0 f
/-- A property of the job's partition. -/
def parts (s : State) (p : Partition → Bool) : Bool := (s.part 0).any p

theorem witness_SystemRegisterRead :
    enters (lab .c [(1, [3])] id) (.srd h0 ⟨0, 0, 1, 13, 3⟩) [1] (fun _ vs s1 => vs = [3] && decide (3 ≤ sysIndexMax 13) && s1.live && s1.room 3 &&
      owns s1 (fun j => j.held.isEmpty && (s1.part j.part).isSome)) = true ∧
    (let s := (lab .c [] id)
     !State.isSup { s with parts := s.parts.set (0 : Fin 32) none }) = true := by decide +kernel
theorem witness_SystemRegisterWrite :
    let at_ (i : Instr) (x v : Word) (n : Nat) : Bool := enters (lab .c [(1, [x]), (2, [v])] id) i [1, 2] (fun _ vs s1 => vs = [x, v] &&
      decide (x.toNat ≤ sysIndexMax n) && owns s1 (fun j => !j.replay.replaying))
    at_ (.swrRmode h0 ⟨0, 2, 1, 0, 0⟩) 0 5 0 = true ∧ restored 0 = some .rmode ∧
    (enters (lab .c [(1, [0]), (2, [9])] id) (.swrMseed h0 ⟨0, 2, 1, 3, 0⟩) [1, 2] (fun _ vs s1 => vs = [0, 9] && s1.queueRoom .me)) = true ∧
    at_ (.swrStopat h0 ⟨0, 2, 1, 9, 0⟩) 0 (2 ^ 63 + 1) 9 = true ∧ at_ (.swrEmap h0 ⟨0, 2, 1, 21, 0⟩) 63 9 21 = true ∧ heldReg 21 63 = true ∧
    at_ (.swr h0 ⟨0, 2, 1, 8, 0⟩) 0 9 8 = true ∧ restored 8 = none ∧ heldReg 8 0 = false := by decide +kernel
theorem witness_EventReturnAndWait :
    enters (onPart (fun p => { p with inEntry := true, savedPc := 0x10080 }) (lab .c [] id)) (.eret h0 ⟨0, 0, 0, 0, 0⟩) []
      (fun s0 _ _ => parts s0 (fun p => p.inEntry)) = true ∧
    enters (onPart (fun p => { p with timerFlag := true, evmask := 0xFFFF }) (lab .c [] id)) (.waitev h0 ⟨0, 0, 0, 0, 3⟩) []
      (fun s0 _ _ => s0.room 3 && parts s0 (fun p => p.nextEvent.isSome)) = true ∧
    enters (lab .c [] id) (.waitev h0 ⟨0, 0, 0, 1, 3⟩) [] (fun s0 _ _ => s0.room 3 && parts s0 (fun p => p.nextEvent.isNone)) = true := by
  decide +kernel
theorem witness_ResumePushesStatus :
    enters (lab .c [(1, [0x4000])] id) (.resume h0 ⟨0, 0, 1, 0, 3⟩) [1] (fun _ vs s1 => vs = [0x4000] &&
      (s1.jobs.find? (fun g => g.handle = 0x4000)).isNone && s1.room 3) = true := by decide +kernel
/-- A launch of the partition on core 1 whose job waits, is stopped on its core, or is saved. -/
theorem witness_ResumePushesStatus_launch :
    let launched (st : JState) (s : State) : State :=
      let q : Option JobSlot := (s.core 0).slots.get 0
      let k : Core := { s.core 1 with on := some 0, slots := (s.core 1).slots.set (0 : Fin 8) (q.map (fun q => { q with handle := 0x4000, state := st })) }
      { s with cores := s.cores.set (1 : Fin 256) k, jobs := s.jobs ++ [⟨0x4000, 0, 0, [1], [], false, true, false, 0, Vector.replicate 4 0, [], [], []⟩] }
    let ok (st : JState) : Bool := enters (launched st (lab .c [(1, [0x4000])] id)) (.resume h0 ⟨0, 0, 1, 0, 3⟩) [1] (fun _ vs s1 => vs = [0x4000] && s1.room 3 &&
      ((s1.core 1).slots.get 0).any (fun q => q.handle = 0x4000 && q.state = st) && ([1, 2, 3, 4, 5, 6, 7] : List (Fin 8)).all (fun n =>
        ((s1.core 1).slots.get n).isNone) && (s1.core 1).on = some 0 && !s1.savePending 1 0x4000 && s1.cur = (0, .c) &&
      (s1.jobs.find? (fun g => g.handle = 0x4000)).any (fun g => g.cores = [1] && owns s1 (fun j => j.part = g.part)))
    ok .waiting = true ∧ ok .stopped = true ∧ ok .saved = true := by decide +kernel
theorem witness_MailboxMessage :
    enters (lab .c [(1, [15]), (2, [0x40000000])] id) (.mbox h0 ⟨0, 2, 1, 1, 3⟩) [1, 2] (fun _ vs s1 => vs = [15, 0x40000000] && s1.room 3 &&
      owns s1 (fun j => (ownScratch (s1.who 0 j) 0x40000000 64).isSome) && parts s1 (fun p => (p.mailboxes.get 15).isEmpty)) = true ∧
    enters (onPart (fun p => { p with mailboxes := p.mailboxes.set 15 [List.replicate 64 7] }) (lab .c [(1, [15]), (2, [0x4000FFC0])] id))
      (.mbox h0 ⟨0, 2, 1, 0, 3⟩) [1, 2] (fun _ vs s1 => vs = [15, 0x4000FFC0] && owns s1 (fun j =>
        !s1.ownPoolOps (s1.who 0 j) j && (ownScratch (s1.who 0 j) 0x4000FFC0 64).any (fun off => completes (writePool h0 0 off (List.replicate 32 7) false) s1 (fun _ s2 =>
          completes (writePool h0 0 (off + 32) (List.replicate 32 7) false) s2 (fun _ s3 => (s3.holding h0 (.mbox 15)).room 3))))) = true := by decide +kernel
theorem witness_FenceSpawnRdv :
    enters (lab .s [] id) (.fence h0 ⟨0, 0, 0, 6, 0⟩) [] (fun s0 _ _ => owns s0 (fun j => !s0.fencePending 0 j .s 6)) = true ∧
    enters (lab .s [] id) (.fence h0 ⟨0, 0, 0, 2, 0⟩) [] (fun s0 _ _ => owns s0 (fun j => !s0.fencePending 0 j .s 2)) = true ∧
    enters (lab .c [(1, [64]), (2, [0])] id) (.spawn h0 ⟨0, 2, 1, 3, 3⟩) [1, 2] (fun _ vs s1 => vs = [64, 0] && s1.room 3 &&
      s1.live) = true ∧
    enters (lab .c [] id) (.rdv h0 ⟨0, 0, 0, 0, 0⟩) [] (fun _ _ _ => true) = true := by decide +kernel
theorem witness_DebugMarks :
    let old (n : Word) (s : State) : State := onPart (fun p => { p with trigger := some ⟨1, n, none, [], false⟩ }) { s with ftime := 1000 }
    enters (lab .c [] id) (.snap h0 ⟨0, 0, 0, 31, 0⟩) [] (fun s0 _ _ => parts s0 (fun p => p.trigger = none)) = true ∧
    enters (old 743 (lab .c [] id)) (.snap h0 ⟨0, 0, 0, 31, 0⟩) [] (fun s0 _ _ => parts s0 (fun p => p.trigger.any (fun g =>
      decide (g.time.toNat + 256 < s0.ftime.toNat)))) = true ∧
    enters (old 744 (lab .c [] id)) (.snap h0 ⟨0, 0, 0, 31, 0⟩) [] (fun s0 _ _ => parts s0 (fun p => p.trigger.any (fun g =>
      decide (s0.ftime.toNat ≤ g.time.toNat + 256)))) = true ∧
    enters (lab .c [(7, [5])] id) (.tmark h0 ⟨0, 0, 7, 5, 0⟩) [7] (fun _ vs s1 => vs = [5] && s1.own.isSome) = true := by decide +kernel

/-! ### Witnesses: semaphores, barriers, supersteps, SEND, TLBI -/

/-- The private semaphore 0 and the shared semaphore 16 of the job's map. -/
theorem witness_SemaphoreUse :
    let wait (w : Wait) (s : State) : State := s.onLane (fun t => { t with wait := w })
    let units (n : Nat) (s : State) : State := s.setSem 0 0 ⟨[⟨n, none⟩], []⟩
    let base (l : List (Nat × List Word)) : State := lab .c l id
    let ok (e : Nat) (p : State → Job → SemEntry → Bool) (s1 : State) : Bool := owns s1 (fun j => !j.replay.replaying &&
      (s1.semEntry 0 j (BitVec.ofNat 5 e)).any (p s1 j))
    let semw : Instr := .semw h0 ⟨0, 0, 1, 0, 0⟩
    let semwt : Instr := .semwt h0 ⟨0, 2, 1, 0, 3⟩
    enters (base [(1, [0])]) semw [1] (fun _ vs s1 => vs = [0] && ok 0 (fun _ j _ => (j.stream .c).wait = .none) s1) = true ∧
    enters (units 3 (base [(1, [3])])) semw [1] (fun _ vs s1 => vs = [3] && ok 0 (fun s j e => unitsReady s (j.stream .c) e 3) s1) = true ∧
    enters (wait (.semServed 1) (base [(1, [3])])) semw [1] (fun _ vs s1 => vs = [3] && ok 0 (fun _ j _ => (j.stream .c).wait = .semServed 1) s1) = true ∧
    enters (base [(1, [0]), (2, [9])]) semwt [1, 2] (fun _ vs s1 => vs = [0, 9] && s1.live && s1.room 3 && ok 0 (fun _ _ _ => true) s1) = true ∧
    enters (units 3 (base [(1, [3]), (2, [9])])) semwt [1, 2] (fun _ vs s1 => vs = [3, 9] && s1.live && s1.room 3 &&
      ok 0 (fun s j e => unitsReady s (j.stream .c) e 3) s1) = true ∧
    enters { units 2 (base [(1, [3]), (2, [9])]) with ftime := 10 } semwt [1, 2] (fun _ vs s1 => vs = [3, 9] && s1.live && s1.room 3 &&
      decide ((9 : Word) < s1.ftime) && ok 0 (fun s _ e => decide ((s.sem (clusterOf 0) e.phys).count < 3)) s1) = true ∧
    enters (wait (.semServed 3) (base [(1, [3]), (2, [9])])) semwt [1, 2] (fun _ vs s1 => vs = [3, 9] && s1.live && s1.room 3 && ok 0 (fun _ _ _ => true) s1) = true ∧
    enters (base [(1, [0])]) (.sems h0 ⟨0, 0, 1, 0, 0⟩) [1] (fun _ vs s1 => vs = [0] && ok 0 (fun _ _ _ => true) s1) = true ∧
    enters (base [(1, [0xFFFFFFFF])]) (.sems h0 ⟨0, 0, 1, 31, 0⟩) [1] (fun _ vs s1 => vs = [0xFFFFFFFF] && ok 31 (fun _ _ e => e.shared) s1) = true ∧
    enters (base [(1, [1])]) (.sems h0 ⟨0, 0, 1, 15, 0⟩) [1] (fun _ vs s1 => vs = [1] && ok 15 (fun _ _ e => !e.shared) s1) = true := by decide +kernel
theorem witness_BarrierAndSuperstep :
    let wait (w : Wait) (s : State) : State := s.onLane (fun t => { t with wait := w })
    let lab2 (l : List (Nat × List Word)) : State := lab .c l (fun j => { j with level := 2 })
    let passed (crew : Bool) (s1 : State) : Bool := owns s1 (fun j => (if crew then j.arrCrew else j.arrTeam) = 0 && !j.replay.replaying)
    enters (wait (.barrServed 1) (lab .c [] id)) (.barr h0 ⟨0, 0, 0, 0, 0⟩) [] (fun _ _ s1 => runsOn s1 (fun t => t.wait = .barrServed 1)) = true ∧
    enters (lab .c [] id) (.barr h0 ⟨0, 0, 0, 4, 0⟩) [] (fun _ _ s1 => passed false s1) = true ∧
    enters (wait (.barrServed 3) (lab2 [(1, [9])])) (.barr h0 ⟨0, 0, 1, 3, 3⟩) [1] (fun _ vs s1 => vs = [9] && s1.live && s1.room 3 && owns s1 (fun j =>
      decide (2 ≤ j.level.toNat))) = true ∧
    enters (lab2 [(1, [0])]) (.barr h0 ⟨0, 0, 1, 7, 3⟩) [1] (fun _ vs s1 => vs = [0] && s1.live && s1.room 3 && passed true s1) = true ∧
    enters (wait (.sstepPassed 256) (lab .c [] id)) (.sstep h0 ⟨0, 0, 0, 0, 3⟩) [] (fun _ _ s1 => s1.live && s1.room 3) = true ∧
    enters (lab2 []) (.barr h0 ⟨0, 0, 0, 1, 0⟩) [] (fun _ _ s1 => runsOn s1 (fun t => t.wait = .none) && owns s1 (fun j =>
      Nat.ble (s1.phase 0 j true) j.arrCrew && Nat.ble (s1.phase 0 j false) j.arrTeam && !j.replay.replaying)) = true ∧
    enters (lab .c [] id) (.sstep h0 ⟨0, 0, 0, 0, 3⟩) [] (fun _ _ s1 => s1.live && s1.room 3 && runsOn s1 (fun t => t.wait = .none) && owns s1 (fun j =>
      ((s1.jobs.find? (fun g => g.handle = j.handle)).bind (fun g => g.t0s[j.arrStep]?)).isNone)) = true := by decide +kernel
theorem witness_SendAndTlbi :
    enters (lab .s [(1, [0x40000000]), (2, [0]), (3, [16384]), (4, [0xFFFFFFFF])] id) (.send h0 ⟨1, 4, 3, 2, 0, 1⟩) [1, 2, 3, 4]
      (fun _ vs s1 => vs = [0x40000000, 0, 16384, 0xFFFFFFFF] && owns s1 (fun j => match s1.scratchRun (s1.who 0 j) 0x40000000 16384 with
        | .ok _ => true
        | .error _ => false)) = true ∧
    enters (lab .c [(1, [0])] id) (.tlbiPage h0 ⟨0, 0, 1, 2, 3⟩) [1] (fun _ vs s1 => vs = [0] && s1.room 3) = true ∧
    enters (lab .c [] id) (.tlbiTenant h0 ⟨0, 0, 0, 13, 3⟩) [] (fun _ _ s1 => s1.room 3 && owns s1 (fun j => !j.replay.replaying)) = true := by
  decide +kernel

/-! ### Witnesses: loads, stores, copies, atomics and the matrix engine at issue -/

/-- A tile in each of two tile queues. -/
def tilesIn (l : List (Fin 16)) (j : Job) : Job :=
  { j with tiles := Vector.ofFn (fun n => if l.contains n then ⟨[⟨some Tile.zero, ⟨0, 0⟩, .none, false, 0, none⟩], []⟩ else j.tiles.get n) }

/-- An LD of an accumulator word in the grant, and of memory; RLD; LDT and GATHER into the fed queue v0. -/
theorem witness_LoadsReserveAndPend :
    enters (lab .a [(1, [0x40400000]), (2, [1])] id) (.ld h0 ⟨0, 0, 2, 1, 0x13, 3⟩) [1, 2] (fun _ vs s1 => vs = [0x40400000, 1] && s1.room 3 &&
      inWindow 0x40400004 && owns s1 (fun j => !j.replay.replaying && (match s1.window (s1.who 0 j) .r 0x40400004 4 with
        | .ok _ => true
        | .error _ => false))) = true ∧
    enters (lab .a [(1, [2 ^ 56 - 8])] id) (.ld h0 ⟨0, 0, 31, 1, 0x14, 31⟩) [1, 31] (fun _ vs s1 => vs = [2 ^ 56 - 8, 0] && s1.room 31 &&
      !inWindow (2 ^ 56 - 8)) = true ∧
    enters (lab .a [(1, [2 ^ 50])] id) (.rld h0 ⟨0, 0, 31, 1, 0x13, 3⟩) [1, 31] (fun _ vs s1 => vs = [2 ^ 50, 0] && s1.room 3 &&
      ((s1.put h0 3 none false).pending h0 (.rld (2 ^ 50) 0x13)).own.isSome) = true ∧
    enters (lab .a [(1, [0x10040]), (2, [16])] id) (.ldt h0 ⟨0, 0, 2, 1, 0x13, 0⟩) [1, 2] (fun _ vs s1 => vs = [0x10040, 16] && s1.fedRoom 0) = true ∧
    enters (lab .a [(1, [0x10040]), (2, [0x10040]), (3, [32])] id) (.gather h0 ⟨1, 3, 2, 1, 0x01, 0⟩) [1, 2, 3]
      (fun _ vs s1 => vs = [0x10040, 0x10040, 32] && s1.fedRoom 0) = true := by decide +kernel
theorem witness_Generators :
    enters (lab .a [] id) (.gen h0 ⟨0, 0, 0, 7, 3⟩) [] (fun s0 _ _ => s0.lane.isSome && s0.room 3) = true ∧
    enters (lab .a [(1, [9])] id) (.genBase h0 ⟨0, 0, 1, 15, 0⟩) [1] (fun s0 vs _ => vs = [9] && s0.lane.isSome) = true ∧
    enters (lab .a [(1, [4]), (2, [9])] id) (.genCoef h0 ⟨0, 2, 1, 23, 0⟩) [1, 2] (fun s0 vs _ => vs = [4, 9] && s0.lane.isSome) = true := by
  decide +kernel
/-- A copy of bytes, one to channel 7, one with three levels, and PUB of a PUBLISH page. -/
theorem witness_CopiesAndPub :
    enters (lab .a [(1, [0x10040]), (2, [0x10080]), (3, [0xFFFFFF])] id) (.cpy h0 ⟨0, 3, 0, 2, 0x11, 1⟩) [1, 2, 3]
      (fun _ vs s1 => vs = [0x10040, 0x10080, 0xFFFFFF] && s1.queueRoom .ce) = true ∧
    enters (lab .a [(1, [2 ^ 63 + 7]), (2, [0x10080]), (3, [16])] id) (.cpy h0 ⟨0, 3, 0, 2, 0x14, 1⟩) [1, 2, 3]
      (fun _ vs s1 => vs = [2 ^ 63 + 7, 0x10080, 16] && s1.queueRoom .ce && decide (16 * 8 % tyWidth 0x14 = 0)) = true ∧
    enters (lab .a [(1, [0x10040]), (2, [0x10080]), (3, [2 ^ 44 + 2 ^ 24 + 4]), (4, [-1]), (5, [8])] id) (.cpyThreeLevels h0 ⟨0, 5, ⟨0, 3, 4, 2, 0x11, 1⟩⟩)
      [1, 2, 3, 4, 5] (fun _ vs s1 => vs = [0x10040, 0x10080, 2 ^ 44 + 2 ^ 24 + 4, -1, 8] && s1.queueRoom .ce) = true ∧
    enters { lab .a [(1, [0x10040])] id with mem := memWrite (State.reset.placeProgram 0).mem 0x202008 (leBytes 8 0x32011F) }
      (.pub h0 ⟨0, 0, 0, 1, 0, 0⟩) [1] (fun _ vs s1 => vs = [0x10040] && owns s1 (fun j => match s1.leafAt (s1.who 0 j) 0x10040 with
        | .ok e => ptPub e
        | .error _ => false)) = true := by decide +kernel
theorem witness_StoresAreQueued :
    let se (s2 : State) : Bool := s2.queueRoom .se && owns s2 (fun j => !j.replay.replaying)
    let drained (s0 : State) (p : State → Bool) : Bool := s0.hasTiles && owns s0 (fun j => j.drained 1) && (s0.tileAt 1 false).any (fun r => p r.2)
    enters (lab .s [(5, [7]), (1, [0x40400000]), (2, [1])] id) (.st h0 ⟨0, 0, 2, 1, 0x14, 5⟩) [5, 1, 2] (fun _ vs s2 =>
      vs = [7, 0x40400000, 1] && se s2 && completes (checkBusy 0x40400008) s2 (fun _ _ => true)) = true ∧
    enters (lab .s [(1, [0x10040]), (2, [0])] (tilesIn [1])) (.stt h0 ⟨0, 0, 2, 1, 0x13, 1⟩) [] (fun s0 _ _ => drained s0 (fun s1 =>
      (s1.scalars [1, 2]).any (fun r => r.1 = [0x10040, 0] && se r.2))) = true ∧
    enters (lab .s [(1, [0x10040]), (2, [0x10040]), (3, [16])] (tilesIn [1])) (.scatter h0 ⟨0, 3, 2, 1, 0x13, 1⟩) [] (fun s0 _ _ => drained s0 (fun s1 =>
      (s1.scalars [1, 2, 3]).any (fun r => r.1 = [0x10040, 0x10040, 16] && se r.2))) = true ∧
    enters (lab .s [(5, [0x40000000]), (1, [2 ^ 50]), (2, [16384]), (3, [4])] id) (.rst h0 ⟨0, 3, 2, 1, 0, 5⟩) [5, 1, 2, 3]
      (fun _ vs s2 => vs = [0x40000000, 2 ^ 50, 16384, 4] && se s2) = true ∧
    enters (lab .s [(5, [0x40000000]), (1, [2 ^ 50]), (2, [32]), (3, [4])] id) (.rsta h0 ⟨0, 3, 2, 1, 0, 5⟩) [5, 1, 2, 3]
      (fun _ vs s2 => vs = [0x40000000, 2 ^ 50, 32, 4] && se s2) = true ∧
    enters (lab .s [(1, [4]), (2, [7]), (3, [8])] id) (.rat h0 ⟨2, 3, 2, 1, 0x13, 6⟩) [1, 2, 3] (fun _ vs s2 => vs = [4, 7, 8] && se s2 && s2.room 6) = true ∧
    enters (lab .s [(1, [4]), (2, [7])] id) (.rat h0 ⟨0, 0, 2, 1, 0, 6⟩) [1, 2] (fun _ vs s2 => vs = [4, 7] && se s2 && s2.room 6) = true := by
  decide +kernel
theorem witness_AtomicsPend :
    enters (lab .c [(1, [0x40400000]), (2, [1]), (3, [2])] id) (.acas h0 ⟨0, 3, 2, 1, 0x13, 6⟩) [1, 2, 3] (fun _ vs s1 => vs = [0x40400000, 1, 2] &&
      s1.room 6 && owns s1 (fun j => !j.replay.replaying && (match s1.atomicPlace (s1.who 0 j) .cas 0x40400000 with
        | .ok _ => true
        | .error _ => false))) = true ∧
    enters (lab .s [(1, [0x10040]), (2, [1])] id) (.await h0 ⟨3, 0, 2, 1, 0x13, 31⟩) [1, 2] (fun _ vs s1 => vs = [0x10040, 1] && !inWindow 0x10040 &&
      s1.room 31) = true := by decide +kernel
/-- A format word of two f16 operands, a batch with an open command, and an MMA of scratchpad operands with its format word at the head. -/
theorem witness_MatrixControlAndMma :
    let fmts (n : Nat) (j : Job) : Job := { j with fmtQ := ⟨List.replicate n ⟨some 0x21, ⟨0, 0⟩, .none, false, 0, none⟩, []⟩ }
    enters (lab .c [(5, [0x21])] (fmts 15)) (.mfmt h0 ⟨0, 0, 5, 0, 0⟩) [5] (fun _ vs s1 => vs = [0x21] && fmtOk 0x21 && owns s1 (fun j =>
      decide (j.fmtQ.items.length < 16) && decide (j.fmtQ.items.length + j.fmtQ.popped.length < 32))) = true ∧
    enters (lab .c [(5, [0x40000020])] id) (.mcb h0 ⟨3, 0, 0, 5, 2, 0⟩) [5] (fun _ vs s1 => vs = [0x40000020] && s1.queueRoom .me) = true ∧
    enters (lab .c [] id) (.mzero h0 ⟨0, 0, 0, 0, 0⟩) [] (fun _ _ s1 => s1.queueRoom .me && owns s1 (fun j => decide (0 < j.hdr.acg))) = true ∧
    enters (lab .c [(5, [9])] id) (.mseed h0 ⟨0, 0, 5, 0, 0⟩) [5] (fun _ vs s1 => vs = [9] && s1.queueRoom .me) = true ∧
    enters (lab .c [] (fun j => { j with openSet := [(15, 4)] })) (.mcommit h0 ⟨0, 0, 0, 15, 0⟩) [] (fun _ _ s1 => s1.own.isSome) = true ∧
    enters (lab .c [] (fun j => { j with committed := [(15, 4, 0)] })) (.mwait h0 ⟨0, 0, 0, 15, 0⟩) [] (fun _ _ s1 => owns s1 (fun j =>
      j.committed.all (fun c => j.meQ.all (fun q => q.id ≠ c.2.1)))) = true ∧
    enters (lab .c [(1, [0x40000000]), (2, [4]), (3, [0x40000000]), (4, [4])] (fmts 1))
      (.mma h0 ⟨0, false, 0, 0, false, 0, 0, false, 0, 0, 0, true, true, 4, 3, 2, 1, 15, false, false, false, 0⟩) [1, 2, 3, 4]
      (fun _ vs s2 => vs = [0x40000000, 4, 0x40000000, 4] && s2.queueRoom .me && owns s2 (fun j => decide (0 < j.hdr.acg) &&
        j.fmtQ.items.head?.any (fun e => e.usable (j.stream .c).coord = some 0x21))) = true := by decide +kernel
theorem witness_MatrixElements :
    let free (s1 : State) (a : Nat) : Bool := owns s1 (fun j =>
      let w := s1.who 0 j
      decide (0 < j.hdr.acg ∧ a < 2 ^ 14) && !s1.busyTile w j (w.tile 0) && !s1.openTile w j (w.tile 0))
    enters (lab .c [(1, [16383])] id) (.mrd h0 ⟨0, 0, 1, 0, 6⟩) [1] (fun _ vs s1 => vs = [16383] && s1.room 6 && free s1 16383) = true ∧
    enters (lab .c [(1, [0]), (2, [7])] id) (.mwr h0 ⟨0, 2, 1, 0, 0⟩) [1, 2] (fun _ vs s1 => vs = [0, 7] && free s1 0 && owns s1 (fun j =>
      !s1.opWaits (s1.who 0 j) j ⟨j.seq, ⟨.c, ⟨0, 0⟩, j.seq, 0⟩, .mrd 0 0, none, 0⟩ &&
      completes (writeBytes h0 0 (s1.who 0 j).acBase (leBytes 4 7)) s1 (fun _ _ => true))) = true := by decide +kernel
/-- Store words of 128 rows and columns, and of one row of 32 columns with block scales. -/
theorem witness_MatrixStores :
    let ok (w : Word) (ty : BitVec 5) (s1 : State) : Bool :=
      let sw := storeWord w
      !sw.up && decide (sw.rm ≠ 7 ∧ sw.row0 + sw.rows ≤ 128 ∧ sw.col0 + sw.cols ≤ 128 ∧ sw.cols * tyWidth ty.toNat % 8 = 0 ∧ sw.col0 % 32 = 0 ∧
        sw.cols % 32 = 0) && s1.queueRoom .me && owns s1 (fun j => decide (sw.acc.toNat < j.hdr.acg))
    let whole : Word := BitVec.ofNat 64 (127 * 2 ^ 12 + 127 * 2 ^ 26)
    let row : Word := BitVec.ofNat 64 (31 * 2 ^ 26)
    enters (lab .c [(3, [whole]), (1, [0x40000000]), (2, [128])] id) (.mstl h0 ⟨0, 0, 2, 1, 0x09, 3⟩) [3, 1, 2]
      (fun _ vs s1 => vs = [whole, 0x40000000, 128] && ok whole 0x09 s1) = true ∧
    enters (lab .c [(3, [row]), (1, [0x40000000]), (2, [128])] id) (.mstf h0 ⟨0, 0, 2, 1, 0x03, 3⟩) [3, 1, 2]
      (fun _ vs s1 => vs = [row, 0x40000000, 128] && ok row 0x03 s1) = true ∧
    enters (lab .c [(3, [row]), (1, [0x40000000]), (2, [128]), (4, [0x40008000])] id) (.mstf h0 ⟨1, 4, 2, 1, 0x03, 3⟩) [3, 1, 2, 4]
      (fun _ vs s1 => vs = [row, 0x40000000, 128, 0x40008000] && ok row 0x03 s1) = true := by decide +kernel

/-! ### Witnesses: the vector unit -/

theorem witness_VectorOnTiles :
    enters (lab .v [] (tilesIn [3, 4])) (.vadd h0 ⟨0, 0, false, 0, 0, 4, 3, 0, 0, 5⟩) [] (fun s0 _ _ => owns s0 (fun j => decide (j.hdr.tdep ≠ 0)) &&
      (s0.tiles [3, 4]).any (fun r => r.2.tileRoom 5)) = true ∧
    enters (lab .v [] (tilesIn [3])) (.vneg h0 ⟨0, 0, true, 7, 0, 0, 3, 0, 0x13, 3⟩) [] (fun s0 _ _ => (s0.tiles [3]).any (fun r => r.2.tileRoom 3)) = true := by
  decide +kernel
/-- Values for the element clauses: an integer type with one of 8 bits to convert from; 1.0 + 1.0 and 1.0 - 0.5 in f32; quiet and signalling
NaNs. -/
theorem witness_VectorOnTiles_values : intTypes.length = 6 ∧ ((0x11 : Nat), 8, false) ∈ intTypes ∧
    (units32 0x3F800000 + units32 0x3F800000 = units32 0x40000000 ∧ units32 0x3F800000 - units32 0x3F000000 = units32 0x3F000000 ∧ units32 0x40000000 ≠ 0) ∧
    (nan32 0x7FC00001 = true ∧ snan32 0x7FC00001 = false ∧ snan32 0x7F800001 = true ∧ nan32 0x3F800000 = false ∧ below32 0x80000000 0 = true) := by
  decide +kernel
theorem witness_VectorSelectAndMoves :
    enters (lab .v [] (tilesIn [3, 4])) (.vsel h0 ⟨0, 0, true, 7, 0, 4, 3, 0, 0, 5⟩) [] (fun s0 _ _ => owns s0 (fun j => decide (j.hdr.tdep ≠ 0)) &&
      (s0.tiles [3, 4]).any (fun r => r.2.tileRoom 5)) = true ∧
    enters (lab .v [(2, [17])] (tilesIn [3])) (.vrotr h0 ⟨2, 0, false, 0, 0, 0, 3, 0, 0, 5⟩) [] (fun s0 _ _ => (s0.tile 3).any (fun r =>
      (r.2.scalars [2]).any (fun q => q.1 = [17] && q.2.tileRoom 5))) = true ∧
    enters (lab .v [(2, [15])] (tilesIn [3])) (.vrotc h0 ⟨2, 0, false, 0, 0, 0, 3, 0, 0, 5⟩) [] (fun s0 _ _ => (s0.tile 3).any (fun r =>
      (r.2.scalars [2]).any (fun q => q.1 = [15] && q.2.tileRoom 5))) = true ∧
    enters (lab .v [(2, [0])] (tilesIn [3])) (.vbcr h0 ⟨2, 0, false, 0, 0, 0, 3, 0, 0, 5⟩) [] (fun s0 _ _ => (s0.tile 3).any (fun r =>
      (r.2.scalars [2]).any (fun q => q.1 = [0] && q.2.tileRoom 5))) = true ∧
    enters (lab .v [(2, [64])] (tilesIn [3])) (.vbcc h0 ⟨2, 0, false, 0, 0, 0, 3, 0, 0, 5⟩) [] (fun s0 _ _ => (s0.tile 3).any (fun r =>
      (r.2.scalars [2]).any (fun q => q.1 = [64] && q.2.tileRoom 5))) = true ∧
    enters (lab .v [] (tilesIn [3])) (.vtrn h0 ⟨0, 0, false, 0, 0, 0, 3, 0, 0, 5⟩) [] (fun s0 _ _ => (s0.tile 3).any (fun r => r.2.tileRoom 5)) = true ∧
    enters (lab .v [] (tilesIn [3])) (.vnet h0 ⟨0, 7, false, 0, 0, 0, 3, 0, 0, 5⟩) [] (fun s0 _ _ => (s0.tile 3).any (fun r => r.2.tileRoom 5)) = true ∧
    enters (lab .v [] (tilesIn [3])) (.vredr h0 ⟨0, 4, false, 0, 0, 0, 3, 0, 0, 5⟩) [] (fun s0 _ _ => (s0.tile 3).any (fun r => r.2.tileRoom 5)) = true ∧
    enters (lab .v [] (tilesIn [3])) (.vredc h0 ⟨0, 2, false, 0, 0, 0, 3, 0, 0x13, 5⟩) [] (fun s0 _ _ => (s0.tile 3).any (fun r => r.2.tileRoom 5)) = true ∧
    enters (lab .v [(2, [9])] id) (.vgen h0 ⟨2, 0, false, 0, 0, 0, 0, 0, 0x13, 5⟩) [2] (fun _ vs s1 => vs = [9] && s1.tileRoom 5) = true := by
  decide +kernel
theorem witness_VectorCompareAndNetwork :
    enters (lab .v [] (tilesIn [3, 4])) (.vcmp h0 ⟨0, 7, false, 0, 0, 4, 3, 0, 0, 7⟩) [] (fun s0 _ _ => owns s0 (fun j => decide (j.hdr.tdep ≠ 0) &&
      decide ((j.stream .v).maskHist.length < 16)) && (s0.tiles [3, 4]).isSome) = true ∧
    enters (lab .v [(2, [0x4000FFC0])] id) (.vnetset h0 ⟨2, 7, false, 0, 0, 0, 0, 0, 0, 0⟩) [2] (fun _ vs s1 => vs = [0x4000FFC0] &&
      completes (scratchPlace 0x4000FFC0 64 64) s1 (fun x _ => completes (readPool x.1 x.2 64 0x4000FFC0) s1 (fun _ _ => true)) &&
      runsOn s1 (fun t => decide (t.netHist.length < 8))) = true := by decide +kernel
/-- VLD reads a segment into a tile, VST stores one to a segment; a V-form of one iteration adds two segments into a third. -/
theorem witness_VectorPlans :
    (let f : FVB := ⟨2, 0, false, 0, 0, 0, 0, 0, 0x11, 3⟩
     let p := basePlan f .load 0
     let base : Word := 0x40000000
     p.vform = false ∧ p.step = .load ∧ enters (lab .v [(2, [base])] id) (.vld h0 f) [2] (fun _ vs s1 => vs = [base] && s1.hasTiles &&
       completes (scratchPlace base 16 (tileBytes 0x11)) s1 (fun _ _ => true) &&
       completes (p.a.read [base] 0 false) s1 (fun a sa => completes (p.d.write h0 [base] 0 a.1 .none p.vform (fun _ => true)) sa (fun _ _ => true))) = true) ∧
    (let f : FVB := ⟨2, 0, false, 0, 0, 0, 3, 0, 1, 0⟩
     let p := basePlan f .store 0
     let base : Word := 0x4000F800
     p.vform = false ∧ p.step ≠ .load ∧ enters (lab .v [(2, [base])] (tilesIn [3])) (.vst h0 f) [] (fun s0 _ _ =>
       completes (p.a.read [] 0 true) s0 (fun a u => (u.scalars [2]).any (fun r => r.1 = [base] && r.2.hasTiles &&
         completes (scratchPlace base 16 (tileBytes 1)) r.2 (fun _ _ => true) &&
         completes (p.d.write h0 [base] 0 a.1 .none p.vform (isOn p.men p.mask)) r.2 (fun _ _ => true)))) = true) ∧
    (let f : FVF := ⟨0, 0, 0, 0, 7, 1, ⟨2, 0, false, 0, 0, 0, 0, 0, 0x11, 0⟩⟩
     let p := vfPlan f (.elem .add) 0
     let bs : List Word := [0x40000000, 0x40000400, 0x40000800]
     enters (lab .v [(2, bs)] id) (.vaddVf h0 f) [2, 2, 2] (fun _ vs s1 => vs = bs && bs.all (fun a =>
         completes (scratchPlace a 16 (tileBytes 0x11)) s1 (fun _ _ => true)) &&
       completes (p.d.checkDest 1) s1 (fun _ _ => true) && [p.a, p.b, p.c].all (fun o => completes (VOpd.checkSource 1 o) s1 (fun _ _ => true)) &&
       completes (p.a.read bs 0 true) s1 (fun _ sa => completes (p.b.read bs 0 true) sa (fun b sb => completes (p.c.read bs 0 true) sb (fun _ sc =>
         completes (p.d.write h0 bs 0 b.1 .none p.vform (fun _ => true)) sc (fun _ _ => true)))))) = true := by
  decide +kernel
/-- Nests of one element: VADD.nest of three operands, and VREDR.nest of one group. -/
theorem witness_VectorNests :
    (let f : FVN := ⟨0, 0, 0, 0, 0, 0, 1, ⟨2, 0, false, 0, 0, 0, 0, 0, 0x11, 0⟩⟩
     let pt := [0, 0, 0, 0, 0]
     let bit (b : Word) : Int := vnBit b 0x11 0 0 pt
     let bs : List Word := [0x40000000, 0x40000400, 0x4000FFFF]
     enters (lab .v [(2, bs)] id) (.vaddNest h0 f) [2, 2, 2] (fun _ vs s1 => vs = bs && vnPoints f (vnCount f 0) = [pt] &&
       bs.all (fun b => completes (vnRead (bit b) 0x11) s1 (fun _ _ => true)) && completes (vnWrite h0 (bit 0x40000000) 0x11 7) s1 (fun _ _ => true))) = true ∧
    (let f : FVN := ⟨0, 0, 0, 0, 0, 0, 1, ⟨2, 0, false, 0, 0, 0, 0, 0, 0x11, 0⟩⟩
     let pt := [0, 0, 0, 0, 0]
     let bit (b : Word) : Int := vnBit b 0x11 0 0 pt
     enters (lab .v [(2, [0x40000000, 0x40000400])] id) (.vredrNest h0 f) [2, 2] (fun _ vs s1 => vs = [0x40000000, 0x40000400] && vnPoints f 1 = [pt] &&
       vnCount f 0 = 1 && completes (vnRead (bit 0x40000400) 0x11) s1 (fun _ _ => true) && completes (vnWrite h0 (bit 0x40000000) 0x11 7) s1 (fun _ _ => true))) =
      true := by decide +kernel

/-! ### Witnesses: events of the streams, the engines and landings -/

/-- The origin of an operation of a stream at the first coordinate. -/
def org0 (st : StreamId) : Origin := ⟨st, ⟨0, 0⟩, 0, 0x10040⟩
/-- A property of the job on core 0. -/
def has (s : State) (p : Job → Bool) : Bool := (s.job 0).any p

theorem witness_StreamEvents :
    let op (k : OpKind) : State := lab .a [] (fun j => { j with ops := [⟨4, org0 .a, k, none, 0⟩] })
    let go (s : State) (p : PendOp → State → Bool) : Bool := has s (fun j => (j.op 4).any (fun o => mayGo s 0 j o && p o (asStream s 0 o.org)))
    (let s := lab .a [] (fun j => j.onStream .a (fun t => { t with adv := some ⟨1, none, none⟩ }))
     let u := ((s.settleFront 0).onJob 0 Job.checkStop).markLanding 0
     has s (fun j => (j.stream .a).phase = .issuing && (j.stream .a).adv.isSome) && has u (fun k =>
       let t := k.stream .a
       t.adv = some ⟨1, none, none⟩ && k.landing.isNone && t.pushes.isEmpty && decide (Stream.lead k t + 1 ≤ k.hdr.leadw.toNat))) = true ∧
    (let s (n : Nat) := lab .a [] (fun j => { j.onStream .a (fun t => { t with pushes := [⟨0, 1, 0, 0x10040, true, false⟩] }) with
       toks := j.toks.set (fifoIdx .a true) ⟨List.replicate n ⟨some (), ⟨0, 0⟩, .none, false, 0, none⟩, []⟩ })
     ([7, 8] : List Nat).all (fun n => has (s n) (fun j => ((j.stream .a).pushes.find? (fun p => p.toNext = true)).any (fun p =>
       j.lives p.coord && (s n).doneThrough 0 j .a p.seq) && Nat.beq (j.toks.get (fifoIdx .a true)).slots n))) = true ∧
    (let token : QEntry Unit := ⟨some (), ⟨0, 0⟩, .none, false, 0, none⟩
     let s := lab .a [] (fun j => { j.onStream .a (fun t => { t with pushes := [⟨0, 1, 0, 0x10040, true, false⟩] }) with
       toks := j.toks.set (fifoIdx .a true) ⟨[], List.replicate 8 (token, 0, 0)⟩ })
     has s (fun j => ((j.stream .a).pushes.find? (fun p => p.toNext = true)).any (fun p => j.lives p.coord && s.doneThrough 0 j .a p.seq &&
       Nat.beq (j.toks.get (fifoIdx .a true)).slots 8 && (j.toks.get (fifoIdx .a true)).popped.any (fun x => decide (x.2.1 < p.coord))))) = true ∧
    go (op (.ld 0x10040 0x14)) (fun _ u => completes (readMem true 0x10040 8) u (fun _ _ => true)) = true ∧
    go (op (.ldt 0x10040 0 0x0D 0)) (fun _ u => completes (readRows 64 ((List.range 16).map (fun _ => some 0x10040))) u (fun _ _ => true)) = true ∧
    go (op (.gather 0x10040 0x10040 16 0x0D true 0)) (fun o u => completes (gatherRead o 0x10040 0x10040 16 0x0D true 0) u (fun _ _ => true)) = true ∧
    go (op (.mrd 0 0)) (fun o u => completes (mrdRead o 0 0) u (fun _ _ => true)) = true ∧
    (let s := { lab .a [] id with clamps := [⟨0, 0x2000, 4, 0, false⟩] }
     has s (fun j => j.handle = 0x2000 && j.landing.isNone && ((j.clamp 4 0).arms ⟨0, 0x2000, 4, 0, false⟩).isNone)) = true := by decide +kernel
/-- A clamp of a loop of 9 source iterations and 2 stages in its first: the limit, and the iteration that has begun, bound it. -/
theorem witness_StreamEvents_clamp : has (lab .c [] (fun j => j.onStream .c (loopAt 4 9 2))) (fun j =>
    (j.stream .c).loops.get 4 = some ⟨9, 2, 10, 0, 0x10040, 0x10060, 0x10038, 0⟩ && Coord.ix (j.stream .c).coord 4 + 1 = 1 &&
      StreamId.all.all (fun x => x = .c || ((j.stream x).loops.get 4).isNone) &&
      (((j.clamp 4 3).stream .c).loops.get 4).any (fun lp => lp.t = 3 && lp.k = 4) && (((j.clamp 4 0).stream .c).loops.get 4).any (fun lp => lp.t = 1 && lp.k = 2) &&
      (((j.clamp 4 99).stream .c).loops.get 4).any (fun lp => lp.t = 9 && lp.k = 10)) = true := by decide +kernel
/-- A command of stream S in an engine's queue. -/
def cmdIn (e : Engine) (k : CmdKind) (x : Option Started) (g : Job → Job) : State :=
  lab .a [] (fun j => g (j.setQueue e [⟨4, org0 .s, k, x, false, 0⟩]))
/-- A property of the job and its command in an engine's queue. -/
def hasCmd (e : Engine) (s : State) (p : Job → Cmd → Bool) : Bool := has s (fun j => (j.cmd e 4).any (p j))
/-- The page at 0x1_0000 is tile 0 of core 1. -/
def tilePage (s : State) : State := { s with mem := memWrite s.mem 0x202008 (leBytes 8 (0x2F + 2 ^ 55)) }
theorem witness_EngineEvents_start :
    let may (e : Engine) (s : State) (p : Job → Cmd → Bool) : Bool := hasCmd e s (fun j q => s.mayBegin (s.who 0 j) j e q && p j q)
    (let s := cmdIn .ce (.copy ⟨0x10040, 0x40000000, 8, 1, 1, 0, 0, 0, 0⟩) none id
     may .ce s (fun _ q => completes (startBody .ce q) (asStream s 0 q.org) (fun _ _ => true))) = true ∧
    may .se (cmdIn .se (.st 0x10040 7 0x14) none id) (fun _ q => startsBare q.kind) = true ∧
    may .me (cmdIn .me (.mzero 0) none (fun j => { j with front := some 0 })) (fun j q => !j.beyond q.org.stamp.coord) = true ∧
    (let g : CopyGeo := ⟨0x40000020, 0x40000000, 8, 1, 1, 0, 0, 0, 0⟩
     let s := cmdIn .ce (.copy g) none id
     may .ce s (fun j q => g.loops.all (fun i => decide (pieces (g.from i).toNat g.n0 = [((g.from i).toNat, g.n0)])) && Nat.beq g.loops.length 1 &&
       (match (asStream s 0 q.org).resolve ((asStream s 0 q.org).who 0 j) .r 0x40000020 8 with
       | .ok (.pool k p) => !(asStream s 0 q.org).veiled 0 j.handle k p 8
       | _ => false))) = true := by decide +kernel
theorem witness_EngineEvents_complete :
    (let s := cmdIn .se (.st 0x10040 7 0x14) (some .none) id
     hasCmd .se s (fun j q => j.mayFinish q && completes (completeBody .se q .none) (asStream s 0 q.org) (fun _ _ => true))) = true ∧
    hasCmd .me (cmdIn .me (.mseed 9) (some .none) id) (fun _ q => q.started.isSome) = true ∧
    (let s := cmdIn .se (.st 0x40000000 7 0x14) (some .none) id
     hasCmd .se s (fun j q => let u := asStream s 0 q.org
       j.lives q.org.stamp.coord && Nat.beq (tyBytes 0x14) 8 && (match u.resolve (u.who 0 j) .w 0x40000000 8 with
       | .ok (.pool k p) => (match u.poolWrite 0 q.org k p (leBytes 8 7) false with
         | .done _ => true
         | _ => false)
       | _ => false))) = true ∧
    ([none, some 0] : List (Option Coord)).all (fun f => let s := cmdIn .se (.st 0x10040 7 0x14) (some .none) (fun j => { j with front := f })
      hasCmd .se s (fun j q => let u := asStream s 0 q.org
        j.lives q.org.stamp.coord && (match u.resolve (u.who 0 j) .w 0x10040 8 with
        | .ok (.mem pa none _ _) => !u.isFleet (dieOf 0) pa && Nat.ble (j.relSectors + Held.sectors ⟨q.id, q.org, .store pa (leBytes 8 7) false, some 0x10040⟩) 2048
        | _ => false) && (j.beyond q.org.stamp.coord == f.isNone))) = true := by decide +kernel
theorem witness_EngineEvents_channel :
    let bs : List (Byte × Option Nat) := List.replicate 16 (7, none)
    let b : Binding := ⟨2, 7, .a, 30, ⟨0, 0⟩, some (4, 2)⟩
    let s := cmdIn .ce (.copyChan ⟨0x10040, 0, 16, 1, 1, 0, 0, 0, 0⟩ 7 0x14) (some (.bytes bs)) (fun j => { j with bindings := [b] })
    hasCmd .ce s (fun j q => (j.ceQ.find? (fun q => q.begun && q.toChannel 7)).any (fun x => x.id = 4) && (j.pairCopy 7 4 2).isSome &&
      j.lives q.org.stamp.coord && decide (q.delivered < 2)) = true := by decide +kernel
/-- An atomic and an AWAIT on the own accumulator, an atomic on another core's, and an AWAIT that has found its condition to hold. -/
theorem witness_EngineEvents_atomics :
    let s (op : AOp) (a : Word) (hit : Option (BitVec 32)) : State := lab .c [] (fun j => { j with ops := [⟨4, org0 .c, .atomic op a 0 0, hit, 0⟩] })
    let go (s : State) (p : Job → PendOp → State → Bool) : Bool := has s (fun j => (j.op 4).any (fun o => mayGo s 0 j o &&
      !s.atomicWaits (s.who 0 j) j o && !j.replay.recording && p j o (asStream s 0 o.org)))
    let own (j : Job) (u : State) (op : AOp) (p : State → Nat → Bool) : Bool := match u.atomicPlace (u.who 0 j) op 0x40400000 with
      | .ok (.word c q) => decide (c = 0) && !u.veiled 0 j.handle 0 q 4 && (u.busyFault (u.who 0 j) j 0 q).isNone && (u.poolPoison 0 q 4).isNone &&
        (u.seenBytes 0 j (poolKey 0 q) ((memBytes u.mem (poolKey 0 q) 4).map (fun b => (b, none)))).all (fun b => b.2.isNone) && p u q
      | _ => false
    go (s .addN 0x40400000 none) (fun j _ u => own j u .addN (fun u q => match u.poolWrite 0 (org0 .c) 0 q (leBytes 4 0) false with
      | .done _ => true
      | _ => false)) = true ∧
    go (tilePage (s .addN 0x10000 none)) (fun j _ u => (match u.atomicPlace (u.who 0 j) .addN 0x10000 with
      | .ok (.home _ _ _) => true
      | _ => false) && Nat.ble j.relSectors 2048) = true ∧
    go (s (.await 0) 0x40400000 (some 5)) (fun _ o _ => o.hit = some 5) = true ∧
    go (s (.await 0) 0x40400000 none) (fun j _ u => own j u (.await 0) (fun u q => awaitHolds 0 (u.seenWord 0 j (poolKey 0 q)) 0)) = true := by
  decide +kernel
/-- The job's slot in a state. -/
def slotState (x : JState) (s : State) : State := s.setJState 0 x
theorem witness_LandingEvents :
    let why : LandWhy := .trap ⟨7, org0 .c, 0, 0, 0, 0⟩
    (let s := slotState .landing (lab .c [] (fun j => { j.onStreams (fun t => { t with phase := .rdv }) with landing := some ⟨0, why⟩ }))
     has s (fun j => j.landing.any (fun l => s.mayLand 0 j l && (let u := s.frontLand 0 j l
       has u (fun k => k.landing.any (fun m => u.mayLand 0 k m))))) && (s.core 0).slot.any (fun q => q.state = .landing)) = true ∧
    (let s := slotState .landing (lab .c [] (fun j => { j.onStream .c (fun t => { t with tried := true, cause := 1 }) with landing := some ⟨1, why⟩ }))
     has s (fun j => j.landing.any (fun l =>
       let stuck (st : StreamId) : Bool := !(j.stream st).atCut l.bound && (j.stream st).adv.isNone && s.selfWait 0 j (j.stream st)
       StreamId.all.all (fun st => (j.stream st).atCut l.bound || stuck st) && stuck .c && StreamId.all.all (fun st => (j.stream st).pushes.isEmpty) &&
         j.ops.isEmpty && j.cmds.isEmpty && !s.abroad 0 j.handle l.bound))) = true ∧
    (([.running, .landing, .stopped] : List JState).all (fun x =>
      let s := { slotState x (lab .c [] id) with preempts := [(0, 0x2000)] }
      s.preempts.find? (fun x => x.1 = 0) = some (0, 0x2000) && (s.core 0).slot.any (fun q => q.handle = 0x2000 && q.state = x) && (s.job 0).isSome)) = true := by
  decide +kernel

/-! ### Witnesses: scheduling and synchronisation events -/

/-- Core 0 free, with a job of launch 0x4000 at a launch level in slot 1, which has run before, waiting or holding. -/
def queued (lv : BitVec 2) (x : JState) : State :=
  let s := lab .c [] id
  let q : JobSlot := ⟨0x4000, 0, 0, 0, 0, 0, x, lv, 0, 0x10000, placedHeader .c, s.job 0, none, none, false⟩
  let k := s.core 0
  { s.setCore 0 { k with slots := (Vector.replicate 8 none).set (1 : Fin 8) (some q), on := none, job := none } with
    jobs := [⟨0x4000, 0, lv, [0], [], false, false, false, 0, Vector.replicate 4 0, [], [], []⟩] }
theorem witness_SchedulingEvents :
    (let s := queued 0 .waiting
     (s.core 0).free && ((s.core 0).firstWaiting s.ftime).any (fun x => x.1 = 1 && x.2.launchLevel = 0) &&
       (let r := (s.setCore 0 ((s.core 0).hold 1 s.ftime)).clearLeft 0 1
        r.2 && ((r.1.core 0).slots.get 1).any (fun q => (r.1.startJob 0 1 q).isSome))) = true ∧
    (let s := queued 1 .waiting
     (s.core 0).free && ((s.core 0).firstWaiting s.ftime).any (fun x => x.2.launchLevel ≠ 0)) = true ∧
    (let s := queued 2 .holding
     (s.jobs.find? (fun x => x.handle = 0x4000)).any (fun g => (g.cores.filterMap (fun c => ((s.core c).slotOf g.handle).map (fun x => (c, x.1, x.2)))).all
       (fun x => x.2.2.state = .holding && (s.core x.1).free && ((s.core x.1).firstWaiting s.ftime).all (fun y => y.1 = x.2.1) &&
         ((s.core x.1).left x.2.1).isNone) && (s.allocCrews g.handle g.cores).any (fun u =>
         (([0] : List CoreId).foldlM (fun (t : State) x => t.startHeld g.handle x) u).isSome))) = true ∧
    (let s := { queued 0 .waiting with ftime := 80000 }
     ((s.core 0).slots.get 1).any (fun q => q.state = .waiting && decide (q.cur.toNat < Nat.min 3 (q.base.toNat + (s.ftime - q.entryTime).toNat / 80000)))) = true ∧
    (let l : Launch := ⟨0, 0x2000, 0, 4, org0 .c, 0, 0x10000, 0, none⟩
     ({ lab .c [] id with launches := [l] } : State).launches[0]? = some l && ({ lab .c [] id with launches := [{ l with answer := some 1 }] } : State).launches[0]?.isSome &&
       has (lab .c [] id) (fun j => j.handle = 0x2000)) = true ∧
    (let s := lab .c [] (fun j => j.onStreams (fun t => { t with phase := .rdv }))
     let u := s.settleFront 0
     has u (fun j => u.jobDone 0 j && (u.core 0).slot.any (fun q => q.state = .running) &&
       (let v := State.freeJobBlocks ((((u.pokeTiles 0 j).traceRelease 0).endOn 0).keepContext 0 j.handle) 0 j.handle
        (v.jobs.map (fun (g : Group) => if g.handle = j.handle then g.ended 0 j else g)).any (fun g => g.handle = j.handle)))) = true := by decide +kernel
theorem witness_SynchronisationEvents :
    (let s := onPart (fun p => { p with evmask := 0x1FF, timerFlag := true }) (lab .c [] id)
     parts s (fun p => p.supcore = 0 && has s (fun j => j.handle = p.supHandle && (j.stream .c).phase = .issuing && (j.stream .c).wait = .none &&
       (j.stream .c).adv.isNone) && p.evmask.getLsbD 8 && p.delivery && p.nextEvent.isSome && (s.core 0).slot.any (fun q => q.state = .running))) = true ∧
    (let s := { onPart (fun p => { p with armed := true, evmask := 5 * 2 ^ 16 }) (lab .c [] id) with ftime := 5 }
     parts s (fun p => p.armed && decide ((s.ftime.toNat % 2 ^ 48 + 2 ^ 48 - p.evmask.toNat / 2 ^ 16) % 2 ^ 48 < 2 ^ 47))) = true ∧
    (let w : SemWaiter := ⟨1, 0, 3, none, org0 .c, some 10, false⟩
     let s : State := { (lab .c [] (fun j => j.onStream .c (fun t => { t with wait := .sem 1 }))).setSem 0 0 ⟨[⟨3, none⟩], [w]⟩ with ftime := 10 }
     (s.sem 0 0).waiters = [w] && decide (w.n ≤ (s.sem 0 0).count) && w.deadline.all (fun (t : Word) => decide (s.ftime ≤ t)) && has s (fun j => j.lives w.org.stamp.coord) &&
       (unitAbove (takeUnits w.n (s.sem 0 0).units).1 w.org.stamp.coord).isNone) = true ∧
    (let w : SemWaiter := ⟨1, 0, 3, none, org0 .c, some 10, false⟩
     let s : State := { (lab .c [] id).setSem 0 0 ⟨[], [w]⟩ with ftime := 11 }
     ((s.clusters.get (clusterOf 0)).sems.toList.findSome? (fun (m : Sem) => m.waiters.find? (fun w => decide (w.core = 0) &&
       w.deadline.any (fun t => decide (t < s.ftime))))).any (fun x => decide (x = w))) = true ∧
    (let arr (sstep : Bool) : State := lab .c [] (fun j => { j.onStreams (fun t => { t with phase := .rdv }) with arrivals := [⟨org0 .c, false, sstep, 0⟩] })
     ([false, true] : List Bool).all (fun b => has ((arr b).settleFront 0) (fun j => (j.arrivals.find? (fun a => a.sstep || a.crew = false)).any (fun a =>
       ((arr b).settleFront 0).mayArrive 0 j a) && (((arr b).settleFront 0).sharedBlock (clusterOf 0) j.handle).isSome && (((arr b).settleFront 0).jobs.find? (fun g => g.handle = j.handle)).any (fun g => g.t0s.isEmpty)))) = true ∧
    (let s := { lab .c [] (fun j => { j.onStreams (fun t => { t with phase := .rdv }) with arrivals := [⟨org0 .c, false, true, 0⟩] }) with
       jobs := [⟨0x2000, 0, 0, [0], [], false, true, false, 0, Vector.replicate 4 0, [], [256], []⟩] }
     has (s.settleFront 0) (fun j => (j.arrivals.find? (fun a => a.sstep || a.crew = false)).any (fun a => (s.settleFront 0).mayArrive 0 j a && decide (a.a < 1)))) = true ∧
    (let s := { lab .c [] (fun j => j.onStream .c (fun t => { t with wait := .barr false none (some 10) })) with ftime := 11 }
     has s (fun j => (j.stream .c).wait = .barr false none (some 10) && decide ((10 : Word) < s.ftime))) = true ∧
    (let s := { lab .c [] (fun j => { j.onStream .c (fun t => { t with wait := .sstep }) with arrStep := 1 }) with
       ftime := 256, jobs := [⟨0x2000, 0, 0, [0], [], false, true, false, 0, Vector.replicate 4 0, [], [256], []⟩] }
     has s (fun j => j.handle = 0x2000 && (j.stream .c).wait = .sstep && ([256] : List Word)[j.arrStep - 1]? = some 256 && decide ((256 : Word) ≤ s.ftime))) = true := by
  decide +kernel

/-! ### Witnesses: requests, services, fleet memory -/

/-- The job's own unit of DRAM, with the memory and the ownership that accesses of its partition need. -/
def owned (s : State) : State := { s with owners := [(0x20, 0), (0x31, 0)] }
/-- A remote request of the job on core 0. -/
def remote (ga : Word) (k : RemoteKind) : Remote := ⟨4, 0, 0x2000, 0, org0 .s, ga, k, 0, 0, some .inside, 0, 0⟩
/-- The answer is there. -/
def good {α ε : Type} : Except ε α → Bool
  | .ok _ => true
  | .error _ => false

theorem witness_RemoteRequests :
    let s (r : Remote) : State := { owned (lab .c [] id) with remotes := [r] }
    let at_ (r : Remote) (p : State → Bool) : Bool := (s r).remotes[0]? = some r && r.way.isSome && !(s r).behind 0 r && ((s r).failed r).isNone && !(s r).holdsBack r && !(s r).fenced r && p (s r)
    let stored (ga flag : Word) (acc refuses : Bool) (s : State) : Bool := match s.targetRun 0 ga 32 acc, s.flagTarget 0 ga flag with
      | .ok l, .ok f => (s.refusesRun 0 0x2000 l == refuses) && !l.any s.logged && !s.logged (f, 4)
      | _, _ => false
    at_ (remote 0x310040 (.store (List.replicate 32 7) [false] 0x600000000040 false)) (stored 0x310040 0x600000000040 false false) = true ∧
    at_ (remote 0x600000000000 (.store (List.replicate 32 7) [false] 0x600000000040 true)) (stored 0x600000000000 0x600000000040 true false) = true ∧
    at_ (remote 0x600000000000 (.plain (List.replicate 8 7) false)) (fun s => match s.target 0 0x600000000000 8 with
      | .ok t => !s.logged (t, 8)
      | _ => false) = true ∧
    at_ (remote 0x600000000000 (.atomic .addN 1 0 true)) (fun s => match s.accTarget 0 0x600000000000 4 with
      | .ok (.here key co) => !s.logged (.here key co, 4) && s.remotes.all (fun r => !s.atomicLate r true)
      | _ => false) = true ∧
    at_ (remote 0x600000000000 (.read 0x13)) (fun s => match s.target 0 0x600000000000 4 with
      | .ok (.here key (some c)) => !s.veiled 0 0x2000 c (key - poolKey c 0) 4
      | _ => false) = true ∧
    at_ (remote 0x310040 (.read 0x13)) (fun s => match s.target 0 0x310040 4 with
      | .ok (.here _ _) => true
      | _ => false) = true ∧
    (let r : Remote := { remote 0x310000 (.store (List.replicate 32 7) [false] 0x600000000040 false) with handle := 0x4000 }
     let s : State := onPart (fun p => { p with mcmdva := 0x10000 }) (s r)
     !s.behind 0 r && !s.fenced r && (match s.targetRun 0 r.ga 32 false, s.flagTarget 0 r.ga 0x600000000040 with
       | .ok l, .ok _ => s.refusesRun r.part r.handle l
       | _, _ => false)) = true := by decide +kernel
theorem witness_RemoteFailures :
    let s (r : Remote) : State := { lab .c [] id with remotes := [r] }
    let r : Remote := remote (2 ^ 50) (.read 0x13)
    let off : Remote := { r with way := some (.ether 0 0) }
    let host : Remote := remote 0 (.hostAtomic 0 .addN 1 0)
    (s { r with way := some (.failed 1) }).failed { r with way := some (.failed 1) } = some 1 ∧
    (let t := s { r with kind := .store [] [] 0 false, ga := 0x1000000000000 }
     t.failed { r with kind := .store [] [] 0 false, ga := 0x1000000000000 } = some 4) = true ∧
    ((s host).failed host = none ∧ (s host).holdsBack host = false) ∧
    (let t : State := { s off with groups := (s off).groups.set (0 : Fin 16) { Group16.reset with pers := 4, state := 2, width := 8 },
                                   parts := (s off).parts.map (fun x => x.map (fun p => { p with emap := p.emap.set (0 : Fin 64) (BitVec.ofNat 64 (2 ^ 63 + 2 ^ 60 + 2 ^ 46 + 2 ^ 32 + 1)) })) }
     (t.failed off).isNone && !t.holdsBack off && t.leaves off && ([1, 4, 5, 6, 8, 9] : List (BitVec 16)).all off.mayFail) = true ∧
    (let t : State := { s r with ftime := 1250000 }
     Nat.ble (t.limit .inside) (t.ftime - r.sentAt).toNat) = true ∧
    (let t : State := { s off with groups := (s off).groups.set (0 : Fin 16) { Group16.reset with pers := 4, state := 5, changing := true, tout := 3 } }
     (t.groups.get 0).drains && Nat.beq (t.limit (.ether 0 0)) 37500 && t.dropped (.ether 0 0)) = true := by decide +kernel
/-- A SEND of one chunk to an address. -/
def sendTo (ga : Word) : Sending := ⟨0, 0x2000, 0, 4, org0 .s, 0x40000000, ga, 64, 0, 0, false, 0⟩
/-- The state with a SEND, and the entry that passes the core's stop at FTIME 0 reserved. -/
def sending (ga : Word) : State := { owned (lab .c [] id) with sendings := [sendTo ga], slotTables := [(0, slotAt false (stopOf 0) 0, ⟨true, 0⟩)] }
/-- A chunk of it. -/
def chunkTo (ga : Word) (final : Bool) (arrives : Nat) : Chunk :=
  ⟨0, 0x2000, 0, 4, org0 .s, ga, List.replicate 64 7, [false, false], true, false, [], 0, 0, arrives, final, Packet.start, .inside, 0, 0, 0⟩
/-- Every die link is up. -/
def linkedDies (s : State) : State := { s with dieLinks := Vector.replicate 16 { Group16.reset with state := 2, width := 64 } }
/-- The partition owns every die. -/
def onAllDies (s : State) : State := { s with parts := s.parts.map (fun x => x.map (fun p => { p with clmask := -1 })) }
/-- Chunks that depart to a target of the die, to another die and to no package; that go on over a die link; and that are written. -/
theorem witness_SendChunks :
    let leaves (s : State) (x : Sending) : Bool := (s.departure x).any (fun t => Nat.ble t s.ftime.toNat && s.slotFirst t none (some x)) &&
      !s.spreadBefore 0 0x2000 (fun o => decide (o.seq < x.fence))
    (let s := sending 0x310040
     leaves s (sendTo 0x310040) && (match s.sendWay (sendTo 0x310040) with
       | .ok (some (.inside, .target _, _)) => true
       | _ => false)) = true ∧
    (let ga : Word := 0x1000000310040
     let s := onAllDies (linkedDies (sending ga))
     leaves s (sendTo ga) && (match s.sendWay (sendTo ga) with
       | .ok (some (.inside, .link _ 1, _)) => true
       | _ => false)) = true ∧
    (match (sending (2 ^ 50)).sendWay (sendTo (2 ^ 50)) with
     | .error r => r = 1
     | _ => false) = true ∧
    (let x := chunkTo 0x1000000310040 false 0
     let s : State := { onAllDies (linkedDies (lab .c [] id)) with chunks := [x], slotTables := [(8, 0, ⟨true, 0⟩), (10, 0, ⟨true, 0⟩)] }
     (s.onward x).any (fun t => Nat.ble t s.ftime.toNat && s.slotFirst t (some (x, 0)) none) && (match s.chunkLeads x with
       | .ok (some _) => true
       | _ => false)) = true ∧
    (let x := chunkTo 0x1000000310040 false 0
     match ({ lab .c [] id with chunks := [x] } : State).chunkLeads x with
     | .error r => r = 4
     | _ => false) = true ∧
    (let x := chunkTo 0x310040 true 8
     let s : State := { owned (lab .c [] id) with chunks := [x], ftime := 8 }
     Nat.ble x.arrives s.ftime.toNat && !s.chunkBehind 0 x && !s.dropped x.way && (match s.targetRun 0 x.ga 64 false with
       | .ok l => !s.refusesRun 0 0x2000 l && !l.any s.logged
       | _ => false)) = true ∧
    (let x := chunkTo 0x310040 true 8
     let s : State := { owned (lab .c [] id) with chunks := [x], ftime := 1250000 }
     Nat.ble (s.limit x.way) (s.ftime - x.sentAt).toNat) = true := by decide +kernel
theorem witness_ServiceAndFleetEvents :
    let d0 : Vector (BitVec 32) 4 := Vector.replicate 4 0
    let v1 : Vector (BitVec 32) 4 := #v[1, 0, 0, 0]
    let fl (m : FleetMsg) : State := { linkedDies (lab .c [] id) with fleet := [m] }
    let free (s : State) (a b : DieId) : Bool := s.carries (fun _ => true) a b
    (let s : State := { lab .c [] id with services := [⟨0, 0x2000, 0, 4, org0 .c, .tlbi true 2 0, none⟩, ⟨0, 0x2000, 0, 5, org0 .a, .pub 0, none⟩,
       ⟨0, 0x2000, 0, 6, org0 .c, .tlbi false 2 0, some [(0, 0x2000, 3)]⟩] }
     s.services[1]?.any (fun x => !s.fleet.any (fun m => (m.shadowOf x.core x.handle).any (fun o => decide (o.st = x.org.st ∧ o.seq < x.id)))) &&
       s.fleet.isEmpty && s.remotes.isEmpty && !s.unperformed (0, 0x2000, 3)) = true ∧
    (let s : State := { lab .c [] id with logWaits := [⟨.pool 0 0, [7], some 0⟩, ⟨.mem 0x310040, [7], some 0⟩] }
     s.logWaits[1]?.isSome && !s.logged (.here (poolKey 0 0) (some 0), 1)) = true ∧
    ((0x17FFFFFFFF / 64 * 64 < 0x1800000000 : Bool) && (let s := fl (.write 0 1 5 0 [7] v1 false false none none)
      (s.dies.get 1).gate v1 1 0 && free s 0 1)) = true ∧
    (let s := fl (.write 0 1 5 0 [7] v1 false true (some 9) (some ⟨0, 0x2000, org0 .s⟩))
     (s.dies.get 1).gate v1 1 0 && free s 0 1) = true ∧
    (let s := fl (.update 2 0 5 0 [7] v1 false none)
     (s.dies.get 2).gate v1 2 0 && !s.queuedBefore 0 (2, 5) && free s (homeOf 5) 2) = true ∧
    (let s := fl (.tick 3 0 v1 none)
     (s.dies.get 3).gate v1 3 0 && free s 0 3) = true ∧
    (let s := fl (.fetch 0 1 5 d0)
     (s.dies.get 1).reached d0 1 && free s 0 1) = true ∧
    (let s := fl (.line 0 1 5 (List.replicate 64 7) d0 true)
     (s.dies.get 0).reached d0 0 && !s.queuedBefore 0 (0, 5) && free s 1 0 && decide (((s.dies.get 0).cache.filter (fun l => l.line ≠ 5)).length < fleetLines)) = true := by
  decide +kernel

/-! ### Witnesses: the host, debugging, the module, the fabric, Cuff -/

/-- Virtual functions are enabled, and Brim runs. -/
def enabled (s : State) : State := { s with module := { s.module with vfEnable := true, step := 3, brimUp := true } }
/-- The partition's page at 0x1_0000 may be accessed by the host. -/
def hosted (s : State) : State := owned { enabled s with mem := memWrite s.mem 0x202008 (leBytes 8 (0x31001F + 2 ^ 63)) }

theorem witness_HostEvents :
    let base := enabled (lab .c [] id)
    ([0, 7, 8] : List Nat).all (fun n => let s := onPart (fun p => { p with mailboxes := p.mailboxes.set 15 (List.replicate n (List.replicate 64 7)) }) base
      s.module.vfEnable && s.logWaits.isEmpty && parts s (fun p => p.tearing = 0 && decide (p.pstate.toNat < 3) && decide ((p.mailboxes.get 15).length = n))) = true ∧
    (let s := hosted (lab .c [] id)
     (s.vf 0).any (fun p => !p.down && decide (pieces 0x10040 32 = [(0x10040, 32)]) && (match s.hostKey 0 p .w 0x10040 32 with
       | some (.here _ none) => true
       | _ => false))) = true ∧
    (let s : State := owned { base with mem := memWrite base.mem 0x202008 (leBytes 8 (0x4F + 2 ^ 63)) }
     !s.awaitAhead 0 .fabric (fun _ _ _ => true) && (s.vf 0).any (fun p => !p.down && (s.hostLeaf 0 p .rw 0x10000).any (fun x => ptApl x.1 = 2 && ptPa x.1 = 0) && (match s.hostKey 0 p .rw 0x10000 4 with
       | some (.here key co) => (s.poisonAt key 4).isNone && !s.logged (.here key co, 4)
       | _ => false)) && hostOp 2 = some .cas) = true ∧
    (let s := onPart (fun p => { p with pstate := 2 }) base
     (s.vf 0).any (fun p => p.pstate = 2) && s.module.brimUp) = true ∧
    (decide (3 ≤ base.module.step) && ([3, 5] : List (BitVec 4)).all (fun n => parts (onPart (fun p => { p with tearing := n }) base) (fun p => p.tearing = n))) = true := by
  decide +kernel
theorem witness_DebugEvents :
    let base := enabled (lab .c [] id)
    (base.module.vfEnable && parts base (fun p => p.tearing = 0 && decide (p.pstate.toNat < 3) && !p.tctl.getLsbD 63 && p.dbgcore = 0) &&
      has base (fun j => j.part = 0)) = true ∧
    parts (onPart (fun p => { p with tctl := 2 ^ 63 }) base) (fun p => p.tctl.getLsbD 63) = true ∧
    (let s : State := { onPart (fun p => { p with trigArmed := true, trigat := 9 }) base with ftime := 9 }
     parts s (fun p => p.trigArmed && decide (p.trigat ≤ s.ftime))) = true ∧
    (let s : State := { onPart (fun p => { p with tctl := 8, trigger := some ⟨3, 64, none, [0], false⟩ }) base with ftime := 64 }
     parts s (fun p => p.trigger.any (fun t => decide (t.time ≤ s.ftime) && t.left.contains 0) && p.tctl.getLsbD 3) && (s.core 0).slot.any (fun q => q.state = .running)) =
      true := by decide +kernel


/-! ### Witnesses: the module -/

/-- A request to Brim with its operands. -/
def reqOf (op : Nat) (operands : List Byte) : List Byte := (leBytes 8 op ++ operands ++ List.replicate 64 0).take 64
/-- A module in step 3 of bring-up with Brim running and no partition. -/
def bare : State := { State.reset with module := { State.reset.module with step := 3, brimUp := true } }

/-- The state with a request at the head of Brim's first mailbox. -/
def asking (r : List Byte) (s : State) : State := { s with module := { s.module with requests := s.module.requests.set 0 [(r, s.ftime)] } }

theorem witness_ModuleEvents_mitten :
    let m (op : Nat) : MittenCmd := ⟨0, op, 0x2000, 0, true, false⟩
    ([1, 2] : List Nat).all (fun op => parts (onPart (fun p => { p with mitten := [m op] }) (lab .c [] id)) (fun p => p.mitten = [m op])) = true ∧
    ([none, some 0] : List (Option Nat)).all (fun k => let x : Saving := ⟨0, 0x2000, k, false, [0]⟩
      let s : State := { onPart (fun p => { p with mitten := [m 1] }) (lab .c [] id) with saves := [x] }
      decide (s.saves[0]? = some x) && good (s.saveAll x.handle x.live x.cores)) = true := by decide +kernel
theorem witness_ModuleEvents_requests :
    let asked (r : List Byte) (s : State) : Bool := (asking r s).brim && (asking r s).module.asked r = some 0
    (let r := reqOf 2 [0]
     let s := enabled (lab .c [] id)
     let s : State := { s with module := { s.module with vfEnable := false } }
     asked r s && reqOk 2 1 r && decide (req r 8 1 = 0) && parts s (fun p => p.tearing = 0)) = true ∧
    (asked (reqOf 3 []) bare && reqOk 3 0 (reqOf 3 [])) = true ∧
    (let r (n : Nat) := reqOf 4 [12, BitVec.ofNat 8 n]
     let s : State := { bare with module := { bare.module with dx := 4 } }
     ([1, 2] : List Nat).all (fun n => asked (r n) s && reqOk 4 2 (r n) && decide (req (r n) 8 1 = 12 ∧ req (r n) 9 1 = n ∧ (s.groups.get (12 : Fin 16)).assigned = none) &&
       !s.module.groupOff 12)) = true ∧
    (let r := reqOf 5 [255, 63, 2, 4, 1]
     asked r bare && reqOk 5 5 r && !bare.torusUp && decide (req r 8 2 = 2 ^ 14 - 1 ∧ req r 10 1 = 2 ∧ req r 11 1 = 4 ∧ req r 12 1 = 1)) = true ∧
    (let s : State := { asking (reqOf 3 []) bare with ftime := 125000000 }
     s.module.brimUp && (s.module.requests.toList.any (fun l => l.any (fun x => Nat.ble 125000000 (s.ftime - x.2).toNat)))) = true ∧
    (let s : State := { bare with module := { bare.module with brimUp := false, recOpen := true } }
     s.module.recOpen) = true ∧
    ([true, false] : List Bool).all (fun up => ([0, 1, 2] : List Nat).all (fun n =>
      let s : State := { bare with module := { bare.module with step := n, brimUp := up } }
      decide (s.module.step = n) && (s.module.brimUp == up) && !s.module.recOpen)) = true ∧
    decide ((bare.ftime.toNat % 1250 = 0) ∧ ({ bare with ftime := 1 } : State).ftime.toNat % 1250 ≠ 0) = true := by decide +kernel
theorem witness_ModuleEvents_quote :
    let nonce : List Byte := List.replicate 32 5
    let s := onPart (fun p => { p with nonce := nonce }) (enabled (lab .c [] id))
    nonce.length = 32 ∧ parts s (fun p => !p.quoteReady && decide (p.nonce = nonce)) = true ∧ (s.vf 0).isSome = true := by decide +kernel

/-- A picked thing exists when there is one. -/
theorem pickOf_isSome {α : Type} (l : List α) (n : Nat) (h : l ≠ []) : ∃ a ∈ l, pickOf l n = some a := by
  have hl : n % l.length < l.length := Nat.mod_lt _ (List.length_pos_iff.mpr h)
  exact ⟨l[n % l.length], List.getElem_mem hl, by simp [pickOf, List.getElem?_eq_getElem hl]⟩
/-- A job gets its blocks while two are free in its cluster and its launch has none there. -/
theorem not_allocBlocks_none {s : State} {c : CoreId} {hd : Handle} (h2 : s.allocBlocks c hd = none) (h : 2 ≤ (s.freeBlocks (clusterOf c)).length)
    (hs : s.sharedBlock (clusterOf c) hd = none) : False := by
  obtain ⟨a, ha, e⟩ := pickOf_isSome (s.freeBlocks (clusterOf c)) (Config.freeWord s.tick (64 + c.val)).toNat
    (by intro h0; simp [h0] at h)
  obtain ⟨b, -, e'⟩ := pickOf_isSome ((s.freeBlocks (clusterOf c)).erase a) (Config.freeWord s.tick (320 + c.val)).toNat (by
    intro h0
    have := List.length_erase_of_mem ha
    simp [h0] at this
    omega)
  simp [State.allocBlocks, e, hs, e'] at h2
/-- The supervisor's image has a header, and its cluster the blocks that its job needs. -/
def supStarts (s : State) (pn : PartId) (n : Nat) : Bool := (s.part pn).any (fun p => good (s.header pn p.supImage) &&
  Nat.ble 2 (s.freeBlocks (clusterOf p.supcore)).length && (s.sharedBlock (clusterOf p.supcore) (supHandleOf p.supcore n)).isNone)
theorem supStarts_some {s : State} {pn : PartId} {n : Nat} (h : supStarts s pn n = true) : ∃ t, s.startSup pn n = some t := by
  unfold supStarts at h
  cases hp : s.part pn with
  | none => simp [hp] at h
  | some p =>
    simp only [hp, Option.any_some, Bool.and_eq_true, Option.isNone_iff_eq_none] at h
    obtain ⟨⟨h1, h2⟩, h3⟩ := h
    cases hq : s.header pn p.supImage with
    | error e =>
      rw [hq] at h1
      cases h1
    | ok hd =>
      simp only [State.startSup, hp, hq, State.freshJob]
      split
      · rename_i ha
        exact (not_allocBlocks_none ha (Nat.le_of_ble_eq_true h2) h3).elim
      · exact ⟨_, rfl⟩
/-- The header of an image whose stream C starts at its byte 64. -/
def imageHeader : List Byte := leBytes 8 (0x7A31 * 2 ^ 48 + 2 ^ 40 + 16 * 2 ^ 35 + 2 ^ 32 + 2 ^ 26) ++ leBytes 8 1 ++ leBytes 8 64 ++ List.replicate 40 0
/-- A message for Brim, and a restart with Brim there and absent. -/
theorem witness_HostEvents_module :
    (decide (3 ≤ bare.module.step ∧ (bare.module.requests.get 3).length < 8)) = true ∧
    (let s := onPart (fun p => { p with pstate := 2 }) (owned (enabled (lab .c [] id)))
     let s : State := { s with mem := memWrite s.mem 0x310000 imageHeader }
     (s.vf 0).any (fun p => decide (p.pstate = 2) && s.module.brimUp && supStarts (s.endSup p) 0 (p.supHandle.toNat / 2 ^ 13 + 1))) = true ∧
    (let s := onPart (fun p => { p with pstate := 2 }) (enabled (lab .c [] id))
     let s : State := { s with module := { s.module with brimUp := false } }
     (s.vf 0).any (fun p => decide (p.pstate = 2)) && !s.module.brimUp) = true := by decide +kernel
/-- The plan of a partition of cluster 0 of die 1 with 1 GiB from the die's DRAM address 0x10_0000 on: its tables, its image at 0x1_0000 and its
record at 0x2_0000. -/
def plan0 : Plan :=
  let d := 2 ^ 48
  { root := d + 0x100000, errva := 0, cmpva := 0, ctxva := 0, mcmdva := 0, slva := 0, recva := 0x20000, recPa := d + 0x320000, image := 0x10000,
    units := List.range' (2 ^ 32 + 0x10) 16384, slots := [],
    writes := [(d + 0x100000, leBytes 8 (d + 0x200001)), (d + 0x200000, leBytes 8 (d + 0x201001)), (d + 0x201000, leBytes 8 (d + 0x202001)),
      (d + 0x202008, leBytes 8 (d + 0x31001F) ++ leBytes 8 (d + 0x320007)),
      (d + 0x310000, imageHeader)] }
/-- The request for it. -/
def create0 : List Byte := reqOf 1 (leBytes 8 0x10000 ++ leBytes 8 0x10000 ++ List.replicate 6 0)
/-- The units of the plan are DRAM of die 1. -/
theorem unitDie_plan (u : Nat) (h : 2 ^ 32 ≤ u ∧ u < 2 ^ 32 + 2 ^ 20) : unitDie u = some 1 := by
  have h1 : u * 65536 / 281474976710656 = 1 := by omega
  have h2 : u * 65536 % 281474976710656 < 103079215104 := by omega
  simp [unitDie, regionOf, h1, h2]
theorem plan0_free (m : Module) : ({ bare with module := m } : State).planFree 0x10000 (fun d => req create0 (16 + 2 * d) 2)
    (maskGroups (req create0 24 2)) plan0 = true := by
  have hu : ∀ u ∈ plan0.units, unitDie u = some 1 := fun u hm => unitDie_plan u (by
    have : u ∈ List.range' (2 ^ 32 + 0x10) 16384 := hm
    rw [List.mem_range'_1] at this
    omega)
  have h0 : bare.parts.toList.all (fun p => p.all (fun p => p.clmask &&& 0x10000 = 0)) = true := by decide +kernel
  have hg : (maskGroups (req create0 24 2)) = [] := by decide +kernel
  have hw : plan0.writes.all (fun w => decide (0 < w.2.length) && (List.range (w.2.length / 65536 + 2)).all (fun i =>
      plan0.units.contains (Nat.min (w.1 + i * 65536) (w.1 + w.2.length - 1) / 65536))) = true := by decide +kernel
  have hr : (List.range (128 / 65536 + 2)).all (fun i =>
      plan0.units.contains (Nat.min (plan0.recPa + i * 65536) (plan0.recPa + 128 - 1) / 65536)) = true := by decide +kernel
  have hn : plan0.units.Nodup := List.nodup_range'
  have hl : plan0.units.length = 16384 := List.length_range'
  have hd : ∀ d : Nat, (plan0.units.filter (fun u => (unitDie u).any (fun e => decide (e.val = d)))).length = if d = 1 then 16384 else 0 := by
    intro d
    by_cases h : d = 1
    · subst h
      rw [List.filter_eq_self.mpr (fun u hm => by simp [hu u hm])]
      simpa using hl
    · rw [List.filter_eq_nil_iff.mpr (fun u hm => by simp [hu u hm]; omega)]
      simp [h]
  have ho : bare.owners = [] := rfl
  have hq : req create0 18 2 = 1 := by decide +kernel
  unfold State.planFree
  rw [hg]
  simp only [Bool.and_eq_true]
  refine ⟨⟨⟨⟨⟨⟨⟨⟨⟨⟨h0, by simpa using hn⟩, ?_⟩, ?_⟩, by rfl⟩, by decide⟩, by rfl⟩, ?_⟩, by rfl⟩, hw⟩, by decide, hr⟩
  · rw [List.all_eq_true]
    intro u hm
    simp [hu u hm, ho]
  · simp [hd, hq]
  · rw [List.all_eq_true]
    intro u hm
    simp [hu u hm]
theorem witness_ModuleEvents_create :
    let s := asking create0 bare
    let w : State := { s with module := { s.module with requests := s.module.requests.set (0 : Fin 4).val (s.module.requests.get 0).tail (0 : Fin 4).isLt } }
    s.brim = true ∧ s.module.asked create0 = some 0 ∧ reqOk 0x01 22 create0 = true ∧ req create0 8 8 ≠ 0 ∧ w.freePart = some 0 ∧
    (let u := w.carryOut 0 0x10000 [] plan0
     w.planFree 0x10000 (fun d => req create0 (16 + 2 * d) 2) (maskGroups (req create0 24 2)) plan0 = true ∧ u.planMapped 0 plan0 = true ∧
     ∃ t, u.startSup 0 1 = some t) := by
  refine ⟨by decide +kernel, by decide +kernel, by decide +kernel, by decide +kernel, by decide +kernel, plan0_free _, by decide +kernel,
    supStarts_some (by decide +kernel)⟩


/-! ### Witnesses: the fabric -/

theorem leBytes_length (n w : Nat) : (leBytes n w).length = n := by
  induction n generalizing w with
  | zero => rfl
  | succ n ih => simp [leBytes, ih]
theorem tagBytes_length (g : BitVec 5) (out : Bool) (e : Nat) (bs : List Byte) : (tagBytes g out e bs).length = 16 := leBytes_length _ _
/-- The first 48 bytes of a control flit of a type, with SEQ 9 and a body. -/
def front (type : Byte) (body : List Byte) : List Byte :=
  ([type, 1, 0, 0, 0, 0, 0, 0, 9, 0, 0, 0, 0, 0, 0, 0] ++ body ++ List.replicate 32 0).take 48
/-- The flit with the tag that a group expects. -/
def sealed_ (g : BitVec 5) (x : Group16) (fr : List Byte) : List Byte := fr ++ tagBytes g false x.rxEpoch.toNat fr
/-- The flit as the other end of die link 0 sends it to port 16. -/
def sent_ (x : Group16) (fr : List Byte) : List Byte := fr ++ tagBytes 24 true x.rxEpoch.toNat fr
theorem flitNat_append (fr t : List Byte) (o n : Nat) (h : o + n ≤ fr.length) : flitNat (fr ++ t) o n = flitNat fr o n := by
  unfold flitNat
  rw [List.drop_append_of_le_length (by omega), List.take_append_of_le_length (by simp; omega)]
/-- The reset state with every group and every die link in one configuration. -/
def linked (x : Group16) : State := { State.reset with groups := Vector.replicate 16 x, dieLinks := Vector.replicate 16 x }
/-- The same, and a flit on its way from port 24 to port 16. -/
def linkSent (x : Group16) (fr : List Byte) : State :=
  { linked x with dieLinks := (Vector.replicate 16 x).set (8 : Fin 16) { x with outbox := [sent_ x fr] } }
theorem accepted_sealed {s : State} {g : BitVec 5} {type : Nat} {x : Group16} {fr : List Byte} (hg : g.toNat < 16) (h : s.port g = x)
    (ht : x.talks = true) (hl : fr.length = 48) (h0 : flitNat fr 0 1 = type) (h1 : flitNat fr 1 1 = 1) :
    accepted s g type (sealed_ g x fr) x { x with authFails := 0 } := by
  have hd : (sealed_ g x fr).drop 48 = tagBytes g false x.rxEpoch.toNat ((sealed_ g x fr).take 48) := by simp [sealed_, ← hl]
  have hn : ¬ 16 ≤ g.toNat := by omega
  have h64 : (sealed_ g x fr).length = 64 := by simp [sealed_, hl, tagBytes_length]
  have ha : s.authentic g (sealed_ g x fr) = true := by simp [State.authentic, State.tagged, h, hn, h64, hd]
  exact ⟨h, ht, ha, by rw [sealed_, flitNat_append _ _ _ _ (by omega), h0], by rw [sealed_, flitNat_append _ _ _ _ (by omega), h1], rfl⟩
theorem accepted_sent {type : Nat} {x : Group16} {fr : List Byte} (ht : x.talks = true) (hl : fr.length = 48) (h0 : flitNat fr 0 1 = type)
    (h1 : flitNat fr 1 1 = 1) : accepted (linkSent x fr) 16 type (sent_ x fr) x { x with authFails := 0 } := by
  have hd : (sent_ x fr).drop 48 = tagBytes 24 true x.rxEpoch.toNat ((sent_ x fr).take 48) := by simp [sent_, ← hl]
  have hp : (linkSent x fr).port 16 = x := rfl
  have h64 : (sent_ x fr).length = 64 := by simp [sent_, hl, tagBytes_length]
  have h24 : (linkSent x fr).tagged 16 x.rxEpoch.toNat (sent_ x fr) = true := decide_eq_true ⟨rfl, hd⟩
  have ha : (linkSent x fr).authentic 16 (sent_ x fr) = true := by
    unfold State.authentic
    rw [hp]
    show (decide ((sent_ x fr).length = 64) && ((linkSent x fr).tagged 16 x.rxEpoch.toNat (sent_ x fr) || _)) = true
    rw [h24, h64]
    rfl
  exact ⟨hp, ht, ha, by rw [sent_, flitNat_append _ _ _ _ (by omega), h0], by rw [sent_, flitNat_append _ _ _ _ (by omega), h1], rfl⟩
/-- A torus link that is up. -/
def up0 : Group16 := { Group16.reset with pers := 1, state := 2, width := 16, speed := 1, swapMap := 31, rxSwap := 31 }
/-- A flit whose tag is not the one expected. -/
theorem witness_ControlFlits_tag : ∃ bs : List Byte, (linked up0).port 15 = up0 ∧ up0.talks = true ∧ (linked up0).authentic 15 bs = false := by
  have hx : ∀ bs : List Byte, bs.length = 64 → bs.drop 48 ≠ tagBytes 15 false 0 (bs.take 48) → (linked up0).authentic 15 bs = false := by
    intro bs _ hb
    have ht : (linked up0).tagged 15 0 bs = false := decide_eq_false hb
    have ha : (linked up0).authentic 15 bs = (decide (bs.length = 64) && ((linked up0).tagged 15 0 bs || false)) := rfl
    rw [ha, ht]
    simp
  by_cases h : tagBytes 15 false 0 (front 1 []) = List.replicate 16 0
  · exact ⟨front 1 [] ++ List.replicate 16 1, rfl, rfl, hx _ rfl (by
      show List.replicate 16 1 ≠ tagBytes 15 false 0 (front 1 [])
      rw [h]; decide)⟩
  · exact ⟨front 1 [] ++ List.replicate 16 0, rfl, rfl, hx _ rfl (by
      show List.replicate 16 0 ≠ tagBytes 15 false 0 (front 1 [])
      exact fun h' => h h'.symm)⟩
/-- A descriptor over a die link: of the same configuration, of another width, and of another personality. -/
theorem witness_ControlFlits_descriptor :
    let d (pers width : Byte) : List Byte := [0, 0, 0, pers, 2, 0, 1, width, 255, 255, 1, 31, 31]
    let ok (x : Group16) (body : List Byte) (p : Group16 → Bool) : Prop :=
      let bs := sent_ x (front 1 body)
      let s := linkSent x (front 1 body)
      let z : Group16 := { x with authFails := 0, peer := (bs.drop 16).take 32 }
      accepted s 16 1 bs x { x with authFails := 0 } ∧ x.state = 1 ∧ x.width ≠ 0 ∧ x.peer = [] ∧ s.neighbours 16 z.peer = true ∧ p z = true
    ok { up0 with state := 1 } (d 1 16) (fun z => z.agrees z.peer) ∧
    ok { up0 with state := 1, retry := 2 } (d 1 8) (fun z => !z.agrees z.peer) ∧
    ok { up0 with state := 1, retry := 3 } (d 1 8) (fun z => !z.agrees z.peer && good (z.common z.peer)) ∧
    ok { up0 with state := 1, retry := 3 } (d 2 16) (fun z => !z.agrees z.peer && !good (z.common z.peer)) := by
  refine ⟨⟨accepted_sent rfl rfl rfl rfl, rfl, by decide, rfl, by decide, ?_⟩, ⟨accepted_sent rfl rfl rfl rfl, rfl, by decide, rfl, by decide, ?_⟩,
    ⟨accepted_sent rfl rfl rfl rfl, rfl, by decide, rfl, by decide, ?_⟩, ⟨accepted_sent rfl rfl rfl rfl, rfl, by decide, rfl, by decide, ?_⟩⟩ <;> rfl
/-- A request to swap the lane that is swapped, another one, and the first one; lane 15 is the last. -/
theorem witness_ControlFlits_swap :
    let ok (m : BitVec 5) : Prop := let x := { up0 with swapMap := m }
      accepted (linked x) 15 2 (sealed_ 15 x (front 2 [15])) x { x with authFails := 0 } ∧ x.up = true ∧ x.swapAt = none ∧ flitNat (sealed_ 15 x (front 2 [15])) 16 1 = 15
    ok 15 ∧ ok 3 ∧ ok 31 :=
  ⟨⟨accepted_sealed (by decide) rfl rfl rfl rfl rfl, rfl, rfl, rfl⟩, ⟨accepted_sealed (by decide) rfl rfl rfl rfl rfl, rfl, rfl, rfl⟩,
    ⟨accepted_sealed (by decide) rfl rfl rfl rfl rfl, rfl, rfl, rfl⟩⟩
/-- KEYACK of the current epoch, with flit N still to be acknowledged, and of another. -/
theorem witness_ControlFlits_keyack :
    let ok (x : Group16) : Prop := accepted (linked x) 15 5 (sealed_ 15 x (front 5 [])) x { x with authFails := 0 }
    (ok { up0 with keyAt := some 9 } ∧ flitNat (sealed_ 15 { up0 with keyAt := some 9 } (front 5 [])) 16 4 = 0 ∧ up0.epoch = 0 ∧ up0.txAcked < 9) ∧
    (ok { up0 with epoch := 1 } ∧ flitNat (sealed_ 15 { up0 with epoch := 1 } (front 5 [])) 16 4 = 0) :=
  ⟨⟨accepted_sealed (by decide) rfl rfl rfl rfl rfl, rfl, rfl, by decide⟩, ⟨accepted_sealed (by decide) rfl rfl rfl rfl rfl, rfl⟩⟩
theorem witness_ControlFlits_others :
    let ok (type : Byte) : Prop := accepted (linked up0) (portOf 15) type.toNat (sealed_ (portOf 15) up0 (front type [])) up0 { up0 with authFails := 0 }
    ok 3 ∧ ok 4 ∧ (ok 6 ∧ up0.changing = false) ∧ ok 7 :=
  ⟨accepted_sealed (by decide) rfl rfl rfl rfl rfl, accepted_sealed (by decide) rfl rfl rfl rfl rfl,
    ⟨accepted_sealed (by decide) rfl rfl rfl rfl rfl, rfl⟩, accepted_sealed (by decide) rfl rfl rfl rfl rfl⟩
/-- The time of a neighbour of node 0, which is the master whatever other packages there are. -/
theorem witness_ControlFlits_time :
    let x : Group16 := { up0 with peer := List.replicate 32 0 }
    let s : State := { linked x with module := { State.reset.module with node := 1 } }
    let u := s.setPort (portOf 15) { x with authFails := 0 }
    accepted s (portOf 15) 8 (sealed_ (portOf 15) x (front 8 [])) x { x with authFails := 0 } ∧ u.isMaster = false ∧ flitNat x.peer 0 2 / 4 = u.masterNode := by
  intro x s u
  have hg : u.groups.toList.filter Group16.torus = List.replicate 16 x := by decide +kernel
  have hx : x.peerNode = 0 := by decide
  have hm : u.masterNode = 0 := by
    unfold State.masterNode
    rw [hg]
    simp [List.replicate, hx]
  refine ⟨accepted_sealed (by decide) rfl rfl rfl rfl rfl, ?_, ?_⟩
  · unfold State.isMaster
    have hu : u.module.node = 1 := by decide +kernel
    rw [hm, hu]
    rfl
  · rw [hm]
    decide
/-- A swap and a key that flits 9 and 8 bring about, at the sender and at the receiver. -/
theorem witness_ControlFlits_flow :
    let x : Group16 := { up0 with swapAt := some (15, 9), keyAt := some 9, rxSwapAt := some (15, 9), rxKeyAt := some 9 }
    ((x.sends 9 0 10).swapMap = 15 ∧ (x.sends 8 0 10).swapMap = 31 ∧ (x.sends 9 9 10).keyAt = none ∧ (x.sends 9 8 10).keyAt = some 9) ∧
    ((x.receives 15 9).rxSwap = 15 ∧ (x.receives 15 8).rxSwap = 31 ∧ (x.receives 15 9).rxEpoch = 0 ∧ (x.receives 15 10).rxEpoch = 1) :=
  ⟨⟨rfl, rfl, rfl, rfl⟩, ⟨rfl, rfl, rfl, rfl⟩⟩
theorem witness_FabricEvents :
    (let x : Group16 := { Group16.reset with persReq := 1 }
     let s : State := { linked x with module := { bare.module with dz := 2 } }
     s.brim && !s.module.groupOff 15 && !x.changing && decide (x.persReq ≠ x.pers) && x.admits x.persReq && !x.talks && decide (x = s.groups.get (15 : BitVec 4).toFin)) = true ∧
    ([0, 1] : List (BitVec 4)).all (fun p => let x : Group16 := { up0 with changing := true, state := 4, dropAt := 5, persNew := p }
      let s : State := { linked x with ftime := 5 }
      x.changing && decide (x.state = 4 ∧ x.dropAt ≤ s.ftime) && s.remotes.all (fun r => r.way.bind Way.group ≠ some 15) && s.chunks.all (fun r => r.way.group ≠ some 15)) = true ∧
    (up0.talks && up0.up && up0.keyAt.isNone && decide (up0.rxSwap = 31) && up0.swapAsked.isNone && (let y : Group16 := { up0 with pers := 2 }
      !y.talks && y.up && y.keyAt.isNone)) = true ∧
    ([1, 2] : List (BitVec 4)).all (fun p => let x : Group16 := { Group16.reset with pers := p, state := 1 }
      decide ((linked x).port 23 = x) && decide (x.state = 1 ∧ x.width = 0 ∧ x.peer = []) && ([1, 16] : List Nat).all (fun w => ([1, 2, 4, 8, 16] : List Nat).contains w)) = true ∧
    (let x : Group16 := { Group16.reset with pers := 1, state := 3, swapMap := 31, rxSwap := 31, peer := [0, 0, 0, 1, 2, 0, 1, 16, 255, 255, 1, 31, 31] }
     let z : Group16 := { x with width := 16, speed := 1 }
     let z' := z.send 23 1 x.txSeq.toNat ((linked x).descriptor 23 z)
     decide ((linked x).port 23 = x ∧ x.width = 0 ∧ x.peer ≠ []) && (linked x).neighbours 23 x.peer && z'.agrees x.peer) = true ∧
    (decide ((linked up0).port 23 = up0 ∧ up0.state ≠ 0 ∧ up0.state ≠ 6) && ([1, 6] : List (BitVec 8)).all (fun r => decide (1 ≤ r.toNat ∧ r.toNat ≤ 6)) &&
      decide (100000 < 2 * 100000)) = true ∧
    (let k : Group := ⟨0x2000, 0, 0, [0, 64], [], false, true, false, 0, Vector.replicate 4 0, [], [], []⟩
     let cutOff (s : State) : State := onPart (fun p => { p with clmask := 0x10001 }) { s with jobs := [k], dieLinks := Vector.replicate 16 { Group16.reset with state := 6 } }
     let running (s : State) (c : CoreId) : Bool := (s.core c).lands && (s.job c).any (fun j => j.handle = k.handle)
     (let s := cutOff (lab .c [] id)
      s.isSplit k && k.cores.any (running s) && decide (s.jobs.find? (fun y => y.handle = k.handle) = some k)) &&
     (let s := cutOff (slotState .stopped (lab .c [] id))
      s.isSplit k && !k.cores.any (running s) && decide (s.jobs.find? (fun y => y.handle = k.handle) = some k))) = true := by decide +kernel

/-! ### Witnesses: Cuff -/

/-- A partition's word CKPAIR in a status. -/
def pairWord (status : Nat) : Word := BitVec.ofNat 64 (status * 2 ^ 60 + 0x10000)
/-- A partition with a keep window of one page at 0x1_1000, slots from 0x1_2000 on, MANVA 0x1_8000 and DUMPVA 0x2_0000. -/
def kept (status : Nat) (p : Partition) : Partition :=
  { p with ckpair := pairWord status, ckBlock := [0, 0x11000, 4096, 0x12000, 0, 0x18000, 0x20000], ckgen := 2, ckFirst := 1, sealedGens := [1], ckMap := [(0x311, 0)] }
/-- A module of which a partition is kept, with its page, and CXL memory at 0x2_0000 in a window of edge group 2. -/
def cuffed (status : Nat) (f : Partition → Partition) : State := owned (onPart (fun p => f (kept status p)) (enabled (lab .c [] id)))
/-- Its pages from the second on lead to CXL memory, in a window of 16 GiB of group 0. -/
def dumpable (f : Partition → Partition) : State :=
  let s := cuffed 2 (fun p => f { p with emap := p.emap.set 0 (2 ^ 63 + 16 * 2 ^ 32 + 1) })
  { s with mem := memWrite s.mem 0x202010 (leBytes 8 0x20000000001F ++ leBytes 8 0x20000001001F ++ leBytes 8 0x20000002001F) }

theorem witness_CuffEvents_pairing :
    parts (cuffed 1 id) (fun p => p.ckStatus = 1 && !p.ckpair.getLsbD 56 && decide (p.ck 2 = 4096)) = true := by decide +kernel
theorem witness_CuffEvents_keeper :
    (let s := cuffed 2 id
     parts s (fun p => p.paired && !p.down && (match regionOf 0x311008 with
       | .dram _ _ => true
       | _ => false) && s.owners.contains (0x311008 / 65536, 0) && decide (0x311008 % 64 + 56 ≤ 64 ∧ 0x310008 % 64 + 56 ≤ 64) &&
       decide (p.ckMap.find? (fun x => decide (x.1 = 0x310008 / 4096)) = none ∧ p.ckMap.find? (fun x => decide (x.1 = 0x311008 / 4096)) = some (0x311008 / 4096, 0)))) = true := by decide +kernel
theorem witness_CuffEvents_seal :
    ([3, 1, 0] : List Nat).all (fun _ => parts (cuffed 2 (fun p => { p with ckBusy := some (1, 1, 0) })) (fun p => decide (p.ckBusy = some (1, 1, 0)) &&
      !(cuffed 2 (fun p => { p with ckBusy := some (1, 1, 0) })).storesOut 0 (p.ck 0 % 2 ^ 14) 0)) = true := by
  decide +kernel
theorem witness_CuffEvents_ckseal :
    let req (op n : Nat) (s : State) : State := { s with ckReqs := [(0, BitVec.ofNat 64 (op * 2 ^ 60 + n))] }
    let at_ (op n : Nat) (s : State) (p : Partition → Bool) : Bool := (req op n s).ckReqs[0]?.any (fun x => x.1 = 0 && decide (pteBits x.2 61 60 = op ∧ pteBits x.2 47 0 = n)) &&
      parts (req op n s) (fun q => decide (pteBits q.ckseal 63 62 ≠ 1) && p q)
    at_ 1 2 (cuffed 0 id) (fun p => !p.paired) = true ∧ at_ 1 1 (cuffed 2 id) (fun p => p.paired && decide (p.ckgen.toNat ≠ 1)) = true ∧
    at_ 1 2 (cuffed 2 id) (fun p => p.paired && decide (p.ckgen.toNat = 2)) = true ∧ at_ 2 1 (cuffed 0 id) (fun p => !p.paired) = true ∧
    at_ 2 1 (cuffed 2 id) (fun p => p.paired && decide (0 < 1 ∧ p.ckFirst ≤ 1 ∧ 1 < p.ckgen.toNat ∧ p.ckgen.toNat ≤ 1 + 2) && p.sealedGens.contains 1) = true ∧
    at_ 2 0 (cuffed 2 id) (fun p => p.paired) = true ∧
    at_ 2 1 (cuffed 2 (fun p => { p with sealedGens := [] })) (fun p => p.paired && decide (p.ckFirst ≤ 1 ∧ 1 < p.ckgen.toNat) && !p.sealedGens.contains 1) = true ∧
    at_ 3 0 (cuffed 2 id) (fun p => let u := { req 3 0 (cuffed 2 id) with ckReqs := [] }
      !u.dumpOk 0 p (u.unitsOf 0).length) = true ∧
    at_ 3 0 (dumpable id) (fun p => let u := { req 3 0 (dumpable id) with ckReqs := [] }
      u.dumpOk 0 p (u.unitsOf 0).length) = true := by decide +kernel
/-- The header of a slot of generation 1 with its manifest over these records. -/
def slotHeader (records : List (List Byte)) : List Byte :=
  let h := leBytes 8 1 ++ leBytes 8 1 ++ leBytes 8 0 ++ leBytes 8 1
  h ++ manifestOf h records
theorem witness_CuffEvents_restore :
    let s := cuffed 2 (fun p => { p with ckBusy := some (2, 1, 0) })
    (let records : List (List Byte) := [leBytes 8 0x11000 ++ List.replicate 56 0]
     parts s (fun p => decide (p.ckBusy = some (2, 1, 0) ∧ p.ckPages = 1) && (restorePage (s.keyNo p 1) 1 (records.getD 0 []) []).isSome &&
       s.manifestOk 0 p 1 (slotHeader records) records)) = true ∧
    parts s (fun p => (restorePage (s.keyNo p 1) 1 (leBytes 8 0x11000 ++ [1] ++ List.replicate 55 0) []).isNone) = true := by decide +kernel
theorem witness_CuffEvents_dump :
    (let s := dumpable (fun p => { p with ckBusy := some (3, 0, 7) })
     parts s (fun p => decide (p.ckBusy = some (3, 0, 7)) && s.dumpOk 0 p (s.unitsOf 0).length)) = true := by decide +kernel

/-! ### Witnesses: the whole machine -/

/-- The instruction retires on the stream that executes: its next state has counted it. -/
def retires (s : State) (i : Instr) : Bool := match exec i s with
  | .next t => s.own.any (fun j => t.own.any (fun k => Nat.beq k.seq (j.seq + 1)))
  | _ => false
theorem retires_meets {s : State} {i : Instr} (h : retires s i = true) :
    ∃ t j k, exec i s = .next t ∧ s.own = some j ∧ t.own = some k ∧ k.seq = j.seq + 1 := by
  unfold retires at h
  split at h
  · rename_i t ht
    obtain ⟨j, hj, h⟩ := (Option.any_eq_true _ _).mp h
    obtain ⟨k, hk, h⟩ := (Option.any_eq_true _ _).mp h
    exact ⟨t, j, k, ht, hj, hk, Nat.eq_of_beq_eq_true h⟩
  · cases h

/-- The state with ADD s2, s1!, s1 placed where a stream fetches. -/
theorem witness_StepRunsDecoded :
    (let s := State.reset.withFetchWord 64 0x000000C100200004
     match s.pick with
     | (some (.issue c st), u) => (u.atStream c st).own.any (fun j => j.mayIssue st &&
         (let v := u.atStream c st
          let pc := (j.stream st).pc
          match v.fetchWord (v.who c j) pc with
          | .ok first => decide (wordsOf first.toNat = some 1) && (match v.fetchWords (v.who c j) pc 1 with
            | .ok bits => decide (decode bits = .ok (.add h0 ⟨0, 1, 0x41, 0, 2⟩))
            | .error _ => false)
          | .error _ => false))
     | _ => false) = true ∧
    (let s : State := { State.reset with agenda := [.event (.vfEnable true)] }
     ∃ u, s.pick = (some (.event (.vfEnable true)), u) ∧ (Instr.vfEnable true).enc = none) := by
  exact ⟨by decide +kernel, _, rfl, rfl⟩
/-- An event that is due at the supervisor's C stream; a word that begins no instruction, and words that decode to none. -/
theorem witness_StepRunsDecoded_others :
    (let s := { onPart (fun p => { p with evmask := 0x1FF, timerFlag := true }) (lab .c [] id) with agenda := [.issue 0 .c] }
     match s.pick with
     | (some (.issue c st), u) => (u.atStream c st).own.any (fun j => j.mayIssue st && (u.atStream c st).mustEnter j.part c)
     | _ => false) = true ∧
    (let at_ (w : Nat) (p : Nat → Bool) : Bool := let s := State.reset.withFetchWord 256 w
       match s.pick with
       | (some (.issue c st), u) => (u.atStream c st).own.any (fun j => j.mayIssue st && !(u.atStream c st).mustEnter j.part c &&
         (match (u.atStream c st).fetchWord ((u.atStream c st).who c j) (j.stream st).pc with
         | .ok first => p first.toNat
         | .error _ => false))
       | _ => false
     at_ 0x00000000000FFFFF (fun w => (wordsOf w).isNone) = true ∧
     at_ 0x0000000800803008 (fun w => wordsOf w = some 1 && !good (decode w)) = true) := by decide +kernel
theorem witness_EncodeDecode : (Instr.add h0 ⟨0, 1, 0x41, 0, 2⟩).wf = true ∧ (encode (.add h0 ⟨0, 1, 0x41, 0, 2⟩)).isSome = true ∧
    (Instr.add h0 ⟨0, 1, 0x41, 0, 2⟩).enc.isSome = true ∧ (encodeBytes (.add h0 ⟨0, 1, 0x41, 0, 2⟩)).isSome = true := by decide +kernel
theorem step_vfEnable (s : State) : ∃ t, step { s with agenda := [.event (.vfEnable true)] } = .next t := ⟨_, rfl⟩
/-- With nothing listed, and with a program in memory. -/
theorem witness_StepMemCanonical :
    (let s : State := { State.reset with agenda := [.event (.vfEnable true)] }
     s.MemOk ∧ ∃ t, step s = .next t) ∧
    (let s : State := { State.reset.withFetchWord 64 0x000000C100200004 with agenda := [.event (.vfEnable true)] }
     s.MemOk ∧ ∃ t, step s = .next t) :=
  ⟨⟨State.reset_memOk, step_vfEnable _⟩, ⟨by unfold State.MemOk; decide +kernel, step_vfEnable _⟩⟩
theorem witness_ScalarFrame : registerOnly (.sub h0 ⟨0, 2, 1, 0, 3⟩) = some (h0, [1, 2, 3]) ∧
    retires (lab .c [(1, [5]), (2, [7])] id) (.sub h0 ⟨0, 2, 1, 0, 3⟩) = true := ⟨rfl, by decide +kernel⟩
theorem witness_IssueFrame : (leaves (.st h0 ⟨0, 0, 2, 1, 0x14, 5⟩)).isSome = true ∧
    (let s := lab .s [(5, [7]), (1, [0x40400000]), (2, [1])] id
     retires s (.st h0 ⟨0, 0, 2, 1, 0x14, 5⟩) && owns s (fun j => !j.replay.replaying)) = true ∧
    (let s := lab .a [(1, [2 ^ 50])] id
     retires s (.rld h0 ⟨0, 0, 31, 1, 0x13, 3⟩) && owns s (fun j => !j.replay.replaying) && (leaves (.rld h0 ⟨0, 0, 31, 1, 0x13, 3⟩)).isSome) = true ∧
    (let s := lab .s [(1, [0x10040]), (2, [1])] (fun j => { j with replay := { j.replay with recording := true } })
     retires s (.await h0 ⟨3, 0, 2, 1, 0x13, 31⟩) && owns s (fun j => !j.replay.replaying) && (leaves (.await h0 ⟨3, 0, 2, 1, 0x13, 31⟩)).isSome) = true :=
  ⟨rfl, by decide +kernel, by decide +kernel, by decide +kernel⟩
theorem witness_TileFrame : (tileOnly (.vrotr h0 ⟨2, 0, false, 0, 0, 0, 3, 0, 0, 5⟩)).isSome = true ∧
    retires (lab .v [(2, [17])] (tilesIn [3])) (.vrotr h0 ⟨2, 0, false, 0, 0, 0, 3, 0, 0, 5⟩) = true := ⟨rfl, by decide +kernel⟩
/-- A key below the pools is outside every store of these instructions; the bytes next to an element and to a message are. -/
theorem outside_zero (place : CoreId × Nat) (n : Nat) : outside 0 place n := Or.inl (by unfold poolKey; omega)
theorem witness_StoreFrame :
    (let s := lab .c [(1, [0]), (2, [7])] id
     retires s (.mwr h0 ⟨0, 2, 1, 0, 0⟩) && enters s (.mwr h0 ⟨0, 2, 1, 0, 0⟩) [1, 2] (fun _ vs s1 => vs = [0, 7] && owns s1 (fun j =>
       decide (poolKey 0 ((s1.who 0 j).elemOff 0 0) + 4 ≤ poolKey 0 ((s1.who 0 j).elemOff 0 0 + 4))))) = true ∧
    (let s := onPart (fun p => { p with mailboxes := p.mailboxes.set 15 [List.replicate 64 7] }) (lab .c [(1, [15]), (2, [0x4000FFC0])] id)
     retires s (.mbox h0 ⟨0, 2, 1, 0, 3⟩) && enters s (.mbox h0 ⟨0, 2, 1, 0, 3⟩) [1, 2] (fun _ vs _ => vs = [15, 0x4000FFC0])) = true ∧
    (let f : FVB := ⟨2, 0, false, 0, 0, 0, 3, 0, 1, 0⟩
     let s := lab .v [(2, [0x4000F800])] (tilesIn [3])
     retires s (.vst h0 f) && enters s (.vst h0 f) [2] (fun _ _ _ => true)) = true ∧
    (let f : FVN := ⟨0, 0, 0, 0, 0, 0, 1, ⟨2, 0, false, 0, 0, 0, 0, 0, 0x11, 0⟩⟩
     retires (lab .v [(2, [0x40000000, 0x40000400, 0x4000FFFF])] id) (.vaddNest h0 f) && retires (lab .v [(2, [0x40000000, 0x40000400])] id) (.vredrNest h0 f)) =
      true := by decide +kernel

/-! ### Values that the spec works out -/

/-- R68: DIV of −7 by 2 gives −3 and REM −1. -/
theorem test_div_rem : divVal false (-7) 2 = -3 ∧ remVal false (-7) 2 = -1 := by decide +kernel
/-- R106, R107: base 0x1_0000, coef[0] = 256, coef[1] = 16,384, `GEN s1, g2 ~1` at iteration 0:0:0:3:5 of a level-0 loop pushes 0x1_C400. -/
theorem test_gen :
    (let s := lab .a [] (fun j => j.onStream .a (fun t => { loopAt 0 9 2 t with
       coord := 0x00030005
       gens := t.gens.set (2 : Fin 8) ⟨0x10000, #v[256, 16384, 0, 0, 0]⟩ }))
     match exec (.gen ⟨1, false, false, false, false⟩ ⟨0, 0, 0, 2, 1⟩) s with
     | .next t => runsOn t (fun x => ((x.regs.get 1).items.map QEntry.val).getLast? = some (some 0x1C400))
     | _ => false) = true := by decide +kernel
/-- R169: 3.0 is 0x0D in LNS8 and 0x0196 in LNS16, and 0.5 is 0x78 in LNS8. -/
theorem test_lns : (convert 0x09 0x01 false false .rne 0 0x4200).1 = 0x0D ∧ (convert 0x0A 0x01 false false .rne 0 0x4200).1 = 0x0196 ∧
    (convert 0x09 0x01 false false .rne 0 0x3800).1 = 0x78 := by decide +kernel
/-- R190: VMIN and VMINP of f32 0x7FC0_0001 and −0.0, and VMIN of a signalling NaN. -/
theorem test_vmin : (elemOp .min 0 0 .rne 0 0x7FC00001 0x80000000 0).1 = 0x80000000 ∧ (elemOp .minp 0 0 .rne 0 0x7FC00001 0x80000000 0).1 = 0x7FC00000 ∧
    (elemOp .min 0 0 .rne 0 0x7F800001 0x3F800000 0).1 = 0x7FC00000 ∧ (elemOp .min 0 0 .rne 0 0x7F800001 0x3F800000 0).2.nv = true := by decide +kernel
/-- R194: FP32 0x3F80_C000 converts to BF16 0x3F81. -/
theorem test_vcvt : (elemOp (.cvt 0) 2 0 .rne 0 0x3F80C000 0 0).1 = 0x3F81 := by decide +kernel
/-- R6: words lie little-endian. -/
theorem test_bytes : leBytes 4 0x11223344 = [0x44, 0x33, 0x22, 0x11] ∧ leNat [0x44, 0x33, 0x22, 0x11] = 0x11223344 := by decide +kernel
/-- R65: a word of code that the job's fetch keeps is fetched in its old form; the walker's entries serve their own die and partition. -/
theorem test_old_code :
    (let s : State := { State.reset.withFetchWord 64 0x000000C100200004 with code := [⟨0, 0x2000, 0x310040, 0x50010010C⟩] }
     match s.own with
     | some j => (match s.fetchWord (s.who 0 j) 0x10040 with
       | .ok w => decide (w = 0x50010010C)
       | .error _ => false) && (match s.fetchWord (s.who 0 j) 0x10048 with
       | .ok w => decide (w = 0)
       | .error _ => false)
     | none => false) = true ∧
    WalkEntry.covers ⟨0, 1, 0x200000, 0, 0x5000⟩ 0x3FFFFF = true ∧ WalkEntry.covers ⟨0, 1, 0x200000, 0, 0x5000⟩ 0x400000 = false := by
  decide +kernel

end Sys2Proof.Tests
end

section
/-!
PROOF. O37: the vector operations on scratchpad segments and the V-forms. Their reads and writes keep what an instruction samples at issue
(`SameIssue`), so the flags and the draws at the end use the coordinate and the restored registers of its start.
-/
open Sys2Proof Sys2Proof.Machine Sys2Proof.Claims

namespace Sys2Proof.Proofs

/-! ### What a vector instruction finds again when it ends (R171, R175, R176) -/

/-- The job k has the header and the restored registers of j, and the same coordinate in a stream. -/
def SameIn (st : StreamId) (j k : Job) : Prop := k.hdr = j.hdr ∧ k.rnow = j.rnow ∧ (k.stream st).coord = (j.stream st).coord
/-- The state t executes the stream that s executes, and its job is the same in what an instruction samples at issue. -/
def SameIssue (s t : State) : Prop := t.cur = s.cur ∧ ∀ j, s.own = some j → ∃ k, t.own = some k ∧ SameIn s.cur.2 j k

theorem SameIssue.refl (s : State) : SameIssue s s := ⟨rfl, fun j hj => ⟨j, hj, rfl, rfl, rfl⟩⟩
theorem SameIssue.trans (s t u : State) (h : SameIssue s t) (k : SameIssue t u) : SameIssue s u := by
  refine ⟨k.1.trans h.1, fun j hj => ?_⟩
  obtain ⟨j', hj', a, b, c⟩ := h.2 j hj
  obtain ⟨l, hl, a', b', c'⟩ := k.2 j' hj'
  rw [h.1] at c'
  exact ⟨l, hl, a'.trans a, b'.trans b, c'.trans c⟩
/-- A new job that is the same in what is sampled. -/
theorem SameIssue.setJob {s : State} {j k : Job} (hj : s.own = some j) (h : SameIn s.cur.2 j k) : SameIssue s (s.setJob s.cur.1 k) := by
  refine ⟨rfl, fun i hi => ?_⟩
  cases hj.symm.trans hi
  exact ⟨k, s.job_setJob _ k, h⟩
/-- A change of the executing stream that keeps its coordinate. -/
theorem SameIssue.onLane {s : State} {f : Stream → Stream} (h : ∀ t, (f t).coord = t.coord) : SameIssue s (s.onLane f) :=
  ⟨s.onLane_cur f, fun j hj => ⟨j.onStream s.cur.2 f, by simp [hj], rfl, rfl, by simp [h]⟩⟩
/-- The job that is still there, with its coordinate in the stream that executes. -/
theorem SameIssue.job {s t : State} {j : Job} (h : SameIssue s t) (hj : s.own = some j) :
    ∃ k, t.own = some k ∧ SameIn s.cur.2 j k ∧ (k.stream t.cur.2).coord = (j.stream s.cur.2).coord := by
  obtain ⟨k, hk, hs⟩ := h.2 j hj
  exact ⟨k, hk, hs, h.1 ▸ hs.2.2⟩
theorem SameIssue.hasTiles {s t : State} {j : Job} (h : SameIssue s t) (hj : s.own = some j) : t.hasTiles = s.hasTiles := by
  obtain ⟨k, hk, hh, -, -⟩ := h.2 j hj
  simp [State.hasTiles, hj, hk, hh]

/-- Bytes that are written, with poison or without, are no part of a job. -/
theorem SameIssue.poked {s t : State} (h : SameIssue s t) (key : Nat) (bs : List Byte) (bad : Bool) :
    SameIssue s (if bad then (t.pokeClear key bs).poisonRun key bs.length else t.pokeClear key bs) := by
  split <;> exact h

/-! ### Scalar sources -/

theorem scalar_sameIssue {s t : State} {x : Spec} {v : Word} (h : s.scalar x = some (v, t)) : SameIssue s t := by
  unfold State.scalar at h
  split at h
  · cases h
    exact SameIssue.refl s
  · split at h
    · cases h
    · dsimp only at h
      split at h
      · cases h
      · split at h
        · cases h
        · simp only [Option.map_eq_some_iff] at h
          obtain ⟨w, -, -, rfl⟩ := h
          have hr (id seq : Nat) : SameIssue s (s.onLane (Stream.reads id seq)) := SameIssue.onLane (Stream.reads_coord id seq)
          split
          · exact hr _ _
          · exact SameIssue.trans _ _ _ (hr _ _) (SameIssue.onLane fun _ => rfl)
/-- Scalar sources that can be read: the first one, then the others. -/
theorem scalars_cons_inv {s t : State} {x : Spec} {l : List Spec} {vs : List Word} (h : s.scalars (x :: l) = some (vs, t)) :
    ∃ v ws u, vs = v :: ws ∧ s.scalar x = some (v, u) ∧ u.scalars l = some (ws, t) := by
  simp only [State.scalars] at h
  split at h
  · cases h
  · rename_i v u hu
    simp only [Option.map_eq_some_iff] at h
    obtain ⟨⟨ws, w⟩, hl, e⟩ := h
    cases e
    exact ⟨v, ws, u, rfl, hu, hl⟩
theorem scalars_sameIssue {l : List Spec} {s t : State} {vs : List Word} (h : s.scalars l = some (vs, t)) : SameIssue s t := by
  induction l generalizing s vs with
  | nil => cases h; exact SameIssue.refl _
  | cons x l ih =>
    obtain ⟨v, ws, u, rfl, hu, hl⟩ := scalars_cons_inv h
    exact SameIssue.trans _ _ _ (scalar_sameIssue hu) (ih hl)
/-- Pops of one specifier that can be read in order. -/
theorem popMany_runs {x : Spec} {n : Nat} {s t : State} {vs : List Word} (h : s.scalars (List.replicate n x) = some (vs, t)) :
    Runs (popMany x n) s vs t := by
  induction n generalizing s vs with
  | zero => cases h; exact runs_pure _ _
  | succ n ih =>
    obtain ⟨v, ws, u, rfl, hu, hl⟩ := scalars_cons_inv h
    exact runs_bind (pop_runs hu) (runs_bind (ih hl) (runs_pure _ _))

/-! ### Reads and writes of an iteration -/

section
variable {α : Type} {R : State → State → Prop} (hr : ∀ s, R s s) (ht : ∀ s t u, R s t → R t u → R s u)
include hr ht

theorem stays_checkEntry (c : Coord) (e : QEntry α) (s : State) : Stays R (checkEntry c e) s := by
  refine stays_bind ht (stays_trapIf hr _ _ _ s) fun _ t _ => ?_
  split
  · exact stays_pure hr _ _
  · exact stays_trap hr _ _ _
  · exact stays_throw hr _ _
theorem stays_emptyTile (n : Nat) (w : Bool) (l : List StreamId) (s : State) : Stays R (emptyTile n w l : M α) s :=
  stays_bind ht (stays_getJob hr s) fun _ t _ => stays_ite (fun _ => stays_stall hr _ t) (fun _ => stays_trap hr _ _ t)
/-- A relation that every pass of a loop over a list keeps is kept by the loop. -/
theorem stays_forM {f : α → M Unit} (h : ∀ a s, Stays R (f a) s) (l : List α) (s : State) : Stays R (l.forM f) s := by
  induction l generalizing s with
  | nil => exact stays_pure hr _ s
  | cons a l ih => exact stays_bind ht (h a s) fun _ t _ => ih t

end

theorem checkEntry_keeps {α : Type} {c : Coord} {e : QEntry α} {s t : State} {x : Unit} (h : Runs (checkEntry c e) s x t) : t = s :=
  (stays_of_runs (R := Eq) h (stays_checkEntry (fun _ => rfl) (fun _ _ _ => Eq.trans) c e s)).symm

theorem takeTile_stays (n : Nat) (pk w : Bool) (l : List StreamId) (c : Coord) (id : Nat) (s : State) :
    Stays SameIssue (takeTile n pk w l c id) s := by
  refine stays_bind SameIssue.trans (stays_getJob SameIssue.refl s) fun j t hj => ?_
  obtain ⟨hj, rfl⟩ := runs_getJob_inv hj
  dsimp only
  split
  · exact stays_emptyTile SameIssue.refl SameIssue.trans _ _ _ _
  · split
    · exact stays_stall SameIssue.refl _ _
    · refine stays_bind SameIssue.trans (stays_checkEntry SameIssue.refl SameIssue.trans _ _ _) fun _ u hu => ?_
      cases checkEntry_keeps hu
      refine stays_ite (fun _ => stays_pure SameIssue.refl _ _) fun _ => stays_ite (fun _ => ?_) fun _ => ?_
      · exact stays_ite (fun _ => stays_trap SameIssue.refl _ _ _) (fun _ => stays_stall SameIssue.refl _ _)
      · exact stays_bind SameIssue.trans (stays_setJob (SameIssue.setJob hj ⟨rfl, rfl, rfl⟩)) fun _ _ _ => stays_pure SameIssue.refl _ _
theorem popTile_stays (f : BitVec 5) (s : State) : Stays SameIssue (popTile f) s :=
  stays_bind SameIssue.trans (stays_getJob SameIssue.refl s) fun _ t _ =>
    stays_bind SameIssue.trans (stays_getStream SameIssue.refl SameIssue.trans t) fun _ u _ =>
      stays_bind SameIssue.trans (stays_trapIf SameIssue.refl _ _ _ u) fun _ _ _ => takeTile_stays _ _ _ _ _ _ _
theorem read_stays (bases : List Word) (i : Nat) (b : Bool) (o : VOpd) (s : State) : Stays SameIssue (o.read bases i b) s := by
  cases o with
  | unused => exact stays_pure SameIssue.refl _ s
  | queue f => exact stays_bind SameIssue.trans (popTile_stays f s) fun _ _ _ => stays_pure SameIssue.refl _ _
  | seg k step ty =>
    refine stays_bind SameIssue.trans (stays_readSeg SameIssue.refl SameIssue.trans _ _ s) fun x t _ => ?_
    obtain ⟨v, _ | pa⟩ := x
    · exact stays_pure SameIssue.refl _ _
    · exact stays_ite (fun _ => stays_throw SameIssue.refl _ _) (fun _ => stays_pure SameIssue.refl _ _)

theorem pushTileAt_stays (n : Nat) (e : QEntry Tile) (w : Bool) (s : State) : Stays SameIssue (pushTileAt n e w) s := by
  refine stays_bind SameIssue.trans (stays_getJob SameIssue.refl s) fun j t hj => ?_
  obtain ⟨hj, rfl⟩ := runs_getJob_inv hj
  refine stays_ite (fun _ => ?_) fun _ => stays_setJob (SameIssue.setJob hj ⟨rfl, rfl, rfl⟩)
  exact stays_ite (fun _ => stays_stall SameIssue.refl _ _) (fun _ => stays_trap SameIssue.refl _ _ _)
theorem pushTile_stays (h : Hdr) (d : BitVec 4) (v : Tile) (form : Bool) (s : State) : Stays SameIssue (pushTile h d v form) s :=
  stays_bind SameIssue.trans (stays_getJob SameIssue.refl s) fun _ t _ =>
    stays_bind SameIssue.trans (stays_getStream SameIssue.refl SameIssue.trans t) fun _ u _ =>
      stays_bind SameIssue.trans (stays_trapIf SameIssue.refl _ _ _ u) fun _ _ _ => pushTileAt_stays _ _ _ _
theorem pushMarkedTile_stays (h : Hdr) (d : BitVec 4) (v : Tile) (m : Mark) (form : Bool) (s : State) :
    Stays SameIssue (pushMarkedTile h d v m form) s := by
  refine stays_bind SameIssue.trans (pushTile_stays h d v form s) fun _ t _ => ?_
  split
  · exact stays_pure SameIssue.refl _ _
  · exact stays_modifyJob SameIssue.refl SameIssue.trans fun _ hj => SameIssue.setJob hj ⟨rfl, rfl, rfl⟩

/-- R129: a write to a pool changes the job in its logs, its veils and its counters alone. -/
theorem poolWrite_sameIssue {s t : State} {o : Origin} {k : CoreId} {p : Nat} {bs : List Byte} {bad : Bool}
    (h : s.poolWrite s.cur.1 o k p bs bad = .done t) : SameIssue s t := by
  unfold State.poolWrite at h
  cases hj : s.own with
  | none => simp [show s.job s.cur.1 = none from hj] at h
  | some j =>
    simp only [State.own_job hj] at h
    split at h
    · cases h
    split at h
    · cases h
    cases h
    exact (SameIssue.setJob hj (by split <;> exact ⟨rfl, rfl, rfl⟩)).poked _ _ _
theorem writePool_stays (h : Hdr) (k : CoreId) (p : Nat) (bs : List Byte) (bad : Bool) (s : State) : Stays SameIssue (writePool h k p bs bad) s := by
  refine stays_bind SameIssue.trans (stays_originOf SameIssue.refl SameIssue.trans h s) fun o t _ =>
    stays_bind SameIssue.trans (stays_get SameIssue.refl t) fun x u hx => ?_
  obtain ⟨rfl, rfl⟩ := runs_get_inv hx
  split
  · exact stays_set (poolWrite_sameIssue ‹_›)
  · exact stays_stall SameIssue.refl _ _
  · exact stays_ite (fun _ => stays_trap SameIssue.refl _ _ _) (fun _ => stays_stall SameIssue.refl _ _)
theorem writeRuns_stays (h : Hdr) (k : CoreId) (l : List (Nat × List Byte)) (s : State) : Stays SameIssue (writeRuns h k l) s := by
  induction l generalizing s with
  | nil => exact stays_pure SameIssue.refl _ s
  | cons x l ih => exact stays_bind SameIssue.trans (writePool_stays h k x.1 x.2 false s) fun _ t _ => ih t

theorem writeSeg_stays (h : Hdr) (a : Word) (ty : Nat) (v : Tile) (on : Nat → Bool) (s : State) : Stays SameIssue (writeSeg h a ty v on) s :=
  stays_bind SameIssue.trans (stays_scratchPlace SameIssue.refl SameIssue.trans _ _ _ s) fun _ t _ =>
    stays_forM SameIssue.refl SameIssue.trans (fun _ u => stays_bind SameIssue.trans (stays_get SameIssue.refl u) fun _ v _ =>
      writeRuns_stays _ _ _ v) _ t
theorem write_stays (h : Hdr) (bases : List Word) (i : Nat) (v : Tile) (m : Mark) (form : Bool) (on : Nat → Bool) (o : VOpd) (s : State) :
    Stays SameIssue (o.write h bases i v m form on) s := by
  cases o with
  | unused => exact stays_pure SameIssue.refl _ s
  | queue f => exact pushMarkedTile_stays _ _ _ _ _ s
  | seg k step ty => exact writeSeg_stays _ _ _ _ _ s
theorem readScales_stays (a : Word) (s : State) : Stays SameIssue (readScales a) s :=
  stays_bind SameIssue.trans (stays_scratchPlace SameIssue.refl SameIssue.trans _ _ _ s) fun _ t _ =>
    stays_bind SameIssue.trans (stays_readPool SameIssue.refl SameIssue.trans _ _ _ _ t) fun _ _ _ => stays_pure SameIssue.refl _ _
theorem writeScales_stays (h : Hdr) (a : Word) (l : List Nat) (s : State) : Stays SameIssue (writeScales h a l) s :=
  stays_bind SameIssue.trans (stays_scratchPlace SameIssue.refl SameIssue.trans _ _ _ s) fun _ t _ => writeRuns_stays _ _ _ t
theorem sources_stays (p : VPlan) (bases : List Word) (i : Nat) (s : State) : Stays SameIssue (p.sources bases i) s :=
  stays_bind SameIssue.trans (read_stays _ _ _ p.a s) fun _ t _ => stays_bind SameIssue.trans (read_stays _ _ _ p.b t) fun _ u _ =>
    stays_bind SameIssue.trans (read_stays _ _ _ p.c u) fun _ _ _ => stays_pure SameIssue.refl _ _
theorem put_stays (p : VPlan) (h : Hdr) (bases : List Word) (x : LaneCtx) (i : Nat) (v : VIn) (s : State) :
    Stays SameIssue (p.put h bases x i v) s := by
  have hw (r : Tile) (m : Mark) (on : Nat → Bool) (f : Fl) (u : State) :
      Stays SameIssue (do p.d.write h bases i r m p.vform on; return f) u :=
    stays_bind SameIssue.trans (write_stays _ _ _ _ _ _ _ _ u) fun _ _ _ => stays_pure SameIssue.refl f _
  unfold VPlan.put
  dsimp only
  split
  · exact hw _ _ _ _ s
  · exact hw _ _ _ _ s
  · exact stays_bind SameIssue.trans (writeScales_stays _ _ _ s) fun _ t _ => hw _ _ _ _ t
  · exact stays_bind SameIssue.trans (readScales_stays _ s) fun _ t _ => hw _ _ _ _ t
  · exact hw _ _ _ _ s
  · exact hw _ _ _ _ s

/-! ### Iterations (R204, R206) -/

section
variable {p : VPlan} {h : Hdr} {bases : List Word} {x : LaneCtx} {i n : Nat} {s t : State} {a b c : Tile × Option Nat} {fl fl' : Fl}

theorem reads_runs (e : reads p bases i s a b c t) : Runs (p.sources bases i) s ⟨a.1, a.2, b.1, c.1⟩ t := by
  obtain ⟨sa, sb, ha, hb, hc⟩ := e
  exact runs_bind ha (runs_bind hb (runs_bind hc (runs_pure _ t)))
theorem puts_runs (e : puts p h bases x i a b c s fl t) : Runs (p.put h bases x i ⟨a.1, a.2, b.1, c.1⟩) s fl t := by
  unfold puts at e
  unfold VPlan.put
  cases hs : p.step <;> simp only [hs] at e ⊢
  case qmx =>
    obtain ⟨hf, v, hw, hd⟩ := e
    rw [hf]
    exact runs_bind hw (runs_bind hd (runs_pure _ t))
  case dqmx =>
    obtain ⟨scales, v, hr, hf, hd⟩ := e
    rw [hf]
    exact runs_bind hr (runs_bind hd (runs_pure _ t))
  case elem | sel | load | store =>
    obtain ⟨hf, hd⟩ := e
    rw [hf]
    exact runs_bind hd (runs_pure _ t)
theorem reads_sameIssue (e : reads p bases i s a b c t) : SameIssue s t := stays_of_runs (reads_runs e) (sources_stays p bases i s)
theorem puts_sameIssue (e : puts p h bases x i a b c s fl t) : SameIssue s t := stays_of_runs (puts_runs e) (put_stays p h bases x i _ s)
theorem iteration_runs (e : iteration p h bases x i s fl t) : Runs (p.iter h bases x i) s fl t := by
  obtain ⟨a, b, c, u, hr, hp⟩ := e
  exact runs_bind (reads_runs hr) (puts_runs hp)
theorem iteration_sameIssue (e : iteration p h bases x i s fl t) : SameIssue s t := by
  obtain ⟨a, b, c, u, hr, hp⟩ := e
  exact SameIssue.trans _ _ _ (reads_sameIssue hr) (puts_sameIssue hp)
theorem iterations_runs (e : iterations p h bases x n i fl s fl' t) : Runs (p.loop h bases x n i fl) s fl' t := by
  induction n generalizing i fl s with
  | zero =>
    obtain ⟨rfl, rfl⟩ := e
    exact runs_pure _ _
  | succ n ih =>
    obtain ⟨f, u, he, hl⟩ := e
    refine runs_bind (runs_get s) ?_
    rw [show (p.iter h bases x i).run s = .ok f u from iteration_runs he]
    exact runs_bind (runs_set s u) (ih hl)
theorem iterations_sameIssue (e : iterations p h bases x n i fl s fl' t) : SameIssue s t := by
  induction n generalizing i fl s with
  | zero =>
    obtain ⟨-, rfl⟩ := e
    exact SameIssue.refl _
  | succ n ih =>
    obtain ⟨f, u, he, hl⟩ := e
    exact SameIssue.trans _ _ _ (iteration_sameIssue he) (ih hl)

end

/-! ### The checks at issue (R23, R204, R206) -/

theorem forM_runs {α : Type} {f : α → M Unit} {l : List α} {s : State} (h : ∀ a ∈ l, Runs (f a) s () s) : Runs (l.forM f) s () s := by
  induction l with
  | nil => exact runs_pure () s
  | cons a l ih =>
    simp only [List.mem_cons, forall_eq_or_imp] at h
    exact runs_bind h.1 (ih h.2)
theorem needs_runs {s : State} {j : Job} {o : VOpd} (hj : s.own = some j) (h : ∀ f, o = .queue f → s.hasTiles = true) :
    Runs o.needs s () s := by
  cases o with
  | unused => exact runs_pure () s
  | seg k step ty => exact runs_pure () s
  | queue f =>
    have ht : j.hdr.tdep ≠ 0 := by simpa [State.hasTiles, hj] using h f rfl
    exact runs_bind (runs_getJob hj) (runs_trapIf _ _ s (by simp [ht]))
/-- A place that a segment or a scale block may have is found. -/
theorem scratchPlace_checked {a : Word} {k n : Nat} {s : State} (h : ∃ place, Runs (scratchPlace a k n) s place s) :
    Runs (do let _ ← scratchPlace a k n) s () s := by
  obtain ⟨place, hp⟩ := h
  exact runs_bind hp (runs_pure () s)
theorem checkSegs_runs {s : State} {bases : List Word} {cnt : Nat} {o : VOpd} (h : operandOk s bases cnt o) :
    Runs (o.checkSegs bases cnt) s () s := by
  cases o with
  | unused => exact runs_pure () s
  | queue f => exact runs_pure () s
  | seg k step ty => exact forM_runs fun i hi => scratchPlace_checked (h i (List.mem_range.1 hi))
/-- The operands of a plan and its scale blocks have places that pass the checks of R204. -/
def Checked (p : VPlan) (bases : List Word) (s : State) : Prop := (∀ o ∈ [p.a, p.b, p.c, p.d], operandOk s bases p.cnt o) ∧
  ∀ k, p.scale = some k → ∀ n, n < p.cnt → ∃ place, Runs (scratchPlace (bases.getD k 0 + BitVec.ofNat 64 (32 * n)) 32 32) s place s
theorem checkPlaces_runs {p : VPlan} {bases : List Word} {s : State} (h : Checked p bases s) : Runs (p.checkPlaces bases) s () s := by
  obtain ⟨ho, hk⟩ := h
  have hs : Runs ([p.d, p.a, p.b, p.c].forM (VOpd.checkSegs bases p.cnt)) s () s :=
    forM_runs fun o h => checkSegs_runs (ho o (by simp only [List.mem_cons] at h ⊢; tauto))
  unfold VPlan.checkPlaces
  cases e : p.scale with
  | none => exact hs
  | some k => exact runs_bind (forM_runs fun n hn => scratchPlace_checked (hk k e n (List.mem_range.1 hn))) hs
/-- Tile operands that are there when an instruction has read its sources were there when it started. -/
theorem planNeeds_runs {p : VPlan} {bases : List Word} {s t : State} {j : Job} (hj : s.own = some j) (hs : SameIssue s t)
    (h : Checked p bases t) : Runs ([p.a, p.b, p.c, p.d].forM VOpd.needs) s () s := by
  obtain ⟨ho, -⟩ := h
  refine forM_runs fun o hm => needs_runs hj fun f e => ?_
  have ht : operandOk t bases p.cnt (.queue f) := e ▸ ho o hm
  exact (hs.hasTiles hj).symm.trans ht

/-! ### What an instruction samples and leaves (R171, R175, R176) -/

theorem maskOf_runs {s : State} {j : Job} (f : FVB) (hj : s.own = some j) :
    Runs (maskOf f) s ((j.stream s.cur.2).masks.get (fin8 f.mask.toNat)) s := runs_bind (runs_getStream hj) (runs_pure _ s)
theorem laneCtx_runs {s : State} {j : Job} (rm : BitVec 3) (hj : s.own = some j) : Runs (laneCtx rm) s (sampled j rm) s :=
  runs_bind (runs_getJob hj) (runs_pure _ s)
theorem sampled_same {st : StreamId} {j k : Job} (h : SameIn st j k) (rm : BitVec 3) : sampled k rm = sampled j rm := by
  obtain ⟨-, hr, -⟩ := h
  simp [sampled, Job.rreg, hr]
theorem vFlags_runs {s : State} {j : Job} {c : Coord} (fl : Fl) (hj : s.own = some j) (hc : (j.stream s.cur.2).coord = c) :
    Runs (vFlags fl) s () (vFlagged s c fl) := by
  subst hc
  refine runs_bind (runs_getStream hj) ?_
  unfold vFlagged
  split
  · exact runs_modifyJob _ hj
  · exact runs_pure () s
theorem vDraws_runs {s : State} {j : Job} {c : Coord} (x : LaneCtx) (n : Nat) (hj : s.own = some j) (hc : (j.stream s.cur.2).coord = c) :
    Runs (vDraws x n) s () (vDrawn s c x n) := by
  subst hc
  refine runs_bind (runs_getStream hj) ?_
  unfold vDrawn
  split
  · exact runs_modifyJob _ hj
  · exact runs_pure () s
/-- Flags and draws change the log of the restored registers alone. -/
theorem vFlagged_own {s : State} {j : Job} (c : Coord) (fl : Fl) (hj : s.own = some j) :
    (vFlagged s c fl).cur = s.cur ∧ ∃ k, (vFlagged s c fl).own = some k ∧ ∀ st, k.stream st = j.stream st := by
  unfold vFlagged
  split <;> simp [hj, Job.rchange, Job.stream]
theorem vDrawn_own {s : State} {j : Job} (c : Coord) (x : LaneCtx) (n : Nat) (hj : s.own = some j) :
    (vDrawn s c x n).cur = s.cur ∧ ∃ k, (vDrawn s c x n).own = some k ∧ ∀ st, k.stream st = j.stream st := by
  unfold vDrawn
  split <;> simp [hj, Job.rchange, Job.stream]
/-- The flags and the draws after work that keeps what was sampled. -/
theorem vFinish_runs {s t : State} {j : Job} (x : LaneCtx) (n : Nat) (fl : Fl) (hj : s.own = some j) (hs : SameIssue s t) :
    Runs (vFinish x n fl) t () (vEnd t (j.stream s.cur.2).coord x n fl) := by
  obtain ⟨k, hk, -, hco⟩ := hs.job hj
  obtain ⟨hc, l, hl, hst⟩ := vFlagged_own (j.stream s.cur.2).coord fl hk
  exact runs_bind (vFlags_runs fl hk hco) (vDraws_runs x n hl (by rw [hc, hst, hco]))
theorem vEnd_keeps {s : State} {j : Job} (c : Coord) (x : LaneCtx) (n : Nat) (fl : Fl) (hj : s.own = some j) :
    (vEnd s c x n fl).cur = s.cur ∧ (vEnd s c x n fl).own.isSome = true := by
  obtain ⟨hc, k, hk, -⟩ := vFlagged_own c fl hj
  obtain ⟨hc', k', hk', -⟩ := vDrawn_own c x n hk
  exact ⟨hc'.trans hc, by simp [vEnd, hk']⟩

/-- The state after the iterations of a V-form: none of them is kept for later, and the flags are set. -/
def vFormEnd (s : State) (c : Coord) (fl : Fl) : State := vFlagged (s.onLane (fun t => { t with prog := none })) c fl
theorem vFormEnd_keeps {s : State} {j : Job} (c : Coord) (fl : Fl) (hj : s.own = some j) :
    (vFormEnd s c fl).cur = s.cur ∧ (vFormEnd s c fl).own.isSome = true := by
  obtain ⟨hc, k, hk, -⟩ := vFlagged_own (s := s.onLane fun t => { t with prog := none }) c fl (by rw [State.onLane_own, hj]; rfl)
  exact ⟨hc.trans (State.onLane_cur _ _), by simp [vFormEnd, hk]⟩

/-! ### The bodies of plans (R13, R196, R197, R204, R206) -/

section
variable {h : Hdr} {f : FVB} {p : VPlan} {s0 s1 s2 u : State} {j : Job} {bases : List Word} {a b c : Tile × Option Nat} {fl : Fl}

/-- VLD: its address, then its segment. -/
theorem runBase_load_runs (hj : s0.own = some j) (hl : p.step = .load) (hb : s0.scalars (List.replicate p.nbases f.sx) = some (bases, s1))
    (hc : Checked p bases s1) (hi : iteration p h bases (sampled j f.rm) 0 s1 fl s2) :
    Runs (runBase h f p) s0 () (vEnd s2 (j.stream s0.cur.2).coord (sampled j f.rm) 1024 fl) := by
  have h1 := scalars_sameIssue hb
  refine runs_bind (planNeeds_runs hj h1 hc) (runs_bind (laneCtx_runs f.rm hj) (runs_bind (a := fl) (t := s2) ?_
    (vFinish_runs _ _ _ hj (SameIssue.trans _ _ _ h1 (iteration_sameIssue hi)))))
  rw [if_pos hl]
  exact runs_bind (popMany_runs hb) (runs_bind (checkPlaces_runs hc) (iteration_runs hi))
/-- Every other base form: its tiles, then its address. -/
theorem runBase_tiles_runs (hj : s0.own = some j) (hl : p.step ≠ .load) (hr : reads p [] 0 s0 a b c u)
    (hb : u.scalars (List.replicate p.nbases f.sx) = some (bases, s1)) (hc : Checked p bases s1)
    (hp : puts p h bases (sampled j f.rm) 0 a b c s1 fl s2) :
    Runs (runBase h f p) s0 () (vEnd s2 (j.stream s0.cur.2).coord (sampled j f.rm) 1024 fl) := by
  have h1 := SameIssue.trans _ _ _ (reads_sameIssue hr) (scalars_sameIssue hb)
  refine runs_bind (planNeeds_runs hj h1 hc) (runs_bind (laneCtx_runs f.rm hj) (runs_bind (a := fl) (t := s2) ?_
    (vFinish_runs _ _ _ hj (SameIssue.trans _ _ _ h1 (puts_sameIssue hp)))))
  rw [if_neg hl]
  exact runs_bind (reads_runs hr) (runs_bind (popMany_runs hb) (runs_bind (checkPlaces_runs hc) (puts_runs hp)))
/-- A V-form that starts: its bases, the checks, the draws, its iterations, the flags. -/
theorem runPlan_runs (hj : s0.own = some j) (hn : (j.stream s0.cur.2).prog = none)
    (hb : s0.scalars (List.replicate p.nbases f.sx) = some (bases, s1)) (hc : Checked p bases s1)
    (hd : Runs (p.d.checkDest p.cnt) s1 () s1) (ho : ∀ o ∈ [p.a, p.b, p.c], Runs (VOpd.checkSource p.cnt o) s1 () s1)
    (hi : iterations p h bases (sampled j f.rm) p.cnt 0 Fl.clear
      (vDrawn s1 (j.stream s0.cur.2).coord (sampled j f.rm) (1024 * p.cnt)) fl s2) :
    Runs (runPlan h f p) s0 () (vFormEnd s2 (j.stream s0.cur.2).coord fl) ∧ s2.cur = s0.cur ∧ ∃ l, s2.own = some l := by
  have h1 := scalars_sameIssue hb
  obtain ⟨k, hk, hsame, hkc⟩ := h1.job hj
  obtain ⟨hdc, k', hk', hst⟩ := vDrawn_own (j.stream s0.cur.2).coord (sampled j f.rm) (1024 * p.cnt) hk
  have h2 := iterations_sameIssue hi
  obtain ⟨l, hl, -, hlc⟩ := h2.job hk'
  rw [hdc, hst, hkc] at hlc
  refine ⟨?_, h2.1.trans (hdc.trans h1.1), l, hl⟩
  have hx : Runs (laneCtx f.rm) s1 (sampled j f.rm) s1 := sampled_same hsame f.rm ▸ laneCtx_runs f.rm hk
  have hv := vDraws_runs (sampled j f.rm) (1024 * p.cnt) hk hkc
  have hf : Runs (vFlags fl) _ () (vFormEnd s2 (j.stream s0.cur.2).coord fl) :=
    vFlags_runs fl (by rw [State.onLane_own, hl]; rfl) (by rw [State.onLane_cur, Job.stream_onStream]; exact hlc)
  unfold runPlan
  refine runs_bind (runs_getStream hj) ?_
  rw [hn]
  exact runs_bind (planNeeds_runs hj h1 hc) (runs_bind (popMany_runs hb) (runs_bind (checkPlaces_runs hc) (runs_bind hd
    (runs_bind (forM_runs ho) (runs_bind hx (runs_bind hv (runs_bind (iterations_runs hi) (runs_bind (runs_modifyStream _ hl) hf))))))))

end

/-! ### VectorPlans -/

/-- The body of a plan: a V-form runs its iterations, a base form its one. -/
def planBody (h : Hdr) (f : FVB) (p : VPlan) : M Unit := match p.vform with
  | true => runPlan h f p
  | false => runBase h f p
/-- Each instruction that has a plan runs it with its mask. -/
theorem exec_plan {i : Instr} {h : Hdr} {f : FVB} {plan : BitVec 1024 → VPlan} (hp : plans i = some (h, f, plan)) (s : State) :
    exec i s = runInstr i (straight (do planBody h f (plan (← maskOf f)))) s := by
  unfold plans at hp
  split at hp <;> cases hp <;> rfl
/-- An instruction that enters finds no iterations kept from an earlier attempt. -/
theorem entered_prog {s s0 : State} {i : Instr} {j : Job} (h : s.entered i = some s0) (hj : s0.own = some j) :
    (j.stream s0.cur.2).prog = none := by
  have hl := entered_lane h
  rw [State.lane_eq hj] at hl
  unfold State.entered at h
  split at h
  · cases h
  split at h
  · rename_i ha
    unfold State.admits at ha
    split at ha
    · cases ha
    · rename_i k hk
      rw [State.lane_eq hk, Option.some.injEq] at hl
      rw [hl]
      simp only [Bool.and_eq_true, Option.isNone_iff_eq_none] at ha
      exact ha.2
  · cases h

section
variable {i : Instr} {h : Hdr} {f : FVB} {plan : BitVec 1024 → VPlan} {s s0 t u : State} {j : Job}

/-- An instruction that has a plan completes when it enters and its plan's body completes. -/
theorem plan_completes (hp : plans i = some (h, f, plan)) (he : s.entered i = some s0) (hj : s0.own = some j)
    (hb : Runs (planBody h f (plan ((j.stream s0.cur.2).masks.get (fin8 f.mask.toNat)))) s0 () t) (hc : t.cur = s0.cur)
    (ho : t.own.isSome = true) : exec i s = .next (t.retired i (s.nextPc i)) := by
  rw [exec_plan hp]
  exact straight_completes he (runs_bind (maskOf_runs f hj) hb) (hc.trans (entered_keeps he).1) ho
/-- A base form completes with its flags and draws where its body has written its destination. -/
theorem base_completes {x : LaneCtx} {fl : Fl} (hp : plans i = some (h, f, plan)) (he : s.entered i = some s0) (hj : s0.own = some j)
    (hs : SameIssue s0 u) (hv : (plan ((j.stream s0.cur.2).masks.get (fin8 f.mask.toNat))).vform = false)
    (hb : Runs (runBase h f (plan ((j.stream s0.cur.2).masks.get (fin8 f.mask.toNat)))) s0 ()
      (vEnd u (j.stream s0.cur.2).coord x 1024 fl)) :
    exec i s = .next ((vEnd u (j.stream s0.cur.2).coord x 1024 fl).retired i (s.nextPc i)) := by
  obtain ⟨k, hk, -⟩ := hs.job hj
  obtain ⟨hc, ho⟩ := vEnd_keeps (j.stream s0.cur.2).coord x 1024 fl hk
  refine plan_completes hp he hj ?_ (hc.trans hs.1) ho
  unfold planBody
  rwa [hv]

end

/-- Settles O37: each plan's body completes as the statement says, and the coordinate with which it sets its flags is still the one that
the job had when the instruction entered. -/
theorem vectorPlans : Obligations.VectorPlans := by
  intro i h f plan hp s s0 s1 s2 j bases fl he hj
  rw [← (entered_keeps he).1]
  refine ⟨fun hv hl hb hc hi => ?_, fun a b c u hv hl hr hb hc hq => ?_, fun hv hb hc hd ho hi => ?_⟩
  · have hs := SameIssue.trans _ _ _ (scalars_sameIssue hb) (iteration_sameIssue hi)
    exact base_completes hp he hj hs hv (runBase_load_runs hj hl hb hc hi)
  · have hs := SameIssue.trans _ _ _ (SameIssue.trans _ _ _ (reads_sameIssue hr) (scalars_sameIssue hb)) (puts_sameIssue hq)
    exact base_completes hp he hj hs hv (runBase_tiles_runs hj hl hr hb hc hq)
  · obtain ⟨hb, hcur, k, hk⟩ := runPlan_runs (h := h) hj (entered_prog he hj) hb hc hd ho hi
    obtain ⟨hc, ho⟩ := vFormEnd_keeps (j.stream s0.cur.2).coord fl hk
    refine plan_completes hp he hj ?_ (hc.trans hcur) ho
    unfold planBody
    rwa [hv]

end Sys2Proof.Proofs
end

section
/-!
PROOF. O8: a coordinate as digits that lie side by side, and what an advance below the end of its level makes of them.
-/
open Sys2Proof Sys2Proof.Machine Sys2Proof.Claims
namespace Sys2Proof.Proofs

/-! ### Coordinates as digits (R18, R31, R32) -/

/-- The levels of a coordinate lie side by side: each begins where the level below it ends. -/
theorem levelLo_above {m n : Nat} (h : m < n) (hn : n < 5) : levelLo m + levelWidth m ≤ levelLo n := by
  revert m; revert n; decide
theorem levelTop_le {n : Nat} (hn : n < 5) : levelLo n + levelWidth n ≤ 62 := by
  revert n; decide

/-- A digit that is not at its end counts on without a carry. -/
theorem succ_mod_pow {q w : Nat} (h : q % 2 ^ w + 1 < 2 ^ w) : (q + 1) % 2 ^ w = q % 2 ^ w + 1 := by
  rw [Nat.add_mod, Nat.mod_eq_of_lt (show 1 < 2 ^ w by omega), Nat.mod_eq_of_lt h]
theorem succ_div_pow {q w d : Nat} (h : q % 2 ^ w + 1 < 2 ^ w) (hd : w ≤ d) : (q + 1) / 2 ^ d = q / 2 ^ d := by
  obtain ⟨e, rfl⟩ := Nat.exists_eq_add_of_le hd
  rw [Nat.pow_add, ← Nat.div_div_eq_div_mul, ← Nat.div_div_eq_div_mul, Nat.succ_div_of_not_dvd]
  intro h0
  have := Nat.mod_eq_zero_of_dvd h0
  rw [succ_mod_pow h] at this
  omega

section
variable {c : Coord} {n : Nat} (hn : n < 5) (h : Coord.ix c n + 1 < 2 ^ levelWidth n)
include hn h

/-- The coordinate that an advance below the end of its level enters: the levels from n on count on, those below are cleared. -/
theorem advanceAt_toNat : (advanceAt c n).1.toNat = (c.toNat / 2 ^ levelLo n + 1) * 2 ^ levelLo n := by
  have hq : c.toNat / 2 ^ levelLo n < 2 ^ (62 - levelLo n) := by
    rw [Nat.div_lt_iff_lt_mul (Nat.two_pow_pos _), ← Nat.pow_add, Nat.sub_add_cancel (by have := levelTop_le hn; omega)]
    exact c.isLt
  have hne : c.toNat / 2 ^ levelLo n + 1 ≠ 2 ^ (62 - levelLo n) := by
    intro e
    have hm := succ_mod_pow h
    rw [e, Nat.mod_eq_zero_of_dvd (Nat.pow_dvd_pow 2 (by have := levelTop_le hn; omega))] at hm
    omega
  have hlt : (c.toNat / 2 ^ levelLo n + 1) * 2 ^ levelLo n < 2 ^ 62 := calc
    _ < 2 ^ (62 - levelLo n) * 2 ^ levelLo n := Nat.mul_lt_mul_of_pos_right (by omega) (Nat.two_pow_pos _)
    _ = 2 ^ 62 := by rw [← Nat.pow_add, Nat.sub_add_cancel (by have := levelTop_le hn; omega)]
  simp only [advanceAt, clearBelow, BitVec.toNat_ofNat]
  rw [← Nat.succ_mul]
  exact Nat.mod_eq_of_lt hlt

theorem ix_advanceAt_self : Coord.ix (advanceAt c n).1 n = Coord.ix c n + 1 := by
  unfold Coord.ix at *
  rw [advanceAt_toNat hn h, Nat.mul_div_cancel _ (Nat.two_pow_pos _), succ_mod_pow h]
theorem ix_advanceAt_below {m : Nat} (hm : m < n) : Coord.ix (advanceAt c n).1 m = 0 := by
  have hl := levelLo_above hm hn
  obtain ⟨d, hd⟩ := Nat.exists_eq_add_of_le (Nat.le_of_add_right_le hl)
  unfold Coord.ix
  rw [advanceAt_toNat hn h, hd, Nat.pow_add, Nat.mul_left_comm, Nat.mul_div_cancel_left _ (Nat.two_pow_pos _)]
  exact Nat.mod_eq_zero_of_dvd ((Nat.pow_dvd_pow 2 (by omega)).mul_left _)
theorem ix_advanceAt_above {m : Nat} (hm : n < m) (h5 : m < 5) : Coord.ix (advanceAt c n).1 m = Coord.ix c m := by
  have hl := levelLo_above hm h5
  obtain ⟨d, hd⟩ := Nat.exists_eq_add_of_le (Nat.le_of_add_right_le hl)
  unfold Coord.ix at *
  rw [advanceAt_toNat hn h, hd, Nat.pow_add, ← Nat.div_div_eq_div_mul, ← Nat.div_div_eq_div_mul,
    Nat.mul_div_cancel _ (Nat.two_pow_pos _), succ_div_pow h (by omega)]
theorem lt_advanceAt : c < (advanceAt c n).1 := by
  rw [BitVec.lt_def, advanceAt_toNat hn h]
  exact Nat.lt_mul_of_div_lt (Nat.lt_succ_self _) (Nat.two_pow_pos _)
end

/-- Settles O8: below the end of its level an advance carries nowhere, so that it counts one digit on. -/
theorem advanceCoordinate : Obligations.AdvanceCoordinate := by
  intro c n hn h
  refine ⟨?_, ix_advanceAt_self hn h, fun m hm => ix_advanceAt_below hn h hm, fun m hm h5 => ix_advanceAt_above hn h hm h5, lt_advanceAt hn h⟩
  exact if_neg (Nat.ne_of_lt h)

end Sys2Proof.Proofs
end

section
/-!
PROOF. What an attempt does before an instruction's operation: it waits, a check refuses the instruction, or the checks pass (R63, R74).
-/
open Sys2Proof Sys2Proof.Machine Sys2Proof.Claims
namespace Sys2Proof.Proofs

/-! ### Operations that stop -/

/-- The operation stops, and leaves this state. -/
def Fails {α : Type} (m : M α) (s : State) (x : Stop) (t : State) : Prop := m.run s = .error x t

theorem run_bind {α β : Type} {m : M α} {f : α → M β} {s t : State} {a : α} (h : Runs m s a t) : (m >>= f).run s = (f a).run t := by
  unfold Runs EStateM.run at *
  simp [bind, EStateM.bind, h]
theorem fails_throw {α : Type} (x : Stop) (s : State) : Fails (throw x : M α) s x s := rfl
theorem fails_bind_left {α β : Type} {m : M α} {f : α → M β} {s t : State} {x : Stop} (h : Fails m s x t) : Fails (m >>= f) s x t := by
  unfold Fails EStateM.run at *
  simp [bind, EStateM.bind, h]
theorem fails_bind_right {α β : Type} {m : M α} {f : α → M β} {s t u : State} {a : α} {x : Stop} (h : Runs m s a t) (k : Fails (f a) t x u) :
    Fails (m >>= f) s x u := by
  unfold Fails Runs EStateM.run at *
  simp [bind, EStateM.bind, h, k]
theorem fails_trap {α : Type} (c : BitVec 8) (w : Word) (s : State) : Fails (trap c w : M α) s (.trap c w 0) s := rfl
theorem fails_trapIf {b : Bool} (h : b = true) (c : BitVec 8) (w : Word) (s : State) : Fails (trapIf b c w) s (.trap c w 0) s := by
  subst h; rfl

/-! ### The checks of an attempt (R63, R74) -/

/-- What an attempt does after its checks: an instruction of an inactive stage retires (R74), and the others take their tokens, run their
body and retire. -/
def afterChecks (i : Instr) (e : Enc) (body : M (Option Word)) (t : Stream) : M Unit :=
  if t.skips e.h.stage.toNat then retire (t.pc + BitVec.ofNat 64 i.bytes) e.h true
  else do
    if t.prog.isNone then popTokens e.h
    let r ← body
    retire (r.getD (t.pc + BitVec.ofNat 64 i.bytes)) e.h false
/-- The executing stream of the job may issue the instruction, which passes the checks of R63. -/
def passes (s : State) (j : Job) (i : Instr) (e : Enc) : Bool :=
  j.mayIssue s.cur.2 && i.wf && (j.stream s.cur.2).stageOk e.h.stage.toNat && (encStreams e).contains s.cur.2 && (!supOnly e || s.isSup)

section
variable {i : Instr} {e : Enc} {body : M (Option Word)} {s : State} {j : Job} (hj : s.own = some j)
include hj

/-- A stream that may not issue waits. -/
theorem attempt_waits (hm : j.mayIssue s.cur.2 = false) : ∃ x, Fails (attempt i e body) s x s := by
  unfold attempt Fails
  rw [run_bind (runs_getJob hj), run_bind (runs_curStream s)]
  simp only [hm, Bool.not_false, if_true]
  exact ⟨_, fails_bind_left (fails_throw _ s)⟩

variable (hm : j.mayIssue s.cur.2 = true)
include hm

/-- A stream that may issue comes to the checks, one after the other. -/
theorem attempt_issues : (attempt i e body).run s = (do
    trapIf (!i.wf || !(j.stream s.cur.2).stageOk e.h.stage.toNat) 0x01 i.firstWord
    trapIf (!(encStreams e).contains s.cur.2) 0x02 i.firstWord
    trapIf (supOnly e && !(← get).isSup) 0x13 i.firstWord
    afterChecks i e body (j.stream s.cur.2) : M Unit).run s := by
  unfold attempt
  rw [run_bind (runs_getJob hj), run_bind (runs_curStream s)]
  simp only [hm, Bool.not_true, Bool.false_eq_true, if_false]
  rfl

theorem attempt_illFormed (h : i.wf = false ∨ (j.stream s.cur.2).stageOk e.h.stage.toNat = false) :
    Fails (attempt i e body) s (.trap 0x01 i.firstWord 0) s :=
  (attempt_issues hj hm).trans (fails_bind_left (fails_trapIf (by rcases h with h | h <;> simp [h]) _ _ s))

variable (hw : i.wf = true) (hs : (j.stream s.cur.2).stageOk e.h.stage.toNat = true)
include hw hs

theorem attempt_wrongStream (h : (encStreams e).contains s.cur.2 = false) : Fails (attempt i e body) s (.trap 0x02 i.firstWord 0) s :=
  (attempt_issues hj hm).trans (fails_bind_right (runs_trapIf _ _ s (by simp [hw, hs])) (fails_bind_left (fails_trapIf (by rw [h]; rfl) _ _ s)))
theorem attempt_supervisor (h : (encStreams e).contains s.cur.2 = true) (ho : supOnly e = true) (hsup : s.isSup = false) :
    Fails (attempt i e body) s (.trap 0x13 i.firstWord 0) s :=
  (attempt_issues hj hm).trans (fails_bind_right (runs_trapIf _ _ s (by simp [hw, hs])) (fails_bind_right (runs_trapIf _ _ s (by rw [h]; rfl))
    (fails_bind_right (runs_get s) (fails_bind_left (fails_trapIf (by simp [ho, hsup]) _ _ s)))))
end

theorem wf_of_passes {i : Instr} {e : Enc} {s : State} {j : Job} (hp : passes s j i e = true) : i.wf = true := by
  simp only [passes, Bool.and_eq_true] at hp
  exact hp.1.1.1.2

section
variable {i : Instr} {e : Enc} {body : M (Option Word)} {s : State} {j : Job} (hj : s.own = some j)
include hj

/-- An instruction that passes the checks goes on; one that does not stops, and leaves the state as it was. -/
theorem attempt_passes (hp : passes s j i e = true) : (attempt i e body).run s = (afterChecks i e body (j.stream s.cur.2)).run s := by
  simp only [passes, Bool.and_eq_true, Bool.or_eq_true, Bool.not_eq_true'] at hp
  obtain ⟨⟨⟨⟨hm, hw⟩, hs⟩, hc⟩, ho⟩ := hp
  rw [attempt_issues hj hm, run_bind (runs_trapIf _ _ s (by simp [hw, hs])), run_bind (runs_trapIf _ _ s (by rw [hc]; rfl)),
    run_bind (runs_get s), run_bind (runs_trapIf _ _ s (by rcases ho with h | h <;> simp [h]))]
theorem attempt_refuses (hp : passes s j i e = false) : ∃ x, Fails (attempt i e body) s x s := by
  cases hm : j.mayIssue s.cur.2 with
  | false => exact attempt_waits hj hm
  | true =>
    cases hw : i.wf with
    | false => exact ⟨_, attempt_illFormed hj hm (.inl hw)⟩
    | true =>
      cases hs : (j.stream s.cur.2).stageOk e.h.stage.toNat with
      | false => exact ⟨_, attempt_illFormed hj hm (.inr hs)⟩
      | true =>
        cases hc : (encStreams e).contains s.cur.2 with
        | false => exact ⟨_, attempt_wrongStream hj hm hw hs hc⟩
        | true =>
          simp only [passes, hm, hw, hs, hc, Bool.and_self, Bool.true_and, Bool.or_eq_false_iff, Bool.not_eq_false'] at hp
          exact ⟨_, attempt_supervisor hj hm hw hs hc hp.1 hp.2⟩
end

end Sys2Proof.Proofs
end

section
/-!
PROOF. O58: retirement, of a skipped instruction too, and the AWAIT that retires without being executed.
-/
open Sys2Proof Sys2Proof.Machine Sys2Proof.Claims
namespace Sys2Proof.Proofs

/-- Every instruction that has an encoding, but RDV, is executed as a body within the checks and the retirement of `runInstr`. -/
theorem exec_body {i : Instr} {e : Enc} (he : i.enc = some e) (hr : ∀ h f, i ≠ .rdv h f) :
    ∃ body, ∀ s, exec i s = runInstr i body s := by
  cases i <;> cases he
  case rdv h f => exact absurd rfl (hr h f)
  all_goals exact ⟨_, fun _ => rfl⟩

/-! ### Retirement (R28, R73, R74) -/

/-- The end of a loop's body makes the stream wait for its advance, and changes nothing else. -/
theorem settle_eq (t : Stream) : t.settle = { t with adv := t.settle.adv } := by
  unfold Stream.settle
  split
  · rfl
  · split
    · split <;> rfl
    · rfl
theorem onStreams_stream (j : Job) (f : Stream → Stream) (st : StreamId) : (j.onStreams f).stream st = f (j.stream st) := by
  simp [Job.onStreams, Job.stream, Vector.get_eq_getElem]
@[simp] theorem stir_stream (j : Job) (st : StreamId) : (Job.stir j).stream st = { j.stream st with tried := false } :=
  onStreams_stream j _ st
@[simp] theorem count_stream (j : Job) (i : Fin 16) (n : Nat) (st : StreamId) : (j.count i n).stream st = j.stream st := rfl

/-- A retirement changes the job in its streams, its number in program order and its counters alone. -/
theorem retire_job (j : Job) (st : StreamId) (pc : Word) (h : Hdr) (skipped : Bool) :
    j.retire st pc h skipped = { j with
      streams := (j.retire st pc h skipped).streams
      seq := (j.retire st pc h skipped).seq
      counters := (j.retire st pc h skipped).counters } := by
  unfold Job.retire
  cases skipped <;> rfl
theorem retire_seq (j : Job) (st : StreamId) (pc : Word) (h : Hdr) (skipped : Bool) : (j.retire st pc h skipped).seq = j.seq + 1 := by
  unfold Job.retire
  cases skipped <;> rfl
theorem retire_tiles (j : Job) (st : StreamId) (pc : Word) (h : Hdr) (b : Bool) : (j.retire st pc h b).tiles = j.tiles := by rw [retire_job]
theorem retire_rlog (j : Job) (st : StreamId) (pc : Word) (h : Hdr) (b : Bool) : (j.retire st pc h b).rlog = j.rlog := by rw [retire_job]
theorem retire_tileTail (j : Job) (st : StreamId) (pc : Word) (h : Hdr) (b : Bool) : (j.retire st pc h b).tileTail = j.tileTail := by rw [retire_job]
theorem retire_tileLeft (j : Job) (st : StreamId) (pc : Word) (h : Hdr) (b : Bool) : (j.retire st pc h b).tileLeft = j.tileLeft := by rw [retire_job]
theorem retire_rreg (j : Job) (st : StreamId) (pc : Word) (h : Hdr) (b : Bool) (r : RReg) : (j.retire st pc h b).rreg r = j.rreg r := by
  rw [retire_job]
  rfl
/-- The streams that do not retire may look again at what they wait for. -/
theorem retire_others (j : Job) {st x : StreamId} (pc : Word) (h : Hdr) (skipped : Bool) (hx : x ≠ st) :
    (j.retire st pc h skipped).stream x = { j.stream x with tried := false } := by
  have key (t : Stream) (k : Job) (n : Nat) : (Job.stir { k.setStream st t with seq := n }).stream x = { k.stream x with tried := false } := by
    rw [stir_stream, show Job.stream { k.setStream st t with seq := n } x = k.stream x from Job.stream_setStream_ne k t (Ne.symm hx)]
  unfold Job.retire
  cases skipped
  · simp only [Bool.false_eq_true, if_false, count_stream, key]
  · simp only [if_true, key]
/-- The stream that retires keeps all but its place, its token pushes and its wait. -/
theorem retire_lane (j : Job) (st : StreamId) (pc : Word) (h : Hdr) (skipped : Bool) :
    let b := (j.retire st pc h skipped).stream st
    b = { j.stream st with
      pc := b.pc
      pushes := b.pushes
      cause := b.cause
      last := b.last
      adv := b.adv
      tried := b.tried } := by
  have key (t : Stream) (k : Job) (n : Nat) : (Job.stir { k.setStream st t.settle with seq := n }).stream st = { t with adv := t.settle.adv, tried := false } := by
    rw [stir_stream, show Job.stream { k.setStream st t.settle with seq := n } st = t.settle from Job.stream_setStream k st _, settle_eq]
  unfold Job.retire
  cases skipped
  · simp only [Bool.false_eq_true, if_false, count_stream, key, addPushes]
  · simp only [if_true, key]

/-! ### A skipped instruction (R74) -/

/-- AN INSTRUCTION OF AN INACTIVE STAGE retires without its body (R74). -/
theorem runInstr_skipped {i : Instr} {e : Enc} {s : State} {j : Job} (body : M (Option Word)) (he : i.enc = some e) (hj : s.own = some j)
    (hs : s.skipped i = true) : runInstr i body s = .next (s.onOwn (fun j => j.retire s.cur.2 (s.nextPc i) e.h true)) := by
  obtain ⟨hp, hk⟩ : passes s j i e = true ∧ (j.stream s.cur.2).skips e.h.stage.toNat = true := by
    simpa only [passes, State.skipped, he, hj, Bool.and_eq_true] using hs
  have hn : (j.stream s.cur.2).pc + BitVec.ofNat 64 i.bytes = s.nextPc i := by simp [State.nextPc, State.lane_eq hj]
  have hrun : Runs (attempt i e body) s () (s.onOwn (fun j => j.retire s.cur.2 (s.nextPc i) e.h true)) := by
    unfold Runs
    rw [attempt_passes hj hp, afterChecks, if_pos hk, hn]
    exact runs_bind (runs_curStream s) (runs_modifyJob _ hj)
  unfold runInstr
  unfold Runs at hrun
  rw [he]
  simp only [hrun]

/-- A job of four streams, C in a loop of level 0 whose only source iteration stage 1 has not reached. -/
def loopingJob : Job :=
  (Job.start 0x2000 0 0 ⟨1, 0, 0, 0, 0, 0, #v[0x40, 0x40, 0x40, 0x40], [], 0, 0, 0⟩ 0 0 (fun _ => none) (semMapOf 0 0) false 0).onStream .c
    (fun t => { t with loops := t.loops.set (0 : Fin 5) (some ⟨1, 2, 2, 0, 0x40, 0x60, 0x38, 0⟩) })
/-- An AWAIT of stage 1, which that loop skips in its first kernel iteration (R74). -/
def skippedAwait : Instr := .await ⟨1, false, false, false, false⟩ ⟨0, 0, 2, 1, 0x13, 3⟩

theorem skippedAwait_skipped : (State.setJob State.reset 0 loopingJob).skipped skippedAwait = true ∧
    loopingJob.replay.replaying = false := by decide +kernel

/-- Refutes O58: an AWAIT whose stage is inactive (R74) retires as every skipped instruction does, and adds nothing to what orders its
reader, where the statement has it add its number. -/
theorem not_issueFrame : ¬ Obligations.IssueFrame := by
  intro hall
  obtain ⟨hs, hr⟩ := skippedAwait_skipped
  have hj : (State.setJob State.reset 0 loopingJob).own = some loopingJob := State.job_setJob _ _ _
  obtain ⟨body, hb⟩ := exec_body (i := skippedAwait) rfl (fun _ _ => nofun)
  have hx := (hb _).trans (runInstr_skipped body rfl hj hs)
  obtain ⟨-, -, -, -, -, -, ha, -⟩ := hall skippedAwait _ _ _ rfl _ _ _ _ hx hj (by rw [State.onOwn_own, hj]; rfl) hr (retire_seq _ _ _ _ _)
  rw [retire_lane] at ha
  have hgrow : (loopingJob.stream .c).awaited = (loopingJob.stream .c).awaited ++ [loopingJob.seq] := ha
  simp at hgrow

end Sys2Proof.Proofs
end

section
/-!
PROOF. An instruction that has used its number in program order has retired: what an attempt can do, and what a stop leaves.
-/
open Sys2Proof Sys2Proof.Machine Sys2Proof.Claims
namespace Sys2Proof.Proofs

/-! ### An attempt that fails leaves what its operations leave -/

theorem stays_of_fails {α : Type} {R : State → State → Prop} {m : M α} {s t : State} {x : Stop} (h : Fails m s x t) (k : Stays R m s) : R s t := by
  unfold Stays left at k
  unfold Fails at h
  rwa [h] at k
/-- A sequence fails in its first part, which stays in the relation, or in its second. -/
theorem fails_bind {α β : Type} {R : State → State → Prop} {m : M α} {f : α → M β} {s u : State} {x : Stop} (h : Fails (m >>= f) s x u)
    (hm : Stays R m s) (hf : ∀ a t, Runs m s a t → Fails (f a) t x u → R s u) : R s u := by
  unfold Fails EStateM.run at h
  simp only [bind, EStateM.bind] at h
  split at h
  · exact hf _ _ ‹_› h
  · cases h
    exact stays_of_fails (x := x) ‹_› hm

/-! ### The number in program order (R33) -/

/-- The state t executes the stream that s executes, and its job has the same next number in program order. -/
def SeqKept (s t : State) : Prop := t.cur = s.cur ∧ t.own.map Job.seq = s.own.map Job.seq

theorem SeqKept.refl (s : State) : SeqKept s s := ⟨rfl, rfl⟩
theorem SeqKept.trans {s t u : State} (h : SeqKept s t) (k : SeqKept t u) : SeqKept s u := ⟨k.1.trans h.1, k.2.trans h.2⟩
/-- A state with the same cores has the same jobs. -/
theorem SeqKept.of_cores {s t : State} (hc : t.cur = s.cur) (h : t.cores = s.cores) : SeqKept s t := by
  refine ⟨hc, ?_⟩
  simp only [State.own, State.job, State.core, hc, h]
theorem SeqKept.onJob {s t : State} {f : Job → Job} (h : SeqKept s t) (hf : ∀ j, (f j).seq = j.seq) : SeqKept s (t.onJob s.cur.1 f) := by
  obtain ⟨hc, hq⟩ := h
  rw [← hc]
  refine ⟨(t.onOwn_cur f).trans hc, ?_⟩
  have e : (t.onJob t.cur.1 f).own = t.own.map f := State.onOwn_own t f
  rw [e, Option.map_map, ← hq]
  congr 1
  exact funext hf
theorem SeqKept.markLanding {s t : State} (h : SeqKept s t) (c : CoreId) : SeqKept s (t.markLanding c) := by
  refine h.trans ?_
  unfold State.markLanding State.setJState
  split
  · split
    · dsimp only
      split
      · refine ⟨rfl, ?_⟩
        simp only [State.own, State.job, State.setCore_cur]
        by_cases e : c = t.cur.1
        · rw [← e, State.core_setCore]
        · rw [State.core_setCore_ne _ _ e]
      · exact SeqKept.refl t
    · exact SeqKept.refl t
  · exact SeqKept.refl t
theorem SeqKept.sendFetch (s : State) (d : DieId) (line : Nat) : SeqKept s (s.sendFetch d line) := by
  unfold State.sendFetch
  dsimp only
  split <;> exact SeqKept.refl s

/-- A write of a unit at home reaches no core and moves no stream. -/
theorem pokeHome_cores (s : State) (a : Nat) (bs : List Byte) : (s.pokeHome a bs).cores = s.cores ∧ (s.pokeHome a bs).cur = s.cur := by
  unfold State.pokeHome
  dsimp only
  split <;> exact ⟨rfl, rfl⟩
theorem partWrite_cores {s t : State} {pn : PartId} {a : Nat} {bs : List Byte} (h : s.partWrite pn a bs = .ok t) :
    t.cores = s.cores ∧ t.cur = s.cur := by
  unfold State.partWrite at h
  cases hp : s.partPa pn .w a with
  | error e => rw [hp] at h; cases h
  | ok k => rw [hp] at h; cases h; exact pokeHome_cores s k bs
theorem ringPut_cores {s t : State} {pn : PartId} {base size : Nat} {ws : List Word} (h : s.ringPut pn base size ws = some t) :
    t.cores = s.cores ∧ t.cur = s.cur := by
  have hp (u : State) (a : Nat) (bs : List Byte) (hu : u.cores = s.cores ∧ u.cur = s.cur) :
      (u.pokeHome a bs).cores = s.cores ∧ (u.pokeHome a bs).cur = s.cur := by
    rwa [(pokeHome_cores u a bs).1, (pokeHome_cores u a bs).2]
  unfold State.ringPut at h
  split at h
  · dsimp only at h
    split at h
    · rename_i u hu
      rw [Option.some.injEq] at h
      subst h
      split
      · exact hp _ _ _ (hp _ _ _ (partWrite_cores hu))
      · exact hp _ _ _ (partWrite_cores hu)
    · cases h
  · cases h
theorem errorEvent_cores (s : State) (pn : PartId) (kind pa : Nat) (va : Word) (x : Option Coord) (hd : Handle) (c : CoreId) :
    (s.errorEvent pn kind pa va x hd c).cores = s.cores ∧ (s.errorEvent pn kind pa va x hd c).cur = s.cur := by
  unfold State.errorEvent
  split
  · dsimp only
    split
    · exact ⟨rfl, rfl⟩
    · cases hr : s.ringPut pn _ 256 _ with
      | none => exact ⟨rfl, rfl⟩
      | some t => exact ringPut_cores hr
  · exact ⟨rfl, rfl⟩

theorem reclaim_seq (j : Job) (w : LandWhy) : (j.reclaim w).seq = j.seq := by
  unfold Job.reclaim
  split
  · split <;> rfl
  · rfl
  · rfl
theorem takeTrap_seq (j : Job) (t : TrapRec) : (j.takeTrap t).seq = j.seq := by
  unfold Job.takeTrap
  dsimp only
  split
  · rfl
  · split
    · exact reclaim_seq j _
    · split
      · split
        · split <;> rfl
        · rfl
        · rfl
      · rfl
theorem diverge_seq (j : Job) (o : Origin) (n : Nat) : (j.diverge o n).seq = j.seq := by
  unfold Job.diverge Job.landAt
  split
  · rfl
  · split
    · exact reclaim_seq j _
    · split <;> rfl
theorem stalled_seq (j : Job) (st : StreamId) (c : BitVec 4) (g : BitVec 2) : (j.stalled st c g).seq = j.seq := by
  unfold Job.stalled
  dsimp only
  split <;> rfl
theorem SeqKept.raise {s t : State} (h : SeqKept s t) (r : TrapRec) : SeqKept s (t.raise s.cur.1 r) := by
  unfold State.raise
  dsimp only
  refine SeqKept.markLanding (SeqKept.onJob (h.trans ?_) fun j => takeTrap_seq j r) _
  split
  · split
    · exact SeqKept.of_cores (errorEvent_cores _ _ _ _ _ _ _ _).2 (errorEvent_cores _ _ _ _ _ _ _ _).1
    · exact SeqKept.refl t
  · exact SeqKept.refl t
theorem SeqKept.enlist (s : State) (w : Wait) (x : Option (BitVec 8 × SemWaiter)) (a : Option Arrival) : SeqKept s (s.enlist w x a) := by
  unfold State.enlist
  dsimp only
  refine SeqKept.onJob ?_ fun j => ?_
  · split
    · exact SeqKept.of_cores rfl rfl
    · exact SeqKept.refl s
  · split <;> rfl

/-! ### What an instruction that retires has done -/

theorem retire_runs_inv {pc : Word} {h : Hdr} {b : Bool} {s t : State} {x : Unit} (hx : Runs (retire pc h b) s x t) :
    s.own.isSome = true ∧ t = s.onOwn (fun j => j.retire s.cur.2 pc h b) := by
  obtain ⟨st, s1, h1, r1⟩ := runs_bind_inv hx
  obtain ⟨rfl, rfl⟩ := runs_curStream_inv h1
  obtain ⟨j, s2, h2, r2⟩ := runs_bind_inv r1
  obtain ⟨hj, rfl⟩ := runs_getJob_inv h2
  rw [State.onOwn_eq hj]
  cases r2
  exact ⟨by rw [hj]; rfl, rfl⟩

section
variable {R : State → State → Prop} {i : Instr} {e : Enc} {body : M (Option Word)}
variable (hr : ∀ s, R s s) (ht : ∀ s t u, R s t → R t u → R s u)
include hr

theorem retire_fails {pc : Word} {h : Hdr} {b : Bool} {s t : State} {x : Stop} (hf : Fails (retire pc h b) s x t) : R s t := by
  refine fails_bind hf (stays_curStream hr s) fun st s1 h1 f1 => ?_
  obtain ⟨rfl, rfl⟩ := runs_curStream_inv h1
  refine fails_bind f1 (stays_getJob hr _) fun j s2 h2 f2 => ?_
  cases f2

include ht
variable (hp : ∀ s, Stays R (popTokens e.h) s) (hb : i.wf = true → ∀ s, Stays R body s)
include hp hb

/-- An attempt that stops leaves what its token pops and its body leave. -/
theorem attempt_fails {s t : State} {x : Stop} {j : Job} (hj : s.own = some j) (hf : Fails (attempt i e body) s x t) : R s t := by
  cases hc : passes s j i e with
  | false =>
    obtain ⟨y, hy⟩ := attempt_refuses (body := body) hj hc
    cases hy.symm.trans hf
    exact hr s
  | true =>
    replace hf : Fails (afterChecks i e body (j.stream s.cur.2)) s x t := (attempt_passes hj hc).symm.trans hf
    have hbody {u : State} {n : Word} (hu : R s u) (f : Fails (do let r ← body; retire (r.getD n) e.h false) u x t) : R s t :=
      ht _ _ _ hu (fails_bind f (hb (wf_of_passes hc) u) fun _ v h f' => ht _ _ _ (stays_of_runs h (hb (wf_of_passes hc) u)) (retire_fails hr f'))
    unfold afterChecks at hf
    split at hf
    · exact retire_fails hr hf
    · split at hf
      · exact fails_bind hf (hp _) fun _ u h f => hbody (stays_of_runs h (hp _)) f
      · exact hbody (hr _) hf

/-- An attempt that completes has retired the instruction from a state that its token pops and its body leave: the state it started in,
where the stage is inactive (R74). -/
theorem attempt_runs {s t : State} {x : Unit} {j : Job} (hj : s.own = some j) (hx : Runs (attempt i e body) s x t) :
    ∃ s1 pc b, R s s1 ∧ s1.own.isSome = true ∧ t = s1.onOwn (fun j => j.retire s1.cur.2 pc e.h b) := by
  cases hc : passes s j i e with
  | false =>
    obtain ⟨y, hy⟩ := attempt_refuses (body := body) hj hc
    cases hy.symm.trans hx
  | true =>
    replace hx : Runs (afterChecks i e body (j.stream s.cur.2)) s x t := (attempt_passes hj hc).symm.trans hx
    have hbody {u : State} {n : Word} (hu : R s u) (r : Runs (do let r ← body; retire (r.getD n) e.h false) u x t) :
        ∃ s1 pc b, R s s1 ∧ s1.own.isSome = true ∧ t = s1.onOwn (fun j => j.retire s1.cur.2 pc e.h b) := by
      obtain ⟨_, v, h, r'⟩ := runs_bind_inv r
      obtain ⟨ho, rfl⟩ := retire_runs_inv r'
      exact ⟨v, _, _, ht _ _ _ hu (stays_of_runs h (hb (wf_of_passes hc) u)), ho, rfl⟩
    unfold afterChecks at hx
    split at hx
    · obtain ⟨ho, rfl⟩ := retire_runs_inv hx
      exact ⟨s, _, _, hr _, ho, rfl⟩
    · split at hx
      · obtain ⟨_, u, h, r⟩ := runs_bind_inv hx
        exact hbody (stays_of_runs h (hp _)) r
      · exact hbody (hr _) hx

/-- AN INSTRUCTION THAT RETIRES: where its number in program order has been used, it did not stop, and what it did before its retirement
stays in a relation that its token pops and its body stay in. -/
theorem runInstr_retires (hq : ∀ s t, s.own.isSome = true → R s t → SeqKept s t) (he : i.enc = some e) {s t : State} {j k : Job} (hx : runInstr i body s = .next t)
    (hj : s.own = some j) (hk : t.own = some k) (hn : k.seq = j.seq + 1) :
    ∃ s1 pc b, R s s1 ∧ s1.own.isSome = true ∧ t = s1.onOwn (fun j => j.retire s1.cur.2 pc e.h b) := by
  have stops (u : State) (h : SeqKept s u) (e : u = t) : False := by
    obtain ⟨-, h⟩ := e ▸ h
    simp [hj, hk, hn] at h
  have hf {x : Stop} {u : State} (h : (attempt i e body).run s = .error x u) : SeqKept s u := hq _ _ (by rw [hj]; rfl) (attempt_fails hr ht hp hb hj h)
  unfold runInstr at hx
  rw [he] at hx
  dsimp only at hx
  split at hx <;> simp only [Host.Outcome.next.injEq] at hx
  · subst hx
    exact attempt_runs hr ht hp hb hj ‹_›
  · exact (stops _ ((SeqKept.refl s).onJob fun j => stalled_seq j _ _ _) hx).elim
  · exact (stops _ ((SeqKept.enlist s _ _ _).onJob fun j => stalled_seq j _ _ _) hx).elim
  · exact (stops _ ((hf ‹_›).onJob fun j => stalled_seq j _ _ _) hx).elim
  · exact (stops _ ((hf ‹_›).raise _) hx).elim
  · exact (stops _ (SeqKept.sendFetch s _ _) hx).elim
  · exact (stops _ (((hf ‹_›).onJob fun j => diverge_seq j _ _).markLanding _) hx).elim
  · exact (stops _ ((hf ‹_›).raise _) hx).elim

end
end Sys2Proof.Proofs
end

section
/-!
PROOF. The frame of an instruction between its operations: what its reads, its pushes and its token pops can change of the job.
-/
open Sys2Proof Sys2Proof.Machine Sys2Proof.Claims
namespace Sys2Proof.Proofs

/-! ### Frames of the executing job -/

/-- The state t is the state s but for the job that executes, whose change is in a relation. -/
def Within (J : StreamId → Job → Job → Prop) (s t : State) : Prop :=
  t.cur = s.cur ∧ ∀ j, s.own = some j → ∃ k, t = s.setJob s.cur.1 k ∧ J s.cur.2 j k

section
variable {J : StreamId → Job → Job → Prop}

theorem setJob_own {s : State} {j : Job} (hj : s.own = some j) : s.setJob s.cur.1 j = s := by
  have hc : State.core s s.cur.1 = { State.core s s.cur.1 with job := some j } := by
    conv_lhs => rw [show State.core s s.cur.1 = { State.core s s.cur.1 with job := (State.core s s.cur.1).job } from rfl]
    rw [show (State.core s s.cur.1).job = some j from hj]
  unfold State.setJob
  rw [← hc]
  simp [State.setCore, State.core, Vector.get_eq_getElem]
theorem Within.refl (hr : ∀ st j, J st j j) (s : State) : Within J s s := ⟨rfl, fun j hj => ⟨j, (setJob_own hj).symm, hr _ j⟩⟩
theorem Within.trans (ht : ∀ st i j k, J st i j → J st j k → J st i k) (s t u : State) (h : Within J s t) (g : Within J t u) : Within J s u := by
  refine ⟨g.1.trans h.1, fun i hi => ?_⟩
  obtain ⟨j, rfl, h'⟩ := h.2 i hi
  obtain ⟨k, rfl, g'⟩ := g.2 j (State.job_setJob _ _ _)
  exact ⟨k, State.setJob_setJob _ _ _ _, ht _ _ _ _ h' g'⟩
theorem Within.setJob {s : State} {j k : Job} (hj : s.own = some j) (h : J s.cur.2 j k) : Within J s (s.setJob s.cur.1 k) := by
  refine ⟨rfl, fun i hi => ?_⟩
  cases hj.symm.trans hi
  exact ⟨k, rfl, h⟩
theorem Within.seqKept (hs : ∀ st j k, J st j k → k.seq = j.seq) (s t : State) (ho : s.own.isSome = true) (h : Within J s t) : SeqKept s t := by
  obtain ⟨j, hj⟩ := Option.isSome_iff_exists.mp ho
  obtain ⟨k, rfl, hk⟩ := h.2 j hj
  refine ⟨rfl, ?_⟩
  rw [hj, show (s.setJob s.cur.1 k).own = some k from State.job_setJob _ _ _]
  simp [hs _ _ _ hk]
end

/-- What an instruction names: its header, its scalar specifiers, and its tile queues where it is one that works on tiles. -/
structure Named where
  h : Hdr
  l : List Spec
  q : Option (List (Fin 16))

/-- A stream between two operations of an instruction: only its registers and predicates that are named change, and orders that its reads
of AWAITs add. -/
structure LaneKept (l : List Spec) (a b : Stream) : Prop where
  same : b = { a with regs := b.regs, preds := b.preds, fences := b.fences }
  fences : a.fences <+: b.fences
  quiet : a.awaited = [] → b.fences = a.fences
  files : sameFiles l a b

/-- The job between two operations of an instruction that names n. -/
structure Frame (n : Named) (st : StreamId) (j k : Job) : Prop where
  job : k = { j with
    streams := k.streams
    tiles := k.tiles
    toks := k.toks
    rlog := k.rlog
    tileTail := k.tileTail
    tileLeft := k.tileLeft }
  others : ∀ x, x ≠ st → k.stream x = j.stream x
  lane : LaneKept n.l (j.stream st) (k.stream st)
  toks : ∀ i : Fin 8, (n.h.pbp = true → i ≠ fifoIdx st.prev true) → (n.h.pbn = true → i ≠ fifoIdx st.next false) → k.toks.get i = j.toks.get i
  scalar : n.q = none → k.tiles = j.tiles ∧ k.rlog = j.rlog ∧ k.tileTail = j.tileTail ∧ k.tileLeft = j.tileLeft
  tiles : ∀ i : Fin 16, i ∉ n.q.getD [] → k.tiles.get i = j.tiles.get i ∧ k.tileTail.get i = j.tileTail.get i
  left : ∀ x ∈ k.tileLeft, x ∈ j.tileLeft ∨ x.1 ∈ n.q.getD []
  rregs : ∀ r : RReg, r ≠ .rmode → r ≠ .srseed → k.rreg r = j.rreg r

theorem sameFiles_refl (l : List Spec) (a : Stream) : sameFiles l a a := ⟨fun _ _ => rfl, fun _ _ _ => rfl⟩
theorem sameFiles_trans {l : List Spec} {a b c : Stream} (h : sameFiles l a b) (k : sameFiles l b c) : sameFiles l a c :=
  ⟨fun r hr => (k.1 r hr).trans (h.1 r hr), fun n hn hx => (k.2 n hn hx).trans (h.2 n hn hx)⟩
theorem LaneKept.refl (l : List Spec) (a : Stream) : LaneKept l a a := ⟨rfl, List.prefix_rfl, fun _ => rfl, sameFiles_refl l a⟩
theorem LaneKept.trans {l : List Spec} {a b c : Stream} (h : LaneKept l a b) (k : LaneKept l b c) : LaneKept l a c where
  same := by
    have e := k.same
    rw [h.same] at e
    exact e
  fences := h.fences.trans k.fences
  quiet ha := by
    have e : b.awaited = a.awaited := by rw [h.same]
    exact (k.quiet (e.trans ha)).trans (h.quiet ha)
  files := sameFiles_trans h.files k.files

theorem Frame.refl (n : Named) (st : StreamId) (j : Job) : Frame n st j j :=
  ⟨rfl, fun _ _ => rfl, LaneKept.refl _ _, fun _ _ _ => rfl, fun _ => ⟨rfl, rfl, rfl, rfl⟩, fun _ _ => ⟨rfl, rfl⟩, fun _ h => .inl h, fun _ _ _ => rfl⟩
theorem Frame.trans {n : Named} {st : StreamId} (i j k : Job) (h : Frame n st i j) (g : Frame n st j k) : Frame n st i k where
  job := by
    have e := g.job
    rw [h.job] at e
    exact e
  others x hx := (g.others x hx).trans (h.others x hx)
  lane := h.lane.trans g.lane
  toks x hp hn := (g.toks x hp hn).trans (h.toks x hp hn)
  scalar hq := by
    obtain ⟨a, b, c, d⟩ := h.scalar hq
    obtain ⟨a', b', c', d'⟩ := g.scalar hq
    exact ⟨a'.trans a, b'.trans b, c'.trans c, d'.trans d⟩
  tiles x hx := ⟨((g.tiles x hx).1).trans (h.tiles x hx).1, ((g.tiles x hx).2).trans (h.tiles x hx).2⟩
  left x hx := (g.left x hx).elim (h.left x) .inr
  rregs r hm hs := (g.rregs r hm hs).trans (h.rregs r hm hs)

/-- The state between two operations of an instruction that names n. -/
def Keeps (n : Named) : State → State → Prop := Within (Frame n)
theorem Keeps.refl (n : Named) (s : State) : Keeps n s s := Within.refl (Frame.refl n) s
theorem Keeps.trans (n : Named) (s t u : State) (h : Keeps n s t) (g : Keeps n t u) : Keeps n s u :=
  Within.trans (fun _ => Frame.trans) s t u h g

/-! ### Operations on what an instruction names -/

/-- The list names a scalar register. -/
def namesReg (l : List Spec) (r : Fin 31) : Prop := ∃ x ∈ l, Spec.file x = false ∧ Spec.reg x = some r

theorem LaneKept.setReg {l : List Spec} {r : Fin 31} (h : namesReg l r) (a : Stream) (q : Queue Word) :
    LaneKept l a { a with regs := a.regs.set r q } := by
  refine ⟨rfl, List.prefix_rfl, fun _ => rfl, fun i hi => ?_, fun _ _ _ => rfl⟩
  obtain ⟨x, hx, hf, hr⟩ := h
  refine vec_get_set_ne _ _ r.isLt fun e => ?_
  have := hi x hx
  simp [hf, hr, e] at this
theorem LaneKept.reads (l : List Spec) (id seq : Nat) (a : Stream) : LaneKept l a (a.reads id seq) := by
  unfold Stream.reads
  split
  · rename_i h
    refine ⟨rfl, List.prefix_append _ _, fun ha => ?_, sameFiles_refl l a⟩
    simp [ha] at h
  · exact LaneKept.refl l a
/-- A predicate that is written leaves the other seven as they were. -/
theorem writePred_getLsbD (p : BitVec 8) {m n : Nat} (b : Bool) (h : m ≠ n) (hn : n < 8) :
    BitVec.getLsbD (if b then p ||| (1 : BitVec 8) <<< m else p &&& ~~~((1 : BitVec 8) <<< m)) n = p.getLsbD n := by
  cases b
  · simp [hn]
    omega
  · simp [hn]
    omega
theorem LaneKept.setPred {l : List Spec} {x : Spec} (hx : x ∈ l) (hf : Spec.file x = true) (b : Bool) (a : Stream) :
    LaneKept l a { a with preds := if b then a.preds ||| (1 : BitVec 8) <<< (Spec.num x % 8) else a.preds &&& ~~~((1 : BitVec 8) <<< (Spec.num x % 8)) } := by
  refine ⟨rfl, List.prefix_rfl, fun _ => rfl, fun _ _ => rfl, fun n hn h => ?_⟩
  have e : Spec.num x % 8 ≠ n := by simpa [hf] using h x hx
  exact writePred_getLsbD _ _ e hn

section
variable {n : Named}

theorem Frame.onStream {st : StreamId} {j : Job} {f : Stream → Stream} (h : LaneKept n.l (j.stream st) (f (j.stream st))) :
    Frame n st j (j.onStream st f) where
  job := rfl
  others x hx := Job.stream_setStream_ne j _ (Ne.symm hx)
  lane := by rwa [Job.stream_onStream]
  toks _ _ _ := rfl
  scalar _ := ⟨rfl, rfl, rfl, rfl⟩
  tiles _ _ := ⟨rfl, rfl⟩
  left _ h := .inl h
  rregs _ _ _ := rfl
theorem Frame.setTok {st : StreamId} {j : Job} {i : Fin 8} (q : Queue Unit)
    (h : n.h.pbp = true ∧ i = fifoIdx st.prev true ∨ n.h.pbn = true ∧ i = fifoIdx st.next false) :
    Frame n st j { j with toks := j.toks.set i q } where
  job := rfl
  others _ _ := rfl
  lane := LaneKept.refl _ _
  toks x hp hn := by
    refine vec_get_set_ne _ _ i.isLt fun e => ?_
    subst e
    obtain ⟨ha, hb⟩ | ⟨ha, hb⟩ := h
    · exact hp ha hb
    · exact hn ha hb
  scalar _ := ⟨rfl, rfl, rfl, rfl⟩
  tiles _ _ := ⟨rfl, rfl⟩
  left _ h := .inl h
  rregs _ _ _ := rfl

theorem modifyStream_keeps {f : Stream → Stream} (h : ∀ a, LaneKept n.l a (f a)) (s : State) : Stays (Keeps n) (modifyStream f) s :=
  stays_modifyStream (Keeps.refl n) (Keeps.trans n) fun _ hj => Within.setJob hj (Frame.onStream (h _))

theorem awaitEntry_keeps {α β : Type} (c : Coord) (e : QEntry α) (s : State) : Stays (Keeps n) (awaitEntry c e : M β) s := by
  unfold awaitEntry
  exact stays_ite (fun _ => stays_trap (Keeps.refl n) _ _ s) (fun _ => stays_stall (Keeps.refl n) _ s)
theorem readScalar_keeps {x : Spec} (hx : x ∈ n.l) (hf : Spec.file x = false) (d : Bool) (s : State) : Stays (Keeps n) (readScalar x d) s := by
  have hr := Keeps.refl n
  have ht := Keeps.trans n
  unfold readScalar
  split
  · exact stays_pure hr _ s
  · rename_i r hreg
    refine stays_bind ht (stays_getJob hr s) fun j t _ => stays_bind ht (stays_curStream hr t) fun st u _ => ?_
    dsimp only
    split
    · exact stays_ite (fun _ => stays_stall hr _ _) (fun _ => stays_trap hr _ _ _)
    · split
      · exact awaitEntry_keeps _ _ _
      · have hc (e : QEntry Word) (c : Coord) (w : State) :
            Stays (Keeps n) (if d then trapIf (decide (c < e.stamp.coord)) 0x06 (coordWord e.stamp.coord) else checkEntry c e) w :=
          stays_ite (fun _ => stays_trapIf hr _ _ _ _) (fun _ => stays_checkEntry hr ht _ _ _)
        have htail (e : QEntry Word) (v : Word) (k : Nat) (q : Queue Word) (b : Bool) (w : State) : Stays (Keeps n) (do
            stallIf b 13
            modifyStream (Stream.reads e.id k)
            if Spec.peek x then return v
            setReg r q
            return v) w :=
          stays_bind ht (stays_stallIf hr _ _ _) fun _ _ _ => stays_bind ht (modifyStream_keeps (LaneKept.reads _ _ _) _) fun _ _ _ =>
            stays_ite (fun _ => stays_pure hr _ _) fun _ =>
              stays_bind ht (modifyStream_keeps (fun a => LaneKept.setReg ⟨x, hx, hf, hreg⟩ a q) _) fun _ _ _ => stays_pure hr _ _
        split
        · exact stays_bind ht (stays_trapIf hr _ _ _ _) fun _ _ _ => stays_bind ht (stays_get hr _) fun _ _ _ => htail _ _ _ _ _ _
        · exact stays_bind ht (stays_checkEntry hr ht _ _ _) fun _ _ _ => stays_bind ht (stays_get hr _) fun _ _ _ => htail _ _ _ _ _ _
theorem pop_keeps {x : Spec} (hx : x ∈ n.l) (hf : Spec.file x = false) (s : State) : Stays (Keeps n) (pop x) s := readScalar_keeps hx hf false s
theorem dropN_keeps {x : Spec} (hx : x ∈ n.l) (hf : Spec.file x = false) (m : Nat) (s : State) : Stays (Keeps n) (dropN x m) s := by
  induction m generalizing s with
  | zero => exact stays_pure (Keeps.refl n) _ s
  | succ m ih => exact stays_bind (Keeps.trans n) (readScalar_keeps hx hf true s) fun _ t _ => ih t
theorem pushRoom_keeps (x : Spec) (s : State) : Stays (Keeps n) (pushRoom x) s := by
  have hr := Keeps.refl n
  have ht := Keeps.trans n
  unfold pushRoom
  split
  · exact stays_pure hr _ s
  · refine stays_bind ht (stays_getJob hr s) fun _ t _ => stays_bind ht (stays_curStream hr t) fun _ u _ =>
      stays_bind ht (stays_trapIf hr _ _ _ u) fun _ v _ => stays_ite (fun _ => ?_) fun _ => stays_pure hr _ _
    exact stays_ite (fun _ => stays_trap hr _ _ _) (fun _ => stays_stall hr _ _)
theorem pushEntry_keeps {x : Spec} (hx : x ∈ n.l) (hf : Spec.file x = false) (h : Hdr) (v : Option Word) (id : Nat) (held : Bool) (s : State) :
    Stays (Keeps n) (pushEntry h x v id held) s := by
  have hr := Keeps.refl n
  have ht := Keeps.trans n
  refine stays_bind ht (pushRoom_keeps x s) fun _ t _ => ?_
  split
  · exact stays_pure hr _ t
  · rename_i r hreg
    exact stays_bind ht (stays_getStream hr ht t) fun _ u _ => modifyStream_keeps (fun a => LaneKept.setReg ⟨x, hx, hf, hreg⟩ a _) u
theorem push_keeps {x : Spec} (hx : x ∈ n.l) (hf : Spec.file x = false) (h : Hdr) (v : Word) (s : State) : Stays (Keeps n) (push h x v) s :=
  stays_bind (Keeps.trans n) (stays_getJob (Keeps.refl n) s) fun _ t _ => pushEntry_keeps hx hf h _ _ _ t
theorem readPred_keeps (x : Spec) (s : State) : Stays (Keeps n) (readPred x) s :=
  stays_bind (Keeps.trans n) (stays_getStream (Keeps.refl n) (Keeps.trans n) s) fun _ _ _ => stays_pure (Keeps.refl n) _ _
theorem writePred_keeps {x : Spec} (hx : x ∈ n.l) (hf : Spec.file x = true) (b : Bool) (s : State) : Stays (Keeps n) (writePred x b) s :=
  modifyStream_keeps (LaneKept.setPred hx hf b) s

theorem popToken_keeps {src : StreamId} {b : Bool} {s : State}
    (h : n.h.pbp = true ∧ fifoIdx src b = fifoIdx s.cur.2.prev true ∨ n.h.pbn = true ∧ fifoIdx src b = fifoIdx s.cur.2.next false) :
    Stays (Keeps n) (popToken src b) s := by
  have hr := Keeps.refl n
  have ht := Keeps.trans n
  refine stays_bind ht (stays_getJob hr s) fun j t hj => ?_
  obtain ⟨hj, rfl⟩ := runs_getJob_inv hj
  refine stays_bind ht (stays_getStream hr ht _) fun x u hx => ?_
  obtain ⟨-, -, -, rfl⟩ := runs_getStream_inv hx
  dsimp only
  split
  · exact stays_ite (fun _ => stays_bind ht (stays_get hr _) fun _ _ _ => stays_trap hr _ _ _) (fun _ => stays_stall hr _ _)
  · refine stays_bind ht (stays_checkEntry hr ht _ _ _) fun _ v hv => ?_
    cases checkEntry_keeps hv
    exact stays_setJob (Within.setJob hj (Frame.setTok _ h))
theorem popTokens_keeps (s : State) : Stays (Keeps n) (popTokens n.h) s := by
  have hr := Keeps.refl n
  have ht := Keeps.trans n
  refine stays_bind ht (stays_curStream hr s) fun st t hst => ?_
  obtain ⟨rfl, rfl⟩ := runs_curStream_inv hst
  dsimp only
  have hlast (u : State) (hu : u.cur = t.cur) : Stays (Keeps n) (if n.h.pbn then popToken t.cur.2.next false else pure ()) u :=
    stays_ite (fun hb => popToken_keeps (.inr ⟨hb, by rw [hu]⟩)) fun _ => stays_pure hr _ _
  split
  · have hp : Stays (Keeps n) (popToken t.cur.2.prev true) t := popToken_keeps (.inl ⟨‹_›, rfl⟩)
    exact stays_bind ht hp fun _ u hu => hlast u (stays_of_runs hu hp).1
  · exact hlast t rfl

end
end Sys2Proof.Proofs
end

section
/-!
PROOF. O57: the bodies of the instructions on scalar registers keep the frame of what they name.
-/
open Sys2Proof Sys2Proof.Machine Sys2Proof.Claims
namespace Sys2Proof.Proofs

/-! ### What a retired instruction leaves as it was -/

section
variable {n : Named} {j k : Job} {st : StreamId} {pc : Word} {b : Bool} {s : State}

/-- The streams after an instruction that has kept its frame retires. -/
theorem Frame.retired_lane (h : Frame n s.cur.2 j k) : laneFrame s n.l j (k.retire s.cur.2 pc n.h b) ∧
    ((k.retire s.cur.2 pc n.h b).stream s.cur.2).prog = (j.stream s.cur.2).prog ∧
    ((k.retire s.cur.2 pc n.h b).stream s.cur.2).awaited = (j.stream s.cur.2).awaited := by
  obtain ⟨hsame, hf, hq, hr, hp⟩ := h.lane
  have hl := retire_lane k s.cur.2 pc n.h b
  dsimp only at hl
  rw [hsame] at hl
  refine ⟨⟨fun x hx => by rw [retire_others k pc n.h b hx, h.others x hx], ?_⟩, by rw [hl], by rw [hl]⟩
  dsimp only
  refine ⟨by rw [hl], ?_, fun ha => ?_, fun r hx => ?_, fun m hm hx => ?_⟩
  · rw [hl]; exact hf
  · rw [hl]; exact hq ha
  · rw [hl]; exact hr r hx
  · rw [hl]; exact hp m hm hx
theorem Frame.retired_toks (h : Frame n s.cur.2 j k) : tokenFrame s n.h j (k.retire s.cur.2 pc n.h b) := by
  intro i hp hn
  rw [retire_job]
  exact h.toks i hp hn
theorem Frame.retired_job (h : Frame n st j k) :
    let r := k.retire st pc n.h b
    r = { j with
      streams := r.streams
      tiles := r.tiles
      toks := r.toks
      seq := r.seq
      counters := r.counters
      rlog := r.rlog
      tileTail := r.tileTail
      tileLeft := r.tileLeft } := by
  dsimp only
  have e := retire_job k st pc n.h b
  generalize k.retire st pc n.h b = r at e ⊢
  rw [h.job] at e
  exact e.trans (by rw [e])

end

/-- An instruction that names n is executed as a body within the checks and the retirement, and the body keeps the frame of n. -/
def Framed (n : Named) (i : Instr) : Prop := (∃ e, i.enc = some e ∧ e.h = n.h) ∧
  ∃ body, (∀ s, exec i s = runInstr i body s) ∧ (i.wf = true → ∀ s, Stays (Keeps n) body s)

/-- AN INSTRUCTION THAT RETIRES has kept its frame up to its retirement. -/
theorem Framed.retires {n : Named} {i : Instr} (hi : Framed n i) {s t : State} {j k : Job} (hx : exec i s = .next t) (hj : s.own = some j)
    (hk : t.own = some k) (hn : k.seq = j.seq + 1) :
    t = s.setJob s.cur.1 k ∧ ∃ u pc b, Frame n s.cur.2 j u ∧ k = u.retire s.cur.2 pc n.h b := by
  obtain ⟨⟨e, he, hh⟩, body, hb, hs⟩ := hi
  rw [hb] at hx
  have hseq (st : StreamId) (j k : Job) (h : Frame n st j k) : k.seq = j.seq := by rw [h.job]
  obtain ⟨s1, pc, b, h1, -, rfl⟩ := runInstr_retires (Keeps.refl n) (Keeps.trans n) (fun s => hh ▸ popTokens_keeps s) hs
    (Within.seqKept hseq) he hx hj hk hn
  obtain ⟨u, rfl, hu⟩ := h1.2 j hj
  have ho : (s.setJob s.cur.1 u).own = some u := State.job_setJob _ _ _
  rw [State.onOwn_own, ho, Option.map_some, Option.some.injEq] at hk
  rw [State.onOwn_eq ho, hk, ← hh]
  exact ⟨State.setJob_setJob _ _ _ _, u, pc, b, hu, hk.symm⟩

/-! ### The bodies of scalar instructions -/

theorem straight_keeps {n : Named} {body : M Unit} (h : ∀ s, Stays (Keeps n) body s) (s : State) : Stays (Keeps n) (straight body) s :=
  stays_bind (Keeps.trans n) (h s) fun _ _ _ => stays_pure (Keeps.refl n) _ _

/-- A specifier of a scalar class names a scalar register (R19, R47). -/
theorem file_of_src {x : Spec} (h : Cls.src.ok x = true) : Spec.file x = false := by
  simpa [Cls.ok, Spec.file] using h
theorem file_of_dst {x : Spec} (h : Cls.dst.ok x = true) : Spec.file x = false := by
  revert x; decide
theorem file_of_pred {x : Spec} (h : Cls.pred.ok x = true) : Spec.file x = true := by
  revert x; decide

theorem cls_ok {f : FRR} {d a b c : Cls} (h : f.cls d a b c = true) : d.ok f.d = true ∧ a.ok f.a = true ∧ b.ok f.b = true := by
  simp only [FRR.cls, Bool.and_eq_true] at h
  exact ⟨h.1.1.1, h.1.1.2, h.1.2⟩

section
variable {h : Hdr}

theorem alu2_keeps {f : FRR} (g : Word → Word → Word) (hw : f.cls .dst .src .src .none = true) (s : State) :
    Stays (Keeps ⟨h, [f.a, f.b, f.d], none⟩) (Machine.alu2 h f g) s := by
  obtain ⟨hd, ha, hb⟩ := cls_ok hw
  exact stays_bind (Keeps.trans _) (pop_keeps (by simp) (file_of_src ha) s) fun _ t _ =>
    stays_bind (Keeps.trans _) (pop_keeps (by simp) (file_of_src hb) t) fun _ u _ => push_keeps (by simp) (file_of_dst hd) h _ u
theorem alu1_keeps {f : FRR} (g : Word → Word) (hw : f.cls .dst .src .none .none = true) (s : State) :
    Stays (Keeps ⟨h, [f.a, f.d], none⟩) (alu1 h f g) s := by
  obtain ⟨hd, ha, -⟩ := cls_ok hw
  exact stays_bind (Keeps.trans _) (pop_keeps (by simp) (file_of_src ha) s) fun _ t _ => push_keeps (by simp) (file_of_dst hd) h _ t
theorem compare2_keeps {f : FRR} (g : Word → Word → Bool) (hw : f.cls .pred .src .src .none = true) (s : State) :
    Stays (Keeps ⟨h, [f.a, f.b, f.d], none⟩) (compare2 f g) s := by
  obtain ⟨hd, ha, hb⟩ := cls_ok hw
  exact stays_bind (Keeps.trans _) (pop_keeps (by simp) (file_of_src ha) s) fun _ t _ =>
    stays_bind (Keeps.trans _) (pop_keeps (by simp) (file_of_src hb) t) fun _ u _ => writePred_keeps (by simp) (file_of_pred hd) _ u
theorem selBody_keeps {f : FRR} (hw : f.cls .dst .src .src .pred = true) (s : State) :
    Stays (Keeps ⟨h, [f.a, f.b, f.d], none⟩) (selBody h f) s := by
  obtain ⟨hd, ha, hb⟩ := cls_ok hw
  exact stays_bind (Keeps.trans _) (pop_keeps (by simp) (file_of_src ha) s) fun _ t _ =>
    stays_bind (Keeps.trans _) (pop_keeps (by simp) (file_of_src hb) t) fun _ u _ =>
      stays_bind (Keeps.trans _) (readPred_keeps _ u) fun _ v _ => push_keeps (by simp) (file_of_dst hd) h _ v
theorem movBody_keeps (f : FRR) (s : State) : Stays (Keeps ⟨h, [f.a, f.d], none⟩) (movBody h f) s := by
  have ht := Keeps.trans ⟨h, [f.a, f.d], none⟩
  have hd (a : Word) (t : State) : Stays (Keeps ⟨h, [f.a, f.d], none⟩) (if Spec.file f.d then writePred f.d (a != 0) else push h f.d a) t :=
    stays_ite (fun e => writePred_keeps (by simp) e _ t) (fun e => push_keeps (by simp) (by simpa using e) h _ t)
  unfold movBody
  dsimp only
  refine stays_ite (fun _ => ?_) fun hf => ?_
  · exact stays_bind ht (stays_bind ht (readPred_keeps _ s) fun _ _ _ => stays_pure (Keeps.refl _) _ _) fun _ t _ => hd _ t
  · exact stays_bind ht (pop_keeps (by simp) (by simpa using hf) s) fun _ t _ => hd _ t
theorem addiBody_keeps {f : FRI} (hw : f.cls .dst .src = true) (s : State) : Stays (Keeps ⟨h, [f.a, f.d], none⟩) (addiBody h f) s := by
  simp only [FRI.cls, Bool.and_eq_true] at hw
  exact stays_bind (Keeps.trans _) (pop_keeps (by simp) (file_of_src hw.2) s) fun _ t _ => push_keeps (by simp) (file_of_dst hw.1) h _ t

theorem branchTarget_keeps {n : Named} (f : FBR) (s : State) : Stays (Keeps n) (branchTarget f) s :=
  stays_bind (Keeps.trans n) (stays_getStream (Keeps.refl n) (Keeps.trans n) s) fun _ _ _ => stays_pure (Keeps.refl n) _ _
theorem brBody_keeps {n : Named} (f : FBR) (s : State) : Stays (Keeps n) (brBody f) s :=
  stays_bind (Keeps.trans n) (branchTarget_keeps f s) fun _ _ _ => stays_pure (Keeps.refl n) _ _
theorem brcBody_keeps {n : Named} (f : FBR) (s : State) : Stays (Keeps n) (brcBody f) s :=
  stays_bind (Keeps.trans n) (readPred_keeps f.x s) fun _ t _ => stays_bind (Keeps.trans n) (branchTarget_keeps f t) fun _ _ _ =>
    stays_pure (Keeps.refl n) _ _
theorem callBody_keeps {f : FBR} (hw : Cls.dst.ok f.x = true) (s : State) : Stays (Keeps ⟨h, [f.x], none⟩) (callBody h f) s :=
  stays_bind (Keeps.trans _) (branchTarget_keeps f s) fun _ t _ => stays_bind (Keeps.trans _) (stays_getStream (Keeps.refl _) (Keeps.trans _) t) fun _ u _ =>
    stays_bind (Keeps.trans _) (push_keeps (by simp) (file_of_dst hw) h _ u) fun _ _ _ => stays_pure (Keeps.refl _) _ _
theorem retBody_keeps {f : FBR} (hw : Cls.src.ok f.x = true) (s : State) : Stays (Keeps ⟨h, [f.x], none⟩) (retBody f) s :=
  stays_bind (Keeps.trans _) (pop_keeps (by simp) (file_of_src hw) s) fun _ t _ => stays_bind (Keeps.trans _) (stays_trapIf (Keeps.refl _) _ _ _ t)
    fun _ _ _ => stays_pure (Keeps.refl _) _ _
theorem qdrop_keeps {f : FRR} (hw : f.cls .none .dst .none .none = true) (m : Nat) (s : State) :
    Stays (Keeps ⟨h, [f.a], none⟩) (dropN f.a m) s := by
  obtain ⟨-, ha, -⟩ := cls_ok hw
  exact dropN_keeps (by simp) (file_of_dst ha) m s
theorem qclrBody_keeps {f : FRR} (hw : f.cls .none .dst .none .none = true) (s : State) : Stays (Keeps ⟨h, [f.a], none⟩) (qclrBody f) s :=
  stays_bind (Keeps.trans _) (stays_getStream (Keeps.refl _) (Keeps.trans _) s) fun _ t _ => qdrop_keeps hw _ t
/-- A value that the executing stream holds is pushed: GETC, GEN. -/
theorem pushHeld_keeps {f : FRR} (hw : f.cls .dst .none .none .none = true) (g : Stream → Word) (s : State) :
    Stays (Keeps ⟨h, [f.d], none⟩) (do let t ← getStream; push h f.d (g t)) s := by
  obtain ⟨hd, -⟩ := cls_ok hw
  exact stays_bind (Keeps.trans _) (stays_getStream (Keeps.refl _) (Keeps.trans _) s) fun _ t _ => push_keeps (by simp) (file_of_dst hd) h _ t

end

/-- The body of each instruction on scalar registers keeps the frame of what it names. -/
theorem registerOnly_framed {i : Instr} {h : Hdr} {l : List Spec} (hi : registerOnly i = some (h, l)) : Framed ⟨h, l, none⟩ i := by
  cases i <;> cases hi <;> refine ⟨⟨_, rfl, rfl⟩, _, fun _ => rfl, fun hw => ?_⟩ <;> simp only [Instr.wf, Bool.and_eq_true] at hw
  case add f | sub f | mul f | mulh f | div f | rem f | and f | or f | xor f | shl f | shr f | sar f | rot f
    | min f | max f => exact straight_keeps (alu2_keeps _ hw.1)
  case clz f | popc f => exact straight_keeps (alu1_keeps _ hw.1)
  case sel f => exact straight_keeps (selBody_keeps hw.1)
  case mov f => exact straight_keeps (movBody_keeps f)
  case cmpEq f | cmpNe f | cmpLt f | cmpLe f | cmpLtu f | cmpLeu f => exact straight_keeps (compare2_keeps _ hw.1)
  case addi f => exact straight_keeps (addiBody_keeps hw.1)
  case ldi f | ldih f => exact straight_keeps (push_keeps (by simp) (file_of_dst hw.1) _ _)
  case br f => exact brBody_keeps f
  case brc f => exact brcBody_keeps f
  case call f => exact callBody_keeps hw.1
  case ret f => exact retBody_keeps hw.1.1
  case tok f => exact straight_keeps fun s => stays_pure (Keeps.refl _) _ s
  case qdrop f => exact straight_keeps (qdrop_keeps hw.1.1 _)
  case qclr f => exact straight_keeps (qclrBody_keeps hw.1)
  case getc f | gen f => exact straight_keeps (pushHeld_keeps hw.1 _)

/-- Settles O57: the body of each of these instructions keeps the frame of what it names, and its retirement changes no more. -/
theorem scalarFrame : Obligations.ScalarFrame := by
  intro i h l hi s t j k hx hj hk hn
  obtain ⟨ht, u, pc, b, hu, rfl⟩ := (registerOnly_framed hi).retires hx hj hk hn
  obtain ⟨hl, hp, ha⟩ := hu.retired_lane (pc := pc) (b := b)
  refine ⟨ht, fun a => by rw [ht]; rfl, ?_, hl, hp, ha, hu.retired_toks⟩
  obtain ⟨h1, h2, h3, h4⟩ := hu.scalar rfl
  have e := hu.retired_job (pc := pc) (b := b)
  dsimp only at e
  rwa [retire_tiles, retire_rlog, retire_tileTail, retire_tileLeft, h1, h2, h3, h4] at e

end Sys2Proof.Proofs
end

section
/-!
PROOF. O59: the bodies of the vector instructions on tiles keep the frame of what they name.
-/
open Sys2Proof Sys2Proof.Machine Sys2Proof.Claims
namespace Sys2Proof.Proofs

/-! ### Tile queues and restored registers -/

/-- The instruction names a tile queue. -/
def Named.tile (n : Named) (i : Fin 16) : Prop := ∃ q, n.q = some q ∧ i ∈ q

section
variable {n : Named}

theorem Frame.setTile {st : StreamId} {j : Job} {i : Fin 16} (h : n.tile i) (x : Queue Tile) :
    Frame n st j { j with tiles := j.tiles.set i x } := by
  obtain ⟨q, hq, hi⟩ := h
  have hne (m : Fin 16) (hm : m ∉ n.q.getD []) : i ≠ m := fun e => hm (by rw [hq]; exact e ▸ hi)
  exact {
    job := rfl
    others := fun _ _ => rfl
    lane := LaneKept.refl _ _
    toks := fun _ _ _ => rfl
    scalar := fun h => by rw [hq] at h; cases h
    tiles := fun m hm => ⟨vec_get_set_ne _ _ i.isLt (hne m hm), rfl⟩
    left := fun _ h => .inl h
    rregs := fun _ _ _ => rfl }
theorem Frame.addTile {st : StreamId} {j : Job} {i : Fin 16} (h : n.tile i) (e : QEntry Tile) : Frame n st j (j.addTile i e) := by
  obtain ⟨q, hq, hi⟩ := h
  have hne (m : Fin 16) (hm : m ∉ n.q.getD []) : i ≠ m := fun e => hm (by rw [hq]; exact e ▸ hi)
  exact {
    job := rfl
    others := fun _ _ => rfl
    lane := LaneKept.refl _ _
    toks := fun _ _ _ => rfl
    scalar := fun h => by rw [hq] at h; cases h
    tiles := fun m hm => ⟨vec_get_set_ne _ _ i.isLt (hne m hm), vec_get_set_ne _ _ i.isLt (hne m hm)⟩
    left := fun x hx => by
      unfold Job.addTile leaveTile at hx
      dsimp only at hx
      split at hx
      · simp only [List.mem_cons, List.mem_filter] at hx
        rcases hx with rfl | ⟨hx, -⟩
        · exact .inr (by rw [hq]; exact hi)
        · exact .inl hx
      · exact .inl hx
    rregs := fun _ _ _ => rfl }
/-- Flags of RMODE and draws of SRSEED leave the other restored registers (R171, R176). -/
theorem rchange_rreg {j : Job} {c : Coord} {r x : RReg} (v : RChange) (h : r ≠ x) : (j.rchange c x v).rreg r = j.rreg r := by
  have hne : x.fin ≠ r.fin := by revert h; cases r <;> cases x <;> decide
  simp only [Job.rreg, Job.rnow, Job.rchange, List.foldl_append, List.foldl_cons, List.foldl_nil, RBase.apply]
  exact vec_get_set_ne _ _ x.fin.isLt hne
theorem Frame.rchange {st : StreamId} {j : Job} {r : RReg} (hq : n.q ≠ none) (hr : r = .rmode ∨ r = .srseed) (c : Coord) (v : RChange) :
    Frame n st j (j.rchange c r v) where
  job := rfl
  others _ _ := rfl
  lane := LaneKept.refl _ _
  toks _ _ _ := rfl
  scalar h := (hq h).elim
  tiles _ _ := ⟨rfl, rfl⟩
  left _ h := .inl h
  rregs x hm hs := rchange_rreg v fun e => by
    subst e
    exact hr.elim hm hs

/-! ### Operations of vector instructions -/

theorem takeTile_keeps {m : Nat} (h : n.tile (tileIdx m)) (pk w : Bool) (l : List StreamId) (c : Coord) (id : Nat) (s : State) :
    Stays (Keeps n) (takeTile m pk w l c id) s := by
  have hr := Keeps.refl n
  have ht := Keeps.trans n
  refine stays_bind ht (stays_getJob hr s) fun j t hj => ?_
  obtain ⟨hj, rfl⟩ := runs_getJob_inv hj
  dsimp only
  split
  · exact stays_emptyTile hr ht _ _ _ _
  · split
    · exact stays_stall hr _ _
    · refine stays_bind ht (stays_checkEntry hr ht _ _ _) fun _ u hu => ?_
      cases checkEntry_keeps hu
      refine stays_ite (fun _ => stays_pure hr _ _) fun _ => stays_ite (fun _ => ?_) fun _ => ?_
      · exact stays_ite (fun _ => stays_trap hr _ _ _) (fun _ => stays_stall hr _ _)
      · exact stays_bind ht (stays_setJob (Within.setJob hj (Frame.setTile h _))) fun _ _ _ => stays_pure hr _ _
theorem tileIdx_mod (m : Nat) : tileIdx (m % 16) = tileIdx m := by simp [tileIdx]
theorem popTile_keeps {f : BitVec 5} (h : n.tile (tileIdx f.toNat)) (s : State) : Stays (Keeps n) (popTile f) s := by
  have hr := Keeps.refl n
  have ht := Keeps.trans n
  refine stays_bind ht (stays_getJob hr s) fun _ t _ => stays_bind ht (stays_getStream hr ht t) fun _ u _ =>
    stays_bind ht (stays_trapIf hr _ _ _ u) fun _ v _ => takeTile_keeps ?_ _ _ _ _ _ v
  rwa [tileIdx_mod]
theorem pushTileAt_keeps {m : Nat} (h : n.tile (tileIdx m)) (e : QEntry Tile) (w : Bool) (s : State) : Stays (Keeps n) (pushTileAt m e w) s := by
  have hr := Keeps.refl n
  refine stays_bind (Keeps.trans n) (stays_getJob hr s) fun j t hj => ?_
  obtain ⟨hj, rfl⟩ := runs_getJob_inv hj
  refine stays_ite (fun _ => ?_) fun _ => stays_setJob (Within.setJob hj (Frame.addTile h e))
  exact stays_ite (fun _ => stays_stall hr _ _) (fun _ => stays_trap hr _ _ _)
theorem pushTile_keeps {d : BitVec 4} (hd : n.tile (tileIdx d.toNat)) (h : Hdr) (v : Tile) (form : Bool) (s : State) :
    Stays (Keeps n) (pushTile h d v form) s := by
  have hr := Keeps.refl n
  have ht := Keeps.trans n
  exact stays_bind ht (stays_getJob hr s) fun _ t _ => stays_bind ht (stays_getStream hr ht t) fun _ u _ =>
    stays_bind ht (stays_trapIf hr _ _ _ u) fun _ w _ => pushTileAt_keeps hd _ _ w
theorem pushMarkedTile_keeps {d : BitVec 4} (hd : n.tile (tileIdx d.toNat)) (h : Hdr) (v : Tile) (m : Mark) (form : Bool) (s : State) :
    Stays (Keeps n) (pushMarkedTile h d v m form) s := by
  have hr := Keeps.refl n
  have ht := Keeps.trans n
  refine stays_bind ht (pushTile_keeps hd h v form s) fun _ t _ => ?_
  split
  · exact stays_pure hr _ _
  · exact stays_modifyJob hr ht fun _ hj => Within.setJob hj (Frame.setTile hd _)
theorem needs_keeps (o : VOpd) (s : State) : Stays (Keeps n) o.needs s := by
  have hr := Keeps.refl n
  cases o with
  | unused => exact stays_pure hr _ s
  | seg k step ty => exact stays_pure hr _ s
  | queue f => exact stays_bind (Keeps.trans n) (stays_getJob hr s) fun _ _ _ => stays_trapIf hr _ _ _ _
theorem forM_needs_keeps (l : List VOpd) (s : State) : Stays (Keeps n) (l.forM VOpd.needs) s :=
  stays_forM (Keeps.refl n) (Keeps.trans n) needs_keeps l s
theorem laneCtx_keeps (rm : BitVec 3) (s : State) : Stays (Keeps n) (laneCtx rm) s :=
  stays_bind (Keeps.trans n) (stays_getJob (Keeps.refl n) s) fun _ _ _ => stays_pure (Keeps.refl n) _ _
theorem maskOf_keeps (f : FVB) (s : State) : Stays (Keeps n) (maskOf f) s :=
  stays_bind (Keeps.trans n) (stays_getStream (Keeps.refl n) (Keeps.trans n) s) fun _ _ _ => stays_pure (Keeps.refl n) _ _
theorem vFinish_keeps (hq : n.q ≠ none) (x : LaneCtx) (m : Nat) (fl : Fl) (s : State) : Stays (Keeps n) (vFinish x m fl) s := by
  have hr := Keeps.refl n
  have ht := Keeps.trans n
  have hf (r : RReg) (h : r = .rmode ∨ r = .srseed) (b : Prop) [Decidable b] (v : RChange) (t : State) :
      Stays (Keeps n) (do let u ← getStream; if b then modifyJob (fun j => j.rchange u.coord r v)) t :=
    stays_bind ht (stays_getStream hr ht t) fun _ _ _ => stays_ite
      (fun _ => stays_modifyJob hr ht fun _ hj => Within.setJob hj (Frame.rchange hq h _ _)) fun _ => stays_pure hr _ _
  exact stays_bind ht (hf .rmode (.inl rfl) _ _ s) fun _ t _ => hf .srseed (.inr rfl) _ _ t

/-- An operand of a base form on tiles: a tile queue that the instruction names, or none. -/
def Named.opd (n : Named) (o : VOpd) : Prop := o = .unused ∨ ∃ f : BitVec 5, o = .queue f ∧ n.tile (tileIdx f.toNat)

theorem read_keeps {o : VOpd} (h : n.opd o) (bases : List Word) (i : Nat) (b : Bool) (s : State) : Stays (Keeps n) (o.read bases i b) s := by
  obtain rfl | ⟨f, rfl, hf⟩ := h
  · exact stays_pure (Keeps.refl n) _ s
  · exact stays_bind (Keeps.trans n) (popTile_keeps hf s) fun _ _ _ => stays_pure (Keeps.refl n) _ _
theorem sources_keeps {p : VPlan} (ha : n.opd p.a) (hb : n.opd p.b) (hc : n.opd p.c) (bases : List Word) (i : Nat) (s : State) :
    Stays (Keeps n) (p.sources bases i) s := by
  have ht := Keeps.trans n
  exact stays_bind ht (read_keeps ha _ _ _ s) fun _ t _ => stays_bind ht (read_keeps hb _ _ _ t) fun _ u _ =>
    stays_bind ht (read_keeps hc _ _ _ u) fun _ _ _ => stays_pure (Keeps.refl n) _ _

/-- A plan on tile queues that the instruction names: no base is popped and no segment checked. -/
structure TilePlan (n : Named) (p : VPlan) : Prop where
  a : n.opd p.a
  b : n.opd p.b
  c : n.opd p.c
  d : ∃ f : BitVec 5, p.d = .queue f ∧ n.tile (tileIdx (f.setWidth 4).toNat)
  step : p.step = .sel ∨ ∃ op, p.step = .elem op
  nbases : p.nbases = 0
  scale : p.scale = none

theorem checkSegs_keeps {o : VOpd} (h : n.opd o ∨ ∃ f, o = .queue f) (bases : List Word) (cnt : Nat) (s : State) :
    Stays (Keeps n) (o.checkSegs bases cnt) s := by
  obtain (rfl | ⟨f, rfl, -⟩) | ⟨f, rfl⟩ := h <;> exact stays_pure (Keeps.refl n) _ s
theorem checkPlaces_keeps {p : VPlan} (h : TilePlan n p) (bases : List Word) (s : State) : Stays (Keeps n) (p.checkPlaces bases) s := by
  have hr := Keeps.refl n
  have ht := Keeps.trans n
  obtain ⟨f, hd, -⟩ := h.d
  unfold VPlan.checkPlaces
  rw [h.scale]
  refine stays_bind ht (checkSegs_keeps (.inr ⟨f, hd⟩) _ _ s) fun _ t _ => stays_bind ht (checkSegs_keeps (.inl h.a) _ _ t) fun _ u _ =>
    stays_bind ht (checkSegs_keeps (.inl h.b) _ _ u) fun _ v _ => stays_bind ht (checkSegs_keeps (.inl h.c) _ _ v) fun _ w _ =>
      stays_pure hr _ w
theorem put_keeps {p : VPlan} (hp : TilePlan n p) (h : Hdr) (bases : List Word) (x : LaneCtx) (i : Nat) (v : VIn) (s : State) :
    Stays (Keeps n) (p.put h bases x i v) s := by
  obtain ⟨f, hd, hf⟩ := hp.d
  have hw (r : Tile) (fl : Fl) (on : Nat → Bool) : Stays (Keeps n) (do p.d.write h bases i r .none p.vform on; return fl) s := by
    rw [hd]
    exact stays_bind (Keeps.trans n) (pushMarkedTile_keeps hf h r .none p.vform s) fun _ _ _ => stays_pure (Keeps.refl n) _ _
  unfold VPlan.put
  obtain hs | ⟨op, hs⟩ := hp.step <;> rw [hs] <;> exact hw _ _ _
theorem runBase_keeps (hq : n.q ≠ none) {p : VPlan} (hp : TilePlan n p) (h : Hdr) (f : FVB) (s : State) : Stays (Keeps n) (runBase h f p) s := by
  have hr := Keeps.refl n
  have ht := Keeps.trans n
  have hl : p.step ≠ .load := by obtain hs | ⟨op, hs⟩ := hp.step <;> rw [hs] <;> simp
  unfold runBase
  rw [hp.nbases]
  refine stays_bind ht (forM_needs_keeps _ s) fun _ t _ => stays_bind ht (laneCtx_keeps _ t) fun x u _ => ?_
  rw [if_neg hl]
  refine stays_bind ht (stays_bind ht (sources_keeps hp.a hp.b hp.c _ _ u) fun v w _ => stays_bind ht (stays_pure hr _ w) fun bs y _ =>
    stays_bind ht (checkPlaces_keeps hp bs y) fun _ z _ => put_keeps hp h bs x 0 v z) fun fl w _ => vFinish_keeps hq x 1024 fl w

end

/-- The plan of a base form on tiles works on the tile queues of its fields. -/
theorem basePlan_tiles {h : Hdr} {l : List Spec} {q : List (Fin 16)} {f : FVB} {st : VStep} (hs : st = .sel ∨ ∃ op, st = .elem op)
    (ha : tileIdx f.ta.toNat ∈ q) (hb : 2 ≤ st.sources → tileIdx f.tb.toNat ∈ q) (hc : 3 ≤ st.sources → tileIdx f.tc.toNat ∈ q)
    (hd : tileIdx f.td.toNat ∈ q) (mask : BitVec 1024) : TilePlan ⟨h, l, some q⟩ (basePlan f st mask) := by
  have ho (b : Prop) [Decidable b] (t : BitVec 5) (ht : b → tileIdx t.toNat ∈ q) : Named.opd ⟨h, l, some q⟩ (if b then .queue t else .unused) := by
    split
    · exact .inr ⟨t, rfl, q, rfl, ht ‹_›⟩
    · exact .inl rfl
  have hst : st ≠ .store ∧ st ≠ .load ∧ st.scaled = false := by
    obtain rfl | ⟨op, rfl⟩ := hs <;> exact ⟨nofun, nofun, rfl⟩
  obtain ⟨h1, h2, h3⟩ := hst
  exact {
    a := by simp only [basePlan, h2, if_false]; exact .inr ⟨f.ta, rfl, q, rfl, ha⟩
    b := ho _ _ hb
    c := ho _ _ hc
    d := by simp only [basePlan, h1, if_false]; exact ⟨_, rfl, q, rfl, by simpa using hd⟩
    step := hs
    nbases := by simp [basePlan, h1, h2, h3]
    scale := by simp [basePlan, h3] }

section
variable {h : Hdr} {f : FVB} {l : List Spec} {q : List (Fin 16)} {s : State}

theorem vbBody_keeps {st : VStep} (hp : ∀ mask, TilePlan ⟨h, l, some q⟩ (basePlan f st mask)) (s : State) :
    Stays (Keeps ⟨h, l, some q⟩) (vbBody h f st) s :=
  stays_bind (Keeps.trans _) (maskOf_keeps f s) fun m t _ => runBase_keeps (Option.some_ne_none _) (hp m) h f t
theorem moveBody_keeps (hx : Spec.file f.sx = false) (src : Nat → Fin 1024 → Fin 1024) (s : State) :
    Stays (Keeps ⟨h, [f.sx], some [tileIdx f.ta.toNat, tileIdx f.td.toNat]⟩) (moveBody h f src) s := by
  have ht := Keeps.trans ⟨h, [f.sx], some [tileIdx f.ta.toNat, tileIdx f.td.toNat]⟩
  exact stays_bind ht (forM_needs_keeps _ s) fun _ t _ => stays_bind ht (popTile_keeps ⟨_, rfl, by simp⟩ t) fun _ u _ =>
    stays_bind ht (pop_keeps (by simp) hx u) fun _ v _ => stays_bind ht (maskOf_keeps f v) fun _ w _ => pushTile_keeps ⟨_, rfl, by simp⟩ h _ _ w
theorem fixedMoveBody_keeps (src : Fin 1024 → Fin 1024) (s : State) :
    Stays (Keeps ⟨h, [], some [tileIdx f.ta.toNat, tileIdx f.td.toNat]⟩) (fixedMoveBody h f src) s := by
  have ht := Keeps.trans ⟨h, [], some [tileIdx f.ta.toNat, tileIdx f.td.toNat]⟩
  exact stays_bind ht (forM_needs_keeps _ s) fun _ t _ => stays_bind ht (popTile_keeps ⟨_, rfl, by simp⟩ t) fun _ u _ =>
    stays_bind ht (maskOf_keeps f u) fun _ w _ => pushTile_keeps ⟨_, rfl, by simp⟩ h _ _ w
theorem reduceBody_keeps (g : Nat → Nat → LaneCtx → Bool → BitVec 1024 → Tile → Tile × Fl) (s : State) :
    Stays (Keeps ⟨h, [], some [tileIdx f.ta.toNat, tileIdx f.td.toNat]⟩) (reduceBody h f g) s := by
  have ht := Keeps.trans ⟨h, [], some [tileIdx f.ta.toNat, tileIdx f.td.toNat]⟩
  exact stays_bind ht (forM_needs_keeps _ s) fun _ t _ => stays_bind ht (popTile_keeps ⟨_, rfl, by simp⟩ t) fun _ u _ =>
    stays_bind ht (laneCtx_keeps _ u) fun _ v _ => stays_bind ht (maskOf_keeps f v) fun _ w _ =>
      stays_bind ht (pushTile_keeps ⟨_, rfl, by simp⟩ h _ _ w) fun _ y _ => vFinish_keeps (Option.some_ne_none _) _ _ _ y
theorem vnetBody_keeps (s : State) : Stays (Keeps ⟨h, [], some [tileIdx f.ta.toNat, tileIdx f.td.toNat]⟩) (vnetBody h f) s :=
  stays_bind (Keeps.trans _) (stays_getStream (Keeps.refl _) (Keeps.trans _) s) fun _ t _ => fixedMoveBody_keeps _ t
theorem vgenBody_keeps (hx : Spec.file f.sx = false) (s : State) : Stays (Keeps ⟨h, [f.sx], some [tileIdx f.td.toNat]⟩) (vgenBody h f) s := by
  have ht := Keeps.trans ⟨h, [f.sx], some [tileIdx f.td.toNat]⟩
  exact stays_bind ht (needs_keeps _ s) fun _ t _ => stays_bind ht (pop_keeps (by simp) hx t) fun _ v _ =>
    stays_bind ht (maskOf_keeps f v) fun _ w _ => pushTile_keeps ⟨_, rfl, by simp⟩ h _ _ w

end

/-- The SX field of an instruction that uses it names a scalar register (R47, R184). -/
theorem sx_of_ok {f : FVB} {u : VUse} {m : MUse} {b : Bool} (h : f.ok u m b = true) (hu : u.hasX = true) : Spec.file f.sx = false := by
  simp only [FVB.ok, hu, if_true, Bool.and_eq_true] at h
  exact file_of_src h.1.1.2

/-- A base form whose operands are tiles keeps the frame of its tile queues. -/
theorem tileOps_framed {i : Instr} {h : Hdr} {f : FVB} {op : EOp} (hi : tileOps i = some (h, f, op)) :
    Framed ⟨h, [], some [tileIdx f.ta.toNat, tileIdx f.tb.toNat, tileIdx f.tc.toNat, tileIdx f.td.toNat]⟩ i := by
  have hp (mask : BitVec 1024) := basePlan_tiles (h := h) (l := []) (q := [tileIdx f.ta.toNat, tileIdx f.tb.toNat, tileIdx f.tc.toNat, tileIdx f.td.toNat])
    (f := f) (.inr ⟨op, rfl⟩) (by simp) (by simp) (by simp) (by simp) mask
  unfold tileOps at hi
  split at hi <;> cases hi <;> exact ⟨⟨_, rfl, rfl⟩, _, fun _ => rfl, fun _ => straight_keeps (vbBody_keeps hp)⟩
/-- The body of each vector instruction on tiles keeps the frame of what it names. -/
theorem tileOnly_framed {i : Instr} {h : Hdr} {l : List Spec} {q : List (Fin 16)} (hi : tileOnly i = some (h, l, q)) : Framed ⟨h, l, some q⟩ i := by
  unfold tileOnly at hi
  split at hi
  case h_1 =>
    cases hi
    refine ⟨⟨_, rfl, rfl⟩, _, fun _ => rfl, fun _ => straight_keeps (vbBody_keeps fun mask => ?_)⟩
    exact basePlan_tiles (.inl rfl) (by simp) (by simp) (by simp [VStep.sources]) (by simp) mask
  case h_11 =>
    simp only [Option.map_eq_some_iff] at hi
    obtain ⟨⟨h', f, op⟩, ho, e⟩ := hi
    cases e
    exact tileOps_framed ho
  all_goals
    cases hi
    refine ⟨⟨_, rfl, rfl⟩, _, fun _ => rfl, fun hw => ?_⟩
    simp only [Instr.wf, Bool.and_eq_true] at hw
  case h_2 | h_3 | h_4 | h_5 => exact straight_keeps (moveBody_keeps (sx_of_ok hw.1.1 rfl) _)
  case h_6 => exact straight_keeps (fixedMoveBody_keeps _)
  case h_7 | h_8 => exact straight_keeps (reduceBody_keeps _)
  case h_9 => exact straight_keeps vnetBody_keeps
  case h_10 => exact straight_keeps (vgenBody_keeps (sx_of_ok hw.1.1 rfl))

/-- Settles O59: the body of each of these instructions keeps the frame of what it names, and its retirement changes no more. -/
theorem tileFrame : Obligations.TileFrame := by
  intro i h l q hi s t j k hx hj hk hn
  obtain ⟨ht, u, pc, b, hu, rfl⟩ := (tileOnly_framed hi).retires hx hj hk hn
  obtain ⟨hl, -, ha⟩ := hu.retired_lane (pc := pc) (b := b)
  refine ⟨ht, fun a => by rw [ht]; rfl, hu.retired_job, fun r hm hs => ?_, fun n hq => ?_, fun x hx => ?_, ha, hl, fun n hq => ?_, hu.retired_toks⟩
  · rw [retire_rreg]
    exact hu.rregs r hm hs
  · rw [retire_tileTail]
    exact (hu.tiles n hq).2
  · rw [retire_tileLeft] at hx
    exact hu.left x hx
  · rw [retire_tiles]
    exact (hu.tiles n hq).1

end Sys2Proof.Proofs
end

section
/-!
PROOF. O14: the checks and the operands that trap, and how a trap names its cut.
-/
open Sys2Proof Sys2Proof.Machine Sys2Proof.Claims
namespace Sys2Proof.Proofs

/-! ### Bodies that trap (R254, R256) -/

theorem straight_fails {body : M Unit} {s t : State} {x : Stop} (h : Fails body s x t) : Fails (straight body) s x t := fails_bind_left h

/-- An attempt that raises a trap is the instruction's trap. -/
theorem runInstr_traps {i : Instr} {e : Enc} {body : M (Option Word)} {s u : State} {c : BitVec 8} {w : Word} (he : i.enc = some e)
    (hf : Fails (attempt i e body) s (.trap c w 0) u) : runInstr i body s = .next (u.raise s.cur.1 (trapRec c w 0 0 (s.origin e.h))) := by
  unfold runInstr
  unfold Fails at hf
  rw [he]
  simp only [hf]
theorem traps_of_attempt {i : Instr} {e : Enc} {body : M (Option Word)} {s u : State} {c : BitVec 8} {w : Word} (he : i.enc = some e)
    (hx : exec i s = runInstr i body s) (hf : Fails (attempt i e body) s (.trap c w 0) u) : traps i s u c w := by
  intro e' he'
  cases he.symm.trans he'
  rw [hx, runInstr_traps he hf]
  rfl

/-- An instruction that enters has passed the checks, its stage is active, and no V-form waits between two iterations. -/
theorem entered_passes {i : Instr} {e : Enc} {s s0 : State} (he : i.enc = some e) (h : s.entered i = some s0) :
    ∃ j, s.own = some j ∧ passes s j i e = true ∧ (j.stream s.cur.2).skips e.h.stage.toNat = false ∧ (j.stream s.cur.2).prog.isNone = true ∧
      s.takeTokens e.h = some s0 := by
  unfold State.entered at h
  simp only [he] at h
  split at h
  · rename_i ha
    unfold State.admits at ha
    split at ha
    · cases ha
    · rename_i j hj
      simp only [Bool.and_eq_true, Bool.not_eq_true'] at ha
      obtain ⟨⟨hp, hk⟩, hn⟩ := ha
      exact ⟨j, hj, by simpa only [passes, Bool.and_eq_true] using hp, hk, hn, h⟩
  · cases h
/-- An instruction that enters reaches its body, which stops it. -/
theorem attempt_body_fails {i : Instr} {e : Enc} {body : M (Option Word)} {s s0 u : State} {x : Stop} (he : i.enc = some e)
    (h : s.entered i = some s0) (hb : Fails body s0 x u) : Fails (attempt i e body) s x u := by
  obtain ⟨j, hj, hp, hk, hn, ht⟩ := entered_passes he h
  unfold Fails
  rw [attempt_passes hj hp, afterChecks, if_neg (by simp [hk]), if_pos hn]
  exact fails_bind_right (popTokens_runs ht) (fails_bind_left hb)

/-! ### RDV, which settles the frontier when it has retired (R93) -/

theorem reclaim_streams (j : Job) (w : LandWhy) : (j.reclaim w).streams = j.streams := by
  unfold Job.reclaim
  split
  · split <;> rfl
  · rfl
  · rfl
theorem takeTrap_streams (j : Job) (t : TrapRec) : (j.takeTrap t).streams = j.streams := by
  unfold Job.takeTrap
  dsimp only
  split
  · rfl
  · split
    · exact reclaim_streams j _
    · split
      · split
        · split <;> rfl
        · rfl
        · rfl
      · rfl
theorem markLanding_job (s : State) (c : CoreId) : (s.markLanding c).job c = s.job c := by
  unfold State.markLanding State.setJState
  split
  · split
    · dsimp only
      split
      · simp only [State.job, State.core_setCore]
      · rfl
    · rfl
  · rfl
/-- A trap that no poison causes changes the job by its landing alone. -/
theorem raise_job {s : State} {t : TrapRec} (h : t.cause ≠ 0x0A) {j : Job} (hj : s.own = some j) :
    (s.raise s.cur.1 t).job s.cur.1 = some (j.takeTrap t) := by
  unfold State.raise
  rw [markLanding_job, State.own_job hj]
  simp only [h, if_false, State.onJob, State.own_job hj, State.job_setJob]
/-- A stream at RDV is what RDV leaves; a trap leaves the stream as it was. -/
theorem rdv_traps {h : Hdr} {f : FRR} {s : State} {j : Job} {t : TrapRec} (hc : t.cause ≠ 0x0A) (hj : s.own = some j)
    (hm : j.mayIssue s.cur.2 = true) (hx : runInstr (.rdv h f) (straight rdvBody) s = .next (s.raise s.cur.1 t)) :
    exec (.rdv h f) s = .next (s.raise s.cur.1 t) := by
  have hp : (j.stream s.cur.2).phase ≠ .rdv := by
    unfold Job.mayIssue at hm
    simp only [Bool.and_eq_true, decide_eq_true_eq] at hm
    rw [hm.1.1.1]
    nofun
  change execRdv h f s = _
  unfold execRdv
  rw [hx]
  simp only [raise_job hc hj, Option.any_some, Job.stream, takeTrap_streams]
  rw [if_neg (by simpa [Job.stream] using hp)]

/-- A check of R63 that refuses an instruction traps, whatever its body is. -/
theorem traps_of_check {i : Instr} {e : Enc} {s : State} {j : Job} {c : BitVec 8} {w : Word} (hc : c ≠ 0x0A) (he : i.enc = some e)
    (hj : s.own = some j) (hm : j.mayIssue s.cur.2 = true) (hf : ∀ body, Fails (attempt i e body) s (.trap c w 0) s) : traps i s s c w := by
  by_cases hr : ∃ h f, i = .rdv h f
  · obtain ⟨h, f, rfl⟩ := hr
    intro e' he'
    cases he.symm.trans he'
    exact rdv_traps hc hj hm (runInstr_traps he (hf _))
  · obtain ⟨body, hb⟩ := exec_body he (fun h f e => hr ⟨h, f, e⟩)
    exact traps_of_attempt he (hb s) (hf body)

/-! ### Operands that trap (R21, R36) -/

section
variable {s u : State} {j : Job} {x : Spec} {r : Fin 31} (hj : s.own = some j) (hx : Spec.reg x = some r)
include hj hx
theorem pop_empty (hi : ((j.stream s.cur.2).regs.get r).items = []) (hb : j.bound s.cur.2 r = none) :
    Fails (pop x) s (.trap 0x03 (specInfo x) 0) s := by
  unfold pop readScalar
  simp only [hx]
  refine fails_bind_right (runs_getJob hj) (fails_bind_right (runs_curStream s) ?_)
  simp only [hi, hb]
  exact fails_trap _ _ s
theorem pop_above {e : QEntry Word} {l : List (QEntry Word)} {v : Word} (hi : ((j.stream s.cur.2).regs.get r).items = e :: l)
    (hv : e.val = some v) (hc : (j.stream s.cur.2).coord < e.stamp.coord) :
    Fails (pop x) s (.trap 0x06 (coordWord e.stamp.coord) 0) s := by
  unfold pop readScalar
  simp only [hx]
  refine fails_bind_right (runs_getJob hj) (fails_bind_right (runs_curStream s) ?_)
  simp only [hi, hv]
  exact fails_bind_left (fails_bind_left (fails_trapIf (by simpa using hc) _ _ s))
theorem push_full (h : Hdr) (v : Word) (hl : 4 ≤ ((j.stream s.cur.2).regs.get r).items.length) :
    Fails (push h x v) s (.trap 0x04 (specInfo x) 0) s := by
  unfold push pushEntry pushRoom
  simp only [hx]
  refine fails_bind_right (runs_getJob hj) (fails_bind_left (fails_bind_right (runs_getJob hj) (fails_bind_right (runs_curStream s) ?_)))
  exact fails_bind_left (fails_trapIf (by simp [hl]) _ _ s)
end

/-! ### The instructions of the statement (R21, R32, R35, R36, R63, R71, R83) -/

/-- An instruction whose body traps after it has entered traps. -/
theorem traps_of_body {i : Instr} {body : M (Option Word)} {s s0 u : State} {c : BitVec 8} {w : Word} (hx : exec i s = runInstr i body s)
    (h : s.entered i = some s0) (hb : Fails body s0 (.trap c w 0) u) : traps i s u c w := fun _ he =>
  traps_of_attempt he hx (attempt_body_fails he h hb) _ he

/-- Each two-source instruction reads A, then B, and pushes a result of the two. -/
theorem exec_alu2 {i : Instr} {h : Hdr} {f : FRR} {g : Word → Word → Word} (hi : Claims.alu2 i = some (h, f, g)) :
    ∃ g', ∀ s, exec i s = runInstr i (straight (Machine.alu2 h f g')) s := by
  unfold Claims.alu2 at hi
  split at hi <;> cases hi <;> exact ⟨_, fun _ => rfl⟩

section
variable {i : Instr} {h : Hdr} {f : FRR} {g : Word → Word → Word} (hi : Claims.alu2 i = some (h, f, g)) {s s0 s1 : State} {j : Job} {r : Fin 31}
include hi

theorem alu2_traps_source {c : BitVec 8} {w : Word} (he : s.entered i = some s0) (hf : Fails (pop f.a) s0 (.trap c w 0) s0) : traps i s s0 c w := by
  obtain ⟨g', hx⟩ := exec_alu2 hi
  exact traps_of_body (hx s) he (straight_fails (fails_bind_left hf))
theorem alu2_traps_full (he : s.entered i = some s0) {a b : Word} (hv : s0.scalars [f.a, f.b] = some ([a, b], s1)) (hj : s1.own = some j)
    (hr : Spec.reg f.d = some r) (hl : 4 ≤ ((j.stream s.cur.2).regs.get r).items.length) : traps i s s1 0x04 (specInfo f.d) := by
  obtain ⟨g', hx⟩ := exec_alu2 hi
  have hc : s1.cur = s.cur := (scalars_keeps hv).1.trans (entered_keeps he).1
  obtain ⟨t, ha, hb⟩ := scalars_cons hv
  obtain ⟨u, hb, hn⟩ := scalars_cons hb
  cases scalars_nil hn
  refine traps_of_body (hx s) he (straight_fails (fails_bind_right (pop_runs ha) (fails_bind_right (pop_runs hb) ?_)))
  exact push_full hj hr h _ (by rwa [hc])
end

theorem advanceAt_fst (c : Coord) (n : Nat) :
    (advanceAt c n).1 = BitVec.ofNat 62 (c.toNat / 2 ^ levelLo n * 2 ^ levelLo n + 2 ^ levelLo n) := rfl
theorem lane_own {s : State} {t : Stream} (hl : s.lane = some t) : ∃ j, s.own = some j := by
  cases hj : s.own with
  | none => simp [State.lane, hj] at hl
  | some j => exact ⟨j, rfl⟩

section
variable {h : Hdr} {s s0 s1 : State} {t : Stream} (hl : s0.lane = some t)
include hl

theorem runs_getStream_lane : Runs getStream s0 t s0 := by
  obtain ⟨j, hj⟩ := lane_own hl
  rw [State.lane_eq hj, Option.some.injEq] at hl
  exact hl ▸ runs_getStream hj
theorem advc_traps {f : FRR} (he : s.entered (.advc h f) = some s0) (hn : t.loopUpTo f.fn.toNat = false)
    (hx : Coord.ix t.coord f.fn.toNat + 1 = 2 ^ levelWidth f.fn.toNat) : traps (.advc h f) s s0 0x05 (coordWord (advanceAt t.coord f.fn.toNat).1) := by
  have ha : (advanceAt t.coord f.fn.toNat).2 = some (coordWord (advanceAt t.coord f.fn.toNat).1) := if_pos hx
  refine traps_of_body (body := straight (advcBody f)) rfl he (straight_fails ?_)
  refine fails_bind_right (runs_getStream_lane hl) (fails_bind_right (runs_trapIf _ _ s0 hn) ?_)
  simp only [ha]
  exact fails_trap _ _ s0
theorem setcImmediate_traps {f : FCI} (he : s.entered (.setcImmediate h f) = some s0) (hc : wordCoord f.cw < t.coord) :
    traps (.setcImmediate h f) s s0 0x05 (coordWord (wordCoord f.cw)) :=
  traps_of_body (body := straight (setcTo (wordCoord f.cw))) rfl he (straight_fails (fails_bind_right (runs_getStream_lane hl)
    (fails_bind_left (fails_trapIf (by simpa using hc) _ _ s0))))
end
theorem ret_traps {h : Hdr} {s s0 s1 : State} {f : FBR} {a : Word} (he : s.entered (.ret h f) = some s0) (hv : s0.scalars [f.x] = some ([a], s1))
    (ha : a.toNat % 8 ≠ 0) : traps (.ret h f) s s1 0x09 a := by
  obtain ⟨u, hp, hn⟩ := scalars_cons hv
  cases scalars_nil hn
  exact traps_of_body (body := retBody f) rfl he (fails_bind_right (pop_runs hp) (fails_bind_left (fails_trapIf (by simpa using ha) _ _ _)))
theorem trap_traps {h : Hdr} {s s0 s1 : State} {f : FRI} {v : Word} (he : s.entered (.trap h f) = some s0) (hv : s0.scalars [f.a] = some ([v], s1)) :
    exec (.trap h f) s = .next (s1.raise s.cur.1
      { cause := BitVec.ofNat 8 f.imm.toNat, org := s.origin h, unit := 0, reason := 0, info := v, va := 0 }) := by
  obtain ⟨u, hp, hn⟩ := scalars_cons hv
  cases scalars_nil hn
  have hb : Fails (straight (trapBody f)) s0 (.trap (BitVec.ofNat 8 f.imm.toNat) v 0) s1 :=
    straight_fails (fails_bind_right (pop_runs hp) (fails_trap _ _ _))
  have ht : traps (.trap h f) s s1 (BitVec.ofNat 8 f.imm.toNat) v := traps_of_body rfl he hb
  exact ht ⟨0x10, 0x02, h, .ri f⟩ rfl

/-- R63: the common checks in their order. -/
theorem checks_trap {i : Instr} {e : Enc} {s : State} {j : Job} (he : i.enc = some e) (hj : s.own = some j) (hm : j.mayIssue s.cur.2 = true) :
    let t := j.stream s.cur.2
    ((i.wf = false ∨ t.stageOk e.h.stage.toNat = false) → traps i s s 0x01 i.firstWord) ∧
    (i.wf = true → t.stageOk e.h.stage.toNat = true →
      ((encStreams e).contains s.cur.2 = false → traps i s s 0x02 i.firstWord) ∧
      ((encStreams e).contains s.cur.2 = true → supOnly e = true → s.isSup = false → traps i s s 0x13 i.firstWord)) :=
  ⟨fun h => traps_of_check (by decide) he hj hm fun _ => attempt_illFormed hj hm h,
    fun hw hs => ⟨fun h => traps_of_check (by decide) he hj hm fun _ => attempt_wrongStream hj hm hw hs h,
      fun h ho hsup => traps_of_check (by decide) he hj hm fun _ => attempt_supervisor hj hm hw hs h ho hsup⟩⟩

/-! ### A trap names the cut before its stamp (R89, R133, R134) -/

theorem takeTrap_none {j : Job} (t : TrapRec) (h : j.landing = none) :
    j.takeTrap t = { j with landing := some ⟨t.org.stamp.coord.toNat, .trap t⟩ } := by
  unfold Job.takeTrap
  rw [h]
theorem takeTrap_lower {j : Job} {t : TrapRec} {l : Landing} (h : j.landing = some l) (hb : t.org.stamp.coord.toNat < l.bound) :
    j.takeTrap t = { j.reclaim l.why with landing := some ⟨t.org.stamp.coord.toNat, .trap t⟩ } := by
  unfold Job.takeTrap
  rw [h]
  simp only [hb, if_true]
theorem reclaim_no_request {j : Job} {w : LandWhy} (h : ∀ r k c x, w ≠ .request r k c x) : j.reclaim w = j := by
  cases w with
  | trap t => rfl
  | late t => rfl
  | request r k c x => exact (h r k c x rfl).elim
theorem reclaim_lasting {j : Job} {r : StopReq} (k : BitVec 4) (c : BitVec 8) (x : Word) (hl : r.lasts = true) (hs : j.stop = none) :
    j.reclaim (.request r k c x) = { j with stop := some r } := by
  unfold Job.reclaim
  simp only [hl, hs, Option.all_none, Bool.and_self, if_true]

/-- Settles O14: each check or operand that refuses stops the attempt with its trap, which the job takes. -/
theorem trapIsTaken : Obligations.TrapIsTaken := by
  refine ⟨fun i e s j he hj hm => checks_trap he hj hm, fun i h f g hi s s0 s1 j r he => ⟨fun hj hr => ⟨fun hq hb => ?_, fun e l v hq hv hc => ?_⟩,
    fun a b hv hj hr hl => alu2_traps_full hi he hv hj hr hl⟩, fun h s s0 s1 t hl => ⟨fun f he hn hx => ?_, fun f he hc => setcImmediate_traps hl he hc,
    fun f a he hv ha => ret_traps he hv ha⟩, fun h f s s0 s1 v he hv => trap_traps he hv, fun j t => ⟨takeTrap_none t, fun l hl hb => ⟨fun hw => ?_,
    fun r k c x hw hr hs => ?_⟩⟩⟩
  · rw [← (entered_keeps he).1] at hq hb
    exact alu2_traps_source hi he (pop_empty hj hr hq hb)
  · rw [← (entered_keeps he).1] at hq hc
    exact alu2_traps_source hi he (pop_above hj hr hq hv hc)
  · rw [← advanceAt_fst]
    exact advc_traps hl he hn hx
  · rw [takeTrap_lower hl hb, reclaim_no_request hw]
  · rw [takeTrap_lower hl hb, hw, reclaim_lasting k c x hr hs]

end Sys2Proof.Proofs
end

section
/-!
PROOF. O21: FENCE, SPAWN and RDV.
-/
open Sys2Proof Sys2Proof.Machine Sys2Proof.Claims
namespace Sys2Proof.Proofs

/-! ### FENCE -/

/-- FENCE completes when nothing of its stream is pending at its scope; its number is kept from team scope on. -/
theorem fenceBody_runs {f : FRR} {s : State} {j : Job} (hj : s.own = some j) (hp : s.fencePending s.cur.1 j s.cur.2 f.fn.toNat = false) :
    Runs (fenceBody f) s () (if f.fn.toNat < 3 then s
      else s.onLane (fun t => { t with fences := s.fencesKept s.cur.1 j s.cur.2 ++ [(j.seq, f.fn.toNat)] })) := by
  refine runs_bind (runs_getJob hj) (runs_bind (runs_get s) ?_)
  simp only [hp, Bool.false_eq_true, if_false]
  by_cases hf : f.fn.toNat < 3
  · rw [if_pos hf, if_neg (by omega)]
    exact runs_pure () s
  · rw [if_neg hf, if_pos (by omega)]
    exact runs_modifyStream _ hj

/-! ### SPAWN: the place of its record, its status entry, its launch (R91, R343, R400) -/

theorem live_own {s : State} {j : Job} (hl : s.live = true) (hj : s.own = some j) :
    j.replay.replaying = false ∧ (j.replay.recording && decide (64 ≤ j.trace.length)) = false := by
  simpa only [State.live, hj, Option.any_some, Bool.and_eq_true, Bool.not_eq_true'] using hl
/-- A job that does not replay takes no recorded value. -/
theorem replayTake_runs {s : State} {j : Job} (h : Hdr) (sub : Nat) (hj : s.own = some j) (hr : j.replay.replaying = false) :
    Runs (replayTake h sub) s none s := by
  have hn : Runs replaying s false s := by
    refine runs_bind (runs_getJob hj) ?_
    simp only [hr, Bool.not_false, if_true]
    exact runs_pure false s
  exact runs_bind hn (runs_pure none s)
theorem traceRoom_runs {s : State} {j : Job} (h : Hdr) (hj : s.own = some j) (hf : (j.replay.recording && decide (64 ≤ j.trace.length)) = false) :
    Runs (traceRoom h) s () s := by
  refine runs_bind (runs_getJob hj) (runs_bind (runs_originOf h hj) ?_)
  simp only [hf, Bool.false_eq_true, if_false]
  exact runs_pure () s
theorem recordLater_runs {s : State} {j : Job} (h : Hdr) (sub : Nat) (hj : s.own = some j)
    (hf : (j.replay.recording && decide (64 ≤ j.trace.length)) = false) : Runs (recordLater h sub) s () (s.keeping h sub) :=
  runs_bind (traceRoom_runs h hj hf) (runs_bind (runs_originOf h hj) (runs_bind (runs_curCore s) (runs_modify _ s)))
/-- Keeping the place of a record changes the job's trace buffer alone. -/
theorem keeping_eq {s : State} {j : Job} (h : Hdr) (sub : Nat) (hj : s.own = some j) :
    ∃ l, s.keeping h sub = s.setJob s.cur.1 { j with trace := l } := by
  unfold State.keeping State.recordPlace
  rw [State.own_job hj]
  dsimp only
  split
  · exact ⟨_, rfl⟩
  · exact ⟨j.trace, (setJob_own hj).symm⟩
theorem keeping_own {s : State} {j : Job} (h : Hdr) (sub : Nat) (hj : s.own = some j) :
    (s.keeping h sub).cur = s.cur ∧ ∃ l, (s.keeping h sub).own = some { j with trace := l } := by
  obtain ⟨l, e⟩ := keeping_eq h sub hj
  exact ⟨by rw [e]; rfl, l, by rw [e]; exact State.job_setJob _ _ _⟩
theorem keeping_room {s : State} (h : Hdr) (sub : Nat) (x : Spec) (ho : s.own.isSome = true) : (s.keeping h sub).room x = s.room x := by
  obtain ⟨j, hj⟩ := Option.isSome_iff_exists.mp ho
  obtain ⟨hc, l, hk⟩ := keeping_own h sub hj
  unfold State.room
  rw [hk, hj, hc]
  cases Spec.reg x <;> rfl

/-- SPAWN of a job that neither replays nor fills its trace buffer holds the launch of an aligned descriptor. -/
theorem spawnBody_runs {h : Hdr} {f : FRR} {s s1 : State} {a b : Word} (hv : s.scalars [f.a, f.b] = some ([a, b], s1))
    (ha : a.toNat % 64 = 0) (hl : s1.live = true) (hr : s1.room f.d = true) :
    Runs (spawnBody h f) s () (((s1.keeping h 7).put h f.d none true).holding h (.spawn (f.fn.setWidth 2) a b)) := by
  obtain ⟨j, hj⟩ : ∃ j, s1.own = some j := by
    unfold State.live at hl
    cases hj : s1.own with
    | none => simp [hj] at hl
    | some j => exact ⟨j, rfl⟩
  obtain ⟨hp, hf⟩ := live_own hl hj
  obtain ⟨t, hta, hs⟩ := scalars_cons hv
  obtain ⟨u, htb, hn⟩ := scalars_cons hs
  cases scalars_nil hn
  obtain ⟨-, l, hk⟩ := keeping_own h 7 hj
  have hput : ((s1.keeping h 7).put h f.d none true).own.isSome = true := by rw [State.put_own_isSome, hk]; rfl
  obtain ⟨q, hq⟩ := Option.isSome_iff_exists.mp hput
  refine runs_bind (pop_runs hta) (runs_bind (pop_runs htb) (runs_bind (runs_trapIf _ _ s1 (by simp [ha])) ?_))
  refine runs_bind (replayTake_runs h 7 hj hp) (runs_bind (recordLater_runs h 7 hj hf) ?_)
  exact runs_bind (reserve_runs hk (by rw [keeping_room h 7 f.d (by rw [hj]; rfl), hr])) (hold_runs h _ hq)

/-! ### RDV (R93) -/

/-- A stream that RDV has ended. -/
def atRdv (t : Stream) : Stream := { t with phase := .rdv, loops := Vector.replicate 5 none, adv := none }
/-- A stream keeps its phase when it retires. -/
theorem retire_phase (j : Job) (st : StreamId) (pc : Word) (h : Hdr) (b : Bool) :
    ((j.retire st pc h b).stream st).phase = (j.stream st).phase := by
  rw [retire_lane]
theorem rdv_exec {h : Hdr} {f : FRR} {s s0 : State} (he : s.entered (.rdv h f) = some s0) :
    exec (.rdv h f) s = .next (((s0.onLane atRdv).retired (.rdv h f)
      (s.nextPc (.rdv h f))).settleFront s.cur.1) := by
  obtain ⟨hc, ho⟩ := entered_keeps he
  obtain ⟨j, hj⟩ := Option.isSome_iff_exists.mp ho
  have hx : runInstr (.rdv h f) (straight rdvBody) s = .next ((s0.onLane atRdv).retired (.rdv h f) (s.nextPc (.rdv h f))) :=
    straight_completes he (runs_modifyStream atRdv hj) (by simpa using hc) (by simpa using ho)
  change execRdv h f s = _
  unfold execRdv
  rw [hx]
  dsimp only
  rw [if_pos]
  have hk : (s0.onLane atRdv).own =
      some (j.onStream s0.cur.2 atRdv) := by
    unfold State.onLane
    rw [State.onOwn_eq hj]
    exact State.job_setJob _ _ _
  have hcur : (s0.onLane atRdv).cur = s.cur := by simpa using hc
  unfold State.retired
  rw [show (Instr.rdv h f).enc = some _ from rfl]
  dsimp only
  rw [State.onOwn_eq hk, hcur, State.job_setJob, Option.any_some, retire_phase, ← hc, Job.stream_onStream]
  rfl

/-- Settles O21: the bodies of FENCE and SPAWN complete, and RDV's stream has left for its rendezvous when the frontier settles. -/
theorem fenceSpawnRdv : Obligations.FenceSpawnRdv := by
  refine fun h f s s0 s1 j a b => ⟨fun he hj hp => ?_, fun he hv hj ha hl hr => ?_, rdv_exec⟩
  · obtain ⟨hc, ho⟩ := entered_keeps he
    rw [← hc] at hp ⊢
    refine straight_completes he (fenceBody_runs hj hp) ?_ ?_
    · split <;> simp [hc]
    · split <;> simp [ho]
  · obtain ⟨hk, l, ho⟩ := keeping_own h 7 hj
    have hc : s1.cur = s.cur := (scalars_keeps hv).1.trans (entered_keeps he).1
    refine straight_completes he (spawnBody_runs hv ha hl hr) ?_ ?_
    · simp [State.holding, hk, hc]
    · simp [State.holding, ho]

end Sys2Proof.Proofs
end

section
/-!
PROOF. O36: VCMP and VNETSET.
-/
open Sys2Proof Sys2Proof.Machine Sys2Proof.Claims
namespace Sys2Proof.Proofs

/-! ### Tile sources (R21, R23, R26, R114) -/

theorem tileAt_runs {s t : State} {j : Job} {n : Nat} {pk w : Bool} {l : List StreamId} {v : Tile} (hj : s.own = some j)
    (h : s.tileAt n pk = some (v, t)) : Runs (takeTile n pk w l (j.stream s.cur.2).coord j.seq) s v t := by
  unfold State.tileAt at h
  rw [hj] at h
  dsimp only at h
  refine runs_bind (runs_getJob hj) ?_
  split at h
  · cases h
  rename_i e rest hi
  simp only [hi]
  split at h
  · cases h
  rename_i x hu
  obtain ⟨hc, hv, -⟩ := checkEntry_runs s hu
  simp only [hv]
  refine runs_bind hc ?_
  split at h
  · rename_i hp
    cases h
    rw [if_pos hp]
    exact runs_pure _ _
  · rename_i hp
    split at h
    · cases h
    · rename_i hh
      cases h
      rw [if_neg hp, if_neg hh]
      exact runs_bind (runs_setJob s _) (runs_pure _ _)
theorem popTile_runs {s t : State} {f : BitVec 5} {v : Tile} (h : s.tile f = some (v, t)) : Runs (popTile f) s v t := by
  unfold State.tile at h
  split at h
  · cases h
  rename_i j hj
  split at h
  · cases h
  rename_i hd
  refine runs_bind (runs_getJob hj) (runs_bind (runs_getStream hj) (runs_bind (runs_trapIf _ _ s (by simpa using hd)) ?_))
  exact tileAt_runs hj h
/-- A tile source is the job's: reading it leaves the stream as it was. -/
theorem tile_lane {s t : State} {f : BitVec 5} {v : Tile} (h : s.tile f = some (v, t)) : t.lane = s.lane := by
  unfold State.tile at h
  split at h
  · cases h
  rename_i j hj
  split at h
  · cases h
  unfold State.tileAt at h
  simp only [hj] at h
  split at h
  · cases h
  split at h
  · cases h
  split at h
  · cases h
    rfl
  split at h
  · cases h
  · cases h
    rw [State.lane_eq hj, State.lane_eq (State.job_setJob s s.cur.1 _)]
    rfl
theorem tiles_cons {s u : State} {f : BitVec 5} {l : List (BitVec 5)} {v : Tile} {vs : List Tile} (h : s.tiles (f :: l) = some (v :: vs, u)) :
    ∃ t, s.tile f = some (v, t) ∧ t.tiles l = some (vs, u) := by
  simp only [State.tiles] at h
  split at h
  · cases h
  · rename_i w t ht
    simp only [Option.map_eq_some_iff] at h
    obtain ⟨r, hr, ⟨rfl, rfl⟩, rfl⟩ := h
    exact ⟨t, ht, hr⟩

/-! ### Registers whose old value is saved (R27, R202) -/

theorem writeMask_runs {s : State} {t : Stream} (m : Fin 8) (v : BitVec 1024) (hl : s.lane = some t) (hr : t.maskHist.length < 16) :
    Runs (writeMask m v) s () (s.onLane (fun t => { t with masks := t.masks.set m v, maskHist := t.maskHist ++ [(m, t.masks.get m, t.coord)] })) := by
  refine runs_bind (runs_getStream_lane hl) ?_
  rw [if_neg (by omega)]
  obtain ⟨j, hj⟩ := lane_own hl
  exact runs_modifyStream _ hj
theorem writeNet_runs {s : State} {t : Stream} (n : Fin 8) (v : BitVec 352) (hl : s.lane = some t) (hr : t.netHist.length < 8) :
    Runs (writeNet n v) s () (s.onLane (fun t => { t with nets := t.nets.set n v, netHist := t.netHist ++ [(n, t.nets.get n, t.coord)] })) := by
  refine runs_bind (runs_getStream_lane hl) ?_
  rw [if_neg (by omega)]
  obtain ⟨j, hj⟩ := lane_own hl
  exact runs_modifyStream _ hj

/-! ### VCMP and VNETSET -/

/-- VCMP reads its two tiles, which leave its stream and what it samples as they were. -/
theorem vcmpBody_runs {f : FVB} {s u : State} {j : Job} {a b : Tile} (hj : s.own = some j) (hd : j.hdr.tdep ≠ 0)
    (hv : s.tiles [f.ta, f.tb] = some ([a, b], u)) (hm : (j.stream s.cur.2).maskHist.length < 16) :
    let t := j.stream s.cur.2
    let r := tileCmp f.fn.toNat f.ty.toNat (sampled j 0).fz f.men (t.masks.get (fin8 f.mask.toNat)) a b
    let w := u.onLane (fun t => { t with
      masks := t.masks.set (fin8 f.td.toNat) r.1
      maskHist := t.maskHist ++ [(fin8 f.td.toNat, t.masks.get (fin8 f.td.toNat), t.coord)] })
    SameIssue s w ∧ Runs (vcmpBody f) s () (vEnd w t.coord (sampled j 0) 1024 r.2) := by
  obtain ⟨p, hta, hs⟩ := tiles_cons hv
  obtain ⟨q, htb, hn⟩ := tiles_cons hs
  cases hn
  have hu : SameIssue s u := SameIssue.trans _ _ _ (stays_of_runs (popTile_runs hta) (popTile_stays f.ta s))
    (stays_of_runs (popTile_runs htb) (popTile_stays f.tb p))
  obtain ⟨k, hk, hsame, -⟩ := hu.job hj
  have hlane : k.stream u.cur.2 = j.stream s.cur.2 := by
    have hl := (tile_lane htb).trans (tile_lane hta)
    rwa [State.lane_eq hj, State.lane_eq hk, Option.some.injEq] at hl
  have hw (g : Stream → Stream) (hg : ∀ t, (g t).coord = t.coord) : SameIssue s (u.onLane g) := SameIssue.trans _ _ _ hu (SameIssue.onLane hg)
  have hneeds : Runs ([VOpd.queue f.ta, .queue f.tb].forM VOpd.needs) s () s :=
    forM_runs fun o _ => needs_runs hj fun _ _ => by simp [State.hasTiles, hj, hd]
  refine ⟨hw _ fun _ => rfl, runs_bind hneeds (runs_bind (popTile_runs hta) (runs_bind (popTile_runs htb) ?_))⟩
  refine runs_bind (laneCtx_runs 0 hk) (runs_bind (maskOf_runs f hk) ?_)
  rw [sampled_same hsame, hlane]
  exact runs_bind (writeMask_runs _ _ (State.lane_eq hk) (by rw [hlane]; exact hm)) (vFinish_runs _ _ _ hj (hw _ fun _ => rfl))
theorem vcmp_exec {h : Hdr} {f : FVB} {s s0 s1 : State} {j : Job} {a b : Tile} (hj : s0.own = some j) (he : s.entered (.vcmp h f) = some s0)
    (hd : j.hdr.tdep ≠ 0) (hv : s0.tiles [f.ta, f.tb] = some ([a, b], s1)) (hm : (j.stream s0.cur.2).maskHist.length < 16) :
    let t := j.stream s0.cur.2
    let r := tileCmp f.fn.toNat f.ty.toNat (sampled j 0).fz f.men (t.masks.get (fin8 f.mask.toNat)) a b
    exec (.vcmp h f) s = .next ((vEnd (s1.onLane (fun t => { t with
      masks := t.masks.set (fin8 f.td.toNat) r.1
      maskHist := t.maskHist ++ [(fin8 f.td.toNat, t.masks.get (fin8 f.td.toNat), t.coord)] })) t.coord (sampled j 0) 1024 r.2).retired (.vcmp h f)
        (s.nextPc (.vcmp h f))) := by
  obtain ⟨hs, hr⟩ := vcmpBody_runs hj hd hv hm
  obtain ⟨k, hk, -, -⟩ := hs.job hj
  obtain ⟨hc, ho⟩ := vEnd_keeps (j.stream s0.cur.2).coord (sampled j 0) 1024 _ hk
  exact straight_completes he hr (hc.trans (hs.1.trans (entered_keeps he).1)) ho

/-- VNETSET's address is a scalar, whose read leaves the saved network registers as they were. -/
theorem vnetset_exec {h : Hdr} {f : FVB} {s s0 s1 : State} {j : Job} {a : Word} {place : CoreId × Nat} {bs : List Byte} (hj : s0.own = some j)
    (he : s.entered (.vnetset h f) = some s0) (hv : s0.scalars [f.sx] = some ([a], s1)) (hp : Runs (scratchPlace a 64 64) s1 place s1)
    (hb : Runs (readPool place.1 place.2 64 a) s1 bs s1) (hn : (j.stream s0.cur.2).netHist.length < 8) :
    exec (.vnetset h f) s = .next ((s1.onLane (fun t => { t with
      nets := t.nets.set (fin8 f.fn.toNat) (BitVec.ofNat 352 (leNat bs))
      netHist := t.netHist ++ [(fin8 f.fn.toNat, t.nets.get (fin8 f.fn.toNat), t.coord)] })).retired (.vnetset h f) (s.nextPc (.vnetset h f))) := by
  obtain ⟨_, -, hpass, -⟩ := entered_passes (e := ⟨0x34, 0x00, h, .vb f⟩) rfl he
  have hw := wf_of_passes hpass
  simp only [Instr.wf, Bool.and_eq_true] at hw
  obtain ⟨⟨hok, -⟩, -⟩ := hw
  obtain ⟨u, hx, hs⟩ := scalars_cons hv
  cases scalars_nil hs
  have hk : Keeps ⟨h, [f.sx], none⟩ s0 s1 := stays_of_runs (pop_runs hx) (pop_keeps (by simp) (sx_of_ok hok rfl) s0)
  obtain ⟨hc, hk⟩ := hk
  obtain ⟨k, rfl, hf⟩ := hk j hj
  have ho : (s0.setJob s0.cur.1 k).own = some k := State.job_setJob _ _ _
  have hlen : (k.stream s0.cur.2).netHist.length < 8 := by rw [hf.lane.same]; exact hn
  refine straight_completes he (runs_bind (pop_runs hx) (runs_bind hp (runs_bind hb (writeNet_runs _ _ (State.lane_eq ho) hlen)))) ?_ ?_
  · rw [State.onLane_cur, hc, (entered_keeps he).1]
  · rw [State.onLane_own, ho]
    rfl

/-- Settles O36: the bodies of VCMP and VNETSET complete, and what each reads leaves the registers that it writes as they were. -/
theorem vectorCompareAndNetwork : Obligations.VectorCompareAndNetwork := by
  refine fun h f s s0 s1 j hj => ⟨fun a b he hd hv hm => ?_, fun a place bs he hv hp hb hn => ?_⟩
  · rw [← (entered_keeps he).1] at hm ⊢
    exact vcmp_exec hj he hd hv hm
  · rw [← (entered_keeps he).1] at hn
    exact vnetset_exec hj he hv hp hb hn

end Sys2Proof.Proofs
end

section
/-!
PROOF. O39: advances, token pushes, pending loads and clamps.
-/
open Sys2Proof Sys2Proof.Machine Sys2Proof.Claims
namespace Sys2Proof.Proofs

/-! ### Advances (R39) -/

/-- A stream that may advance enters its new coordinate, after the records of the iteration's end. -/
theorem advance_exec {s u : State} {c : CoreId} {st : StreamId} {j k : Job} {a : Adv} (hj : s.job c = some j)
    (hp : (j.stream st).phase = .issuing) (hs : (j.stream st).adv.isSome = true)
    (hu : u = ((s.settleFront c).onJob c Job.checkStop).markLanding c) (hk : u.job c = some k) (ha : (k.stream st).adv = some a)
    (hl : k.landing.all (fun l => l.inside a.target) = true) (hb : (k.stream st).pushes.any (fun p => p.blocked) = false)
    (hd : Stream.lead k (k.stream st) + 1 ≤ k.hdr.leadw.toNat) (hf : a.tooFar = none) :
    let v := u.iterationEnd c st k (k.stream st) a
    exec (.advance c st) s = .next ((v.onJob c (fun j => j.onStream st (fun t =>
      Stream.enterCoord { t with ring := t.ring ++ [Stream.snap k st (v.part k.part) a (k.stream st)] } a))).settleFront c) := by
  subst hu
  have hin : k.landing.any (fun l => !l.inside a.target) = false := by
    cases e : k.landing with
    | none => rfl
    | some l =>
      rw [e] at hl
      simpa using hl
  have hw : (j.stream st).adv.isNone = false := by rw [← Option.not_isSome, hs]; rfl
  change Host.Outcome.next (s.doAdvance c st) = _
  unfold State.doAdvance
  simp [hj, hp, hw, hk, ha, hin, hb, hf, show ¬ k.hdr.leadw.toNat < Stream.lead k (k.stream st) + 1 by omega]

/-! ### Token pushes (R28) -/

section
variable {s : State} {c : CoreId} {st : StreamId} {j : Job} {n : Bool} {p : Push} (hj : s.job c = some j)
  (hp : (j.stream st).pushes.find? (fun p => p.toNext = n) = some p) (hl : j.lives p.coord = true) (hd : s.doneThrough c j st p.seq = true)
include hj hp hl hd

theorem tokenPush_exec (hq : (j.toks.get (fifoIdx st n)).slots < 8) :
    let q := j.toks.get (fifoIdx st n)
    let gone := j.setStream st { j.stream st with pushes := (j.stream st).pushes.erase p }
    exec (.tokenPush c st n) s = .next ((s.setJob c (Job.stir { gone with
      toks := gone.toks.set (fifoIdx st n) { q with items := q.items ++ [⟨some (), ⟨p.coord, p.stage⟩, .none, false, p.seq, none⟩] } })).settleFront c) := by
  change Host.Outcome.next (s.pushToken c st n) = _
  unfold State.pushToken
  have h8 : ¬ 8 ≤ (j.toks.get (fifoIdx st n)).slots := by omega
  simp [hj, hp, hl, hd, h8]
theorem tokenPush_blocks (hq : 8 ≤ (j.toks.get (fifoIdx st n)).slots)
    (hf : (j.toks.get (fifoIdx st n)).items ≠ [] ∨ ∃ x ∈ (j.toks.get (fifoIdx st n)).popped, x.2.1 < p.coord) :
    exec (.tokenPush c st n) s = .next (s.setJob c (j.setStream st { j.stream st with
      pushes := (j.stream st).pushes.map (fun x => if x = p then { x with blocked := true } else x) })) := by
  change Host.Outcome.next (s.pushToken c st n) = _
  unfold State.pushToken
  have hn : ¬ (8 ≤ (j.toks.get (fifoIdx st n)).slots ∧ (j.toks.get (fifoIdx st n)).items.isEmpty ∧
      (j.toks.get (fifoIdx st n)).popped.all (fun x => decide (p.coord ≤ x.2.1))) := by
    rintro ⟨-, hi, ha⟩
    rcases hf with hf | ⟨x, hx, hc⟩
    · exact hf (List.isEmpty_iff.mp hi)
    · exact absurd (of_decide_eq_true (List.all_eq_true.mp ha x hx)) (BitVec.not_le.mpr hc)
  simp only [hj, hp, hl, hd, Bool.not_true, Bool.or_self, Bool.false_eq_true, if_false, if_neg hn, if_pos hq]
end

/-! ### Pending loads (R20) -/

/-- An operation whose body completes leaves the job's streams to look again and the frontier to move. -/
theorem perform_runs {s u : State} {c : CoreId} {o : Origin} {unit : BitVec 3} {body : M Unit} (h : Runs body (asStream s c o) () u) :
    s.perform c o unit body = settled s u c := by
  unfold Runs asStream at h
  unfold State.perform
  rw [h]
  rfl

theorem asStream_own {s : State} {c : CoreId} {j : Job} (hj : s.job c = some j) (o : Origin) : (asStream s c o).own = some j := hj
/-- The read of a pending load; a remote read and an atomic have none. -/
def loadBody (o : PendOp) : Option (M Unit) := match o.kind with
  | .ld a ty => some (ldRead o a ty)
  | .ldt a p ty q => some (ldtRead o a p ty q)
  | .gather t l p ty z q => some (gatherRead o t l p ty z q)
  | .mrd tile posn => some (mrdRead o tile posn)
  | .rld _ _ | .atomic _ _ _ _ => none

section
variable {s u : State} {c : CoreId} {j : Job} {id : Nat} {o : PendOp} (hj : s.job c = some j) (ho : j.op id = some o) (hm : mayGo s c j o = true)
include hj ho hm

/-- A pending load that may go on performs its read. -/
theorem entryFill_exec {body : M Unit} (hb : loadBody o = some body) : exec (.entryFill c id) s = .next (s.perform c o.org 0 body) := by
  simp only [mayGo, Bool.and_eq_true, Bool.not_eq_true'] at hm
  obtain ⟨hl, hw⟩ := hm
  change Host.Outcome.next (s.fillEntry c id) = _
  unfold loadBody at hb
  unfold State.fillEntry
  cases hk : o.kind <;> rw [hk] at hb <;> cases hb
  all_goals simp only [hj, ho, hk, hl, hw, Bool.not_true, Bool.or_self, Bool.false_eq_true, if_false]
theorem entryFill_runs {body : M Unit} (hb : loadBody o = some body) (hr : Runs body (asStream s c o.org) () u) :
    exec (.entryFill c id) s = .next (settled s u c) := by
  rw [entryFill_exec hj ho hm hb, perform_runs hr]
theorem entryFill_ld {a : Word} {ty : BitVec 5} {g : Got} (hk : o.kind = .ld a ty)
    (hg : Runs (readMem true a (tyBytes ty)) (asStream s c o.org) g (asStream s c o.org)) :
    exec (.entryFill c id) s = .next (filled s (asStream s c o.org) c o (extendElem ty.toNat g.nat) g.mark) :=
  entryFill_runs (body := ldRead o a ty) hj ho hm (by rw [loadBody, hk]) (runs_bind hg (runs_modifyJob _ (asStream_own hj o.org)))
theorem entryFill_ldt {a p : Word} {ty : BitVec 5} {q : Fin 16} {rows : List Got} (hk : o.kind = .ldt a p ty q)
    (hr : Runs (readRows (rowBytes ty.toNat) ((List.range 16).map (fun r => some (a + BitVec.ofNat 64 r * p)))) (asStream s c o.org) rows
      (asStream s c o.org)) :
    exec (.entryFill c id) s = .next (filledTile s (asStream s c o.org) c o q (unpackRows ty.toNat (rows.map Got.nat)) (rowsMark rows)) :=
  entryFill_runs (body := ldtRead o a p ty q) hj ho hm (by rw [loadBody, hk]) (runs_bind hr (runs_modifyJob _ (asStream_own hj o.org)))
end

/-! ### Clamps (R75) -/

/-- The coordinates that the running loops of a level have come to. -/
def reached (j : Job) (l : Fin 5) : List Nat :=
  StreamId.all.filterMap (fun st => ((j.stream st).loops.get l).map (fun _ => Coord.ix (j.stream st).coord l.val + 1))
theorem mem_reached {j : Job} {l : Fin 5} {n : Nat} :
    n ∈ reached j l ↔ ∃ (x : StreamId) (lp : Loop), (j.stream x).loops.get l = some lp ∧ Coord.ix (j.stream x).coord l + 1 = n := by
  unfold reached
  simp only [List.mem_filterMap, Option.map_eq_some_iff]
  exact ⟨fun ⟨x, _, lp, h⟩ => ⟨x, lp, h⟩, fun ⟨x, lp, h⟩ => ⟨x, by cases x <;> decide, lp, h⟩⟩
/-- The greatest of a list of numbers, one of which is there. -/
theorem foldl_max_eq {l : List Nat} {m : Nat} (hm : m ∈ l) (h : ∀ n ∈ l, n ≤ m) : l.foldl Nat.max 0 = m := by
  have h0 : (0 :: l).max? = some m := List.max?_eq_some_iff.mpr ⟨List.mem_cons_of_mem _ hm, by simpa using h⟩
  exact Option.some.inj (List.max?_cons'.symm.trans h0)
/-- A clamp changes the loop of its level alone, in each stream. -/
theorem clamp_stream (j : Job) (l : Fin 5) (limit : Nat) (st : StreamId) :
    let v := Nat.max limit ((reached j l).foldl Nat.max 0)
    (j.clamp l limit).stream st = { j.stream st with loops := (j.stream st).loops.set l (((j.stream st).loops.get l).map (fun lp =>
      { lp with t := Nat.min lp.t v, k := Nat.min lp.t v + lp.s - 1 })) } :=
  onStreams_stream j _ st
theorem set_get_self {α : Type} {n : Nat} (v : Vector α n) (i : Fin n) : v.set i (v.get i) = v := by
  simp [Vector.get_eq_getElem]
theorem clamp_none {j : Job} {l : Fin 5} (limit : Nat) {st : StreamId} (h : (j.stream st).loops.get l = none) :
    (j.clamp l limit).stream st = j.stream st := by
  rw [clamp_stream, h, Option.map_none, ← h, set_get_self]
theorem clamp_some {j : Job} {l : Fin 5} (limit : Nat) {st : StreamId} {m : Nat} {lp : Loop} (hm : m ∈ reached j l) (hx : ∀ n ∈ reached j l, n ≤ m)
    (h : (j.stream st).loops.get l = some lp) :
    (j.clamp l limit).stream st = { j.stream st with loops := (j.stream st).loops.set l (some { lp with
      t := Nat.min lp.t (Nat.max limit m)
      k := Nat.min lp.t (Nat.max limit m) + lp.s - 1 }) } := by
  rw [clamp_stream, h, foldl_max_eq hm hx]
  rfl
/-- A clamp of a job on its core that lands at no cut and arms no soft stop. -/
theorem lclampApply_exec {s : State} {n : Nat} {x : Clamp} {j : Job} (hx : s.clamps[n]? = some x) (hj : s.job x.core = some j)
    (hh : j.handle = x.handle) (hl : j.landing = none) (ha : (j.clamp x.level x.limit).arms x = none) :
    exec (.lclampApply n) s = .next (State.setJob { s with clamps := s.clamps.eraseIdx n } x.core (j.clamp x.level x.limit)) := by
  change Host.Outcome.next (s.applyClamp n) = _
  unfold State.applyClamp
  simp [hx, hj, hh, hl, ha]

/-- Settles O39: each event runs its own branch, and a clamp's greatest k + 1 is that of the streams with a loop at its level. -/
theorem streamEvents : Obligations.StreamEvents := by
  refine fun s u c st j k => ⟨fun hj hp hs hu hk a ha hl hb hd hf => advance_exec hj hp hs hu hk ha hl hb hd hf,
    fun n p hj hp hl hd => ⟨tokenPush_exec hj hp hl hd, tokenPush_blocks hj hp hl hd⟩, fun id o hj ho hm => ⟨?_, ?_, ?_, ?_⟩,
    fun l limit m hj hm hx => ⟨fun lp => clamp_some limit (mem_reached.mpr hm) ?_, clamp_none limit⟩, fun n x => lclampApply_exec⟩
  · rintro a ty g hk rfl hg
    exact entryFill_ld hj ho hm hk hg
  · rintro a p ty q rows hk rfl hr
    exact entryFill_ldt hj ho hm hk hr
  · exact fun t l p ty z q hk hr => entryFill_runs hj ho hm (by rw [loadBody, hk]) hr
  · exact fun tile posn hk hr => entryFill_runs hj ho hm (by rw [loadBody, hk]) hr
  · intro n hn
    obtain ⟨x, lp, hlp, rfl⟩ := mem_reached.mp hn
    exact hx x lp hlp

end Sys2Proof.Proofs
end

section
/-!
PROOF. O53, O54: the words of an instruction as a row of bit fields, and the decoder that reads them back.
-/
open Sys2Proof
namespace Sys2Proof.Proofs

/-! ### Rows of bit fields -/

/-- A field of an encoding: its width and its bits. -/
abbrev BitField := (n : Nat) × BitVec n
/-- A one-bit field. -/
abbrev flag (b : Bool) : BitField := ⟨1, BitVec.ofBool b⟩
/-- A reserved field, which is zero. -/
abbrev gap (n : Nat) : BitField := ⟨n, 0#n⟩
@[simp] theorem flag_fst (b : Bool) : (flag b).1 = 1 := rfl
@[simp] theorem gap_fst (n : Nat) : (gap n).1 = n := rfl
/-- The number that fields make, the first in the lowest bits. -/
def pack : List BitField → Nat
  | [] => 0
  | x :: l => x.2.toNat + 2 ^ x.1 * pack l
/-- The bits that fields take. -/
def width (l : List BitField) : Nat := (l.map Sigma.fst).sum

theorem bitNat_eq (b : Bool) : bitNat b = (BitVec.ofBool b).toNat := by cases b <;> rfl

/-- Fields fill no more than their bits. -/
theorem pack_lt (l : List BitField) : pack l < 2 ^ width l := by
  induction l with
  | nil => exact Nat.one_pos
  | cons x l ih =>
    have hx := x.2.isLt
    calc pack (x :: l) < 2 ^ x.1 + 2 ^ x.1 * pack l := Nat.add_lt_add_right hx _
      _ = 2 ^ x.1 * (pack l + 1) := by ring
      _ ≤ 2 ^ x.1 * 2 ^ width l := Nat.mul_le_mul_left _ ih
      _ = 2 ^ width (x :: l) := (Nat.pow_add 2 x.1 (width l)).symm

/-- Bits from a place beyond the first field on are bits of the others. -/
theorem pack_div {x : BitField} {l : List BitField} {lo : Nat} (h : x.1 ≤ lo) : pack (x :: l) / 2 ^ lo = pack l / 2 ^ (lo - x.1) := by
  have hl : 2 ^ lo = 2 ^ x.1 * 2 ^ (lo - x.1) := by rw [← Nat.pow_add, Nat.add_sub_cancel' h]
  rw [hl, ← Nat.div_div_eq_div_mul, pack, Nat.add_mul_div_left _ _ (Nat.two_pow_pos _), Nat.div_eq_of_lt x.2.isLt, Nat.zero_add]
/-- The lowest bits are the first field. -/
theorem pack_mod (x : BitField) (l : List BitField) : pack (x :: l) % 2 ^ x.1 = x.2.toNat := by
  rw [pack, Nat.add_mul_mod_self_left, Nat.mod_eq_of_lt x.2.isLt]

section
variable {x : BitField} {l : List BitField} {lo n : Nat}
@[simp] theorem field_pack_cons (h : x.1 ≤ lo) : field (pack (x :: l)) lo n = field (pack l) (lo - x.1) n := by
  unfold field
  rw [pack_div h]
@[simp] theorem fieldBit_pack_cons (h : x.1 ≤ lo) : fieldBit (pack (x :: l)) lo = fieldBit (pack l) (lo - x.1) := by
  unfold fieldBit
  rw [pack_div h]
@[simp] theorem fieldZero_pack_cons (h : x.1 ≤ lo) : fieldZero (pack (x :: l)) lo n = fieldZero (pack l) (lo - x.1) n := by
  unfold fieldZero
  rw [pack_div h]
end
@[simp] theorem field_pack_zero {n : Nat} (v : BitVec n) (l : List BitField) : field (pack (⟨n, v⟩ :: l)) 0 n = v := by
  apply BitVec.eq_of_toNat_eq
  rw [field, BitVec.toNat_ofNat, Nat.pow_zero, Nat.div_one, pack_mod ⟨n, v⟩]
@[simp] theorem fieldBit_pack_zero (b : Bool) (l : List BitField) : fieldBit (pack (flag b :: l)) 0 = b := by
  have h : pack (flag b :: l) % 2 = (BitVec.ofBool b).toNat := pack_mod (flag b) l
  rw [fieldBit, Nat.pow_zero, Nat.div_one, h]
  cases b <;> rfl
@[simp] theorem fieldZero_pack_zero (n : Nat) (l : List BitField) : fieldZero (pack (gap n :: l)) 0 n = true := by
  have h : pack (gap n :: l) % 2 ^ n = (0#n).toNat := pack_mod (gap n) l
  simp [fieldZero, h]

/-! ### The fields of each format (R45, R51 to R60) -/

/-- The fields of format M from bit 20 on, without the reserved ones. -/
def mRow (f : FM) : List BitField := [⟨7, f.d⟩, ⟨5, f.ty⟩, ⟨7, f.base⟩, ⟨7, f.idx⟩, ⟨7, f.aux⟩, ⟨3, f.opt⟩, gap 8]
/-- The fields of the first word of the vector formats from bit 20 on. -/
def vbRow (f : FVB) : List BitField :=
  [⟨4, f.td⟩, ⟨5, f.ty⟩, ⟨3, f.rm⟩, ⟨5, f.ta⟩, ⟨5, f.tb⟩, ⟨5, f.tc⟩, ⟨3, f.mask⟩, flag f.men, ⟨5, f.fn⟩, ⟨7, f.sx⟩, gap 1]
/-- The operand fields of a format from bit 20 on. -/
def fmtRow : Fmt → List BitField
  | .rr f => [⟨7, f.d⟩, ⟨5, f.fn⟩, ⟨7, f.a⟩, ⟨7, f.b⟩, ⟨7, f.c⟩, gap 11]
  | .ri f => [⟨7, f.d⟩, ⟨5, f.fn⟩, ⟨7, f.a⟩, ⟨25, f.imm⟩]
  | .li f => [⟨7, f.d⟩, ⟨5, f.fn⟩, ⟨32, f.imm⟩]
  | .br f => [⟨7, f.x⟩, ⟨5, f.fn⟩, ⟨32, f.ofs⟩]
  | .lp f => [⟨3, f.level⟩, ⟨2, f.nst⟩, flag f.tsrc, gap 6, ⟨16, f.trip⟩, ⟨16, f.endo⟩]
  | .ci f => [gap 44, ⟨64, f.cw⟩]
  | .m f => mRow f
  | .me f => mRow f.m ++ [⟨7, f.e1⟩, ⟨7, f.e2⟩, gap 50]
  | .vb f => vbRow f
  | .vf f => vbRow f.vb ++ [⟨12, f.cnt⟩, ⟨4, f.kind⟩, ⟨12, f.std⟩, ⟨12, f.sta⟩, ⟨12, f.stb⟩, ⟨12, f.stc⟩]
  | .vn f => vbRow f.vb ++ [⟨60, f.ext⟩, ⟨4, f.ud⟩, ⟨4, f.ua⟩, ⟨4, f.ub⟩, ⟨40, f.sd⟩, ⟨40, f.sa⟩, ⟨40, f.sb⟩]
  | .mx f => [⟨5, f.acc⟩, flag f.wm, flag f.ta, flag f.tb, ⟨4, f.batch⟩, ⟨7, f.a1⟩, ⟨7, f.a2⟩, ⟨7, f.b1⟩, ⟨7, f.b2⟩, flag f.ak, flag f.bk,
      gap 2, ⟨7, f.mm1⟩, ⟨7, f.nm1⟩, ⟨12, f.km1⟩, flag f.tri, ⟨2, f.mcs⟩, gap 3, ⟨8, f.diag⟩, flag f.swe, ⟨5, f.swv⟩, ⟨6, f.swc⟩,
      flag f.sse, ⟨5, f.ssv⟩, gap 6]
/-- The fields of an instruction: LEN, MAJOR, MINOR, the header and the operands. -/
def encRow (e : Enc) : List BitField :=
  ⟨2, BitVec.ofNat 2 e.f.lenCode⟩ :: ⟨6, e.major⟩ :: ⟨6, e.minor⟩ :: flag e.h.pbp :: flag e.h.pbn :: flag e.h.pap :: flag e.h.pan ::
    ⟨2, e.h.stage⟩ :: fmtRow e.f

theorem lenCode_lt (f : Fmt) : f.lenCode < 4 := by cases f <;> exact Nat.lt_of_sub_eq_succ rfl
theorem fmtBits_eq_pack (f : Fmt) : f.bits = 2 ^ 20 * pack (fmtRow f) := by
  cases f <;> simp only [Fmt.bits, FM.bits, FVB.bits, FMX.bits, fmtRow, mRow, vbRow, List.cons_append, List.nil_append, pack, flag, gap,
    bitNat_eq, BitVec.toNat_zero] <;> ring
/-- The encoder's number is the one that the fields make. -/
theorem bits_eq_pack (e : Enc) : e.bits = pack (encRow e) := by
  have hl : (BitVec.ofNat 2 e.f.lenCode).toNat = e.f.lenCode := Nat.mod_eq_of_lt (lenCode_lt e.f)
  simp only [Enc.bits, Hdr.bits, fmtBits_eq_pack, encRow, pack, flag, bitNat_eq, hl]
  ring
/-- The fields of an instruction fill its words. -/
theorem width_encRow (e : Enc) : width (encRow e) = 64 * e.f.words := by
  obtain ⟨major, minor, h, f⟩ := e
  cases f <;> simp [width, encRow, fmtRow, mRow, vbRow, Fmt.words]
theorem bits_lt (e : Enc) : e.bits < 2 ^ (64 * e.f.words) := by
  rw [bits_eq_pack, ← width_encRow]
  exact pack_lt _

/-! ### The decoder on these fields (R63) -/

/-- The operand format of an instruction's fields. -/
def kindOf : Fmt → FmtKind
  | .rr _ => .rr
  | .ri _ => .ri
  | .li _ => .li
  | .br _ => .br
  | .lp _ => .lp
  | .ci _ => .ci
  | .m _ => .m
  | .me _ => .me
  | .vb _ => .vb
  | .vf _ => .vf
  | .vn _ => .vn
  | .mx _ => .mx

theorem bits_mod_four (e : Enc) : e.bits % 4 = e.f.lenCode := by
  rw [bits_eq_pack]
  exact (pack_mod _ _).trans (Nat.mod_eq_of_lt (lenCode_lt e.f))
theorem bits_major (e : Enc) : e.bits / 4 % 64 = e.major.toNat := by
  have h : field e.bits 2 6 = e.major := by simp [bits_eq_pack, encRow]
  simp [← h, field]
theorem bits_minor (e : Enc) : e.bits / 256 % 64 = e.minor.toNat := by
  have h : field e.bits 8 6 = e.minor := by simp [bits_eq_pack, encRow]
  simp [← h, field]
theorem hdr_ofWord_bits (e : Enc) : Hdr.ofWord e.bits = e.h := by
  simp [Hdr.ofWord, bits_eq_pack, encRow]
/-- The operand fields are read back, and the reserved bits are found to be zero. -/
theorem fmt_ofWord_bits (e : Enc) : Fmt.ofWord (kindOf e.f) e.bits = (e.f, true) := by
  obtain ⟨major, minor, h, f⟩ := e
  rw [bits_eq_pack, encRow]
  cases f <;> simp only [Fmt.ofWord, kindOf, fmtRow, mRow, vbRow, List.cons_append, List.nil_append, FRR.ofWord, FRI.ofWord, FLI.ofWord,
    FBR.ofWord, FLP.ofWord, FCI.ofWord, FM.ofWord, FME.ofWord, FVB.ofWord, FVF.ofWord, FVN.ofWord, FMX.ofWord, field_pack_cons,
    fieldBit_pack_cons, fieldZero_pack_cons, field_pack_zero, fieldBit_pack_zero, fieldZero_pack_zero, Nat.reduceLeDiff, Nat.reduceSub,
    Nat.le_refl, Nat.sub_self, Bool.and_self]

/-! ### The opcode map (R61) -/

/-- The major of an instruction is assigned, and its pair has the instruction's format at its length. -/
theorem enc_format {i : Instr} {e : Enc} (h : i.enc = some e) : majorAssigned e.major.toNat = true ∧
    formatFor (opFormats e.major.toNat e.minor.toNat) e.f.lenCode = some (kindOf e.f) := by
  cases i <;> cases h <;> exact ⟨rfl, rfl⟩
/-- The pair and the fields of a well-formed instruction name it: by the lemma of each instruction whose pair is shared. -/
theorem enc_instr {i : Instr} {e : Enc} (hw : i.wf = true) (he : i.enc = some e) : instrOf e.major.toNat e.minor.toNat e.h e.f = some i := by
  cases i with
  | swr h f => exact Laws.OpPair.swr h f hw e he
  | swrStopat h f => exact Laws.OpPair.swrStopat h f hw e he
  | swrEvmask h f => exact Laws.OpPair.swrEvmask h f hw e he
  | swrRmode h f => exact Laws.OpPair.swrRmode h f hw e he
  | swrSrseed h f => exact Laws.OpPair.swrSrseed h f hw e he
  | swrMseed h f => exact Laws.OpPair.swrMseed h f hw e he
  | swrTraprec h f => exact Laws.OpPair.swrTraprec h f hw e he
  | swrEmap h f => exact Laws.OpPair.swrEmap h f hw e he
  | swrEgcfg h f => exact Laws.OpPair.swrEgcfg h f hw e he
  | swrCkpair h f => exact Laws.OpPair.swrCkpair h f hw e he
  | tlbiPage h f => exact Laws.OpPair.tlbiPage h f hw e he
  | tlbiTenant h f => exact Laws.OpPair.tlbiTenant h f hw e he
  | gen h f => exact Laws.OpPair.gen h f hw e he
  | genBase h f => exact Laws.OpPair.genBase h f hw e he
  | genCoef h f => exact Laws.OpPair.genCoef h f hw e he
  | _ => cases he <;> rfl

theorem isEmpty_of_formatFor {fs : List FmtKind} {len : Nat} {k : FmtKind} (h : formatFor fs len = some k) : fs.isEmpty = false := by
  cases fs with
  | nil => cases h
  | cons k ks => rfl
/-- The checks 1 to 5 of R63, in their order, on words that pass them. -/
theorem decode_of_checks {w : Nat} {k : FmtKind} {f : Fmt} {i : Instr} (hl : w % 4 ≠ 3) (hm : majorAssigned (w / 4 % 64) = true)
    (hk : formatFor (opFormats (w / 4 % 64) (w / 256 % 64)) (w % 4) = some k) (hf : Fmt.ofWord k w = (f, true))
    (hi : instrOf (w / 4 % 64) (w / 256 % 64) (Hdr.ofWord w) f = some i) (hw : i.wf = true) : decode w = .ok i := by
  simp [decode, hl, hm, isEmpty_of_formatFor hk, hk, hf, hi, hw]
/-- What the encoder makes of a well-formed instruction decodes to it. -/
theorem decode_bits {i : Instr} {e : Enc} (hw : i.wf = true) (he : i.enc = some e) : decode e.bits = .ok i := by
  obtain ⟨hm, hk⟩ := enc_format he
  refine decode_of_checks ?_ ?_ ?_ (fmt_ofWord_bits e) ?_ hw
  · rw [bits_mod_four]
    cases e.f <;> exact nofun
  · rwa [bits_major]
  · rwa [bits_major, bits_minor, bits_mod_four]
  · rw [bits_major, bits_minor, hdr_ofWord_bits]
    exact enc_instr hw he

/-! ### Bytes in memory order (R6, R44) -/

theorem length_natToBytes (n w : Nat) : (natToBytes n w).length = n := by
  induction n generalizing w with
  | zero => rfl
  | succ n ih => exact congrArg (· + 1) (ih (w / 256))
theorem bytesToNat_natToBytes (n w : Nat) : bytesToNat (natToBytes n w) = w % 256 ^ n := by
  induction n generalizing w with
  | zero => simp [natToBytes, bytesToNat, Nat.mod_one]
  | succ n ih =>
    rw [natToBytes, bytesToNat, ih, BitVec.toNat_ofNat, Nat.pow_succ' (m := 256)]
    exact Nat.mod_mul.symm
theorem take_natToBytes {k n : Nat} (h : k ≤ n) (w : Nat) : (natToBytes n w).take k = natToBytes k w := by
  induction n generalizing k w with
  | zero => rw [Nat.le_zero.mp h]; rfl
  | succ n ih => cases k with
    | zero => rfl
    | succ k => exact congrArg (BitVec.ofNat 8 w :: ·) (ih (Nat.le_of_succ_le_succ h) _)

theorem wordsOf_of_lenCode {w : Nat} {f : Fmt} (h : w % 4 = f.lenCode) : wordsOf w = some f.words := by
  unfold wordsOf
  rw [h]
  cases f <;> rfl
/-- Bytes that decode as words, and what follows them, decode as bytes. -/
theorem decodeBytes_append {i : Instr} {e : Enc} (h : decode e.bits = .ok i) (rest : List Byte) :
    decodeBytes (natToBytes (8 * e.f.words) e.bits ++ rest) = .ok (i, rest) := by
  have hn : 1 ≤ e.f.words := by cases e.f <;> exact Nat.le_of_ble_eq_true rfl
  have hl := length_natToBytes (8 * e.f.words) e.bits
  have hfirst : bytesToNat ((natToBytes (8 * e.f.words) e.bits ++ rest).take 8) % 4 = e.f.lenCode := by
    rw [List.take_append_of_le_length (by omega), take_natToBytes (by omega), bytesToNat_natToBytes, ← bits_mod_four]
    exact Nat.mod_mod_of_dvd _ (by decide)
  have hall : bytesToNat ((natToBytes (8 * e.f.words) e.bits ++ rest).take (8 * e.f.words)) = e.bits := by
    rw [List.take_left' hl, bytesToNat_natToBytes]
    refine Nat.mod_eq_of_lt ((bits_lt e).trans_eq ?_)
    rw [show (256 : Nat) = 2 ^ 8 from rfl, ← Nat.pow_mul, ← Nat.mul_assoc]
  have h8 : ¬ (natToBytes (8 * e.f.words) e.bits ++ rest).length < 8 := by rw [List.length_append]; omega
  have hw : ¬ (natToBytes (8 * e.f.words) e.bits ++ rest).length < 8 * e.f.words := by rw [List.length_append]; omega
  simp only [decodeBytes, h8, hw, if_false, wordsOf_of_lenCode hfirst, hall, h, List.drop_left' hl]

/-- Settles O54: the encoder's words are a row of bit fields, each of which the decoder reads back. -/
theorem encodeDecode : Obligations.EncodeDecode := by
  refine fun i hw => ⟨fun e he => ⟨e.bits, natToBytes (8 * e.f.words) e.bits, ?_, ?_, decode_bits hw he⟩, fun n hn => ?_,
    fun bs rest hb => ?_⟩
  · rw [encode, he]; rfl
  · rw [encodeBytes, he]; rfl
  · obtain ⟨e, he, rfl⟩ := Option.map_eq_some_iff.mp hn
    exact decode_bits hw he
  · obtain ⟨e, he, rfl⟩ := Option.map_eq_some_iff.mp hb
    exact decodeBytes_append (decode_bits hw he) rest

/-- Settles O53: each word is the encoding of the instruction beside it; the last two fail the checks of LEN and of the minor opcode. -/
theorem decodeWords : Obligations.DecodeWords := by
  have word {n : Nat} {i : Instr} (hw : i.wf = true) (hn : encode i = some n) : decode n = .ok i := (encodeDecode i hw).2.1 n hn
  exact ⟨word rfl rfl, word rfl rfl, word rfl rfl, word rfl rfl, word rfl rfl, word rfl rfl, word rfl rfl, word rfl rfl, word rfl rfl,
    rfl, rfl⟩

end Sys2Proof.Proofs
end

section
/-!
PROOF. O52: what the passing of time leaves of a job's pending operations.
-/
open Sys2Proof Sys2Proof.Machine Sys2Proof.Claims
namespace Sys2Proof.Proofs

/-! ### Time reaches the cores through the AWAITs and the counters alone -/

section
variable {s : State}

theorem ite_cores {p : Prop} [Decidable p] {t u : State} (ht : t.cores = s.cores) (hu : u.cores = s.cores) :
    (if p then t else u).cores = s.cores := by
  split
  · exact ht
  · exact hu
theorem foldl_cores {α : Type} {f : State → α → State} (hf : ∀ s x, (f s x).cores = s.cores) (l : List α) (s : State) :
    (l.foldl f s).cores = s.cores := by
  induction l generalizing s with
  | nil => rfl
  | cons x l ih => exact (ih (f s x)).trans (hf s x)

theorem cacheWalk_cores : s.cacheWalk.cores = s.cores := by
  unfold State.cacheWalk
  repeat' split
  all_goals rfl
theorem cacheNonLeaf_cores : s.cacheNonLeaf.cores = s.cores := by
  unfold State.cacheNonLeaf
  dsimp only
  repeat' split
  all_goals rfl
theorem keepCode_cores : s.keepCode.cores = s.cores := by
  unfold State.keepCode
  repeat' split
  all_goals rfl
theorem seeCode_cores : s.seeCode.cores = s.cores := rfl
/-- Each kind of error poisons memory and is reported, or leaves the state as it is. -/
theorem meetError_cores : s.meetError.cores = s.cores := by
  unfold State.meetError
  split
  · rfl
  · split
    · rfl
    · dsimp only
      split <;> exact ite_cores (errorEvent_cores ..).1 rfl
theorem meetCxl_cores : s.meetCxl.cores = s.cores := by
  unfold State.meetCxl
  repeat' split
  all_goals rfl

theorem numbered_cores (src : DieId) (dst : Nat) (w : Way) : (s.numbered src dst w).cores = s.cores := by cases w <;> rfl
theorem routeAt_cores (s : State) (k : Nat) : (s.routeAt k).cores = s.cores := by
  unfold State.routeAt
  split
  · rfl
  · refine ite_cores rfl ?_
    split
    · rfl
    · exact ite_cores rfl (numbered_cores ..)
theorem routeAll_cores : s.routeAll.cores = s.cores := ite_cores rfl (foldl_cores routeAt_cores _ s)

theorem serve_cores (s : State) (x : Service) : (s.serve x).cores = s.cores := by
  unfold State.serve
  split <;> rfl
theorem serveAll_cores : s.serveAll.cores = s.cores := foldl_cores (fun t x => ite_cores rfl (serve_cores t x)) s.services s

theorem setGroup_cores (n : Fin 16) (g : Group16) : (s.setGroup n g).cores = s.cores := ite_cores rfl rfl
theorem setPort_cores (s : State) (g : BitVec 5) (x : Group16) : (s.setPort g x).cores = s.cores := ite_cores (setGroup_cores ..) rfl
theorem flipEmap_cores (s : State) (g : Nat) : (s.flipEmap g).cores = s.cores := by
  unfold State.flipEmap
  rfl
theorem part_cores (s : State) : s.part_.cores = s.cores := rfl
theorem newEpoch_cores (s : State) : s.newEpoch.cores = s.cores := rfl
theorem linkDown_cores (g : BitVec 5) (x : Group16) (reason : BitVec 8) : (s.linkDown g x reason).cores = s.cores := by
  unfold State.linkDown
  extract_lets y t u
  have ht : t.cores = s.cores := setPort_cores ..
  have hu : u.cores = s.cores := ite_cores ((flipEmap_cores ..).trans ht) ht
  exact (newEpoch_cores _).trans (ite_cores ((part_cores u).trans hu) hu)
theorem flowAt_cores (s : State) (g : BitVec 5) : (s.flowAt g).cores = s.cores := by
  unfold State.flowAt
  extract_lets x
  refine ite_cores rfl ?_
  generalize Config.freeFlits s.tick g.toNat = flits
  exact ite_cores (linkDown_cores ..) (setPort_cores ..)
theorem flow_cores : s.flow.cores = s.cores := foldl_cores flowAt_cores _ s
end

/-! ### Pending operations at the end of a step (R244) -/

@[simp] theorem count_ops (j : Job) (i : Fin 16) (n : Nat) : (j.count i n).ops = j.ops := rfl
theorem jobPass_ops (tick : Nat) (c : CoreId) (gov : Nat) (j : Job) : (j.pass tick c gov).ops = j.ops := by
  unfold Job.pass
  simp only [count_ops]
theorem corePass_ops (tick : Nat) (c : CoreId) (ftime : Word) (n : Nat) (k : Core) :
    (k.pass tick c ftime n).job.map Job.ops = k.job.map Job.ops := by
  unfold Core.pass
  dsimp only
  split
  · rfl
  · rename_i j hj
    split
    · exact (congrArg some (jobPass_ops ..)).trans (congrArg (Option.map Job.ops) hj.symm)
    · rfl
/-- The pending operations of a job after a step are those that its AWAITs' reads leave. -/
theorem pass_ops (s : State) (c : CoreId) : (s.pass.job c).map Job.ops = (s.watch.job c).map Job.ops := by
  have hw : s.watch.cacheWalk.cacheNonLeaf.keepCode.seeCode.meetError.meetCxl.routeAll.serveAll.flow.cores = s.watch.cores := by
    rw [flow_cores, serveAll_cores, routeAll_cores, meetCxl_cores, meetError_cores, seeCode_cores, keepCode_cores, cacheNonLeaf_cores,
      cacheWalk_cores]
  unfold State.pass State.job State.core
  rw [Vector.get_eq_getElem, Vector.getElem_ofFn, corePass_ops, hw]

/-! ### An AWAIT that waits in its core -/

/-- The steps that the pending operations of the job on core 0 carry, by which the fabric orders them (R248). -/
def ticks (s : State) : Option (List Nat) := ((s.job 0).map Job.ops).map (List.map PendOp.tick)
theorem ticks_pass (s : State) : ticks s.pass = ticks s.watch := congrArg (Option.map (List.map PendOp.tick)) (pass_ops s 0)

/-- An AWAIT of stream S, issued at step 0, that waits for the first word of the own accumulators to equal 1. -/
def waitingAwait (id : Nat) : PendOp := ⟨id, ⟨.s, ⟨0, 0⟩, id, 0x10040⟩, .atomic (.await 0) 0x40400000 1 0, none, 0⟩
/-- A job at step 1 with two of them: the second waits in its core behind the first (R248). -/
def twoAwaits : State :=
  { (State.reset.placeProgram 0).onJob 0 (fun j => { j with ops := [waitingAwait 0, waitingAwait 1] }) with tick := 1 }
theorem twoAwaits_ticks : ticks twoAwaits = some [0, 0] := by decide +kernel
theorem twoAwaits_watch_ticks : ticks twoAwaits.watch = some [0, 1] := by decide +kernel

/-- Refutes O52: as time passes, an AWAIT that waits in its core takes the number of the step (State.watchJob, for the order of R248), where
the statement lets a pending operation change in the word that it has found alone. -/
theorem not_stepRunsDecoded : ¬ Obligations.StepRunsDecoded := by
  rintro ⟨-, -, time⟩
  obtain ⟨-, -, -, -, -, -, -, -, -, jobs⟩ := time twoAwaits
  cases hj : twoAwaits.job 0 with
  | none => exact absurd twoAwaits_ticks (by simp [ticks, hj])
  | some j =>
    obtain ⟨k, f, hk, hkj, -⟩ := jobs 0 j hj
    have hops : k.ops.map PendOp.tick = j.ops.map PendOp.tick := by
      rw [congrArg Job.ops hkj, List.map_map]
      rfl
    have same : ticks twoAwaits.pass = ticks twoAwaits := by simp only [ticks, hk, hj, Option.map_some, hops]
    rw [ticks_pass, twoAwaits_watch_ticks, twoAwaits_ticks] at same
    exact absurd same (by decide)

end Sys2Proof.Proofs
end

section
/-!
PROOF. O1 to O6: integer and logic instructions, compares, immediates, branches and calls.
-/
open Sys2Proof Sys2Proof.Machine Sys2Proof.Claims
namespace Sys2Proof.Proofs

/-! ### The state in which an instruction ends its body -/

/-- The state u executes the stream that s executes, and a job is there. -/
def Stands (s u : State) : Prop := u.cur = s.cur ∧ u.own.isSome = true

theorem stands_of_entered {s s0 : State} {i : Instr} (he : s.entered i = some s0) : Stands s s0 := entered_keeps he
theorem Stands.cur {s u : State} (h : Stands s u) : u.cur = s.cur := h.1
theorem Stands.job {s u : State} (h : Stands s u) : ∃ j, u.own = some j := Option.isSome_iff_exists.mp h.2
theorem Stands.scalars {s u v : State} {l : List Spec} {vs : List Word} (h : Stands s u) (hv : u.scalars l = some (vs, v)) : Stands s v :=
  ⟨(scalars_keeps hv).1.trans h.1, (scalars_keeps hv).2.trans h.2⟩
theorem Stands.put {s u : State} (h : Stands s u) (d : Hdr) (x : Spec) (v : Option Word) (held : Bool) : Stands s (u.put d x v held) :=
  ⟨(u.put_cur d x v held).trans h.1, (u.put_own_isSome d x v held).trans h.2⟩
theorem Stands.onOwn {s u : State} (h : Stands s u) (f : Job → Job) : Stands s (u.onOwn f) := by
  refine ⟨(u.onOwn_cur f).trans h.1, ?_⟩
  rw [State.onOwn_own, Option.isSome_map]
  exact h.2
theorem Stands.onLane {s u : State} (h : Stands s u) (f : Stream → Stream) : Stands s (u.onLane f) := h.onOwn _
theorem Stands.putPred {s u : State} (h : Stands s u) (x : Spec) (b : Bool) : Stands s (u.putPred x b) := h.onLane _

section
variable {i : Instr} {s s0 u : State} (he : s.entered i = some s0)
include he

/-- AN INSTRUCTION COMPLETES where its body completes, in a state that still executes its stream. -/
theorem completes_of_body {body : M (Option Word)} {r : Option Word} (hx : exec i s = runInstr i body s) (hb : Runs body s0 r u)
    (hu : Stands s u) : exec i s = .next (u.retired i (r.getD (s.nextPc i))) := hx.trans (runInstr_completes he hb hu.1 hu.2)
theorem completes_of_straight {body : M Unit} (hx : exec i s = runInstr i (straight body) s) (hb : Runs body s0 () u) (hu : Stands s u) :
    exec i s = .next (u.retired i (s.nextPc i)) := hx.trans (straight_completes he hb hu.1 hu.2)
theorem completes_at {body : M (Option Word)} {pc : Word} (hx : exec i s = runInstr i body s) (hb : Runs body s0 (some pc) u)
    (hu : Stands s u) : exec i s = .next (u.retired i pc) := by
  have h := completes_of_body he hx hb hu
  rwa [Option.getD_some] at h
end

/-! ### Scalar sources -/

section
variable {α : Type} {x y : Spec} {s u v : State} {a b : Word} {r : α}

/-- A body that goes on with the values of its scalar sources. -/
theorem runs_pop {g : Word → M α} (hv : s.scalars [x] = some ([a], u)) (k : Runs (g a) u r v) : Runs (pop x >>= g) s r v := by
  obtain ⟨t, ha, hn⟩ := scalars_cons hv
  cases scalars_nil hn
  exact runs_bind (pop_runs ha) k
theorem runs_pop_pop {g : Word → Word → M α} (hv : s.scalars [x, y] = some ([a, b], u)) (k : Runs (g a b) u r v) :
    Runs (do let a ← pop x; let b ← pop y; g a b) s r v := by
  obtain ⟨t, ha, hb⟩ := scalars_cons hv
  exact runs_bind (pop_runs ha) (runs_pop hb k)
end

/-! ### The results of R67 and R68 -/

theorem minVal_eq (u : Bool) (a b : Word) :
    minVal u a b = if u then (if a.toNat < b.toNat then a else b) else (if a.toInt < b.toInt then a else b) := by
  cases u
  · simp only [minVal, BitVec.slt, Bool.false_eq_true, if_false, decide_eq_true_eq]
    rcases Int.lt_trichotomy a.toInt b.toInt with h | h | h
    · rw [if_pos h, if_neg (by omega)]
    · rw [if_neg (by omega), if_neg (by omega), BitVec.eq_of_toInt_eq h]
    · rw [if_pos h, if_neg (by omega)]
  · simp only [minVal, BitVec.ult, if_true, decide_eq_true_eq]
    rcases Nat.lt_trichotomy a.toNat b.toNat with h | h | h
    · rw [if_pos h, if_neg (by omega)]
    · rw [if_neg (by omega), if_neg (by omega), BitVec.eq_of_toNat_eq h]
    · rw [if_pos h, if_neg (by omega)]
theorem maxVal_eq (u : Bool) (a b : Word) :
    maxVal u a b = if u then (if b.toNat < a.toNat then a else b) else (if b.toInt < a.toInt then a else b) := by
  cases u
  · simp only [maxVal, BitVec.slt, Bool.false_eq_true, if_false, decide_eq_true_eq]
    rcases Int.lt_trichotomy a.toInt b.toInt with h | h | h
    · rw [if_pos h, if_neg (by omega)]
    · rw [if_neg (by omega), if_neg (by omega), BitVec.eq_of_toInt_eq h]
    · rw [if_pos h, if_neg (by omega)]
  · simp only [maxVal, BitVec.ult, if_true, decide_eq_true_eq]
    rcases Nat.lt_trichotomy a.toNat b.toNat with h | h | h
    · rw [if_pos h, if_neg (by omega)]
    · rw [if_neg (by omega), if_neg (by omega), BitVec.eq_of_toNat_eq h]
    · rw [if_pos h, if_neg (by omega)]

/-- Each two-source instruction pushes the result of R67. -/
theorem exec_alu2_eq {i : Instr} {h : Hdr} {f : FRR} {g : Word → Word → Word} (hi : Claims.alu2 i = some (h, f, g)) (s : State) :
    exec i s = runInstr i (straight (Machine.alu2 h f g)) s := by
  have hmin : minVal (fnU f.fn) = fun a b => if f.fn.getLsbD 0 then (if a.toNat < b.toNat then a else b)
      else (if a.toInt < b.toInt then a else b) := funext₂ (minVal_eq _)
  have hmax : maxVal (fnU f.fn) = fun a b => if f.fn.getLsbD 0 then (if b.toNat < a.toNat then a else b)
      else (if b.toInt < a.toInt then a else b) := funext₂ (maxVal_eq _)
  unfold Claims.alu2 at hi
  split at hi <;> cases hi
  case h_12 => rw [← hmin]; rfl
  case h_13 => rw [← hmax]; rfl
  all_goals rfl

theorem num_eq_zero (u : Bool) (b : Word) : num u b = 0 ↔ b = 0 := by
  cases u
  · refine ⟨fun h => BitVec.eq_of_toInt_eq h, fun h => by rw [h]; rfl⟩
  · refine ⟨fun h => BitVec.eq_of_toNat_eq (by simpa [num] using h), fun h => by rw [h]; rfl⟩
/-- The only quotient of R68 that overflows. -/
theorem overflows_iff (a b : Word) : (a.toInt = -2 ^ 63 ∧ b.toInt = -1) ↔ (a = BitVec.intMin 64 ∧ b = BitVec.allOnes 64) :=
  ⟨fun ⟨ha, hb⟩ => ⟨BitVec.eq_of_toInt_eq ha, BitVec.eq_of_toInt_eq hb⟩, fun ⟨ha, hb⟩ => by rw [ha, hb]; exact ⟨rfl, rfl⟩⟩
theorem divVal_eq (u : Bool) (a b : Word) : divVal u a b = quotient u a b := by
  unfold divVal quotient
  simp only [num_eq_zero, overflows_iff]
  cases u
  · simp only [Bool.false_eq_true, if_false, true_and]
    rfl
  · simp only [if_true, Bool.true_eq_false, false_and, if_false]
    rfl
theorem remVal_eq (u : Bool) (a b : Word) : remVal u a b = remainder u a b := by
  unfold remVal remainder
  simp only [num_eq_zero, overflows_iff]
  cases u
  · simp only [Bool.false_eq_true, if_false, true_and, num, Int.tmod_def]
  · simp only [if_true, Bool.true_eq_false, false_and, if_false, num, ← Int.tmod_def]
    rfl

/-- A result of two sources is pushed to a destination with room. -/
theorem alu2_runs {h : Hdr} {f : FRR} {g : Word → Word → Word} {s s1 : State} {a b : Word} (hv : s.scalars [f.a, f.b] = some ([a, b], s1))
    (ho : s1.own.isSome = true) (hr : s1.room f.d = true) : Runs (Machine.alu2 h f g) s () (s1.put h f.d (some (g a b)) false) := by
  obtain ⟨j, hj⟩ := Option.isSome_iff_exists.mp ho
  exact runs_pop_pop hv (push_runs hj hr)
theorem alu2_completes {i : Instr} {h : Hdr} {f : FRR} {g : Word → Word → Word} {s s0 s1 : State} {a b : Word}
    (hx : exec i s = runInstr i (straight (Machine.alu2 h f g)) s) (he : s.entered i = some s0)
    (hv : s0.scalars [f.a, f.b] = some ([a, b], s1)) (hr : s1.room f.d = true) :
    exec i s = .next ((s1.put h f.d (some (g a b)) false).retired i (s.nextPc i)) := by
  have h1 := (stands_of_entered he).scalars hv
  exact completes_of_straight he hx (alu2_runs hv h1.2 hr) (h1.put _ _ _ _)
theorem alu1_completes {i : Instr} {h : Hdr} {f : FRR} {g : Word → Word} {s s0 s1 : State} {a : Word}
    (hx : exec i s = runInstr i (straight (alu1 h f g)) s) (he : s.entered i = some s0)
    (hv : s0.scalars [f.a] = some ([a], s1)) (hr : s1.room f.d = true) :
    exec i s = .next ((s1.put h f.d (some (g a)) false).retired i (s.nextPc i)) := by
  have h1 := (stands_of_entered he).scalars hv
  obtain ⟨j, hj⟩ := h1.job
  exact completes_of_straight he hx (runs_pop hv (push_runs hj hr)) (h1.put _ _ _ _)

/-- Settles O1: each instruction's operation is the rule's, on the values of its two sources. -/
theorem aluTwoSources : Obligations.AluTwoSources :=
  fun _ _ _ _ hi _ _ _ _ _ he hv hr => alu2_completes (exec_alu2_eq hi _) he hv hr

/-- Settles O2: the model's quotient and remainder are those of the rule's computation. -/
theorem divideAndRemainder : Obligations.DivideAndRemainder := by
  refine fun h f s s0 s1 a b => ⟨fun he hv hr => ?_, fun he hv hr => ?_⟩
  · rw [← divVal_eq]
    exact alu2_completes rfl he hv hr
  · rw [← remVal_eq]
    exact alu2_completes rfl he hv hr

/-! ### CLZ, POPC, SEL and MOV (R67) -/

/-- The number of leading zero bits of a word. -/
def leadingZeros (a : Word) : Nat := if a = 0 then 64 else 63 - Nat.log2 a.toNat

theorem leadingZeros_le (a : Word) : leadingZeros a ≤ 64 := by
  unfold leadingZeros
  split <;> omega
theorem log2_lt {a : Word} (h : a ≠ 0) : Nat.log2 a.toNat < 64 :=
  (Nat.log2_lt fun e => h (BitVec.eq_of_toNat_eq e)).mpr a.isLt
theorem getLsbD_above {a : Word} {k : Nat} (hk : k < leadingZeros a) : a.getLsbD (63 - k) = false := by
  unfold leadingZeros at hk
  split at hk
  · rename_i h
    rw [h]
    exact BitVec.getLsbD_zero
  · rename_i h
    refine Nat.testBit_lt_two_pow (Nat.lt_of_lt_of_le (Nat.lt_log2_self (n := a.toNat)) (Nat.pow_le_pow_right (by decide) ?_))
    omega
theorem getLsbD_leading {a : Word} (hn : leadingZeros a < 64) : a.getLsbD (63 - leadingZeros a) = true := by
  unfold leadingZeros at hn ⊢
  split at hn
  · cases Nat.lt_irrefl _ hn
  · rename_i h
    have hlt := log2_lt h
    rw [if_neg h, show 63 - (63 - Nat.log2 a.toNat) = Nat.log2 a.toNat by omega]
    exact Nat.testBit_log2 fun e => h (BitVec.eq_of_toNat_eq e)

theorem sel_completes {h : Hdr} {f : FRR} {s s0 s1 : State} {a b : Word} (he : s.entered (.sel h f) = some s0)
    (hv : s0.scalars [f.a, f.b] = some ([a, b], s1)) (hr : s1.room f.d = true) :
    exec (.sel h f) s = .next ((s1.put h f.d (some (if s1.pred f.c then a else b)) false).retired (.sel h f) (s.nextPc (.sel h f))) := by
  have h1 := (stands_of_entered he).scalars hv
  obtain ⟨j, hj⟩ := h1.job
  exact completes_of_straight (body := selBody h f) he rfl (runs_pop_pop hv (runs_bind (readPred_runs f.c hj) (push_runs hj hr))) (h1.put _ _ _ _)

theorem bne_eq (a b : Word) : (a != b) = decide (a ≠ b) := by
  rw [decide_not]
  rfl
/-- What MOV does with its source. -/
def movTo (h : Hdr) (f : FRR) (a : Word) : M Unit := if Spec.file f.d then writePred f.d (a != 0) else push h f.d a
/-- MOV reads its source, a predicate as a number or a scalar, and goes on with it. -/
theorem movBody_runs {h : Hdr} {f : FRR} {s s1 u : State} {a : Word} (ho : s.own.isSome = true)
    (hv : if Spec.file f.a then a = (if s.pred f.a then 1 else 0) ∧ s1 = s else s.scalars [f.a] = some ([a], s1))
    (k : Runs (movTo h f a) s1 () u) : Runs (movBody h f) s () u := by
  unfold movBody
  dsimp only
  split at hv
  · rename_i hf
    obtain ⟨rfl, rfl⟩ := hv
    obtain ⟨j, hj⟩ := Option.isSome_iff_exists.mp ho
    rw [if_pos hf]
    exact runs_bind (runs_bind (readPred_runs f.a hj) (runs_pure _ _)) k
  · rename_i hf
    rw [if_neg hf]
    exact runs_pop (g := movTo h f) hv k
theorem mov_stands {f : FRR} {s s0 s1 : State} {a : Word} (h0 : Stands s s0)
    (hv : if Spec.file f.a then a = (if s0.pred f.a then 1 else 0) ∧ s1 = s0 else s0.scalars [f.a] = some ([a], s1)) : Stands s s1 := by
  split at hv
  · exact hv.2 ▸ h0
  · exact h0.scalars hv
theorem mov_completes {h : Hdr} {f : FRR} {s s0 s1 : State} {a : Word} (he : s.entered (.mov h f) = some s0)
    (hv : if Spec.file f.a then a = (if s0.pred f.a then 1 else 0) ∧ s1 = s0 else s0.scalars [f.a] = some ([a], s1)) :
    if Spec.file f.d then exec (.mov h f) s = .next ((s1.putPred f.d (decide (a ≠ 0))).retired (.mov h f) (s.nextPc (.mov h f)))
      else s1.room f.d = true → exec (.mov h f) s = .next ((s1.put h f.d (some a) false).retired (.mov h f) (s.nextPc (.mov h f))) := by
  have h0 := stands_of_entered he
  have h1 := mov_stands h0 hv
  obtain ⟨j, hj⟩ := h1.job
  split
  · rename_i hf
    refine completes_of_straight (body := movBody h f) he rfl (movBody_runs h0.2 hv ?_) (h1.putPred _ _)
    rw [movTo, if_pos hf, bne_eq]
    exact writePred_runs _ _ hj
  · rename_i hf
    refine fun hr => completes_of_straight (body := movBody h f) he rfl (movBody_runs h0.2 hv ?_) (h1.put _ _ _ _)
    rw [movTo, if_neg hf]
    exact push_runs hj hr

/-- Settles O3: the leading zero bits end at the highest one bit; MOV takes its source and its destination each from its own file. -/
theorem countSelectAndMove : Obligations.CountSelectAndMove := by
  refine ⟨fun h f s s0 s1 a => ⟨fun he hv hr => ?_, fun he hv hr => alu1_completes (g := popcVal) rfl he hv hr⟩, fun h f s s0 s1 a b =>
    ⟨sel_completes, mov_completes⟩⟩
  exact ⟨leadingZeros a, leadingZeros_le a, fun k => getLsbD_above, getLsbD_leading, alu1_completes (g := clzVal) rfl he hv hr⟩

/-! ### Compares (R69) -/

/-- The compares are the instructions of major 0x02. -/
theorem compares_of_major {i : Instr} {e : Enc} (he : i.enc = some e) : e.major = 0x02 ↔ (compares i).isSome = true := by
  cases i <;> cases he <;> simp [compares]
/-- Each compare's own condition. -/
theorem exec_compare {i : Instr} {h : Hdr} {f : FRR} {g : Word → Word → Bool} (hi : compares i = some (h, f, g)) (s : State) :
    exec i s = runInstr i (straight (compare2 f g)) s := by
  have hne : (fun a b : Word => a != b) = fun a b => decide (a ≠ b) := funext₂ bne_eq
  unfold compares at hi
  split at hi <;> cases hi
  case h_2 => rw [← hne]; rfl
  all_goals rfl
theorem compare_enc {i : Instr} {h : Hdr} {f : FRR} {g : Word → Word → Bool} (hi : compares i = some (h, f, g)) :
    (∃ minor, i.enc = some ⟨0x02, minor, h, .rr f⟩) ∧
      i.wf = (Cls.pred.ok f.d && Cls.src.ok f.a && Cls.src.ok f.b && Cls.none.ok f.c && f.fn == 0) := by
  unfold compares at hi
  split at hi <;> cases hi <;> exact ⟨⟨_, rfl⟩, rfl⟩

/-- Settles O4: the compares are found in the opcode map, and each writes its condition. -/
theorem compareSetsPredicate : Obligations.CompareSetsPredicate := by
  refine ⟨fun i e => compares_of_major, fun i h f g hi => ⟨(compare_enc hi).1, (compare_enc hi).2, fun s s0 s1 a b he hv => ?_⟩⟩
  have h1 := (stands_of_entered he).scalars hv
  obtain ⟨j, hj⟩ := h1.job
  exact completes_of_straight he (exec_compare hi s) (runs_pop_pop hv (writePred_runs f.d _ hj)) (h1.putPred _ _)

/-! ### Immediates (R70) -/

theorem shl_setWidth {n : Nat} (x : BitVec n) (k : Nat) : x.setWidth 64 <<< k = BitVec.ofNat 64 (x.toNat * 2 ^ k) := by
  apply BitVec.eq_of_toNat_eq
  simp [BitVec.toNat_shiftLeft, Nat.shiftLeft_eq, Nat.mod_mul_mod]

theorem ofInt_toInt {n : Nat} (x : BitVec n) : BitVec.ofInt 64 x.toInt = x.signExtend 64 := rfl
theorem addi_completes {h : Hdr} {f : FRI} {s s0 s1 : State} {a : Word} (he : s.entered (.addi h f) = some s0)
    (hv : s0.scalars [f.a] = some ([a], s1)) (hr : s1.room f.d = true) :
    exec (.addi h f) s = .next ((s1.put h f.d (some (a + BitVec.ofInt 64 f.imm.toInt)) false).retired (.addi h f) (s.nextPc (.addi h f))) := by
  have h1 := (stands_of_entered he).scalars hv
  obtain ⟨j, hj⟩ := h1.job
  exact completes_of_straight (body := addiBody h f) he rfl (runs_pop hv (push_runs hj hr)) (h1.put _ _ _ _)
theorem ldiVal_eq (u : Bool) (x : BitVec 32) :
    (if u then BitVec.ofNat 64 x.toNat else BitVec.ofInt 64 x.toInt) = if u then x.setWidth 64 else x.signExtend 64 := by
  rw [BitVec.ofNat_toNat, ofInt_toInt]
/-- An instruction that pushes a value which it holds itself. -/
theorem push_completes {i : Instr} {h : Hdr} {d : Spec} {v : Word} {s s0 : State} (hx : exec i s = runInstr i (straight (push h d v)) s)
    (he : s.entered i = some s0) (hr : s0.room d = true) : exec i s = .next ((s0.put h d (some v) false).retired i (s.nextPc i)) := by
  have h0 := stands_of_entered he
  obtain ⟨j, hj⟩ := h0.job
  exact completes_of_straight he hx (push_runs hj hr) (h0.put _ _ _ _)

/-- Settles O5: the immediates, extended as the instruction says. -/
theorem immediates : Obligations.Immediates := by
  refine fun h s s0 s1 a => ⟨fun f => addi_completes, fun f he hr => ?_, fun f he hr => ?_⟩
  · rw [ldiVal_eq]
    exact push_completes rfl he hr
  · rw [← shl_setWidth]
    exact push_completes rfl he hr

/-! ### Branches and calls (R71) -/

theorem branchOffset_eq (f : FBR) : f.ofs.signExtend 64 <<< 3 = BitVec.ofInt 64 (8 * f.ofs.toInt) := by
  rw [BitVec.ofInt_mul, ofInt_toInt, BitVec.shiftLeft_eq_mul_twoPow, BitVec.mul_comm]
  rfl
theorem branchTarget_runs {s : State} {t : Stream} (f : FBR) (hl : s.lane = some t) :
    Runs (branchTarget f) s (t.pc + BitVec.ofInt 64 (8 * f.ofs.toInt)) s := by
  refine runs_bind (runs_getStream_lane hl) ?_
  rw [branchOffset_eq]
  exact runs_pure _ s

/-- Settles O6: the target is that of the stream in which the instruction started, which the token pops leave as it was. -/
theorem branchesAndCalls : Obligations.BranchesAndCalls := by
  refine fun h f s s0 s1 t a hl => ⟨fun he => ?_, fun he => ?_, fun he hr => ?_, fun he hv ha => ?_⟩
  all_goals
    have h0 := stands_of_entered he
    obtain ⟨j, hj⟩ := h0.job
    have hl0 := (entered_lane he).trans hl
  · exact completes_at (body := brBody f) he rfl (runs_bind (branchTarget_runs f hl0) (runs_pure _ s0)) h0
  · have hb : Runs (brcBody f) s0 _ s0 := runs_bind (readPred_runs f.x hj) (runs_bind (branchTarget_runs f hl0) (runs_pure _ s0))
    have hx := completes_of_body (body := brcBody f) he rfl hb h0
    rwa [apply_ite (Option.getD · _)] at hx
  · exact completes_at (body := callBody h f) he rfl (runs_bind (branchTarget_runs f hl0)
      (runs_bind (runs_getStream_lane hl0) (runs_bind (push_runs hj hr)
      (runs_pure _ _)))) (h0.put _ _ _ _)
  · exact completes_at (body := retBody f) he rfl (runs_pop hv (runs_bind (runs_trapIf _ _ s1 (by simp [ha])) (runs_pure _ s1))) (h0.scalars hv)

end Sys2Proof.Proofs
end

section
/-!
PROOF. O7, O9 to O12: skipped instructions, loops, coordinates, clamps and tokens.
-/
open Sys2Proof Sys2Proof.Machine Sys2Proof.Claims
namespace Sys2Proof.Proofs

/-! ### An instruction of an inactive stage (R74) -/

theorem active_iff {lp : Loop} (k n : Nat) (hf : lp.f = 0) : lp.active k n = true ↔ n ≤ k ∧ k - n < lp.t := by
  rw [Loop.active, hf, Nat.zero_add, decide_eq_true_eq]
/-- The innermost running loop is that of the lowest level. -/
theorem innermost_eq {t : Stream} {l : Fin 5} {lp : Loop} (hl : t.loops.get l = some lp) (hm : ∀ m : Fin 5, m < l → t.loops.get m = none) :
    t.innermost = some (l, lp) := by
  have hs : ([0, 1, 2, 3, 4] : List (Fin 5)) = (List.finRange 5).take l ++ l :: (List.finRange 5).drop (l + 1) := by
    clear hl hm; decide +revert
  have hlt : ∀ x ∈ (List.finRange 5).take l, x < l := by clear hl hm; decide +revert
  unfold Stream.innermost
  rw [hs]
  refine List.findSome?_eq_some_iff.mpr ⟨_, l, _, rfl, by rw [hl]; rfl, fun x hx => ?_⟩
  rw [hm x (hlt x hx)]
  rfl
theorem skips_eq {t : Stream} {l : Fin 5} {lp : Loop} (n : Nat) (hl : t.loops.get l = some lp)
    (hm : ∀ m : Fin 5, m < l → t.loops.get m = none) : t.skips n = !lp.active (Coord.ix t.coord l) n := by
  unfold Stream.skips
  rw [innermost_eq hl hm]

/-- A skipped instruction changes the job in its streams and its number in program order alone. -/
theorem retire_skipped_job (j : Job) (st : StreamId) (pc : Word) (h : Hdr) :
    j.retire st pc h true = { j with streams := (j.retire st pc h true).streams, seq := j.seq + 1 } := rfl
/-- A skipped instruction leaves its stream at the next instruction with no token pushed. -/
theorem retire_skipped_lane (j : Job) (st : StreamId) (pc : Word) (h : Hdr) :
    let b := (j.retire st pc h true).stream st
    b = { j.stream st with pc := pc, cause := 0, last := b.last, adv := b.adv, tried := false } := by
  have key (t : Stream) (n : Nat) : (Job.stir { j.setStream st t.settle with seq := n }).stream st =
      { t with adv := t.settle.adv, tried := false } := by
    rw [stir_stream, show Job.stream { j.setStream st t.settle with seq := n } st = t.settle from Job.stream_setStream j st _, settle_eq]
  unfold Job.retire
  simp only [if_true, key]
/-- RDV of an inactive stage leaves the stream issuing. -/
theorem rdv_skipped {h : Hdr} {f : FRR} {s : State} {j : Job} (hj : s.own = some j) (hs : s.skipped (.rdv h f) = true) :
    exec (.rdv h f) s = .next (s.onOwn (fun j => j.retire s.cur.2 (s.nextPc (.rdv h f)) h true)) := by
  have hm : j.mayIssue s.cur.2 = true := by
    unfold State.skipped at hs
    simp only [Instr.enc, hj, Bool.and_eq_true] at hs
    exact hs.1.1.1.1.1
  have hp : (j.stream s.cur.2).phase ≠ .rdv := by
    unfold Job.mayIssue at hm
    simp only [Bool.and_eq_true, decide_eq_true_eq] at hm
    rw [hm.1.1.1]
    nofun
  change execRdv h f s = _
  unfold execRdv
  rw [runInstr_skipped _ rfl hj hs, State.onOwn_eq hj]
  dsimp only
  rw [State.job_setJob, Option.any_some, retire_phase, if_neg (by simpa using hp)]
theorem exec_skipped {i : Instr} {e : Enc} {s : State} {j : Job} (he : i.enc = some e) (hj : s.own = some j) (hs : s.skipped i = true) :
    exec i s = .next (s.setJob s.cur.1 (j.retire s.cur.2 (s.nextPc i) e.h true)) := by
  rw [← State.onOwn_eq hj fun j => j.retire s.cur.2 (s.nextPc i) e.h true]
  by_cases hr : ∃ h f, i = .rdv h f
  · obtain ⟨h, f, rfl⟩ := hr
    cases he
    exact rdv_skipped hj hs
  · obtain ⟨body, hb⟩ := exec_body he (fun h f e => hr ⟨h, f, e⟩)
    exact (hb s).trans (runInstr_skipped body he hj hs)

/-- Settles O7: the innermost loop is found first, and a skipped instruction retires without its body. -/
theorem inactiveStageIsSkipped : Obligations.InactiveStageIsSkipped :=
  ⟨fun _ k n hf => active_iff k n hf, fun _ _ _ n => skips_eq n, fun _ _ _ _ he hj hs => ⟨_, exec_skipped he hj hs, retire_skipped_job _ _ _ _,
    fun _ hx => retire_others _ _ _ true hx, retire_skipped_lane _ _ _ _⟩⟩

/-! ### TOK (R78) -/

theorem tok_wf (h : Hdr) (f : FRR) : (Instr.tok h f).wf = true ↔ f = ⟨0, 0, 0, 0, 0⟩ := by
  obtain ⟨c, b, a, fn, d⟩ := f
  simp only [Instr.wf, FRR.cls, Cls.ok, Bool.and_eq_true, beq_iff_eq, FRR.mk.injEq]
  tauto

/-- Settles O12: its body does nothing. -/
theorem tokMovesTokensOnly : Obligations.TokMovesTokensOnly := fun h f =>
  ⟨rfl, tok_wf h f, rfl, fun _ s0 he => completes_of_straight (body := pure ()) he rfl (runs_pure () s0) (stands_of_entered he)⟩

/-! ### What scalar reads leave -/

/-- The job after scalar reads: entries of its stream's registers popped, and its FENCEs ordered. -/
def ReadOf (st : StreamId) (j k : Job) : Prop := ∃ regs fences, k = j.onStream st (fun t => { t with regs := regs, fences := fences })

theorem onStream_self {j : Job} {st : StreamId} {f : Stream → Stream} (h : f (j.stream st) = j.stream st) : j.onStream st f = j := by
  unfold Job.onStream Job.setStream
  rw [h, Job.stream, set_get_self]
theorem onStream_onStream (j : Job) (st : StreamId) (f g : Stream → Stream) : (j.onStream st f).onStream st g = j.onStream st (g ∘ f) := by
  unfold Job.onStream
  rw [Job.stream_setStream]
  simp [Job.setStream]
theorem ReadOf.refl (st : StreamId) (j : Job) : ReadOf st j j := ⟨(j.stream st).regs, (j.stream st).fences, (onStream_self rfl).symm⟩
theorem ReadOf.trans (st : StreamId) (i j k : Job) (h : ReadOf st i j) (g : ReadOf st j k) : ReadOf st i k := by
  obtain ⟨r, x, rfl⟩ := h
  obtain ⟨r', x', rfl⟩ := g
  exact ⟨r', x', onStream_onStream _ _ _ _⟩
/-- A state after scalar reads. -/
def Reads : State → State → Prop := Within ReadOf
theorem Reads.refl (s : State) : Reads s s := Within.refl ReadOf.refl s
theorem Reads.trans (s t u : State) (h : Reads s t) (g : Reads t u) : Reads s u := Within.trans ReadOf.trans s t u h g
theorem Reads.onLane {s : State} {f : Stream → Stream} (hf : ∀ t, ∃ regs fences, f t = { t with regs := regs, fences := fences }) :
    Reads s (s.onLane f) := by
  refine ⟨State.onLane_cur s f, fun j hj => ⟨_, State.onOwn_eq hj _, ?_⟩⟩
  obtain ⟨r, x, e⟩ := hf (j.stream s.cur.2)
  exact ⟨r, x, by simp only [Job.onStream, e]⟩
theorem reads_eq (id seq : Nat) (t : Stream) : ∃ regs fences, t.reads id seq = { t with regs := regs, fences := fences } := by
  unfold Stream.reads
  split
  · exact ⟨_, _, rfl⟩
  · exact ⟨t.regs, t.fences, rfl⟩
theorem read_popped (s : State) (id seq : Nat) (peek : Bool) (g : Stream → Vector (Queue Word) 31) :
    Reads s (if peek then s.onLane (Stream.reads id seq) else (s.onLane (Stream.reads id seq)).onLane (fun t => { t with regs := g t })) := by
  have h : Reads s (s.onLane (Stream.reads id seq)) := Reads.onLane (reads_eq id seq)
  split
  · exact h
  · exact Reads.trans _ _ _ h (Reads.onLane fun t => ⟨g t, t.fences, rfl⟩)
theorem scalar_reads {s t : State} {x : Spec} {v : Word} (h : s.scalar x = some (v, t)) : Reads s t := by
  unfold State.scalar at h
  split at h
  · cases h
    exact Reads.refl s
  · split at h
    · cases h
    · dsimp only at h
      split at h
      · cases h
      · split at h
        · cases h
        · obtain ⟨w, -, e⟩ := Option.map_eq_some_iff.mp h
          cases e
          exact read_popped _ _ _ _ _
theorem scalars_reads {l : List Spec} {s u : State} {vs : List Word} (h : s.scalars l = some (vs, u)) : Reads s u := by
  induction l generalizing s vs with
  | nil => cases h; exact Reads.refl _
  | cons x l ih =>
    obtain ⟨v, ws, t, rfl, ht, hl⟩ := scalars_cons_inv h
    exact Reads.trans _ _ _ (scalar_reads ht) (ih hl)
/-- The state after scalar reads, written out. -/
theorem Reads.eq {s u : State} {j : Job} (h : Reads s u) (hj : s.own = some j) :
    ∃ regs fences, u = s.setJob s.cur.1 (j.onStream s.cur.2 (fun t => { t with regs := regs, fences := fences })) := by
  obtain ⟨k, rfl, r, x, rfl⟩ := h.2 j hj
  exact ⟨r, x, rfl⟩
/-- Scalar reads leave what the rest of an instruction asks of its stream: its coordinate, its loops and its program counter. -/
theorem Reads.lane {s u : State} {j : Job} (h : Reads s u) (hj : s.own = some j) : ∃ k, u.own = some k ∧ k.seq = j.seq ∧ k.handle = j.handle ∧
    k.part = j.part ∧ ∃ regs fences, k.stream s.cur.2 = { j.stream s.cur.2 with regs := regs, fences := fences } := by
  obtain ⟨r, x, rfl⟩ := h.eq hj
  exact ⟨_, State.job_setJob _ _ _, rfl, rfl, rfl, r, x, Job.stream_onStream _ _ _⟩

/-! ### LCLAMP (R75) -/

/-- The operand of LCLAMP: its popped word where it has one. -/
theorem tripValue_runs {f : FLP} {s s1 : State} {w : Word}
    (hv : if f.tsrc then s.scalars [f.trip.setWidth 7] = some ([w], s1) else s1 = s) :
    Runs (tripValue f) s (if f.tsrc then w else f.trip.setWidth 64) s1 := by
  unfold tripValue
  split at hv
  · rename_i ht
    rw [if_pos ht, if_pos ht]
    obtain ⟨t, ha, hn⟩ := scalars_cons hv
    cases scalars_nil hn
    exact pop_runs ha
  · rename_i ht
    rw [if_neg ht, if_neg ht, hv]
    exact runs_pure _ s
theorem tripValue_stands {f : FLP} {s s0 s1 : State} {w : Word} (h : Stands s s0)
    (hv : if f.tsrc then s0.scalars [f.trip.setWidth 7] = some ([w], s1) else s1 = s0) : Stands s s1 := by
  split at hv
  · exact h.scalars hv
  · exact hv ▸ h

section
variable {h : Hdr} {f : FLP} {s s1 : State} {j : Job} {w : Word} (hj : s1.own = some j)
include hj

/-- A clamp of the issuing job: by its own fields, or by a popped word without TGT. -/
theorem lclampBody_mine (hv : if f.tsrc then s.scalars [f.trip.setWidth 7] = some ([w], s1) else s1 = s)
    (hw : f.tsrc = false ∨ (w.getLsbD 63 = false ∧ w.toNat / 2 ^ 48 = 0)) : Runs (lclampBody h f) s () { s1 with clamps := s1.clamps ++
      [⟨s1.cur.1, j.handle, fin5 f.level.toNat, if f.tsrc then w.toNat % 2 ^ 16 else f.trip.toNat, false⟩] } := by
  refine runs_bind (tripValue_runs hv) (runs_bind (runs_getJob hj) (runs_bind (runs_get s1) ?_))
  dsimp only
  cases ht : f.tsrc with
  | false => exact runs_modify _ s1
  | true =>
    obtain ⟨h63, h48⟩ := hw.resolve_left (by simp [ht])
    simp only [if_true]
    refine runs_bind (runs_trapIf _ _ s1 (by rw [h63]; rfl)) (runs_bind (runs_trapIf _ _ s1 (by rw [h48]; rfl)) ?_)
    rw [if_neg (by rw [h63]; nofun)]
    exact runs_modify _ s1
/-- A clamp of every job that the supervisor's handle names. -/
theorem lclampBody_named (ht : f.tsrc = true) (hv : s.scalars [f.trip.setWidth 7] = some ([w], s1)) (hw : w.toNat / 2 ^ 48 = 2 ^ 15)
    (hs : s1.isSup = true) (hp : s1.partOfHandle (BitVec.ofNat 32 (w.toNat / 2 ^ 16)) = some j.part) :
    Runs (lclampBody h f) s () { s1 with clamps := s1.clamps ++ (s1.coresOf (BitVec.ofNat 32 (w.toNat / 2 ^ 16))).map (fun k =>
      ⟨k, BitVec.ofNat 32 (w.toNat / 2 ^ 16), fin5 f.level.toNat, w.toNat % 2 ^ 16, true⟩) } := by
  have h63 : w.getLsbD 63 = true := by
    rw [BitVec.getLsbD, Nat.testBit_eq_decide_div_mod_eq, decide_eq_true_eq]
    omega
  refine runs_bind (tripValue_runs (w := w) (by rwa [if_pos ht])) (runs_bind (runs_getJob hj) (runs_bind (runs_get s1) ?_))
  dsimp only
  simp only [ht, if_true]
  refine runs_bind (runs_trapIf _ _ s1 (by rw [hs, hp]; simp)) (runs_bind (runs_trapIf _ _ s1 (by rw [hw]; rfl)) ?_)
  rw [if_pos h63]
  exact runs_modify _ s1
end

/-- Settles O11: whichever job is clamped, the clamp is issued. -/
theorem clampIsIssued : Obligations.ClampIsIssued := by
  refine fun h f s s0 s1 j w he hv hj => ⟨fun hw => ?_, fun ht hw hs hp => ?_⟩
  all_goals have h1 := tripValue_stands (stands_of_entered he) hv
  · rw [← h1.cur]
    exact completes_of_straight (body := lclampBody h f) he rfl (lclampBody_mine hj hv hw) h1
  · rw [if_pos ht] at hv ⊢
    exact completes_of_straight (body := lclampBody h f) he rfl (lclampBody_named hj ht hv hw hs hp) h1

/-! ### LOOP (R72) -/

theorem loopUpTo_none {t : Stream} {n : Nat} (h : ∀ l : Fin 5, l.val ≤ n → t.loops.get l = none) : t.loopUpTo n = false := by
  refine List.any_eq_false.mpr fun l _ hl => ?_
  obtain ⟨hn, hi⟩ := Bool.and_eq_true_iff.mp hl
  rw [h (fin5 l) ((Nat.mod_le l 5).trans (of_decide_eq_true hn))] at hi
  cases hi
theorem levelLo_succ {n : Nat} (h : n < 4) : levelLo (n + 1) = levelLo n + levelWidth n := by
  revert n; decide
/-- The levels up to n are 0 when each of them is. -/
theorem levels_zero {c : Coord} {n : Nat} (hn : n < 5) (h : ∀ m, m ≤ n → Coord.ix c m = 0) : c.toNat % 2 ^ (levelLo n + levelWidth n) = 0 := by
  have step (m : Nat) (hm : m < 5) (hd : c.toNat % 2 ^ levelLo m = 0) (hx : Coord.ix c m = 0) : c.toNat % 2 ^ (levelLo m + levelWidth m) = 0 := by
    rw [Nat.pow_add, Nat.mod_mul, hd, show c.toNat / 2 ^ levelLo m % 2 ^ levelWidth m = 0 from hx]
    rfl
  induction n with
  | zero => exact step 0 hn (Nat.mod_one _) (h 0 (Nat.le_refl _))
  | succ n ih =>
    refine step (n + 1) hn ?_ (h _ (Nat.le_refl _))
    rw [levelLo_succ (by omega)]
    exact ih (by omega) fun m hm => h m (by omega)

/-! ### Trace records leave the jobs in their places (R388 to R394) -/

/-- The cores and the executing stream are as they were. -/
def Steady (s t : State) : Prop := t.cores = s.cores ∧ t.cur = s.cur

theorem Steady.refl (s : State) : Steady s s := ⟨rfl, rfl⟩
theorem Steady.trans {s t u : State} (h : Steady s t) (g : Steady t u) : Steady s u := ⟨g.1.trans h.1, g.2.trans h.2⟩
theorem onPart_steady (s : State) (pn : PartId) (f : Partition → Partition) : Steady s (s.onPart pn f) := by
  unfold State.onPart
  split <;> exact ⟨rfl, rfl⟩
theorem traceOut_steady {s t : State} {pn : PartId} {ws : List Word} (h : s.traceOut pn ws = some t) : Steady s t := by
  unfold State.traceOut at h
  split at h
  · cases h; exact Steady.refl _
  split at h
  · cases h; exact Steady.refl _
  dsimp only at h
  split at h
  · split at h
    · cases h
    split at h
    · rename_i u hu
      split at h
      · rename_i v hv
        cases h
        exact Steady.trans (ringPut_cores hu) (partWrite_cores hv)
      · cases h
        exact ringPut_cores hu
    · cases h; exact Steady.refl _
  · cases h; exact Steady.refl _
theorem sendGroup_steady {s t : State} {pn : PartId} {l : List (List Word)} (h : s.sendGroup pn l = some t) : Steady s t := by
  unfold State.sendGroup at h
  induction l generalizing s with
  | nil => cases h; exact Steady.refl _
  | cons ws l ih =>
    rw [List.foldlM_cons] at h
    obtain ⟨u, hu, hl⟩ := Option.bind_eq_some_iff.mp h
    exact (traceOut_steady hu).trans (ih hl)
theorem sendHeld_steady (s : State) (pn : PartId) (l : List (List (List Word))) : Steady s (s.sendHeld pn l).1 := by
  induction l generalizing s with
  | nil => exact Steady.refl s
  | cons g l ih =>
    unfold State.sendHeld
    split
    · rename_i t ht
      exact (sendGroup_steady ht).trans (ih t)
    · exact Steady.refl s
theorem traceHeld_steady (s : State) (pn : PartId) : Steady s (s.traceHeld pn) := by
  unfold State.traceHeld
  split
  · split
    · exact Steady.refl s
    · exact (sendHeld_steady s pn _).trans (onPart_steady _ _ _)
  · exact Steady.refl s
theorem traceDrain_steady (s : State) (pn : PartId) (n : Nat) (l : List TraceRec) : Steady s (s.traceDrain pn n l).1 := by
  induction n generalizing s l with
  | zero => exact Steady.refl s
  | succ n ih => cases l with
    | nil => exact Steady.refl s
    | cons r l =>
      unfold State.traceDrain
      dsimp only
      split
      · rename_i t ht
        exact (sendGroup_steady ht).trans (ih t _)
      · exact Steady.refl s
theorem countLost_steady (s : State) (pn : PartId) : Steady s (s.countLost pn) := by
  unfold State.countLost
  dsimp only
  split
  · split
    · cases hw : (s.onPart pn fun p => { p with trLost := p.trLost + 1 }).partWrite pn _ _ with
      | error e => exact onPart_steady _ _ _
      | ok t => exact (onPart_steady _ _ _).trans (partWrite_cores hw)
    · exact onPart_steady _ _ _
  · exact onPart_steady _ _ _

/-- Every core has a job where it had one, and the same stream executes. -/
def Manned (s t : State) : Prop := t.cur = s.cur ∧ ∀ c, (t.job c).isSome = (s.job c).isSome

theorem Manned.refl (s : State) : Manned s s := ⟨rfl, fun _ => rfl⟩
theorem Manned.trans {s t u : State} (h : Manned s t) (g : Manned t u) : Manned s u := ⟨g.1.trans h.1, fun c => (g.2 c).trans (h.2 c)⟩
theorem Steady.job {s t : State} (h : Steady s t) (c : CoreId) : t.job c = s.job c := by
  unfold State.job State.core
  rw [h.1]
theorem Steady.manned {s t : State} (h : Steady s t) : Manned s t := ⟨h.2, fun c => by rw [h.job c]⟩
theorem setJob_manned {s : State} {c : CoreId} {j : Job} (hj : s.job c = some j) (k : Job) : Manned s (s.setJob c k) := by
  refine ⟨rfl, fun x => ?_⟩
  by_cases hx : c = x
  · subst hx
    rw [State.job_setJob, hj]
    rfl
  · rw [State.job_setJob_ne _ _ hx]
theorem onJob_manned (s : State) (c : CoreId) (f : Job → Job) : Manned s (s.onJob c f) := by
  unfold State.onJob
  cases hj : s.job c with
  | none => exact Manned.refl s
  | some j => exact setJob_manned hj _
theorem traceRelease_manned (s : State) (c : CoreId) : Manned s (s.traceRelease c) := by
  unfold State.traceRelease
  split
  · split
    · exact Manned.refl s
    · exact (traceHeld_steady s _).manned.trans ((traceDrain_steady _ _ _ _).manned.trans (onJob_manned _ _ _))
  · exact Manned.refl s
theorem settleTrace_manned (s : State) (c : CoreId) : Manned s (s.settleTrace c) := by
  unfold State.settleTrace
  split
  · split
    · exact traceRelease_manned s c
    · exact Manned.refl s
  · exact Manned.refl s
theorem addTrace_manned (s : State) (c : CoreId) (r : TraceRec) : Manned s (s.addTrace c r) := by
  unfold State.addTrace
  cases hj : s.job c with
  | none => exact Manned.refl s
  | some j =>
    dsimp only
    split
    · refine Manned.trans ?_ (countLost_steady _ _).manned
      split
      · exact setJob_manned hj _
      · exact Manned.refl s
    · exact setJob_manned hj _
theorem trace_manned (s : State) (c : CoreId) (kind : Nat) (st : StreamId) (tag : Nat) (stamp : Option Coord) (stage seq : Nat) (v : Word) :
    Manned s (s.trace c kind st tag stamp stage seq v) := by
  unfold State.trace
  split
  · split
    · split
      · exact (addTrace_manned _ _ _).trans (settleTrace_manned _ _)
      · exact Manned.refl s
    · exact Manned.refl s
  · exact Manned.refl s
theorem recordArrival_manned (s : State) (c : CoreId) (o : Origin) (sub : Nat) (v : Word) (mark : Bool) :
    Manned s (s.recordArrival c o sub v mark) := by
  unfold State.recordArrival
  cases hj : s.job c with
  | none => exact Manned.refl s
  | some j =>
    dsimp only
    split
    · exact (setJob_manned hj _).trans (settleTrace_manned _ _)
    · exact Manned.refl s
theorem Stands.manned {s u v : State} (h : Stands s u) (g : Manned u v) : Stands s v := by
  refine ⟨g.1.trans h.1, ?_⟩
  unfold State.own
  rw [g.1, g.2]
  exact h.2

/-! ### LOOP opens its loop (R72) -/

/-- The stream t with the loop that LOOP opens at its level, which ends at an address. -/
def opened (f : FLP) (v : Word) (seq : Nat) (endo : Word) (t : Stream) : Stream :=
  { t with loops := t.loops.set (fin5 f.level.toNat) (some
      { t := v.toNat, s := f.nst.toNat + 1, k := v.toNat + (f.nst.toNat + 1) - 1, f := 0, start := t.pc + 8,
        endo := endo, at_ := t.pc, num := seq }) }

theorem opened_coord (f : FLP) (v : Word) (seq : Nat) (endo : Word) (t : Stream) : (opened f v seq endo t).coord = t.coord := rfl
theorem endo_eq (f : FLP) : f.endo.setWidth 64 <<< 3 = BitVec.ofNat 64 (8 * f.endo.toNat) := by
  rw [shl_setWidth, Nat.mul_comm]
  rfl
theorem onLane_self {s : State} {j : Job} {f : Stream → Stream} (hj : s.own = some j) (h : f (j.stream s.cur.2) = j.stream s.cur.2) :
    s.onLane f = s := by
  unfold State.onLane
  rw [State.onOwn_eq hj, onStream_self h, setJob_own hj]
theorem onLane_eq {s : State} {j : Job} (hj : s.own = some j) (f : Stream → Stream) : (s.onLane f).own = some (j.onStream s.cur.2 f) := by
  rw [State.onLane_own, hj]
  rfl
/-- A record of the executing instruction. -/
theorem traceOwn_runs {s : State} {j : Job} (h : Hdr) (kind tag : Nat) (v : Word) (hj : s.own = some j) : Runs (traceOwn h kind tag v) s ()
    (s.trace s.cur.1 kind s.cur.2 tag (some (j.stream s.cur.2).coord) h.stage.toNat j.seq v) := by
  refine runs_bind (runs_originOf h hj) (runs_bind (runs_curCore s) ?_)
  rw [State.origin_eq hj]
  exact runs_modify _ s

section
variable {h : Hdr} {f : FLP} {s0 s1 : State} {j : Job} {v : Word} (hj : s1.own = some j) (ht : Runs (tripValue f) s0 v s1)
  (hl : (j.stream s1.cur.2).loopUpTo f.level.toNat = false)
  (hc : (j.stream s1.cur.2).coord.toNat % 2 ^ (levelLo f.level.toNat + levelWidth f.level.toNat) = 0)
  (hr : (j.stream s1.cur.2).reopen = none)
include hj ht hl hc hr

theorem loopBody_past (hv : v.toNat = 0) :
    Runs (loopBody h f) s0 (some ((j.stream s1.cur.2).pc + BitVec.ofNat 64 (8 * f.endo.toNat))) s1 := by
  refine runs_bind ht (runs_bind (runs_getStream hj) (runs_bind (runs_trapIf _ _ s1 hl) (runs_bind (runs_trapIf _ _ s1 (by simp [hc])) ?_)))
  simp only [hr, Option.any_none, kernelCount, hv, if_true, Nat.le_refl, endo_eq, Bool.false_eq_true, if_false]
  have hm := runs_modifyStream (fun t => t) hj
  rw [onLane_self hj rfl] at hm
  exact runs_bind hm (runs_pure _ s1)
theorem loopBody_opens (hv : v.toNat ≠ 0) {endo : Word} (he : endo = (j.stream s1.cur.2).pc + BitVec.ofNat 64 (8 * f.endo.toNat)) :
    Runs (loopBody h f) s0 (some ((j.stream s1.cur.2).pc + 8))
    ((s1.onLane (opened f v j.seq endo)).trace s1.cur.1 3 s1.cur.2 0 (some (j.stream s1.cur.2).coord) h.stage.toNat j.seq
      (BitVec.ofNat 64 (v.toNat + (f.nst.toNat + 1) - 1))) := by
  refine runs_bind ht (runs_bind (runs_getStream hj) (runs_bind (runs_trapIf _ _ s1 hl) (runs_bind (runs_trapIf _ _ s1 (by simp [hc])) ?_)))
  have hk : ¬ v.toNat + (f.nst.toNat + 1) - 1 ≤ 0 := by omega
  simp only [hr, Option.any_none, kernelCount, hv, if_false, hk, endo_eq, Bool.false_eq_true, ← he]
  have hm {g : Stream → Stream} (hg : g (j.stream s1.cur.2) = opened f v j.seq endo (j.stream s1.cur.2)) :
      Runs (modifyStream g) s1 () (s1.onLane (opened f v j.seq endo)) := State.onLane_congr hj hg ▸ runs_modifyStream g hj
  have hx := traceOwn_runs h 3 0 (BitVec.ofNat 64 (v.toNat + (f.nst.toNat + 1) - 1)) (onLane_eq hj (opened f v j.seq endo))
  simp only [State.onLane_cur, Job.stream_onStream, Job.onStream_seq, opened_coord] at hx
  exact runs_bind (runs_getJob hj) (runs_bind (runs_curStream s1) (runs_bind (hm rfl) (runs_bind hx (runs_pure _ _))))
end

/-- Settles O9: the stream's coordinate and loops are as the popped trip count leaves them. -/
theorem loopOpens : Obligations.LoopOpens := by
  intro h f s s0 s1 j v he hv hj t lvl stages endo hl hx hr
  have h1 : Stands s s1 := by
    split at hv
    · exact (stands_of_entered he).scalars hv
    · exact hv.2 ▸ stands_of_entered he
  have ht : Runs (tripValue f) s0 v s1 := by
    have hw := tripValue_runs (w := v) (show if f.tsrc then s0.scalars [f.trip.setWidth 7] = some ([v], s1) else s1 = s0 by
      split at hv
      · rwa [if_pos ‹_›]
      · rw [if_neg ‹_›]; exact hv.2)
    split at hv <;> rename_i ht
    · rwa [if_pos ht] at hw
    · rw [if_neg ht] at hw
      rwa [hv.1, BitVec.ofNat_toNat]
  have h5 : f.level.toNat < 5 := by
    obtain ⟨_, -, hp, -⟩ := entered_passes (e := ⟨0x09, 0x00, h, .lp f⟩) rfl he
    have hw : f.loopOk = true := wf_of_passes hp
    simp only [FLP.loopOk, Bool.and_eq_true, decide_eq_true_eq] at hw
    exact hw.1.2
  have hn := loopUpTo_none hl
  have hc := levels_zero h5 hx
  simp only [t, endo, stages, lvl, ← h1.cur] at hn hc hr ⊢
  refine ⟨fun h0 => ?_, fun h0 => ?_⟩
  · exact completes_at (body := loopBody h f) he rfl (loopBody_past hj ht hn hc hr h0) h1
  · exact completes_at (body := loopBody h f) he rfl (loopBody_opens hj ht hn hc hr h0 rfl) ((h1.onLane _).manned (trace_manned _ _ _ _ _ _ _ _ _))

end Sys2Proof.Proofs
end

section
/-!
PROOF. O10, O13 and O15 to O18: coordinates, queues, stop requests and system registers.
-/
open Sys2Proof Sys2Proof.Machine Sys2Proof.Claims
namespace Sys2Proof.Proofs

/-! ### Arrivals (R400) -/

theorem put_origin {s : State} {j : Job} (hj : s.own = some j) (h : Hdr) (x : Spec) (v : Option Word) (held : Bool) (d : Hdr) :
    (s.put h x v held).origin d = s.origin d := by
  unfold State.put
  split
  · rfl
  · rw [State.origin_eq (by rw [State.onOwn_own, hj]; rfl), State.origin_eq hj]
    simp [Job.onStream_seq]
/-- An arrival of a job that neither replays nor fills its trace buffer is the live value. -/
theorem arrival_runs {s : State} {j : Job} {h : Hdr} {x : Spec} {sub : Nat} {m : M Word} {v : Word} (hj : s.own = some j) (hl : s.live = true)
    (hr : s.room x = true) (hm : Runs m s v s) : Runs (arrival h x sub m) s () (s.arrived h x sub v) := by
  obtain ⟨hp, hf⟩ := live_own hl hj
  obtain ⟨k, hk⟩ := Option.isSome_iff_exists.mp (show (s.put h x (some v) false).own.isSome = true by rw [State.put_own_isSome, hj]; rfl)
  unfold State.arrived
  rw [← State.put_cur s h x (some v) false, ← put_origin hj h x (some v) false h]
  exact runs_bind (replayTake_runs h sub hj hp) (runs_bind (traceRoom_runs h hj hf) (runs_bind hm (runs_bind (push_runs hj hr)
    (runs_bind (runs_originOf h hk) (runs_bind (runs_curCore _) (runs_modify _ _))))))
theorem Stands.arrived {s u : State} (h : Stands s u) (d : Hdr) (x : Spec) (sub : Nat) (v : Word) : Stands s (u.arrived d x sub v) :=
  (h.put _ _ _ _).manned (recordArrival_manned _ _ _ _ _ _)

/-! ### Coordinates (R76, R77) -/

/-- The stream waits to make one advance. -/
def waiting (c : Coord) (t : Stream) : Stream := { t with adv := some ⟨c, none, none⟩ }

section
variable {s : State} {t : Stream} {c : Coord} (hl : s.lane = some t)
include hl

theorem setcTo_same (hc : c = t.coord) : Runs (setcTo c) s () s := by
  refine runs_bind (runs_getStream_lane hl) (runs_bind (runs_trapIf _ _ s ?_) ?_)
  · rw [hc]
    exact decide_eq_false (BitVec.lt_irrefl _)
  · rw [if_pos hc]
    exact runs_pure () s
theorem setcTo_above (hc : t.coord < c) (hn : t.loopUpTo (highestChanged t.coord c) = false) : Runs (setcTo c) s () (s.onLane (waiting c)) := by
  obtain ⟨j, hj⟩ := lane_own hl
  refine runs_bind (runs_getStream_lane hl) (runs_bind (runs_trapIf _ _ s ?_) ?_)
  · exact decide_eq_false (BitVec.not_lt.mpr (BitVec.le_of_lt hc))
  · rw [if_neg (fun e => BitVec.lt_irrefl _ (e ▸ hc))]
    exact runs_bind (runs_trapIf _ _ s hn) (runs_modifyStream (waiting c) hj)
theorem advcBody_runs {f : FRR} (hn : t.loopUpTo f.fn.toNat = false) (hx : Coord.ix t.coord f.fn.toNat + 1 ≠ 2 ^ levelWidth f.fn.toNat) :
    Runs (advcBody f) s () (s.onLane (waiting (advanceAt t.coord f.fn.toNat).1)) := by
  obtain ⟨j, hj⟩ := lane_own hl
  refine runs_bind (runs_getStream_lane hl) (runs_bind (runs_trapIf _ _ s hn) ?_)
  rw [show (advanceAt t.coord f.fn.toNat).2 = none from if_neg hx]
  exact runs_modifyStream (waiting _) hj
end

/-- The lane after scalar reads: what the coordinates of an instruction turn on is unchanged. -/
theorem Reads.lane_eq {s u : State} {j : Job} (h : Reads s u) (hj : s.own = some j) :
    ∃ regs fences, u.lane = some { j.stream s.cur.2 with regs := regs, fences := fences } := by
  obtain ⟨k, hk, -, -, -, r, x, e⟩ := h.lane hj
  exact ⟨r, x, by rw [State.lane_eq hk, h.1, e]⟩

section
variable {h : Hdr} {s s0 s1 : State} {j : Job} (hj : s0.own = some j)
include hj

theorem setcImmediate_completes {f : FCI} (he : s.entered (.setcImmediate h f) = some s0) :
    (wordCoord f.cw = (j.stream s0.cur.2).coord → exec (.setcImmediate h f) s =
      .next (s0.retired (.setcImmediate h f) (s.nextPc (.setcImmediate h f)))) ∧
    ((j.stream s0.cur.2).coord < wordCoord f.cw →
      (j.stream s0.cur.2).loopUpTo (highestChanged (j.stream s0.cur.2).coord (wordCoord f.cw)) = false →
      exec (.setcImmediate h f) s = .next ((s0.onLane (waiting (wordCoord f.cw))).retired (.setcImmediate h f) (s.nextPc (.setcImmediate h f)))) :=
  have h0 := stands_of_entered he
  have hl := State.lane_eq hj
  ⟨fun hc => completes_of_straight (body := setcTo (wordCoord f.cw)) he rfl (setcTo_same hl hc) h0,
    fun hc hn => completes_of_straight (body := setcTo (wordCoord f.cw)) he rfl (setcTo_above hl hc hn) (h0.onLane _)⟩
theorem setcRegister_completes {f : FRR} {w : Word} (he : s.entered (.setcRegister h f) = some s0) (hv : s0.scalars [f.a] = some ([w], s1))
    (h63 : w.getLsbD 63 = true) (h62 : w.getLsbD 62 = false) :
    (wordCoord w = (j.stream s0.cur.2).coord → exec (.setcRegister h f) s =
      .next (s1.retired (.setcRegister h f) (s.nextPc (.setcRegister h f)))) ∧
    ((j.stream s0.cur.2).coord < wordCoord w → (j.stream s0.cur.2).loopUpTo (highestChanged (j.stream s0.cur.2).coord (wordCoord w)) = false →
      exec (.setcRegister h f) s = .next ((s1.onLane (waiting (wordCoord w))).retired (.setcRegister h f) (s.nextPc (.setcRegister h f)))) := by
  have h1 := (stands_of_entered he).scalars hv
  obtain ⟨r, x, hl⟩ := (scalars_reads hv).lane_eq hj
  have hb {u : State} (k : Runs (setcTo (wordCoord w)) s1 () u) : Runs (setcRegBody h f) s0 () u :=
    runs_pop hv (runs_bind (runs_trapIf _ _ s1 (by rw [h63, h62]; rfl)) k)
  exact ⟨fun hc => completes_of_straight (body := setcRegBody h f) he rfl (hb (setcTo_same hl hc)) h1,
    fun hc hn => completes_of_straight (body := setcRegBody h f) he rfl (hb (setcTo_above hl hc hn)) (h1.onLane _)⟩
theorem getc_completes {f : FRR} (he : s.entered (.getc h f) = some s0) (hr : s0.room f.d = true) :
    exec (.getc h f) s = .next ((s0.put h f.d (some (if f.fn.toNat < 5 then BitVec.ofNat 64 (Coord.ix (j.stream s0.cur.2).coord f.fn.toNat)
      else coordWord (j.stream s0.cur.2).coord)) false).retired (.getc h f) (s.nextPc (.getc h f))) :=
  completes_of_straight (body := getcBody h f) he rfl (runs_bind (runs_getStream hj) (push_runs hj hr)) ((stands_of_entered he).put _ _ _ _)
theorem getfr_completes {f : FRR} (he : s.entered (.getfr h f) = some s0) (hl : s0.live = true) (hr : s0.room f.d = true) :
    exec (.getfr h f) s = .next ((s0.arrived h f.d 1 (optCoordWord j.front)).retired (.getfr h f) (s.nextPc (.getfr h f))) :=
  completes_of_straight (body := getfrBody h f) he rfl (arrival_runs hj hl hr (runs_bind (runs_getJob hj) (runs_pure _ s0)))
    ((stands_of_entered he).arrived _ _ _ _)
end

/-- Settles O10: each instruction reads the coordinate of its own stream, which its scalar reads leave. -/
theorem coordinates : Obligations.Coordinates := by
  refine fun h s s0 s1 j w hj => ⟨fun f he => ?_, fun f he hv h63 h62 => ?_, fun f he hn hx => ?_, fun f he hr => ?_, fun f => getfr_completes hj⟩
  all_goals
    have h0 := stands_of_entered he
    rw [← h0.cur] at *
  · exact setcImmediate_completes hj he
  · exact setcRegister_completes hj he hv h63 h62
  · exact completes_of_straight (body := advcBody f) he rfl (advcBody_runs (State.lane_eq hj) hn hx) (h0.onLane _)
  · exact getc_completes hj he hr

/-! ### Queues (R79, R109) -/

/-- An entry that is discarded may be marked; it has arrived, is not above the stream and waits for no effect. -/
theorem readScalar_discards {s : State} {x : Spec} {r : Fin 31} {j : Job} {e : QEntry Word} {l : List (QEntry Word)} (hx : Spec.reg x = some r)
    (hj : s.own = some j) (hq : ((j.stream s.cur.2).regs.get r).items = e :: l)
    (hc : (decide ((j.stream s.cur.2).coord < e.stamp.coord) || e.val.isNone || !s.mayRead j e.id) = false) :
    ∃ v, Runs (readScalar x true) s v (if Spec.peek x then s.onLane (Stream.reads e.id j.seq) else
      (s.onLane (Stream.reads e.id j.seq)).onLane (fun t => { t with regs := t.regs.set r ((t.regs.get r).pop t.coord j.seq) })) := by
  simp only [Bool.or_eq_false_iff] at hc
  obtain ⟨⟨hab, hv⟩, hm⟩ := hc
  cases hval : e.val with
  | none => rw [hval] at hv; cases hv
  | some v =>
    refine ⟨v, ?_⟩
    have hreads := onLane_eq hj (Stream.reads e.id j.seq)
    have hset : Runs (setReg r (((j.stream s.cur.2).regs.get r).pop (j.stream s.cur.2).coord j.seq)) (s.onLane (Stream.reads e.id j.seq)) ()
        ((s.onLane (Stream.reads e.id j.seq)).onLane (fun t => { t with regs := t.regs.set r ((t.regs.get r).pop t.coord j.seq) })) := by
      refine State.onLane_congr hreads ?_ ▸ runs_modifyStream _ hreads
      simp
    unfold readScalar
    simp only [hx]
    refine runs_bind (runs_getJob hj) (runs_bind (runs_curStream s) ?_)
    simp only [hq, hval, if_true]
    refine runs_bind (runs_trapIf _ _ s hab) (runs_bind (runs_get s) (runs_bind (runs_stallIf _ s hm) (runs_bind (runs_modifyStream _ hj) ?_)))
    split
    · exact runs_pure _ _
    · exact runs_bind hset (runs_pure _ _)
/-- Entries that may be discarded are: QDROP and QCLR. -/
theorem dropN_runs {x : Spec} {n : Nat} {s u : State} (h : s.drops x n = some u) : Runs (dropN x n) s () u ∧ Reads s u := by
  induction n generalizing s with
  | zero => cases h; exact ⟨runs_pure () _, Reads.refl _⟩
  | succ n ih =>
    unfold State.drops at h
    cases hx : Spec.reg x with
    | none =>
      simp only [hx] at h
      obtain ⟨hb, hr⟩ := ih h
      refine ⟨runs_bind (a := 0) (t := s) ?_ hb, hr⟩
      unfold readScalar
      rw [hx]
      exact runs_pure 0 s
    | some r =>
      simp only [hx] at h
      split at h
      · cases h
      · rename_i j hj
        split at h
        · cases h
        · rename_i e l hq
          split at h
          · cases h
          · rename_i hc
            obtain ⟨v, hv⟩ := readScalar_discards hx hj hq (Bool.eq_false_iff.mpr hc)
            obtain ⟨hb, hr⟩ := ih h
            exact ⟨runs_bind hv hb, Reads.trans _ _ _ (read_popped _ _ _ _ _) hr⟩
theorem Stands.reads {s u v : State} (h : Stands s u) (g : Reads u v) : Stands s v := by
  obtain ⟨j, hj⟩ := h.job
  obtain ⟨k, hk, -⟩ := g.lane hj
  exact ⟨g.1.trans h.1, by rw [hk]; rfl⟩

section
variable {h : Hdr} {f : FRR} {s s0 : State} {j : Job} (hj : s0.own = some j)
include hj

/-- QDEPTH of an unbound register is not an arrival. -/
theorem qdepth_completes (he : s.entered (.qdepth h f) = some s0) (hr : s0.room f.d = true) (hl : s0.live = true) :
    exec (.qdepth h f) s = .next ((if (Spec.reg f.a).any (fun r => (j.bound s0.cur.2 r).isSome)
        then s0.arrived h f.d 6 (BitVec.ofNat 64 (depthOf f.a (j.stream s0.cur.2)))
      else s0.put h f.d (some (BitVec.ofNat 64 (depthOf f.a (j.stream s0.cur.2)))) false).retired (.qdepth h f) (s.nextPc (.qdepth h f))) := by
  have h0 := stands_of_entered he
  have hb {u : State} (k : Runs (if (Spec.reg f.a).any (fun r => (j.bound s0.cur.2 r).isSome)
        then arrival h f.d 6 (return BitVec.ofNat 64 (depthOf f.a (j.stream s0.cur.2)))
      else push h f.d (BitVec.ofNat 64 (depthOf f.a (j.stream s0.cur.2)))) s0 () u) : Runs (qdepthBody h f) s0 () u :=
    runs_bind (runs_getStream hj) (runs_bind (runs_getJob hj) (runs_bind (runs_curStream s0) k))
  split
  · rename_i hc
    exact completes_of_straight (body := qdepthBody h f) he rfl (hb (by rw [if_pos hc]; exact arrival_runs hj hl hr (runs_pure _ s0)))
      (h0.arrived _ _ _ _)
  · rename_i hc
    exact completes_of_straight (body := qdepthBody h f) he rfl (hb (by rw [if_neg hc]; exact push_runs hj hr)) (h0.put _ _ _ _)
theorem bindBody_runs {r : Fin 31} (hd : Spec.reg f.d = some r) (hq : ((j.stream s0.cur.2).regs.get r).items = [])
    (hb : j.bound s0.cur.2 r = none) (hc : j.bindings.any (fun b => decide (b.ch = fin8 f.fn.toNat) && j.bindingLive b) = false) :
    Runs (bindBody h f) s0 () (s0.onOwn (fun j' => { j' with bindings := j'.bindings ++
      [⟨j.seq, fin8 f.fn.toNat, s0.cur.2, r, ⟨(j.stream s0.cur.2).coord, h.stage⟩, none⟩] })) := by
  unfold bindBody
  refine runs_bind (runs_getJob hj) (runs_bind (runs_curStream s0) ?_)
  simp only [hd]
  rw [State.onOwn_eq hj]
  exact runs_bind (runs_trapIf _ _ s0 (by rw [hq, hb]; rfl)) (runs_bind (runs_trapIf _ _ s0 hc)
    (runs_bind (runs_bind (runs_getStream hj) (runs_pure _ s0)) (runs_setJob s0 _)))
end

/-- Settles O13: QCLR drops as many entries as its register holds. -/
theorem queueManagement : Obligations.QueueManagement := by
  refine fun h f s s0 s1 j hj => ⟨fun he hd => ?_, fun he hd => ?_, fun he hr hl => ?_, fun he r hd hq hb hc => ?_⟩
  all_goals have h0 := stands_of_entered he
  · obtain ⟨hb, hr⟩ := dropN_runs hd
    exact completes_of_straight (body := dropN f.a f.fn.toNat) he rfl hb (h0.reads hr)
  · rw [← h0.cur] at hd
    obtain ⟨hb, hr⟩ := dropN_runs hd
    exact completes_of_straight (body := qclrBody f) he rfl (runs_bind (runs_getStream hj) hb) (h0.reads hr)
  · rw [← h0.cur]
    exact qdepth_completes hj he hr hl
  · rw [← h0.cur] at hq hb ⊢
    exact completes_of_straight (body := bindBody h f) he rfl (bindBody_runs hj hd hq hb hc) (h0.onOwn _)

end Sys2Proof.Proofs
end

section
/-!
PROOF. O15 to O18: stop requests, system registers, ERET and WAITEV.
-/
open Sys2Proof Sys2Proof.Machine Sys2Proof.Claims
namespace Sys2Proof.Proofs

/-! ### Stop requests (R86, R88, R89, R95, R123) -/

/-- A slot that enters a state keeps every core's job. -/
theorem setJState_manned (s : State) (c : CoreId) (x : JState) : Manned s (s.setJState c x) := by
  unfold State.setJState
  dsimp only
  split
  · refine ⟨rfl, fun y => ?_⟩
    unfold State.job
    by_cases hc : c = y
    · subst hc
      rw [State.core_setCore]
    · rw [State.core_setCore_ne _ _ hc]
  · exact Manned.refl s
theorem markLanding_manned (s : State) (c : CoreId) : Manned s (s.markLanding c) := by
  unfold State.markLanding
  split
  · split
    · exact setJState_manned s c _
    · exact Manned.refl s
  · exact Manned.refl s
theorem Stands.placed {s u : State} (h : Stands s u) (r : StopReq) : Stands s (u.placed r) := (h.onOwn _).manned (markLanding_manned _ _)

/-- A request of the executing instruction. -/
def requestOf (t : Stream) (st : StreamId) (h : Hdr) (c : Coord) (brk : Bool) (kind : BitVec 4) (origin : BitVec 2) (tag : BitVec 5) : StopReq :=
  ⟨c, brk, kind, origin, st, 0, h.stage, tag, t.pc, none⟩

section
variable {s : State} {t : Stream} (hl : s.lane = some t)
include hl

theorem ownRequest_runs (h : Hdr) (c : Coord) (brk : Bool) (kind : BitVec 4) (origin : BitVec 2) (tag : BitVec 5) :
    Runs (ownRequest h c brk kind origin tag) s (requestOf t s.cur.2 h c brk kind origin tag) s := by
  obtain ⟨j, hj⟩ := lane_own hl
  have ho := runs_originOf h hj
  rw [State.lane_eq hj, Option.some.injEq] at hl
  rw [State.origin_eq hj, hl] at ho
  exact runs_bind ho (runs_pure _ s)
theorem placeOwn_runs (r : StopReq) : Runs (placeOwn r) s () (s.placed r) := by
  obtain ⟨j, hj⟩ := lane_own hl
  unfold State.placed
  rw [← State.onOwn_cur s (fun j => j.requestStop r)]
  exact runs_bind (runs_modifyJob _ hj) (runs_bind (runs_curCore _) (runs_modify _ _))
theorem yieldBody_runs (h : Hdr) : Runs (yieldBody h) s () (s.placed (requestOf t s.cur.2 h t.coord false 8 0 0)) :=
  runs_bind (runs_getStream_lane hl) (runs_bind (ownRequest_runs hl ..) (placeOwn_runs hl _))
theorem bkptBody_runs (h : Hdr) (f : FRR) : Runs (bkptBody h f) s () (s.placed (requestOf t s.cur.2 h t.coord true 5 0 f.fn)) :=
  runs_bind (runs_getStream_lane hl) (runs_bind (ownRequest_runs hl ..) (placeOwn_runs hl _))
/-- The state in which a written coordinate word has placed or cancelled a request. -/
def stopped (s : State) (t : Stream) (h : Hdr) (w : Word) (brk : Bool) (origin : BitVec 2) : State :=
  if w.getLsbD 63 then s.placed (requestOf t s.cur.2 h (wordCoord w) brk (if brk then 5 else 1) origin 0)
  else s.onOwn (fun j => { j with stop := none })
theorem stopWord_runs (w : Word) (brk : Bool) (origin : BitVec 2) (h : Hdr) : Runs (stopWord w brk origin h) s () (stopped s t h w brk origin) := by
  obtain ⟨j, hj⟩ := lane_own hl
  unfold stopWord stopped
  split
  · exact runs_bind (ownRequest_runs hl ..) (placeOwn_runs hl _)
  · exact runs_modifyJob _ hj
end
theorem Stands.stopped {s u : State} (h : Stands s u) (t : Stream) (d : Hdr) (w : Word) (brk : Bool) (origin : BitVec 2) :
    Stands s (stopped u t d w brk origin) := by
  unfold Proofs.stopped
  split
  · exact h.placed _
  · exact h.onOwn _

/-- STOPAT to another job leaves every core's job in its place. -/
theorem setSlots_manned (s : State) (c : CoreId) (l : Vector (Option JobSlot) 8) : Manned s (s.setCore c { s.core c with slots := l }) := by
  refine ⟨rfl, fun y => ?_⟩
  unfold State.job
  by_cases hc : c = y
  · subst hc
    rw [State.core_setCore]
  · rw [State.core_setCore_ne _ _ hc]
theorem stopAt_manned (s : State) (c : CoreId) (hd : Handle) (w : Word) (r : StopReq) : Manned s (s.stopAt c hd w r) := by
  unfold State.stopAt
  dsimp only
  split
  · rename_i j hj
    have hm (k : Job) : Manned s (s.setJob c k) := setJob_manned hj k
    split
    · split
      · exact hm _
      · split
        · split
          · exact Manned.refl s
          · split
            · exact hm _
            · exact Manned.refl s
        · exact (hm _).trans (markLanding_manned _ _)
    · exact setSlots_manned s c _
  · exact setSlots_manned s c _
theorem foldl_manned {α : Type} {g : State → α → State} (hg : ∀ s x, Manned s (g s x)) (l : List α) (s : State) :
    Manned s (l.foldl g s) := by
  induction l generalizing s with
  | nil => exact Manned.refl s
  | cons x l ih => exact (hg s x).trans (ih _)

section
variable {s : State} {j : Job} {h : Hdr} {fw w : Word} {hd : Handle} (hj : s.own = some j) (hw : (w.getLsbD 63 && w.getLsbD 62) = false)
include hj hw

/-- STOPAT to the issuing job, by 0 or by its own handle. -/
theorem stopatBody_own (ho : hd = 0 ∨ hd = j.handle) :
    Runs (stopatBody h fw w hd) s () (stopped s (j.stream s.cur.2) h w false 0) := by
  refine runs_bind (runs_getJob hj) (runs_bind (runs_get s) ?_)
  have hd : decide (hd = 0 ∨ hd = j.handle) = true := decide_eq_true ho
  simp only [hd, Bool.not_true, Bool.false_and, if_true]
  exact runs_bind (runs_trapIf _ _ s rfl) (runs_bind (runs_trapIf _ _ s hw) (stopWord_runs (State.lane_eq hj) _ _ _ _))
/-- STOPAT of the supervisor to the job of a handle of its partition. -/
theorem stopatBody_other (h0 : hd ≠ 0) (ho : hd ≠ j.handle) (hs : s.isSup = true) (hp : s.partOfHandle hd = some j.part) :
    Runs (stopatBody h fw w hd) s ()
      ((s.coresOf hd).foldl (fun u c => u.stopAt c hd w ⟨wordCoord w, false, 1, 2, .c, 5, h.stage, 0, 0, none⟩) s) := by
  refine runs_bind (runs_getJob hj) (runs_bind (runs_get s) ?_)
  have hd : decide (hd = 0 ∨ hd = j.handle) = false := decide_eq_false (by rintro (e | e); exacts [h0 e, ho e])
  refine runs_bind (runs_trapIf _ _ s (by rw [hs, hp]; simp)) (runs_bind (runs_trapIf _ _ s hw) ?_)
  simp only [hd, Bool.false_eq_true, if_false]
  exact runs_modify _ s
end

/-- The coordinate word of an immediate STOPAT is valid. -/
theorem stopatImmediate_word {h : Hdr} {f : FCI} {s s0 : State} (he : s.entered (.stopatImmediate h f) = some s0) :
    f.cw.getLsbD 63 = true ∧ f.cw.getLsbD 62 = false := by
  obtain ⟨_, -, hp, -⟩ := entered_passes (e := ⟨0x11, 0x02, h, .ci f⟩) rfl he
  have hw : f.ok = true := wf_of_passes hp
  simpa only [FCI.ok, Bool.and_eq_true, Bool.not_eq_true'] using hw
theorem stopatImmediate_completes {h : Hdr} {f : FCI} {s s0 : State} {j : Job} (hj : s0.own = some j)
    (he : s.entered (.stopatImmediate h f) = some s0) : exec (.stopatImmediate h f) s =
      .next ((s0.placed (requestOf (j.stream s0.cur.2) s0.cur.2 h (wordCoord f.cw) false 1 0 0)).retired (.stopatImmediate h f)
        (s.nextPc (.stopatImmediate h f))) := by
  obtain ⟨h63, h62⟩ := stopatImmediate_word he
  have hb := stopatBody_own (h := h) (fw := (Instr.stopatImmediate h f).firstWord) hj (by rw [h63, h62]; rfl) (Or.inl rfl)
  unfold stopped at hb
  rw [if_pos h63] at hb
  exact completes_of_straight he rfl hb ((stands_of_entered he).placed _)

section
variable {h : Hdr} {f : FRR} {s s0 s1 : State} {j : Job} {w b : Word} (hj : s0.own = some j) (he : s.entered (.stopatRegister h f) = some s0)
  (hv : s0.scalars [f.a, f.b] = some ([w, b], s1)) (hw : (w.getLsbD 63 && w.getLsbD 62) = false)
include hj he hv hw

theorem stopatRegister_own (ho : b.setWidth 32 = 0 ∨ b.setWidth 32 = j.handle) : exec (.stopatRegister h f) s =
    .next ((stopped s1 (j.stream s0.cur.2) h w false 0).retired (.stopatRegister h f) (s.nextPc (.stopatRegister h f))) := by
  have h1 := (stands_of_entered he).scalars hv
  have hr := scalars_reads hv
  obtain ⟨k, hk, -, hh, -, r, x, e⟩ := hr.lane hj
  have hb := stopatBody_own (h := h) (fw := (Instr.stopatRegister h f).firstWord) hk hw (by rwa [hh])
  rw [hr.1, e] at hb
  exact completes_of_straight (body := stopatRegBody h f) he rfl (runs_pop_pop hv hb) (h1.stopped _ _ _ _ _)
theorem stopatRegister_other (h0 : b.setWidth 32 ≠ (0 : Handle)) (ho : b.setWidth 32 ≠ j.handle) (hs : s1.isSup = true)
    (hp : s1.partOfHandle (b.setWidth 32) = some j.part) : exec (.stopatRegister h f) s =
    .next (((s1.coresOf (b.setWidth 32)).foldl (fun u c => u.stopAt c (b.setWidth 32) w ⟨wordCoord w, false, 1, 2, .c, 5, h.stage, 0, 0, none⟩)
      s1).retired (.stopatRegister h f) (s.nextPc (.stopatRegister h f))) := by
  have h1 := (stands_of_entered he).scalars hv
  obtain ⟨k, hk, -, hh, hq, -⟩ := (scalars_reads hv).lane hj
  have hb := stopatBody_other (h := h) (fw := (Instr.stopatRegister h f).firstWord) hk hw h0 (by rwa [hh]) hs (by rwa [hq])
  exact completes_of_straight (body := stopatRegBody h f) he rfl (runs_pop_pop hv hb)
    (h1.manned (foldl_manned (fun _ _ => stopAt_manned _ _ _ _ _) _ _))
end

/-- Settles O15: each request has the place of its instruction, which scalar reads leave. -/
theorem stopRequests : Obligations.StopRequests := by
  refine fun h s s0 s1 j w b hj hc => ⟨fun f he => ?_, fun f he => ?_, fun f he => ?_,
    fun f he hv hw => ⟨fun ho => ?_, stopatRegister_other hj he hv hw⟩⟩
  all_goals
    have h0 := stands_of_entered he
    rw [← hc]
  · exact completes_of_straight (body := yieldBody h) he rfl (yieldBody_runs (State.lane_eq hj) h) (h0.placed _)
  · exact completes_of_straight (body := bkptBody h f) he rfl (bkptBody_runs (State.lane_eq hj) h f) (h0.placed _)
  · exact stopatImmediate_completes hj he
  · have hx := stopatRegister_own hj he hv hw ho
    unfold stopped at hx
    rwa [(scalars_reads hv).1] at hx

end Sys2Proof.Proofs
end

section
/-!
PROOF. O16 to O19: system registers, ERET, WAITEV and RESUME.
-/
open Sys2Proof Sys2Proof.Machine Sys2Proof.Claims
namespace Sys2Proof.Proofs

/-! ### SRD (R80, R81) -/

theorem srd_completes {h : Hdr} {f : FRR} {s s0 s1 : State} {j : Job} {x : Word} (he : s.entered (.srd h f) = some s0)
    (hv : s0.scalars [f.a] = some ([x], s1)) (hf : f.fn.toNat ≤ 26) (hx : x.toNat ≤ sysIndexMax f.fn.toNat) (hj : s1.own = some j)
    (hl : s1.live = true) (hr : s1.room f.d = true) :
    exec (.srd h f) s = .next ((s1.arrived h f.d 1 (s1.sysReg j f.fn.toNat x.toNat)).retired (.srd h f) (s.nextPc (.srd h f))) := by
  have h1 := (stands_of_entered he).scalars hv
  have hi : decide (26 < f.fn.toNat ∨ sysIndexMax f.fn.toNat < x.toNat) = false := decide_eq_false (by omega)
  refine completes_of_straight (body := srdBody h f) he rfl (runs_pop hv (runs_bind (runs_trapIf _ _ s1 hi) (arrival_runs hj hl hr ?_)))
    (h1.arrived _ _ _ _)
  exact runs_bind (runs_getJob hj) (runs_bind (runs_get s1) (runs_pure _ s1))
/-- Without held writes SRD shows a register of the partition as it is. -/
theorem sysReg_part {s : State} {j : Job} {p : Partition} (hp : s.part j.part = some p) (hh : j.held = []) {n : Nat} (idx : Nat)
    (hn : n = 13 ∨ n = 16) : s.sysReg j n idx = s.partReg j p n idx := by
  obtain rfl | rfl := hn <;> simp only [State.sysReg, hp, Job.heldSwr, hh, List.filterMap_nil, List.foldl_nil]

/-- Settles O16: the value is read when the index has been popped. -/
theorem systemRegisterRead : Obligations.SystemRegisterRead := by
  refine ⟨fun h f s s0 s1 j x => srd_completes, fun s j p n => ⟨rfl, rfl, rfl, rfl, fun hp hh => ⟨?_, fun hn hs => ?_⟩⟩⟩
  · rw [sysReg_part hp hh 0 (Or.inr rfl)]
    rfl
  · rw [sysReg_part hp hh n (Or.inl rfl)]
    simp only [State.partReg, hs, Bool.false_eq_true, if_false, Nat.mod_eq_of_lt hn, Vector.get_eq_getElem]
    simp [hn]

/-! ### SWR (R80 to R82, R123, R235) -/

theorem exec_swr {i : Instr} {h : Hdr} {f : FRR} (hi : swrs i = some (h, f)) (s : State) :
    exec i s = runInstr i (straight (swrBody h f i.firstWord)) s := by
  unfold swrs at hi
  split at hi <;> cases hi <;> rfl
theorem replaying_runs {s : State} {j : Job} (hj : s.own = some j) (hr : j.replay.replaying = false) : Runs replaying s false s := by
  refine runs_bind (runs_getJob hj) ?_
  simp only [hr, Bool.not_false, if_true]
  exact runs_pure false s
/-- The registers whose writes are held are the supervisor's, TRAPREC's other words and EGSTAT apart. -/
theorem heldReg_eq {fn : Nat} (idx : Nat) (hf : fn ≤ 26) : heldReg fn idx = (supReg fn && fn != 20 && !decide (fn = 13 ∧ idx ≠ 0)) := by
  have key : ∀ n, n ≤ 26 → ([17, 18, 19, 21, 22, 23, 25, 26].contains n || decide (n = 13)) = (supReg n && n != 20) ∧
      (n = 13 → [17, 18, 19, 21, 22, 23, 25, 26].contains n = false) := by decide
  obtain ⟨k, k13⟩ := key fn hf
  rw [← k, heldReg]
  by_cases h13 : fn = 13
  · rw [k13 h13]
    simp [h13]
  · simp [h13]

section
variable {h : Hdr} {s : State} {j : Job} (hj : s.own = some j)
include hj

theorem swrTo_restored {fn : Nat} {r : RReg} (hr : restored fn = some r) (idx : Nat) (v : Word) :
    Runs (swrTo h fn idx v) s () (s.onOwn (fun k => k.rchange (j.stream s.cur.2).coord r (.write v))) := by
  have hc {x : RReg} : Runs (modifyJob (fun k => k.rchange (s.origin h).stamp.coord x (.write v))) s ()
      (s.onOwn (fun k => k.rchange (j.stream s.cur.2).coord x (.write v))) := by
    rw [State.origin_eq hj]
    exact runs_modifyJob _ hj
  unfold restored at hr
  split at hr <;> cases hr <;> exact runs_bind (runs_originOf h hj) hc
theorem swrTo_mseed (idx : Nat) (v : Word) (hq : s.queueRoom .me = true) : Runs (swrTo h 3 idx v) s () (s.queueing .me h (.mseed v)) :=
  runs_bind (runs_originOf h hj) (enqueue_runs .me h (.mseed v) hj hq)
theorem swrTo_stopat (idx : Nat) (v : Word) : Runs (swrTo h 9 idx v) s () (stopped s (j.stream s.cur.2) h v (v.getLsbD 62) 1) :=
  runs_bind (runs_originOf h hj) (stopWord_runs (State.lane_eq hj) _ _ _ _)
/-- The registers that SWR neither changes at once nor queues. -/
theorem swrTo_others {fn idx : Nat} {v : Word} {u : State} (h0 : restored fn = none) (h3 : fn ≠ 3) (h9 : fn ≠ 9)
    (k : Runs (if supReg fn && fn != 20 then (if fn = 13 ∧ idx ≠ 0 then pure () else do
      if (← replaying) then pure () else hold h (.swr (BitVec.ofNat 5 fn) (BitVec.ofNat 64 idx) v)) else pure ()) s () u) :
    Runs (swrTo h fn idx v) s () u := by
  refine runs_bind (runs_originOf h hj) ?_
  split
  · cases h0
  · cases h0
  · cases h0
  · exact absurd rfl h3
  · cases h0
  · cases h0
  · exact absurd rfl h9
  · exact k
theorem swrTo_held {fn idx : Nat} {v : Word} (hf : fn ≤ 26) (hh : heldReg fn idx = true) (hr : j.replay.replaying = false) :
    Runs (swrTo h fn idx v) s () (s.holding h (.swr (BitVec.ofNat 5 fn) (BitVec.ofNat 64 idx) v)) := by
  have hn : restored fn = none ∧ fn ≠ 3 ∧ fn ≠ 9 := by
    simp only [heldReg, Bool.or_eq_true, List.contains_iff_mem, List.mem_cons, List.not_mem_nil, or_false, decide_eq_true_eq] at hh
    obtain (rfl | rfl | rfl | rfl | rfl | rfl | rfl | rfl) | ⟨rfl, -⟩ := hh <;> exact ⟨rfl, by decide, by decide⟩
  rw [heldReg_eq idx hf, Bool.and_eq_true, Bool.not_eq_true', decide_eq_false_iff_not] at hh
  refine swrTo_others hj hn.1 hn.2.1 hn.2.2 ?_
  rw [if_pos hh.1, if_neg hh.2]
  exact runs_bind (replaying_runs hj hr) (hold_runs h _ hj)
theorem swrTo_ignored {fn idx : Nat} {v : Word} (hf : fn ≤ 26) (h0 : restored fn = none) (h3 : fn ≠ 3) (h9 : fn ≠ 9)
    (hh : heldReg fn idx = false) : Runs (swrTo h fn idx v) s () s := by
  refine swrTo_others hj h0 h3 h9 ?_
  rw [heldReg_eq idx hf] at hh
  split
  · rename_i hs
    rw [hs, Bool.true_and, Bool.not_eq_false', decide_eq_true_eq] at hh
    rw [if_pos hh]
    exact runs_pure () s
  · exact runs_pure () s
end

/-- SWR completes where the write of its register does. -/
theorem swr_completes {i : Instr} {h : Hdr} {f : FRR} (hi : swrs i = some (h, f)) {s s0 s1 u : State} {x v : Word} (he : s.entered i = some s0)
    (hv : s0.scalars [f.a, f.b] = some ([x, v], s1)) (hf : f.fn.toNat ≤ 26) (hx : x.toNat ≤ sysIndexMax f.fn.toNat)
    (hw : Runs (swrTo h f.fn.toNat x.toNat v) s1 () u) (hu : Stands s u) : exec i s = .next (u.retired i (s.nextPc i)) := by
  have hc : decide (26 < f.fn.toNat ∨ sysIndexMax f.fn.toNat < x.toNat) = false := decide_eq_false (by omega)
  exact completes_of_straight he (exec_swr hi s) (runs_pop_pop hv (runs_bind (runs_trapIf _ _ s1 hc) hw)) hu

/-- Settles O17: by the kind of the register. -/
theorem systemRegisterWrite : Obligations.SystemRegisterWrite := by
  intro i h f hi s s0 s1 j x v he hv hf hx hj
  have h1 := (stands_of_entered he).scalars hv
  have hc {u : State} := swr_completes hi (u := u) he hv hf hx
  rw [← h1.cur]
  refine ⟨fun r hr => hc (swrTo_restored hj hr _ _) (h1.onOwn _), fun h3 hq => hc ?_ (h1.onOwn _), fun h9 => ?_,
    fun hh hr => hc ?_ (h1.onOwn _), fun h0 h3 h9 hh => hc (swrTo_ignored hj hf h0 h3 h9 hh) h1⟩
  · rw [h3]
    exact swrTo_mseed hj _ _ hq
  · exact hc (by rw [h9]; exact swrTo_stopat hj _ _) (h1.stopped _ _ _ _ _)
  · have hw := swrTo_held (h := h) (v := v) hj hf hh hr
    rwa [BitVec.ofNat_toNat, BitVec.setWidth_eq, BitVec.ofNat_toNat, BitVec.setWidth_eq] at hw

/-! ### ERET and WAITEV (R84, R85) -/

section
variable {s : State} {j : Job} {p : Partition} (hj : s.own = some j)
include hj

theorem getPart_runs (hp : s.part j.part = some p) : Runs getPart s p s := by
  refine runs_bind (runs_getJob hj) (runs_bind (runs_get s) ?_)
  simp only [hp]
  exact runs_pure p s
theorem putPart_runs (p : Partition) : Runs (putPart p) s () (s.setPart j.part p) := runs_bind (runs_getJob hj) (runs_modify _ s)
/-- A push leaves the job in its partition. -/
theorem put_own (h : Hdr) (x : Spec) (v : Option Word) (held : Bool) : ∃ l, (s.put h x v held).own = some { j with streams := l } := by
  unfold State.put
  split
  · exact ⟨j.streams, hj⟩
  · exact ⟨_, by rw [State.onOwn_own, hj]; rfl⟩
end

/-- What the job remembers of an event that WAITEV takes. -/
def takenOf (c : Coord) (p : Partition) (ev : TakeEv) : EvTaken := ⟨c, ev.word, (match ev with
  | .entry n e => some (e, n)
  | _ => none), p.shownRec⟩
theorem Stands.setPart {s u : State} (h : Stands s u) (n : PartId) (p : Partition) : Stands s (u.setPart n p) := h

section
variable {h : Hdr} {f : FRR} {s : State} {j : Job} {p : Partition} (hj : s.own = some j) (hp : s.part j.part = some p)
include hj hp

theorem eretBody_runs (hi : p.inEntry = true) : Runs (eretBody h f) s (some p.savedPc) (s.setPart j.part p.leaveEntry) :=
  runs_bind (getPart_runs hj hp) (runs_bind (runs_trapIf _ _ s (by rw [hi]; rfl)) (runs_bind (putPart_runs hj _) (runs_pure _ _)))
theorem waitevBody_takes {ev : TakeEv} (hn : p.nextEvent = some ev) (hr : s.room f.d = true) : Runs (waitevBody h f) s ()
    (((s.put h f.d (some ev.word) false).setPart j.part (p.clearEvent ev)).onOwn (fun k =>
      { k with evTaken := k.evTaken ++ [takenOf (j.stream s.cur.2).coord p ev] })) := by
  refine runs_bind (getPart_runs hj hp) (runs_bind (runs_originOf h hj) ?_)
  obtain ⟨l, hl⟩ := put_own hj h f.d (some ev.word) false
  rw [State.origin_eq hj, hn]
  exact runs_bind (push_runs hj hr) (runs_bind (putPart_runs hl _) (runs_modifyJob _ (j := { j with streams := l }) hl))
theorem waitevBody_none (hn : p.nextEvent = none) (hb : f.fn.getLsbD 0 = true) (hr : s.room f.d = true) :
    Runs (waitevBody h f) s () (s.put h f.d (some 0) false) := by
  refine runs_bind (getPart_runs hj hp) (runs_bind (runs_originOf h hj) ?_)
  simp only [hn, hb, if_true]
  exact push_runs hj hr
end

/-- Settles O18: both act on the partition of the executing job. -/
theorem eventReturnAndWait : Obligations.EventReturnAndWait := by
  refine fun h f s s0 j p hj hp => ⟨fun he hi => ?_, fun he hr => ⟨fun ev hn => ?_, fun hn hb => ?_⟩⟩
  all_goals have h0 := stands_of_entered he
  · exact completes_at (body := eretBody h f) he rfl (eretBody_runs hj hp hi) (h0.setPart _ _)
  · rw [← h0.cur]
    exact completes_of_straight (body := waitevBody h f) he rfl (waitevBody_takes hj hp hn hr) (((h0.put _ _ _ _).setPart _ _).onOwn _)
  · exact completes_of_straight (body := waitevBody h f) he rfl (waitevBody_none hj hp hn hb hr) (h0.put _ _ _ _)

end Sys2Proof.Proofs
end

section
/-!
PROOF. O19 and O20: RESUME and MBOX.
-/
open Sys2Proof Sys2Proof.Machine Sys2Proof.Claims
namespace Sys2Proof.Proofs

/-! ### RESUME on one core (R90) -/

/-- RESUME on one slot of a core, as part of its pass over the eight. -/
def resumeSlot (s : State) (c : CoreId) (hd : Handle) (r : State × Bool) (i : Fin 8) : State × Bool := match (r.1.core c).slots.get i with
  | some q =>
    if q.handle = hd then
      if q.state = .stopped && (s.core c).on = some i && s.savePending c hd then r
      else if q.state = .stopped && (s.core c).on = some i then
        ((((r.1.unsaved c hd).onJob c Job.continueFrom).setJState c .running).markLanding c, true)
      else if q.state = .saved then (r.1.setSlot c i (some { q with state := .waiting, cur := q.base, entryTime := s.ftime }), true)
      else r
    else r
  | none => r

theorem resumeOn_eq (s : State) (c : CoreId) (hd : Handle) :
    s.resumeOn c hd = [(0 : Fin 8), 1, 2, 3, 4, 5, 6, 7].foldl (resumeSlot s c hd) (s, false) := rfl

/-- Only a core's own state has changed, and the same stream executes. -/
def OnCore (c : CoreId) (s t : State) : Prop := t.cur = s.cur ∧ ∀ d, d ≠ c → t.core d = s.core d

theorem OnCore.refl (c : CoreId) (s : State) : OnCore c s s := ⟨rfl, fun _ _ => rfl⟩
theorem OnCore.trans {c : CoreId} {s t u : State} (h : OnCore c s t) (g : OnCore c t u) : OnCore c s u :=
  ⟨g.1.trans h.1, fun d hd => (g.2 d hd).trans (h.2 d hd)⟩
theorem setCore_onCore (s : State) (c : CoreId) (k : Core) : OnCore c s (s.setCore c k) :=
  ⟨rfl, fun _ hd => State.core_setCore_ne s k (Ne.symm hd)⟩
theorem onJob_onCore (s : State) (c : CoreId) (f : Job → Job) : OnCore c s (s.onJob c f) := by
  unfold State.onJob
  split
  · exact setCore_onCore s c _
  · exact OnCore.refl c s
theorem setJState_onCore (s : State) (c : CoreId) (x : JState) : OnCore c s (s.setJState c x) := by
  unfold State.setJState
  dsimp only
  split
  · exact setCore_onCore s c _
  · exact OnCore.refl c s
theorem markLanding_onCore (s : State) (c : CoreId) : OnCore c s (s.markLanding c) := by
  unfold State.markLanding
  split
  · split
    · exact setJState_onCore s c _
    · exact OnCore.refl c s
  · exact OnCore.refl c s
/-- A job that was stopped on its core goes on. -/
def wentOn (s : State) (c : CoreId) (hd : Handle) : State :=
  (((s.unsaved c hd).onJob c Job.continueFrom).setJState c .running).markLanding c
theorem wentOn_onCore (s : State) (c : CoreId) (hd : Handle) : OnCore c s (wentOn s c hd) :=
  OnCore.trans (t := s.unsaved c hd) ⟨rfl, fun _ _ => rfl⟩ ((onJob_onCore _ _ _).trans ((setJState_onCore _ _ _).trans (markLanding_onCore _ _)))
theorem resumeSlot_onCore (s : State) (c : CoreId) (hd : Handle) (r : State × Bool) (i : Fin 8) : OnCore c r.1 (resumeSlot s c hd r i).1 := by
  unfold resumeSlot
  split
  · split
    · split
      · exact OnCore.refl c _
      · split
        · exact wentOn_onCore _ _ _
        · split
          · exact setCore_onCore _ _ _
          · exact OnCore.refl c _
    · exact OnCore.refl c _
  · exact OnCore.refl c _
theorem resumeOn_onCore (s : State) (c : CoreId) (hd : Handle) : OnCore c s (s.resumeOn c hd).1 := by
  have h := List.foldlRecOn (motive := fun r : State × Bool => OnCore c s r.1) [(0 : Fin 8), 1, 2, 3, 4, 5, 6, 7] (resumeSlot s c hd)
    (b := (s, false)) (OnCore.refl c s) fun r hr i _ => hr.trans (resumeSlot_onCore s c hd r i)
  rwa [← resumeOn_eq] at h

/-! ### The slots that RESUME passes over -/

theorem resumeSlot_skips {s : State} {c : CoreId} {hd : Handle} {r : State × Bool} {i : Fin 8}
    (h : ∀ q, (r.1.core c).slots.get i = some q → q.handle = hd → q.state ≠ .stopped ∧ q.state ≠ .saved) : resumeSlot s c hd r i = r := by
  unfold resumeSlot
  split
  · rename_i q hq
    split
    · rename_i hh
      obtain ⟨h1, h2⟩ := h q hq hh
      simp [h1, h2]
    · rfl
  · rfl
theorem resumeOn_none {s : State} {c : CoreId} {hd : Handle}
    (h : ∀ (i : Fin 8) (q : JobSlot), (s.core c).slots.get i = some q → q.handle = hd → q.state ≠ .stopped ∧ q.state ≠ .saved) :
    s.resumeOn c hd = (s, false) := by
  have h := List.foldlRecOn (motive := fun r => r = (s, false)) [(0 : Fin 8), 1, 2, 3, 4, 5, 6, 7] (resumeSlot s c hd) (b := (s, false)) rfl
    fun r hr i _ => by
      subst hr
      exact resumeSlot_skips (h i)
  rwa [← resumeOn_eq] at h
/-- RESUME finds the one slot of a launch on a core. -/
theorem resumeOn_one {s t : State} {c : CoreId} {hd : Handle} {i : Fin 8}
    (hx : ∀ (n : Fin 8) (x : JobSlot), (s.core c).slots.get n = some x → x.handle = hd → n = i)
    (ht : resumeSlot s c hd (s, false) i = (t, true)) (hs : ∀ n, n ≠ i → (t.core c).slots.get n = (s.core c).slots.get n) :
    s.resumeOn c hd = (t, true) := by
  have hl : [(0 : Fin 8), 1, 2, 3, 4, 5, 6, 7] = (List.finRange 8).take i ++ i :: (List.finRange 8).drop (i + 1) := by
    clear hx ht hs; decide +revert
  have hne : i ∉ (List.finRange 8).take i ∧ i ∉ (List.finRange 8).drop (i + 1) := by
    clear hx ht hs hl; decide +revert
  have skip {u : State} {b : Bool} {l : List (Fin 8)} (hu : ∀ n, n ≠ i → (u.core c).slots.get n = (s.core c).slots.get n) (hi : i ∉ l) :
      l.foldl (resumeSlot s c hd) (u, b) = (u, b) :=
    List.foldlRecOn (motive := fun r => r = (u, b)) l (resumeSlot s c hd) rfl fun r hr n hn => by
      subst hr
      have hni : n ≠ i := fun e => hi (e ▸ hn)
      exact resumeSlot_skips fun q hq hh => absurd (hx n q ((hu n hni).symm.trans hq) hh) hni
  rw [resumeOn_eq, hl, List.foldl_append, skip (fun _ _ => rfl) hne.1, List.foldl_cons, ht, skip hs hne.2]

theorem setJState_slots {s : State} {c : CoreId} {i n : Fin 8} (x : JState) (ho : (s.core c).on = some i) (hn : n ≠ i) :
    ((s.setJState c x).core c).on = some i ∧ ((s.setJState c x).core c).slots.get n = (s.core c).slots.get n := by
  unfold State.setJState
  dsimp only
  rw [ho]
  dsimp only
  rw [State.core_setCore]
  exact ⟨rfl, vec_get_set_ne _ _ i.isLt (Ne.symm hn)⟩
theorem markLanding_slots {s : State} {c : CoreId} {i n : Fin 8} (ho : (s.core c).on = some i) (hn : n ≠ i) :
    ((s.markLanding c).core c).slots.get n = (s.core c).slots.get n := by
  unfold State.markLanding
  split
  · split
    · exact (setJState_slots .landing ho hn).2
    · rfl
  · rfl
theorem onJob_slots (s : State) (c : CoreId) (f : Job → Job) :
    ((s.onJob c f).core c).on = (s.core c).on ∧ ((s.onJob c f).core c).slots = (s.core c).slots := by
  unfold State.onJob
  split
  · unfold State.setJob
    rw [State.core_setCore]
    exact ⟨rfl, rfl⟩
  · exact ⟨rfl, rfl⟩
/-- A job that goes on changes its own slot of its core alone. -/
theorem wentOn_slots {s : State} {c : CoreId} {hd : Handle} {i n : Fin 8} (ho : (s.core c).on = some i) (hn : n ≠ i) :
    ((wentOn s c hd).core c).slots.get n = (s.core c).slots.get n := by
  obtain ⟨h1, h2⟩ := onJob_slots (s.unsaved c hd) c Job.continueFrom
  obtain ⟨h3, h4⟩ := setJState_slots (n := n) .running (h1.trans ho) hn
  unfold wentOn
  rw [markLanding_slots h3 hn, h4, h2]
  rfl

section
variable {s : State} {c : CoreId} {hd : Handle} {i : Fin 8} {q : JobSlot} (hq : (s.core c).slots.get i = some q) (hh : q.handle = hd)
  (hx : ∀ (n : Fin 8) (x : JobSlot), (s.core c).slots.get n = some x → x.handle = hd → n = i)
include hq hh hx

theorem resumeOn_stopped (hs : q.state = .stopped) (ho : (s.core c).on = some i) (hp : s.savePending c hd = false) :
    s.resumeOn c hd = (wentOn s c hd, true) := by
  refine resumeOn_one hx ?_ fun n hn => wentOn_slots ho hn
  unfold resumeSlot
  simp only [hq, hh, hs, ho, hp, if_true, decide_true, Bool.and_false, Bool.false_eq_true, if_false, Bool.and_true]
  rfl
theorem resumeOn_saved (hs : q.state = .saved) :
    s.resumeOn c hd = (s.setSlot c i (some { q with state := .waiting, cur := q.base, entryTime := s.ftime }), true) := by
  refine resumeOn_one hx ?_ fun n hn => ?_
  · unfold resumeSlot
    simp [hq, hh, hs]
  · unfold State.setSlot
    rw [State.core_setCore]
    exact vec_get_set_ne _ _ i.isLt (Ne.symm hn)
end

/-! ### RESUME of a launch (R90) -/

/-- RESUME on one more core of a launch. -/
def resumeCore (hd : Handle) (r : State × Bool) (c : CoreId) : State × Bool := ((r.1.resumeOn c hd).1, r.2 || (r.1.resumeOn c hd).2)
/-- RESUME on every core of a launch. -/
def resumeAll (s : State) (hd : Handle) (l : List CoreId) : State × Bool := l.foldl (resumeCore hd) (s, false)

section
variable {s : State} {hd : Handle}

theorem resumeLaunch_some {g : Group} (hg : s.jobs.find? (fun g => g.handle = hd) = some g) :
    s.resumeLaunch hd = ((resumeAll s hd g.cores).1, if (resumeAll s hd g.cores).2 then 0 else 1) := by
  simp only [State.resumeLaunch, hg]
  rfl
/-- RESUME changes the cores of the launch alone. -/
theorem resumeAll_frame (l : List CoreId) :
    (resumeAll s hd l).1.cur = s.cur ∧ ∀ d, d ∉ l → (resumeAll s hd l).1.core d = s.core d := by
  have step (r : State × Bool) (hr : r.1.cur = s.cur ∧ ∀ d, d ∉ l → r.1.core d = s.core d) (c : CoreId) (hc : c ∈ l) :
      (resumeCore hd r c).1.cur = s.cur ∧ ∀ d, d ∉ l → (resumeCore hd r c).1.core d = s.core d := by
    obtain ⟨h1, h2⟩ := resumeOn_onCore r.1 c hd
    unfold resumeCore
    dsimp only
    exact ⟨h1.trans hr.1, fun d hd => (h2 d fun e => hd (e ▸ hc)).trans (hr.2 d hd)⟩
  have h := List.foldlRecOn (motive := fun r : State × Bool => r.1.cur = s.cur ∧ ∀ d, d ∉ l → r.1.core d = s.core d) l (resumeCore hd)
    (b := (s, false)) ⟨rfl, fun _ _ => rfl⟩ step
  exact h
theorem resumeAll_none {l : List CoreId} (h : ∀ c ∈ l, ∀ (i : Fin 8) (q : JobSlot), (s.core c).slots.get i = some q → q.handle = hd →
    q.state ≠ .stopped ∧ q.state ≠ .saved) : resumeAll s hd l = (s, false) :=
  List.foldlRecOn (motive := fun r => r = (s, false)) l (resumeCore hd) rfl fun r hr c hc => by
    subst hr
    simp only [resumeCore, resumeOn_none (h c hc), Bool.or_self]
theorem resumeAll_one {c : CoreId} {t : State} (h : s.resumeOn c hd = (t, true)) : resumeAll s hd [c] = (t, true) := by
  simp [resumeAll, resumeCore, h]
end

/-- The executing job and stream are as they were. -/
theorem room_congr {s t : State} (hc : t.cur = s.cur) (ho : t.own = s.own) (x : Spec) : t.room x = s.room x := by
  unfold State.room
  rw [hc, ho]
theorem resume_completes {h : Hdr} {f : FRR} {s s0 s1 u : State} {j : Job} {v n : Word} (he : s.entered (.resume h f) = some s0)
    (hv : s0.scalars [f.a] = some ([v], s1)) (hj : s1.own = some j) (hr : s1.room f.d = true)
    (hp : (s1.partOfHandle (v.setWidth 32)).any (fun p => decide (p ≠ j.part)) = false) (hu : s1.resumeLaunch (v.setWidth 32) = (u, n))
    (hc : u.cur = s1.cur) (ho : u.own = s1.own) :
    exec (.resume h f) s = .next ((u.put h f.d (some n) false).retired (.resume h f) (s.nextPc (.resume h f))) := by
  have h1 := (stands_of_entered he).scalars hv
  have h2 : Stands s u := ⟨hc.trans h1.1, by rw [ho, hj]; rfl⟩
  refine completes_of_straight (body := resumeBody h f) he rfl (runs_pop hv (runs_bind (runs_getJob hj) (runs_bind (runs_get s1)
    (runs_bind (runs_trapIf _ _ s1 hp) (runs_bind (runs_get s1) ?_))))) (h2.put _ _ _ _)
  rw [hu]
  exact runs_bind (runs_set s1 u) (push_runs (ho.trans hj) (by rw [room_congr hc ho, hr]))

section
variable {h : Hdr} {f : FRR} {s s0 s1 : State} {j : Job} {v : Word} (he : s.entered (.resume h f) = some s0)
  (hv : s0.scalars [f.a] = some ([v], s1)) (hj : s1.own = some j) (hr : s1.room f.d = true)
include he hv hj hr

/-- No launch has the handle. -/
theorem resume_unknown (hn : s1.jobs.find? (fun g => g.handle = v.setWidth 32) = none) : exec (.resume h f) s =
    .next ((s1.put h f.d (some 2) false).retired (.resume h f) (s.nextPc (.resume h f))) := by
  refine resume_completes he hv hj hr ?_ ?_ rfl rfl
  · rw [State.partOfHandle, hn]
    rfl
  · simp only [State.resumeLaunch, hn]
/-- A launch of the own partition, on other cores than the executing one. -/
theorem resume_known {g : Group} (hg : s1.jobs.find? (fun g => g.handle = v.setWidth 32) = some g) (hp : g.part = j.part) (hc : s.cur.1 ∉ g.cores)
    {u : State} {b : Bool} {n : Word} (hu : resumeAll s1 (v.setWidth 32) g.cores = (u, b)) (hn : (if b then 0 else 1) = n) :
    exec (.resume h f) s = .next ((u.put h f.d (some n) false).retired (.resume h f) (s.nextPc (.resume h f))) := by
  have h1 := (stands_of_entered he).scalars hv
  have hf := resumeAll_frame (s := s1) (hd := v.setWidth 32) g.cores
  have hx := resumeLaunch_some hg
  rw [hu] at hf hx
  dsimp only at hf hx
  rw [hn] at hx
  refine resume_completes he hv hj hr ?_ hx hf.1 ?_
  · rw [State.partOfHandle, hg]
    simp [hp]
  · unfold State.own State.job
    rw [hf.1, hf.2 _ (by rwa [h1.cur])]
end

/-- Settles O19: RESUME passes over the slots of the launch's cores, and leaves the executing core as it was. -/
theorem resumePushesStatus : Obligations.ResumePushesStatus := by
  intro h f
  refine ⟨rfl, ?_⟩
  intro s s0 s1 j v he hv hj hr hd answers
  refine ⟨fun hn => resume_unknown he hv hj hr hn, fun g hg hp hc => ?_⟩
  have key {u : State} {b : Bool} {n : Word} := resume_known he hv hj hr hg hp hc (u := u) (b := b) (n := n)
  refine ⟨?_, fun ha => key (resumeAll_none ha) (if_neg Bool.false_ne_true), fun c i q hcs hsl hh hx => ⟨fun hs ho hsv => ?_, fun hs => ?_⟩⟩
  · rw [resumeLaunch_some hg]
    exact key (u := (resumeAll s1 hd g.cores).1) (b := (resumeAll s1 hd g.cores).2) rfl rfl
  · rw [hcs] at key
    exact key (resumeAll_one (resumeOn_stopped hsl hh hx hs ho hsv)) (if_pos rfl)
  · rw [hcs] at key
    exact key (resumeAll_one (resumeOn_saved hsl hh hx hs)) (if_pos rfl)

end Sys2Proof.Proofs
end

section
/-!
PROOF. O20: MBOX.
-/
open Sys2Proof Sys2Proof.Machine Sys2Proof.Claims
namespace Sys2Proof.Proofs

/-! ### MBOX (R94) -/

theorem originOf_state {h : Hdr} {o : Origin} {s t : State} (hx : Runs (originOf h) s o t) : t = s := by
  obtain ⟨j, s1, h1, r1⟩ := runs_bind_inv hx
  obtain ⟨-, rfl⟩ := runs_getJob_inv h1
  cases r1
  rfl
theorem writePool_done {h : Hdr} {k : CoreId} {p : Nat} {bs : List Byte} {bad : Bool} {s t : State} (hw : Runs (writePool h k p bs bad) s () t) :
    ∃ o, s.poolWrite s.cur.1 o k p bs bad = .done t := by
  obtain ⟨o, s1, h1, r1⟩ := runs_bind_inv hw
  obtain rfl := originOf_state h1
  obtain ⟨x, s2, h2, r2⟩ := runs_bind_inv r1
  obtain ⟨rfl, rfl⟩ := runs_get_inv h2
  refine ⟨o, ?_⟩
  split at r2
  · rename_i u hu
    cases r2
    exact hu
  · cases r2
  · split at r2 <;> cases r2
/-- A write to a pool leaves the executing job in its partition, recording or replaying as before. -/
theorem poolWrite_part {s t : State} {o : Origin} {k : CoreId} {p : Nat} {bs : List Byte} {bad : Bool}
    (h : s.poolWrite s.cur.1 o k p bs bad = .done t) {j : Job} (hj : s.own = some j) :
    ∃ l, t.own = some l ∧ l.part = j.part ∧ l.replay = j.replay := by
  unfold State.poolWrite at h
  simp only [State.own_job hj] at h
  split at h
  · cases h
  split at h
  · cases h
  cases h
  split <;> exact ⟨_, State.job_setJob _ _ _, by split <;> exact ⟨rfl, rfl⟩⟩
/-- What a store of MBOX leaves: the executing stream, its coordinate and its job's partition. -/
theorem writePool_leaves {h : Hdr} {k : CoreId} {p : Nat} {bs : List Byte} {bad : Bool} {s t : State} {j : Job}
    (hw : Runs (writePool h k p bs bad) s () t) (hj : s.own = some j) :
    t.cur = s.cur ∧ ∃ l, t.own = some l ∧ l.part = j.part ∧ (l.stream t.cur.2).coord = (j.stream s.cur.2).coord := by
  obtain ⟨o, ho⟩ := writePool_done hw
  obtain ⟨l, hl, hp, -⟩ := poolWrite_part ho hj
  have hs := poolWrite_sameIssue ho
  obtain ⟨l', hl', -, hc⟩ := hs.job hj
  cases hl.symm.trans hl'
  exact ⟨hs.1, l, hl, hp, hc⟩

section
variable {h : Hdr} {f : FRR} {s0 s1 u : State} {j : Job} {p : Partition} {n b : Word} {off : Nat}
  (hv : s0.scalars [f.a, f.b] = some ([n, b], s1)) (hj : s1.own = some j) (hn : n.toNat < 16) (hb : b.toNat % 64 = 0)
  (ho : ownScratch (s1.who s1.cur.1 j) b.toNat 64 = some off) (hp : s1.part j.part = some p)
include hv hj hn hb ho hp

/-- MBOX has found its mailbox and the place of its message. -/
theorem mboxBody_runs (k : Runs (match p.mailboxes.get ⟨n.toNat % 16, Nat.mod_lt _ (by decide)⟩ with
    | [] => if f.fn.getLsbD 0 then push h f.d 0 else stall 12
    | msg :: rest => do
      if (← get).ownPoolOps (s1.who s1.cur.1 j) (← getJob) then stall 1
      writePool h s1.cur.1 off (msg.take 32) false
      writePool h s1.cur.1 (off + 32) (msg.drop 32) false
      let o ← originOf h
      putPart { p with
        mailboxes := p.mailboxes.set (n.toNat % 16) rest (Nat.mod_lt _ (by decide))
        mbxTaken := p.mbxTaken ++ [(n.toNat % 16, msg, o.stamp.coord)] }
      hold h (.mbox (n.toNat % 16))
      push h f.d (BitVec.ofNat 64 (2 ^ 63 + rest.length))) s1 () u) : Runs (mboxBody h f) s0 () u := by
  have hw : Runs whoNow s1 (s1.who s1.cur.1 j) s1 := runs_bind (runs_get s1) (runs_bind (runs_getJob hj) (runs_pure _ s1))
  refine runs_pop_pop hv (runs_bind hw (runs_bind (runs_trapIf _ _ s1 (decide_eq_false (by omega))) (runs_bind (runs_trapIf _ _ s1
    (decide_eq_false (by omega))) ?_)))
  simp only [ho]
  exact runs_bind (getPart_runs hj hp) k
theorem mboxBody_empty (he : p.mailboxes.get ⟨n.toNat % 16, Nat.mod_lt _ (by decide)⟩ = []) (hf : f.fn.getLsbD 0 = true)
    (hr : s1.room f.d = true) : Runs (mboxBody h f) s0 () (s1.put h f.d (some 0) false) := by
  refine mboxBody_runs hv hj hn hb ho hp ?_
  simp only [he, hf, if_true]
  exact push_runs hj hr
theorem mboxBody_takes {msg : List Byte} {rest : List (List Byte)} {s2 s3 : State}
    (he : p.mailboxes.get ⟨n.toNat % 16, Nat.mod_lt _ (by decide)⟩ = msg :: rest) (hq : s1.ownPoolOps (s1.who s1.cur.1 j) j = false)
    (h2 : Runs (writePool h s1.cur.1 off (msg.take 32) false) s1 () s2) (h3 : Runs (writePool h s1.cur.1 (off + 32) (msg.drop 32) false) s2 () s3)
    (hu : u = (s3.setPart j.part { p with
      mailboxes := p.mailboxes.set (n.toNat % 16) rest (Nat.mod_lt _ (by decide))
      mbxTaken := p.mbxTaken ++ [(n.toNat % 16, msg, (j.stream s1.cur.2).coord)] }).holding h (.mbox (n.toNat % 16)))
    (hr : u.room f.d = true) : u.cur = s1.cur ∧ u.own.isSome = true ∧
      Runs (mboxBody h f) s0 () (u.put h f.d (some (BitVec.ofNat 64 (2 ^ 63 + rest.length))) false) := by
  obtain ⟨hc2, j2, hj2, hp2, hx2⟩ := writePool_leaves h2 hj
  obtain ⟨hc3, j3, hj3, hp3, hx3⟩ := writePool_leaves h3 hj2
  have hpart : j3.part = j.part := hp3.trans hp2
  have hcoord : (j3.stream s3.cur.2).coord = (j.stream s1.cur.2).coord := hx3.trans hx2
  have hown : u.own.isSome = true := by
    rw [hu]
    unfold State.holding
    rw [State.onOwn_own, Option.isSome_map]
    exact (congrArg Option.isSome hj3).trans rfl
  obtain ⟨l, hl⟩ := Option.isSome_iff_exists.mp hown
  refine ⟨?_, hown, mboxBody_runs hv hj hn hb ho hp ?_⟩
  · rw [hu]
    exact (State.onOwn_cur _ _).trans (hc3.trans hc2)
  simp only [he]
  refine runs_bind (runs_get s1) (runs_bind (runs_getJob hj) ?_)
  simp only [hq, Bool.false_eq_true, if_false]
  refine runs_bind h2 (runs_bind h3 (runs_bind (runs_originOf h hj3) ?_))
  rw [State.origin_eq hj3, hcoord]
  refine runs_bind (putPart_runs hj3 _) (runs_bind (hold_runs h _ (j := j3) hj3) ?_)
  rw [hpart, ← hu]
  exact push_runs hl hr
end

/-- Settles O20: the two stores leave the partition of the executing job and its stream's coordinate. -/
theorem mailboxMessage : Obligations.MailboxMessage := by
  intro h f s s0 s1 s2 s3 j p n b off he hv hj hn hb ho hp
  have h1 := (stands_of_entered he).scalars hv
  rw [← h1.cur] at ho ⊢
  refine ⟨fun hm hf hr => ?_, fun msg rest hm hq h2 h3 hr => ?_⟩
  · exact completes_of_straight (body := mboxBody h f) he rfl (mboxBody_empty hv hj hn hb ho hp hm hf hr) (h1.put _ _ _ _)
  · obtain ⟨hc, hown, hrun⟩ := mboxBody_takes hv hj hn hb ho hp hm hq h2 h3 rfl hr
    exact completes_of_straight (body := mboxBody h f) he rfl hrun (Stands.put ⟨hc.trans h1.1, hown⟩ _ _ _ _)

end Sys2Proof.Proofs
end

section
/-!
PROOF. O60 fails: the state of the statement may hold a mailbox message that is longer than a message of the spec.
-/
open Sys2Proof Sys2Proof.Machine Sys2Proof.Claims
namespace Sys2Proof.Proofs

/-- A scalar register that holds one word. -/
def oneWord (v : Word) : Queue Word := ⟨[⟨some v, ⟨0, 0⟩, .none, false, 0, none⟩], []⟩
/-- A supervisor whose mailbox 15 holds a message of 65 bytes, with the mailbox's number in s1 and the address of its scratchpad in s2. -/
def longMail : State :=
  let s := ((State.reset.placeProgram 0).onJob 0 (fun j => j.onStream .c (fun t => { t with
    phase := .issuing
    regs := (t.regs.set (1 : Fin 31) (oneWord 15)).set (2 : Fin 31) (oneWord 0x40000000) }))).onPart 0 (fun p =>
      { p with mailboxes := p.mailboxes.set (15 : Fin 16) [List.replicate 65 7] })
  { s with cur := (0, .c) }
/-- `MBOX s3, s1, s2`. -/
def takeMail : Instr := .mbox ⟨0, false, false, false, false⟩ ⟨0, 2, 1, 0, 3⟩
/-- MBOX retires there: its message goes to byte 0x20000 of the pool, and the byte that follows the 64 has changed. -/
def mailStrays : Bool := match longMail.entered takeMail, longMail.own, exec takeMail longMail with
  | some s0, some j, .next t => match s0.scalars [1, 2], t.own with
    | some (bases, s1), some k => decide (k.seq = j.seq + 1) &&
        decide (ownScratch (s1.who longMail.cur.1 j) (bases.getD 1 0).toNat 64 = some 0x20000) &&
        decide (memByte t.mem (poolKey 0 0x20040) ≠ memByte longMail.mem (poolKey 0 0x20040))
    | _, _ => false
  | _, _, _ => false

theorem mailStrays_true : mailStrays = true := by decide +kernel

/-- Refutes O60: MBOX stores the whole of its message, and nothing in the statement makes a message of the mailbox one of 64 bytes, as every
message is that a step receives (R326). -/
theorem not_storeFrame : ¬ Obligations.StoreFrame := by
  intro hall
  have hs := mailStrays_true
  unfold mailStrays at hs
  split at hs
  · rename_i s0 j t h0 hj hx
    split at hs
    · rename_i bases s1 k hv hk
      simp only [Bool.and_eq_true, decide_eq_true_eq] at hs
      obtain ⟨⟨hseq, hplace⟩, hbyte⟩ := hs
      obtain ⟨-, hmbox, -⟩ := hall takeMail longMail s0 s1 t j k bases (poolKey 0 0x20040) h0 hx hj hk hseq
      refine hbyte (hmbox _ _ rfl hv fun off ho => ?_)
      cases hplace.symm.trans ho
      exact Or.inr (by decide)
    · cases hs
  · cases hs

end Sys2Proof.Proofs
end

section
/-!
PROOF. O42: jobs start, age and end; launches are offered and answered.
-/
open Sys2Proof Sys2Proof.Machine Sys2Proof.Claims
namespace Sys2Proof.Proofs

/-! ### The first waiting job and its level (R297) -/

/-- One slot of a core's search for its first waiting job. -/
def firstStep (k : Core) (now : Word) (r : Option (Fin 8 × JobSlot)) (i : Fin 8) : Option (Fin 8 × JobSlot) := match k.slots.get i, r with
  | some q, none => if q.waits then some (i, q) else none
  | some q, some x => if q.waits && q.before x.2 now then some (i, q) else some x
  | none, x => x

theorem firstWaiting_eq (k : Core) (now : Word) :
    k.firstWaiting now = [(0 : Fin 8), 1, 2, 3, 4, 5, 6, 7].foldl (firstStep k now) none := rfl
/-- What a search has found is a slot of the core whose job waits. -/
def FoundWaits (k : Core) (r : Option (Fin 8 × JobSlot)) : Prop := ∀ x, r = some x → k.slots.get x.1 = some x.2 ∧ x.2.waits = true

theorem firstStep_waits {k : Core} {now : Word} {r : Option (Fin 8 × JobSlot)} (hr : FoundWaits k r) (i : Fin 8) :
    FoundWaits k (firstStep k now r i) := by
  intro x hx
  unfold firstStep at hx
  split at hx
  · rename_i q hq
    split at hx
    · rename_i hw
      cases hx
      exact ⟨hq, hw⟩
    · cases hx
  · rename_i q y hq
    split at hx
    · rename_i hw
      cases hx
      exact ⟨hq, (Bool.and_eq_true_iff.mp hw).1⟩
    · cases hx
      exact hr _ rfl
  · exact hr _ hx
theorem firstWaiting_waits {k : Core} {now : Word} {i : Fin 8} {q : JobSlot} (h : k.firstWaiting now = some (i, q)) :
    k.slots.get i = some q ∧ q.waits = true := by
  have hn : FoundWaits k none := by
    intro x hx
    cases hx
  have hf := List.foldlRecOn (motive := FoundWaits k) [(0 : Fin 8), 1, 2, 3, 4, 5, 6, 7] (firstStep k now) hn
    fun r hr i _ => firstStep_waits hr i
  rw [← firstWaiting_eq] at hf
  exact hf (i, q) h

theorem levelAt_waits {q : JobSlot} (now : Word) (h : q.waits = true) :
    q.levelAt now = BitVec.ofNat 2 (Nat.min 3 (q.base.toNat + (now - q.entryTime).toNat / 80000)) := if_pos h

/-! ### JOB_CHOICE and LAUNCH_START (R262, R298) -/

section
variable {s u v : State} {c : CoreId} {i : Fin 8} {q r : JobSlot} (hf : (s.core c).free = true)
  (hw : (s.core c).firstWaiting s.ftime = some (i, q))
include hf hw

theorem choose_starts (h0 : q.launchLevel = 0) (hl : (s.setCore c ((s.core c).hold i s.ftime)).clearLeft c i = (u, true))
    (hr : (u.core c).slots.get i = some r) (hs : u.startJob c i r = some v) : s.choose c = State.choose.markStarted v q.handle := by
  simp only [State.choose, hf, hw, h0, hl, hr, hs, Bool.not_true, Bool.false_eq_true, if_false, if_true, Option.bind_some]
theorem choose_holds (h0 : q.launchLevel ≠ 0) : s.choose c = s.setCore c ((s.core c).hold i s.ftime) := by
  simp only [State.choose, hf, hw, h0, Bool.not_true, Bool.false_eq_true, if_false]
end

/-- Cores whose yielded jobs are saved are clear. -/
theorem clearLeft_none {s : State} {c : CoreId} {i : Fin 8} (h : (s.core c).left i = none) : s.clearLeft c i = (s, true) := by
  unfold State.clearLeft
  rw [h]
/-- The slots of a launch on its cores. -/
def launchSlots (s : State) (g : Group) : List (CoreId × Fin 8 × JobSlot) :=
  g.cores.filterMap (fun c => ((s.core c).slotOf g.handle).map (fun x => (c, x.1, x.2)))
/-- Those of them that are held. -/
def heldSlots (s : State) (g : Group) : List (CoreId × Fin 8 × JobSlot) := (launchSlots s g).filter (fun x => decide (x.2.2.state = .holding))
/-- One core of a launch is cleared of the context that a YIELD has left there. -/
def clearStep (r : State × Bool) (x : CoreId × Fin 8 × JobSlot) : State × Bool :=
  ((r.1.clearLeft x.1 x.2.1).1, r.2 && (r.1.clearLeft x.1 x.2.1).2)

theorem clearAll {s : State} {l : List (CoreId × Fin 8 × JobSlot)} (h : ∀ x ∈ l, (s.core x.1).left x.2.1 = none) :
    l.foldl clearStep (s, true) = (s, true) :=
  List.foldlRecOn (motive := fun r => r = (s, true)) l clearStep rfl fun r hr x hx => by
    subst hr
    simp only [clearStep, clearLeft_none (h x hx), Bool.and_self]
section
variable {s u v : State} {g : Group} (hg : s.jobs.find? (fun x => x.handle = g.handle) = some g) (hn : heldSlots s g ≠ [])
  (hw : ∀ x ∈ launchSlots s g, x.2.2.state ≠ .waiting) (hf : ∀ x ∈ heldSlots s g, (s.core x.1).free = true)
  (ho : ∀ x ∈ heldSlots s g, ∀ y, (s.core x.1).firstWaiting s.ftime = some y → y.1 = x.2.1)
  (hl : ∀ x ∈ heldSlots s g, (s.core x.1).left x.2.1 = none)
include hg hn hw hf ho hl

/-- A launch that every core holds, ahead of all others, starts on all of them. -/
theorem startLaunch_all (hc : (if g.level.toNat < 2 then some s else s.allocCrews g.handle g.cores) = some u)
    (hs : (heldSlots s g).foldlM (fun (t : State) x => t.startHeld g.handle x.1) u = some v) :
    s.startLaunch g.handle = { v with jobs := v.jobs.map (fun x => if x.handle = g.handle then { x with started := true } else x) } := by
  have h1 : (heldSlots s g).isEmpty = false := by rwa [List.isEmpty_eq_false_iff]
  have h2 : (launchSlots s g).any (fun x => decide (x.2.2.state = .waiting)) = false :=
    List.any_eq_false.mpr fun x hx => by simpa using hw x hx
  have h3 : (heldSlots s g).any (fun x => !(s.core x.1).free) = false := List.any_eq_false.mpr fun x hx => by simp [hf x hx]
  have h4 : (heldSlots s g).any (fun x => ((s.core x.1).firstWaiting s.ftime).any (fun y => y.1 ≠ x.2.1)) = false := by
    refine List.any_eq_false.mpr fun x hx => ?_
    cases hy : (s.core x.1).firstWaiting s.ftime with
    | none => simp
    | some y => simp [ho x hx y hy]
  unfold State.startLaunch
  simp only [hg]
  change (if (heldSlots s g).isEmpty || (launchSlots s g).any (fun x => decide (x.2.2.state = .waiting)) ||
      (heldSlots s g).any (fun x => !(s.core x.1).free) ||
      (heldSlots s g).any (fun x => ((s.core x.1).firstWaiting s.ftime).any (fun y => y.1 ≠ x.2.1)) then s
    else if !((heldSlots s g).foldl clearStep (s, true)).2 then ((heldSlots s g).foldl clearStep (s, true)).1
    else match (if g.level.toNat < 2 then some ((heldSlots s g).foldl clearStep (s, true)).1
        else ((heldSlots s g).foldl clearStep (s, true)).1.allocCrews g.handle g.cores) with
      | none => s
      | some t => match (heldSlots s g).foldlM (fun (t : State) x => t.startHeld g.handle x.1) t with
        | some t => { t with jobs := t.jobs.map (fun x => if x.handle = g.handle then { x with started := true } else x) }
        | none => s) = _
  rw [h1, h2, h3, h4, clearAll hl]
  simp only [Bool.or_self, Bool.false_eq_true, if_false, Bool.not_true, hc, hs]
end

/-! ### JOB_AGING, LAUNCH_OFFER and SPAWN_STATUS_FILL (R297, R301) -/

theorem age_waits {s : State} {c : CoreId} {i : Fin 8} {q : JobSlot} (hq : (s.core c).slots.get i = some q) (hw : q.waits = true) :
    s.age c i = s.setSlot c i (some { q with cur := BitVec.ofNat 2 (Nat.min 3 (q.base.toNat + (s.ftime - q.entryTime).toNat / 80000)) }) := by
  unfold State.age
  simp only [hq, levelAt_waits _ hw]
  rfl
theorem offerLaunch_eq {s : State} {n : Nat} {l : Launch} (hl : s.launches[n]? = some l) (ha : l.answer = none) :
    s.offerLaunch n = { (s.offer l).1 with launches := (s.offer l).1.launches.set n { l with answer := some (s.offer l).2 } } := by
  simp only [State.offerLaunch, hl, ha]
theorem fillStatus_eq {s : State} {n : Nat} {l : Launch} {w : Word} {j : Job} (hl : s.launches[n]? = some l) (ha : l.answer = some w)
    (hj : s.job l.core = some j) (hh : j.handle = l.handle) : s.fillStatus n =
      (State.fillEntryOf { s with launches := s.launches.eraseIdx n } l.core l.handle l.org.st l.entry w .none).recordArrival
        l.core l.org 7 w false := by
  have hjob : State.job { s with launches := s.launches.eraseIdx n } l.core = some j := hj
  simp only [State.fillStatus, hl, ha, hjob, Option.any_some, hh, decide_true, if_true]

/-! ### JOB_END (R93, R262, R306) -/

theorem endJob_ends {s u v : State} {c : CoreId} {j : Job} {q : JobSlot} {g : Group} (hu : u = s.settleFront c) (hj : u.job c = some j)
    (hq : (u.core c).slot = some q) (hr : q.state = .running) (hd : u.jobDone c j = true)
    (hv : v = State.freeJobBlocks ((((u.pokeTiles c j).traceRelease c).endOn c).keepContext c j.handle) c j.handle)
    (hg : (v.jobs.map (fun (g : Group) => if g.handle = j.handle then g.ended c j else g)).find? (fun g => g.handle = j.handle) = some g) :
    let w : State := { v with
      jobs := v.jobs.map (fun (g : Group) => if g.handle = j.handle then g.ended c j else g) }
    let team := g.cores.filter (fun x => decide (x.val / 4 = c.val / 4))
    let freed := if team.all (fun x => g.done.contains x) then team.foldl (fun s x => s.leaveCore x g.handle) w else w
    s.endJob c = if g.cores.all (fun x => g.done.contains x) then freed.complete g else freed := by
  unfold State.endJob
  simp only [← hu, hj, hq, hr, hd, ← hv, hg, ne_eq, not_true_eq_false, decide_false, Bool.not_true, Bool.or_self, Bool.false_eq_true, if_false]

/-- Settles O42: each event's conditions hold, so that it takes its step. -/
theorem schedulingEvents : Obligations.SchedulingEvents := by
  refine fun s u v c j => ⟨fun i q hf hw => ⟨levelAt_waits _ (firstWaiting_waits hw).2, fun r h0 hl hr hs => ?_, fun h0 => ?_⟩,
    fun g hg hn hw hf ho hl hc hs => ?_, fun i q hq hw => ?_, fun n l hl => ⟨fun ha => ?_, fun w ha hj hh => ?_⟩,
    fun q g hu hj hq hr hd hv hg => ?_⟩
  · exact congrArg Host.Outcome.next (choose_starts hf hw h0 hl hr hs)
  · exact congrArg Host.Outcome.next (choose_holds hf hw h0)
  · refine congrArg Host.Outcome.next (startLaunch_all hg hn hw hf ho hl ?_ hs)
    split at hc
    · rw [if_pos ‹_›, hc]
    · rw [if_neg ‹_›, hc]
  · exact congrArg Host.Outcome.next (age_waits hq (decide_eq_true hw))
  · exact congrArg Host.Outcome.next (offerLaunch_eq hl ha)
  · exact congrArg Host.Outcome.next (fillStatus_eq hl ha hj hh)
  · exact congrArg Host.Outcome.next (endJob_ends hu hj hq hr hd hv hg)

end Sys2Proof.Proofs
end

section
/-!
PROOF. O40: the commands of the engines, and the atomics.
-/
open Sys2Proof Sys2Proof.Machine Sys2Proof.Claims
namespace Sys2Proof.Proofs

/-! ### Operations of a job on a core -/

/-- A command whose body completes leaves the job's streams to look again and the frontier to move. -/
theorem performCmd_runs {s u : State} {c : CoreId} {e : Engine} {q : Cmd} {unit : BitVec 3} {body : M Unit}
    (h : Runs body (asStream s c q.org) () u) : s.performCmd c e q unit body = settled s u c := by
  rw [← perform_runs (unit := unit) h]
  unfold Runs asStream at h
  unfold State.performCmd
  rw [h]
theorem cmd_id {j : Job} {e : Engine} {id : Nat} {q : Cmd} (hq : j.cmd e id = some q) : q.id = id :=
  of_decide_eq_true (List.find?_some (p := fun q : Cmd => decide (q.id = id)) hq)
theorem op_id {j : Job} {id : Nat} {o : PendOp} (ho : j.op id = some o) : o.id = id :=
  of_decide_eq_true (List.find?_some (p := fun o : PendOp => decide (o.id = id)) ho)
theorem whoNow_runs {s : State} {j : Job} (hj : s.own = some j) : Runs whoNow s (s.who s.cur.1 j) s :=
  runs_bind (runs_get s) (runs_bind (runs_getJob hj) (runs_pure _ s))
theorem unveiled_runs {s : State} {j : Job} {k : CoreId} {p n : Nat} (hj : s.own = some j) (hv : s.veiled s.cur.1 j.handle k p n = false) :
    Runs (unveiled k p n) s () s := runs_bind (runs_get s) (runs_bind (runs_getJob hj) (runs_stallIf 14 s hv))

/-! ### A command starts (R108, R113, R218) -/

section
variable {s u : State} {c : CoreId} {j : Job} {e : Engine} {id : Nat} {q : Cmd} (hj : s.job c = some j) (hq : j.cmd e id = some q)
  (hm : s.mayBegin (s.who c j) j e q = true)
include hj hq hm

theorem commandStart_runs (hr : Runs (startBody e q) (asStream s c q.org) () u) :
    exec (.engineCommandStart c e id) s = .next (settled s u c) := by
  change Host.Outcome.next (s.startCommand c e id) = _
  unfold State.startCommand
  simp only [hj, hq, hm, if_true, performCmd_runs hr]
/-- A command that begins with what its read has given. -/
theorem commandStart_begins {α : Type} {m : M α} {f : α → Started} {a : α} (hb : startBody e q = m >>= fun a => begin_ e q.id (f a))
    (hr : Runs m (asStream s c q.org) a (asStream s c q.org)) :
    exec (.engineCommandStart c e id) s = .next (started s (asStream s c q.org) c e id (f a)) := by
  refine commandStart_runs hj hq hm (u := (asStream s c q.org).onOwn _) ?_
  rw [hb, ← cmd_id hq]
  exact runs_bind hr (runs_modifyJob _ (asStream_own hj q.org))
theorem commandStart_bare (hk : startsBare q.kind = true) :
    exec (.engineCommandStart c e id) s = .next (started s (asStream s c q.org) c e id .none) := by
  refine commandStart_begins hj hq hm (m := pure ()) (f := fun _ => .none) ?_ (runs_pure () _)
  unfold startBody
  cases hkind : q.kind <;> rw [hkind] at hk
  case st | stt | rat | send | mseed => rfl
  all_goals cases hk
/-- An MZERO at FRONT keeps no copy of its tile. -/
theorem commandStart_mzero {tile : BitVec 5} (hk : q.kind = .mzero tile) (hb : j.beyond q.org.stamp.coord = false) :
    exec (.engineCommandStart c e id) s = .next (started s (asStream s c q.org) c e id .none) := by
  refine commandStart_begins hj hq hm (m := retain q.org tile.toNat) (f := fun _ => .none) (by rw [startBody, hk]) (a := ()) ?_
  have ho := asStream_own hj q.org
  refine runs_bind (runs_get _) (runs_bind (runs_getJob ho) (runs_bind (whoNow_runs ho) ?_))
  rw [if_pos (by rw [hb]; rfl)]
  exact runs_pure _ _
end

/-- The bytes of a pool's sector as the executing job sees them. -/
theorem readLoc_pool {s : State} {j : Job} {k : CoreId} {p n : Nat} (hj : s.own = some j) (hv : s.veiled s.cur.1 j.handle k p n = false) :
    Runs (readLoc (.pool k p) n) s ⟨s.seenBytes s.cur.1 j (poolKey k p) (s.keyBytes (poolKey k p) n).bytes, none⟩ s :=
  runs_bind (runs_get s) (runs_bind (runs_getJob hj) (runs_bind (unveiled_runs hj hv) (runs_pure _ s)))
/-- A copy of one segment in a sector of a pool reads its bytes. -/
theorem readCopy_pool {s : State} {j : Job} {g : CopyGeo} {i : Nat × Nat} {k : CoreId} {p : Nat} (hj : s.own = some j)
    (hp : pieces (g.from i).toNat g.n0 = [((g.from i).toNat, g.n0)]) (hr : s.resolve (s.who s.cur.1 j) .r (g.from i) g.n0 = .ok (.pool k p))
    (hv : s.veiled s.cur.1 j.handle k p g.n0 = false) :
    Runs (readCopy g [i]) s (s.seenBytes s.cur.1 j (poolKey k p) (s.keyBytes (poolKey k p) g.n0).bytes) s := by
  have hread : Runs (readMem false (g.from i) g.n0) s ⟨s.seenBytes s.cur.1 j (poolKey k p) (s.keyBytes (poolKey k p) g.n0).bytes, none⟩ s := by
    unfold readMem
    rw [hp]
    refine runs_bind (whoNow_runs hj) (runs_bind (runs_get s) ?_)
    rw [BitVec.ofNat_toNat, BitVec.setWidth_eq, hr]
    refine runs_bind (readLoc_pool hj hv) (runs_bind (runs_pure _ s) ?_)
    rw [Got.append, List.append_nil]
    exact runs_pure _ s
  refine runs_bind hread (runs_bind (runs_pure _ s) ?_)
  rw [List.append_nil]
  exact runs_pure _ s

/-! ### A command completes (R28) -/

section
variable {s u v t : State} {c : CoreId} {j : Job} {e : Engine} {id : Nat} {q : Cmd} {x : Started} (hj : s.job c = some j) (hq : j.cmd e id = some q)
  (hx : q.started = some x)
include hj hq hx

theorem commandComplete_runs (hf : j.mayFinish q = true) (hr : Runs (completeBody e q x) (asStream s c q.org) () v) :
    exec (.engineCommandComplete c e id) s = .next (settled s v c) := by
  change Host.Outcome.next (s.completeCommand c e id) = _
  unfold State.completeCommand
  simp only [hj, hq, hx, hf, if_true, performCmd_runs hr]
/-- A command leaves its queue after it has written. -/
theorem commandComplete_finishes {m : M Unit} (hf : j.mayFinish q = true) (hb : completeBody e q x = (do m; finish e q.id))
    (hr : Runs m (asStream s c q.org) () t) (ht : t.cur = (asStream s c q.org).cur) (ho : t.own.isSome = true) :
    exec (.engineCommandComplete c e id) s = .next (finished s t c e id) := by
  obtain ⟨k, hk⟩ := Option.isSome_iff_exists.mp ho
  have hc (f : Job → Job) : t.onJob c f = t.onOwn f := by rw [State.onOwn, ht]; rfl
  have hr' : Runs (completeBody e q x) (asStream s c q.org) () (t.onJob c fun j => j.setQueue e ((j.queue e).filter (fun y => y.id ≠ id))) := by
    rw [hb, hc, ← cmd_id hq]
    exact runs_bind hr (runs_modifyJob _ hk)
  exact commandComplete_runs hj hq hx hf hr'
theorem commandComplete_mseed {w : Word} (hk : q.kind = .mseed w) : exec (.engineCommandComplete c e id) s =
    .next (finished s ((asStream s c q.org).onJob c (fun j => j.rchange q.org.stamp.coord .mseed (.write w))) c e id) := by
  have ho := asStream_own hj q.org
  have hb : completeBody e q x = (do modifyJob (fun j => j.rchange q.org.stamp.coord .mseed (.write w)); finish e q.id) := by
    obtain ⟨id, org, kind⟩ := q
    cases hk
    rfl
  refine commandComplete_finishes hj hq hx (by simp [Job.mayFinish, Cmd.runsOn, hk]) hb (runs_modifyJob _ ho) (State.onJob_cur ..) ?_
  exact (congrArg Option.isSome (State.onOwn_own _ _)).trans (by rw [ho]; rfl)
end

/-! ### An aligned ST (R113, R118) -/

theorem length_leBytes (n w : Nat) : (leBytes n w).length = n := by
  induction n generalizing w with
  | zero => rfl
  | succ n ih => exact congrArg (· + 1) (ih (w / 256))
/-- A run that lies in one sector is one piece. -/
theorem pieces_one {a n : Nat} (h0 : 0 < n) (h : n ≤ 32 - a % 32) : pieces a n = [(a, n)] := by
  unfold pieces
  simp only [piecesFrom, Nat.min_eq_left h, Nat.sub_self, if_neg (show ¬ n = 0 by omega), if_true]
/-- An aligned access of at most eight bytes lies in one sector. -/
theorem aligned_inSector {a n : Nat} (hd : 8 % n = 0) (ha : a % n = 0) : n ≤ 32 - a % 32 := by
  have hn : n ∣ 32 := (Nat.dvd_of_mod_eq_zero hd).trans (by decide)
  have hm : n ∣ 32 - a % 32 := Nat.dvd_sub hn ((Nat.dvd_mod_iff hn).mpr (Nat.dvd_of_mod_eq_zero ha))
  exact Nat.le_of_dvd (by omega) hm
/-- A piece of less than a line does not write all of it. -/
theorem linePieces_short {p : WPiece} (line : Nat) (h : p.2.length < 64) : linePieces [p] line = false := by
  by_contra hc
  rw [Bool.not_eq_false, linePieces, Bool.and_eq_true, List.all_eq_true] at hc
  have hat (i : Nat) (hi : i < 64) : p.1 ≤ line * 64 + i ∧ line * 64 + i < p.1 + p.2.length := by
    obtain ⟨y, hy, hyi⟩ := List.any_eq_true.mp (List.all_eq_true.mp hc.2 i (List.mem_range.mpr hi))
    obtain rfl := List.mem_singleton.mp (List.mem_filter.mp hy).1
    exact of_decide_eq_true hyi
  have h0 := hat 0 (by omega)
  have h63 := hat 63 (by omega)
  omega
/-- Plain bytes in one sector are written at once. -/
theorem writeRunsAt_one {q : Cmd} {a : Word} {bs : List Byte} {s t : State} (hp : pieces a.toNat bs.length = [(a.toNat, bs.length)])
    (hs : bs.length < 64) (hw : Runs (writeSector q.org q.id a.toNat bs false false) s () t) : Runs (writeRunsAt q [(a, bs)]) s () t := by
  have hl : (plainBytes bs).length = bs.length := List.length_map _
  have hf : (plainBytes bs).map Prod.fst = bs := by simp [plainBytes, Function.comp_def]
  have hb : (plainBytes bs).any (fun y => y.2.isSome) = false := by simp [plainBytes]
  have hr : runPieces [(a, plainBytes bs)] = [(a.toNat, plainBytes bs)] := by
    simp only [runPieces, List.flatMap_cons, List.flatMap_nil, hl, hp, piecesOf, List.append_nil]
    rw [← hl, List.take_length]
  have hall : linePieces [(a.toNat, plainBytes bs)] (a.toNat / 64) = false := linePieces_short _ (by rwa [hl])
  change Runs (writeCmdRuns q.org q.id [(a, plainBytes bs)]) s () t
  rw [writeCmdRuns, hr, writePiecesOf]
  refine runs_bind (a := ()) ?_ (runs_pure () t)
  rw [hf, hb, hall, Bool.and_false]
  exact hw

section
variable {s t : State} {j : Job} {o : Origin} {id : Nat} {a : Word} {bs : List Byte} (hj : s.own = some j)
include hj

/-- An effect enters the release buffer where it has room for it (R118). -/
theorem holdFor_runs {k : HeldKind} {page : Option Nat} (hr : j.relSectors + (Held.mk id o k page).sectors ≤ 2048) :
    Runs (holdFor o id k page) s () (s.onOwn (fun j =>
      { j with held := heldAdd j.held ⟨id, o, k, page⟩ }.count 13 (Held.mk id o k page).sectors)) := by
  refine runs_bind (t := s) (a := ()) (runs_bind (runs_getJob hj) ?_) (runs_modifyJob _ hj)
  rw [if_neg (by omega)]
  exact runs_pure _ s

/-- A write of bytes in one sector to a pool (R129). -/
theorem writeSector_pool {k : CoreId} {p : Nat} (w : Bool) (hr : s.resolve (s.who s.cur.1 j) .w a bs.length = .ok (.pool k p))
    (hw : s.poolWrite s.cur.1 o k p bs false = .done t) : Runs (writeSector o id a.toNat bs false w) s () t := by
  refine runs_bind (whoNow_runs hj) (runs_bind (runs_get s) ?_)
  rw [BitVec.ofNat_toNat, BitVec.setWidth_eq, hr]
  simp only [hw]
  exact runs_set _ _
section
variable {pa : Nat} {sys n : Bool} (w : Bool) (hr : s.resolve (s.who s.cur.1 j) .w a bs.length = .ok (.mem pa none sys n))
include hr

/-- A store to memory beyond FRONT is held (R118). -/
theorem writeSector_beyond (hb : j.beyond o.stamp.coord = true)
    (hm : j.relSectors + (Held.mk id o (.store pa bs false) (some a.toNat)).sectors ≤ 2048) :
    Runs (writeSector o id a.toNat bs false w) s () (s.onOwn (fun j =>
      { j with held := heldAdd j.held ⟨id, o, .store pa bs false, some a.toNat⟩ }.count 13
        (Held.mk id o (.store pa bs false) (some a.toNat)).sectors)) := by
  refine runs_bind (whoNow_runs hj) (runs_bind (runs_get s) ?_)
  rw [BitVec.ofNat_toNat, BitVec.setWidth_eq, hr]
  refine runs_bind (runs_getJob hj) ?_
  rw [if_pos hb]
  exact holdFor_runs hj hm
/-- A store to memory at FRONT that is no fleet write takes effect. -/
theorem writeSector_front (hb : j.beyond o.stamp.coord = false) (hf : s.isFleet (dieOf s.cur.1) pa = false) :
    Runs (writeSector o id a.toNat bs false w) s () (s.storeOut s.cur.1 j.part (some ⟨s.cur.1, j.handle, o⟩) pa bs false w) := by
  refine runs_bind (whoNow_runs hj) (runs_bind (runs_get s) ?_)
  rw [BitVec.ofNat_toNat, BitVec.setWidth_eq, hr]
  refine runs_bind (runs_getJob hj) ?_
  rw [if_neg (Bool.not_eq_true _ ▸ hb), hf]
  exact runs_set _ _
end
end

theorem slotWrite_keeps (s : State) (pn : PartId) (pa o : Nat) (bs : List Byte) :
    (s.slotWrite pn pa o bs false).cores = s.cores ∧ (s.slotWrite pn pa o bs false).cur = s.cur := by
  unfold State.slotWrite
  split
  · exact ⟨rfl, rfl⟩
  · unfold State.onPart
    dsimp only
    split <;> exact ⟨rfl, rfl⟩
theorem fleetOut_keeps (s : State) (d : DieId) (pub : Option Nat) (o : Option Writer) (pa : Nat) (bs : List Byte) (bad w : Bool) :
    (s.fleetOut d pub o pa bs bad w).cores = s.cores ∧ (s.fleetOut d pub o pa bs bad w).cur = s.cur := by
  unfold State.fleetOut
  dsimp only
  repeat' split
  all_goals exact ⟨rfl, rfl⟩
/-- A store to memory changes no core. -/
theorem storeOut_keeps (s : State) (c : CoreId) (pn : PartId) (o : Option Writer) (pa : Nat) (bs : List Byte) (w : Bool) :
    (s.storeOut c pn o pa bs false w).cores = s.cores ∧ (s.storeOut c pn o pa bs false w).cur = s.cur := by
  unfold State.storeOut
  split
  · exact slotWrite_keeps ..
  · exact fleetOut_keeps ..

section
variable {s t : State} {c : CoreId} {j : Job} {e : Engine} {id : Nat} {q : Cmd} {x : Started} {a v : Word} {ty : BitVec 5} (hj : s.job c = some j)
  (hq : j.cmd e id = some q) (hx : q.started = some x) (hk : q.kind = .st a v ty) (hl : j.lives q.org.stamp.coord = true)
  (h0 : 0 < tyBytes ty) (h8 : tyBytes ty ≤ 8) (ha : a.toNat % tyBytes ty = 0) (hd : 8 % tyBytes ty = 0)
include hj hq hx hk hl h0 h8 ha hd

/-- An aligned ST is one write of its bytes. -/
theorem commandComplete_st
    (hw : Runs (writeSector q.org q.id a.toNat (leBytes (tyBytes ty) v.toNat) false false) (asStream s c q.org) () t)
    (ht : t.cur = (asStream s c q.org).cur) (ho : t.own.isSome = true) :
    exec (.engineCommandComplete c e id) s = .next (finished s t c e id) := by
  have hn : (leBytes (tyBytes ty) v.toNat).length = tyBytes ty := length_leBytes _ _
  have hb : completeBody e q x = (do writeRunsAt q [(a, leBytes (tyBytes ty) v.toNat)]; finish e q.id) := by
    obtain ⟨id, org, kind⟩ := q
    cases hk
    rfl
  have hf : j.mayFinish q = true := by simp [Job.mayFinish, hk, hl]
  refine commandComplete_finishes hj hq hx hf hb (writeRunsAt_one ?_ ?_ hw) ht ho
  · rw [hn]
    exact pieces_one h0 (aligned_inSector hd ha)
  · omega
theorem commandComplete_st_pool {k : CoreId} {p : Nat}
    (hr : (asStream s c q.org).resolve ((asStream s c q.org).who c j) .w a (tyBytes ty) = .ok (.pool k p))
    (hw : (asStream s c q.org).poolWrite c q.org k p (leBytes (tyBytes ty) v.toNat) false = .done t) :
    exec (.engineCommandComplete c e id) s = .next (finished s t c e id) := by
  have hu := asStream_own hj q.org
  obtain ⟨l, hl', -⟩ := poolWrite_part (s := asStream s c q.org) hw hu
  refine commandComplete_st hj hq hx hk hl h0 h8 ha hd (writeSector_pool hu false (by rwa [length_leBytes]) hw)
    (poolWrite_sameIssue (s := asStream s c q.org) hw).1 ?_
  rw [hl']
  rfl

section
variable {pa : Nat} {sys n : Bool}
  (hr : (asStream s c q.org).resolve ((asStream s c q.org).who c j) .w a (tyBytes ty) = .ok (.mem pa none sys n))
include hr

theorem commandComplete_st_beyond (hb : j.beyond q.org.stamp.coord = true)
    (hm : j.relSectors + (Held.mk q.id q.org (.store pa (leBytes (tyBytes ty) v.toNat) false) (some a.toNat)).sectors ≤ 2048) :
    exec (.engineCommandComplete c e id) s = .next (finished s ((asStream s c q.org).onJob c (fun j =>
      { j with held := heldAdd j.held ⟨q.id, q.org, .store pa (leBytes (tyBytes ty) v.toNat) false, some a.toNat⟩ }.count 13
        (Held.mk q.id q.org (.store pa (leBytes (tyBytes ty) v.toNat) false) (some a.toNat)).sectors)) c e id) := by
  have hu := asStream_own hj q.org
  refine commandComplete_st hj hq hx hk hl h0 h8 ha hd (writeSector_beyond hu false (by rwa [length_leBytes]) hb hm) (State.onJob_cur ..) ?_
  exact (congrArg Option.isSome (State.onOwn_own _ _)).trans (by rw [hu]; rfl)
theorem commandComplete_st_front (hb : j.beyond q.org.stamp.coord = false) (hf : (asStream s c q.org).isFleet (dieOf c) pa = false) :
    exec (.engineCommandComplete c e id) s = .next (finished s ((asStream s c q.org).storeOut c j.part (some ⟨c, j.handle, q.org⟩) pa
      (leBytes (tyBytes ty) v.toNat) false false) c e id) := by
  have hu := asStream_own hj q.org
  obtain ⟨hcores, hcur⟩ := storeOut_keeps (asStream s c q.org) c j.part (some ⟨c, j.handle, q.org⟩) pa (leBytes (tyBytes ty) v.toNat) false
  refine commandComplete_st hj hq hx hk hl h0 h8 ha hd (writeSector_front hu false (by rwa [length_leBytes]) hb hf) hcur ?_
  rw [State.own, State.job, State.core, hcur, hcores]
  exact Option.isSome_iff_exists.mpr ⟨j, hu⟩
end
end

/-! ### A channel takes an element (R110) -/

theorem channel_delivers {s : State} {c : CoreId} {j : Job} {ch : BitVec 3} {q : Cmd} {g : CopyGeo} {k : Fin 8} {ty : BitVec 5}
    {bs : List (Byte × Option Nat)} {b : Binding} (hj : s.job c = some j)
    (hq : j.ceQ.find? (fun q => q.begun && q.toChannel ch.toFin) = some q) (hk : q.kind = .copyChan g k ty) (hx : q.started = some (.bytes bs))
    (hb : j.pairCopy ch.toFin q.id (bs.length / tyBytes ty) = some b) (hl : j.lives q.org.stamp.coord = true)
    (hn : q.delivered < bs.length / tyBytes ty) (h4 : ((j.stream b.st).regs.get b.reg).items.length < 4)
    (h8 : ((j.stream b.st).regs.get b.reg).items.length + ((j.stream b.st).regs.get b.reg).popped.length < 8) :
    let r := (j.stream b.st).regs.get b.reg
    exec (.channelElementDelivery c ch) s = .next (s.setJob c ((((j.onStream b.st (fun t => { t with
      regs := t.regs.set b.reg { r with items := r.items ++ [q.element b ty bs] } })).setBinding { b with
      copy := b.copy.map (fun (z : Nat × Nat) => (z.1, z.2 - 1)) }).onCmd .ce q.id (fun q => { q with delivered := q.delivered + 1 })).stir)) := by
  change Host.Outcome.next (s.deliver c ch.toFin) = _
  unfold State.deliver
  have hfull : (decide (4 ≤ ((j.stream b.st).regs.get b.reg).items.length) ||
      decide (8 ≤ ((j.stream b.st).regs.get b.reg).items.length + ((j.stream b.st).regs.get b.reg).popped.length)) = false := by
    rw [decide_eq_false (by omega), decide_eq_false (by omega)]
    rfl
  simp only [hj, hq, hk, hx, hb, hl, hfull, if_neg (Nat.not_le.mpr hn), Bool.not_true, Bool.false_eq_true, if_false]

end Sys2Proof.Proofs
end

section
/-!
PROOF. O40: atomics and AWAIT, and the events of the engines together.
-/
open Sys2Proof Sys2Proof.Machine Sys2Proof.Claims
namespace Sys2Proof.Proofs

/-! ### An operation's value arrives (R20, R400) -/

theorem onOwn_onOwn (s : State) (f g : Job → Job) : (s.onOwn f).onOwn g = s.onOwn (fun j => g (f j)) := by
  unfold State.onOwn
  rw [State.onJob_cur]
  unfold State.onJob
  cases hj : s.job s.cur.1 with
  | none => simp only [hj]
  | some j => simp only [State.job_setJob, State.setJob_setJob]
/-- A job that does not record makes no record of an arrival. -/
theorem recordArrival_idle {s : State} {c : CoreId} {j : Job} (hj : s.job c = some j) (hr : j.replay.recording = false) (o : Origin) (sub : Nat)
    (v : Word) (m : Bool) : s.recordArrival c o sub v m = s := by
  simp [State.recordArrival, hj, hr]
theorem arrive_runs {s : State} {j : Job} (hj : s.own = some j) (hr : j.replay.recording = false) (o : Origin) (id sub : Nat) (v : Word) (m : Mark) :
    Runs (arrive o id sub v m) s () (s.onOwn (fun j => (j.dropOp id).fill o.st id v m)) := by
  have hk : (s.onOwn (fun j => (j.dropOp id).fill o.st id v m)).job s.cur.1 = some ((j.dropOp id).fill o.st id v m) := by
    rw [State.onOwn_eq hj]
    exact State.job_setJob _ _ _
  rw [← recordArrival_idle hk hr o sub v (m ≠ .none)]
  exact runs_bind (runs_curCore s) (runs_modify _ s)

/-! ### Atomics on the own accumulator (R240, R244, R245) -/

section
variable {s t : State} {j : Job} {o : PendOp} {op : AOp} {a : Word} {x y : BitVec 32} {p : Nat} (hj : s.own = some j)
include hj

section
variable (hv : s.veiled s.cur.1 j.handle s.cur.1 p 4 = false) (hb : s.busyFault (s.who s.cur.1 j) j s.cur.1 p = none)
  (hp : s.poolPoison s.cur.1 p 4 = none)
  (hm : (s.seenBytes s.cur.1 j (poolKey s.cur.1 p)
    ((memBytes s.mem (poolKey s.cur.1 p) 4).map (fun b => (b, none)))).all (fun b => b.2.isNone) = true)
include hv hb hp hm

theorem ownWord_runs : Runs (ownWord p a) s (s.seenWord s.cur.1 j (poolKey s.cur.1 p)) s := by
  have hf : (s.seenBytes s.cur.1 j (poolKey s.cur.1 p) ((memBytes s.mem (poolKey s.cur.1 p) 4).map (fun b => (b, none)))).findSome? Prod.snd = none :=
    List.findSome?_eq_none_iff.mpr fun b hb => Option.isNone_iff_eq_none.mp (List.all_eq_true.mp hm b hb)
  have hr : Runs (readPool s.cur.1 p 4 a) s
      ((s.seenBytes s.cur.1 j (poolKey s.cur.1 p) ((memBytes s.mem (poolKey s.cur.1 p) 4).map (fun b => (b, none)))).map Prod.fst) s := by
    refine runs_bind (unveiled_runs hj hv) (runs_bind (runs_get s) ?_)
    rw [hp]
    refine runs_bind (runs_getJob hj) ?_
    dsimp only
    rw [hf]
    exact runs_pure _ s
  refine runs_bind (whoNow_runs hj) (runs_bind (unveiled_runs hj hv) (runs_bind (runs_get s) (runs_bind (runs_getJob hj) ?_)))
  rw [show s.busyFault (s.who s.cur.1 j) j (s.who s.cur.1 j).core p = none from hb]
  exact runs_bind hr (runs_pure _ s)

/-- An atomic reads, changes and writes its word, and its value arrives. -/
theorem atomicApply_word {old : BitVec 32} (hold : s.seenWord s.cur.1 j (poolKey s.cur.1 p) = old)
    (ha : s.atomicPlace (s.who s.cur.1 j) op a = .ok (.word s.cur.1 p))
    (hw : s.poolWrite s.cur.1 o.org s.cur.1 p (leBytes 4 (atomicNew op old x y).1.toNat) false = .done t) (hr : j.replay.recording = false) :
    Runs (atomicApply o op a x y) s () (t.onOwn (fun j => (j.dropOp o.id).fill o.org.st o.id (atomicOld old (atomicNew op old x y).2) .none)) := by
  obtain ⟨l, hl, -, hlr⟩ := poolWrite_part hw hj
  subst hold
  refine runs_bind (whoNow_runs hj) (runs_bind (runs_get s) ?_)
  rw [ha]
  dsimp only
  rw [if_pos (show s.cur.1 = (s.who s.cur.1 j).core from rfl)]
  refine runs_bind (ownWord_runs hj hv hb hp hm) (runs_bind (runs_get s) ?_)
  rw [show s.poolWrite (s.who s.cur.1 j).core o.org s.cur.1 p _ false = .done t from hw]
  exact runs_bind (runs_set s t) (arrive_runs hl (hlr ▸ hr) ..)
/-- An AWAIT that finds its condition to hold takes the word. -/
theorem awaitTry_word {cc : BitVec 2} (hh : o.hit = none) (ha : s.atomicPlace (s.who s.cur.1 j) (.await cc) a = .ok (.word s.cur.1 p))
    (hc : awaitHolds cc (s.seenWord s.cur.1 j (poolKey s.cur.1 p)) x = true) (hr : j.replay.recording = false) :
    Runs (awaitTry o cc a x) s () (s.onOwn (fun k =>
      (k.dropOp o.id).fill o.org.st o.id ((s.seenWord s.cur.1 j (poolKey s.cur.1 p)).setWidth 64) .none)) := by
  refine runs_bind (whoNow_runs hj) (runs_bind (runs_get s) (runs_bind (runs_getJob hj) ?_))
  dsimp only
  rw [hh, ha]
  dsimp only
  rw [if_pos (show s.cur.1 = (s.who s.cur.1 j).core from rfl)]
  refine runs_bind (ownWord_runs hj hv hb hp hm) ?_
  rw [if_pos hc]
  exact arrive_runs hj hr ..
end
/-- An AWAIT takes the word that an earlier read has found. -/
theorem awaitTry_hit {cc : BitVec 2} {z : BitVec 32} (hh : o.hit = some z) (hr : j.replay.recording = false) :
    Runs (awaitTry o cc a x) s () (s.onOwn (fun j => (j.dropOp o.id).fill o.org.st o.id (z.setWidth 64) .none)) := by
  refine runs_bind (whoNow_runs hj) (runs_bind (runs_get s) (runs_bind (runs_getJob hj) ?_))
  dsimp only
  rw [hh]
  exact arrive_runs hj hr ..
/-- An atomic on another core's accumulator through a page is held (R246). -/
theorem atomicApply_home {k : CoreId} {n off : Nat} (ha : s.atomicPlace (s.who s.cur.1 j) op a = .ok (.home k n off)) (hr : j.relSectors ≤ 2048) :
    let h : Held := ⟨o.id, o.org, .atomic op (s.accGa k n off) x y none, if inWindow a.toNat then none else some a.toNat⟩
    Runs (atomicApply o op a x y) s () (s.onOwn (fun j =>
      (({ j with held := heldAdd j.held h }.count 13 h.sectors).dropOp o.id).markHeld o.org.st o.id)) := by
  intro h
  have hk : (s.onOwn (fun j => { j with held := heldAdd j.held h }.count 13 h.sectors)).own =
      some ({ j with held := heldAdd j.held h }.count 13 h.sectors) := by rw [State.onOwn_own, hj]; rfl
  refine runs_bind (whoNow_runs hj) (runs_bind (runs_get s) ?_)
  rw [ha]
  refine runs_bind (holdFor_runs hj hr) ?_
  have hm := runs_modifyJob (fun j => (j.dropOp o.id).markHeld o.org.st o.id) hk
  rwa [onOwn_onOwn] at hm
end

/-! ### The events of the operations -/

section
variable {s u : State} {c : CoreId} {j : Job} {id : Nat} {o : PendOp} {op : AOp} {a : Word} {x y : BitVec 32} (hj : s.job c = some j)
  (ho : j.op id = some o) (hm : mayGo s c j o = true) (hw : s.atomicWaits (s.who c j) j o = false) (hk : o.kind = .atomic op a x y)
include hj ho hm hw hk

theorem atomicApply_runs (hop : ∀ cc, op ≠ .await cc) (hr : Runs (atomicApply o op a x y) (asStream s c o.org) () u) :
    exec (.atomicApply c id) s = .next (settled s u c) := by
  simp only [mayGo, Bool.and_eq_true, Bool.not_eq_true'] at hm
  obtain ⟨hl, hq⟩ := hm
  change Host.Outcome.next (s.applyAtomic c id) = _
  unfold State.applyAtomic
  simp only [hj, ho, hl, hq, hw, hk, Bool.not_true, Bool.or_self, Bool.false_eq_true, if_false, perform_runs hr]
theorem awaitSatisfied_runs {cc : BitVec 2} (hop : op = .await cc) (hr : Runs (awaitTry o cc a x) (asStream s c o.org) () u) :
    exec (.awaitSatisfied c id) s = .next (settled s u c) := by
  simp only [mayGo, Bool.and_eq_true, Bool.not_eq_true'] at hm
  obtain ⟨hl, hq⟩ := hm
  change Host.Outcome.next (s.satisfyAwait c id) = _
  unfold State.satisfyAwait
  simp only [hj, ho, hl, hq, hw, hk, hop, Bool.not_true, Bool.or_self, Bool.false_eq_true, if_false, perform_runs hr]
end

/-- Settles O40: each event runs the body of its command or operation, whose reads and writes are those of the statement. -/
theorem engineEvents : Obligations.EngineEvents := by
  refine fun s c j hj => ⟨fun e id q hq => ⟨fun hm => ⟨fun v => commandStart_runs hj hq hm, commandStart_bare hj hq hm, fun tile =>
    commandStart_mzero hj hq hm, ?_⟩, fun x hx => ⟨fun v => commandComplete_runs hj hq hx, fun v => commandComplete_mseed hj hq hx, ?_⟩⟩,
    fun ch q g k ty bs b => channel_delivers hj, ?_⟩
  · intro g i k p hk hg hp hr hv
    have hread := readCopy_pool (asStream_own hj q.org) hp hr hv
    exact commandStart_begins hj hq hm (f := Started.bytes) (by rw [startBody, hk]; dsimp only; rw [hg]) hread
  · intro a v ty hk hl h0 h8 ha hd
    exact ⟨fun k p t => commandComplete_st_pool hj hq hx hk hl h0 h8 ha hd, fun pa sys n hr =>
      ⟨commandComplete_st_beyond hj hq hx hk hl h0 h8 ha hd hr, commandComplete_st_front hj hq hx hk hl h0 h8 ha hd hr⟩⟩
  · intro id o op a x y ho hm hw hk hrec u w own
    have hu := asStream_own hj o.org
    refine ⟨fun hop => ⟨?_, ?_⟩, fun cc hop => ⟨?_, ?_⟩⟩
    · rintro p t ⟨ha, hv, hb, hp, hs⟩ old ht
      have hcur : t.cur = u.cur := (poolWrite_sameIssue (s := u) ht).1
      have hr := atomicApply_word hu hv hb hp hs (old := old) rfl ha ht hrec
      rw [State.onOwn, hcur] at hr
      exact atomicApply_runs hj ho hm hw hk hop hr
    · exact fun k t off ha hr => atomicApply_runs hj ho hm hw hk hop (atomicApply_home hu ha hr)
    · exact fun z hz => awaitSatisfied_runs hj ho hm hw hk hop (awaitTry_hit hu hz hrec)
    · rintro p hn ⟨ha, hv, hb, hp, hs⟩ hc
      exact awaitSatisfied_runs hj ho hm hw hk hop (awaitTry_word hu hv hb hp hs hn (hop ▸ ha) hc hrec)

end Sys2Proof.Proofs
end

section
/-!
PROOF. O29: the stores, which leave a command in the store engine's queue.
-/
open Sys2Proof Sys2Proof.Machine Sys2Proof.Claims
namespace Sys2Proof.Proofs

/-! ### Operands and their checks (R98, R153) -/

/-- A body reads the first of its scalar sources and goes on with its value. -/
theorem runs_read {α : Type} {x : Spec} {l : List Spec} {a : Word} {vs : List Word} {g : Word → M α} {s u v : State} {r : α}
    (hv : s.scalars (x :: l) = some (a :: vs, u)) (k : ∀ t, t.scalars l = some (vs, u) → Runs (g a) t r v) : Runs (pop x >>= g) s r v := by
  obtain ⟨t, ha, hl⟩ := scalars_cons hv
  exact runs_bind (pop_runs ha) (k t hl)

theorem checkMultiple_runs {v : Word} {n : Nat} (s : State) (h : v.toNat % n = 0) : Runs (checkMultiple v n) s () s :=
  runs_trapIf _ _ s (decide_eq_false (not_not.mpr h))
theorem checkAddr_runs {a : Word} {n : Nat} (s : State) (ha : a.toNat < 2 ^ 56) (hn : a.toNat % n = 0) : Runs (checkAddr a n) s () s :=
  runs_bind (runs_trapIf _ _ s (decide_eq_false (by omega))) (checkMultiple_runs s hn)
/-- A block of a remote store or a SEND: whole aligned sectors, 512 at most. -/
def goodBlock (src ga n : Word) : Prop := 0 < n.toNat ∧ n.toNat ≤ 16384 ∧ n.toNat % 32 = 0 ∧ src.toNat % 32 = 0 ∧ ga.toNat % 32 = 0
theorem checkBlock_runs {src ga n : Word} (fw : Word) (s : State) (h : goodBlock src ga n) : Runs (checkBlock fw src ga n) s () s := by
  obtain ⟨h0, hle, hn, hs, hg⟩ := h
  exact runs_bind (runs_trapIf _ _ s (decide_eq_false (by omega))) (runs_bind (checkMultiple_runs s hn) (runs_bind (checkMultiple_runs s hs)
    (checkMultiple_runs s hg)))

theorem needTiles_runs {s : State} {j : Job} {n : Nat} (hj : s.own = some j) (hd : j.hdr.tdep ≠ 0) : Runs (needTiles n) s () s :=
  runs_bind (runs_getJob hj) (runs_trapIf _ _ s (decide_eq_false hd))
/-- STT and SCATTER take the head of a drained queue. -/
theorem popDrained_runs {s t : State} {d : Spec} {tile : Tile} (w : Word) (hd : s.hasTiles = true)
    (hq : s.own.any (fun k => k.drained (d.toNat % 16)) = true) (ht : s.tileAt (d.toNat % 16) false = some (tile, t)) :
    Runs (popDrained w d) s tile t := by
  cases hj : s.own with
  | none => simp [hj] at hq
  | some j =>
    simp only [State.hasTiles, hj, Option.any_some, decide_eq_true_eq] at hd hq
    refine runs_bind (runs_getJob hj) (runs_bind (runs_getStream hj) (runs_bind (needTiles_runs hj hd) (runs_bind (runs_trapIf _ _ s ?_) ?_)))
    · rw [hq]
      rfl
    · exact tileAt_runs hj ht
theorem Stands.tileAt {r s t : State} {n : Nat} {pk : Bool} {tile : Tile} (hr : Stands r s) (ht : s.tileAt n pk = some (tile, t)) :
    Stands r t := by
  obtain ⟨j, hj⟩ := hr.job
  have hs : SameIssue s t := stays_of_runs (tileAt_runs (w := false) (l := []) hj ht) (takeTile_stays ..)
  obtain ⟨k, hk, -⟩ := hs.job hj
  exact ⟨hs.1.trans hr.1, by rw [hk]; rfl⟩

/-! ### A place kept for a record, and a reserved entry (R20, R391, R400) -/

theorem keeping_manned (s : State) (h : Hdr) (sub : Nat) : Manned s (s.keeping h sub) := by
  unfold State.keeping State.recordPlace
  cases hj : s.job s.cur.1 with
  | none => exact Manned.refl s
  | some j =>
    dsimp only
    split
    · exact setJob_manned hj _
    · exact Manned.refl s
/-- The state in which an operation has kept the place of its record and reserved its entry: the job changes in its streams and its trace. -/
theorem reserved_own {s : State} {j : Job} (hj : s.own = some j) (h : Hdr) (sub : Nat) (x : Spec) (held : Bool) :
    ∃ l t, ((s.keeping h sub).put h x none held).own = some { j with streams := l, trace := t } := by
  obtain ⟨-, t, ht⟩ := keeping_own h sub hj
  obtain ⟨l, hl⟩ := put_own ht h x none held
  exact ⟨l, t, hl⟩
theorem Stands.reserved {s u : State} (hu : Stands s u) (h : Hdr) (sub : Nat) (x : Spec) (held : Bool) :
    Stands s ((u.keeping h sub).put h x none held) := (hu.manned (keeping_manned u h sub)).put _ _ _ _
/-- A job that runs live keeps the place of its record, reserves its entry, and goes on. -/
theorem reserved_runs {h : Hdr} {sub : Nat} {x : Spec} {held : Bool} {s v : State} {j : Job} {m : M Unit} (hj : s.own = some j)
    (hl : s.live = true) (hr : s.room x = true) (k : Runs m ((s.keeping h sub).put h x none held) () v) :
    Runs (do recordLater h sub; reserve h x held; m) s () v := by
  obtain ⟨-, t, ht⟩ := keeping_own h sub hj
  have hroom : (s.keeping h sub).room x = true := by rw [keeping_room h sub x (by rw [hj]; rfl), hr]
  exact runs_bind (recordLater_runs h sub hj (live_own hl hj).2) (runs_bind (reserve_runs ht hroom) k)

/-! ### The stores (R113 to R116) -/

/-- AN INSTRUCTION THAT LEAVES A COMMAND completes where its body places it. -/
theorem queueing_completes {i : Instr} {body : M Unit} {e : Engine} {h : Hdr} {k : CmdKind} {s s0 u : State} (he : s.entered i = some s0)
    (hx : exec i s = runInstr i (straight body) s) (hu : Stands s u) (hb : Runs body s0 () (u.queueing e h k)) :
    exec i s = .next ((u.queueing e h k).retired i (s.nextPc i)) := completes_of_straight he hx hb (hu.onOwn _)

/-- RAT reads AUX for the two operations that have a third operand. -/
theorem ratOperands_runs {f : FM} {s0 s2 u : State} {b v p : Word} {g : Word → Word → Word → M Unit} (hv : if f.opt = 2 ∨ f.opt = 4
    then s0.scalars [f.base, f.idx, f.aux] = some ([b, v, p], s2) else s0.scalars [f.base, f.idx] = some ([b, v], s2) ∧ p = 0)
    (k : Runs (g b v p) s2 () u) : Runs (do
      let b ← pop f.base
      let v ← pop f.idx
      let p ← if f.opt = 2 ∨ f.opt = 4 then pop f.aux else pure 0
      g b v p) s0 () u := by
  split at hv
  · rename_i ho
    refine runs_read hv fun _ hv => runs_read hv fun _ hv => ?_
    rw [if_pos ho]
    exact runs_pop hv k
  · rename_i ho
    obtain ⟨hv, rfl⟩ := hv
    refine runs_pop_pop hv ?_
    rw [if_neg ho]
    exact runs_bind (runs_pure 0 s2) k

section
variable {h : Hdr} {f : FM} {s s0 s1 s2 : State} {j : Job} {v b x p : Word} {tile : Tile} (hj : s2.own = some j) (hq : s2.queueRoom .se = true)
include hj hq

theorem st_queued (he : s.entered (.st h f) = some s0) (hv : s0.scalars [f.d, f.base, f.idx] = some ([v, b, x], s2))
    (ha : (indexed b x (tyBytes f.ty)).toNat < 2 ^ 56) (hn : (indexed b x (tyBytes f.ty)).toNat % tyBytes f.ty = 0)
    (hb : Runs (checkBusy (indexed b x (tyBytes f.ty))) s2 () s2) : exec (.st h f) s =
      .next ((s2.queueing .se h (.st (indexed b x (tyBytes f.ty)) v f.ty)).retired (.st h f) (s.nextPc (.st h f))) := by
  refine queueing_completes (body := stBody h f) he rfl ((stands_of_entered he).scalars hv) ?_
  exact runs_read hv fun _ hv => runs_pop_pop hv (runs_bind (checkAddr_runs s2 ha hn) (runs_bind hb (enqueue_runs .se h _ hj hq)))

section
variable (hd : s0.hasTiles = true) (hq' : s0.own.any (fun k => k.drained (f.d.toNat % 16)) = true)
  (ht : s0.tileAt (f.d.toNat % 16) false = some (tile, s1))
include hd hq' ht

theorem stt_queued (he : s.entered (.stt h f) = some s0) (hv : s1.scalars [f.base, f.idx] = some ([b, x], s2)) (hb : b.toNat % 16 = 0)
    (hx : x.toNat % 16 = 0) :
    exec (.stt h f) s = .next ((s2.queueing .se h (.stt b x f.ty tile)).retired (.stt h f) (s.nextPc (.stt h f))) := by
  refine queueing_completes (body := sttBody h f) he rfl (((stands_of_entered he).tileAt ht).scalars hv) ?_
  refine runs_bind (popDrained_runs _ hd hq' ht) (runs_pop_pop hv ?_)
  exact runs_bind (checkMultiple_runs s2 hb) (runs_bind (checkMultiple_runs s2 hx) (enqueue_runs .se h _ hj hq))
theorem scatter_queued (he : s.entered (.scatter h f) = some s0) (hv : s1.scalars [f.base, f.idx, f.aux] = some ([b, x, p], s2))
    (hb : b.toNat % 16 = 0) (hx : x.toNat % 64 = 0) (hp : p.toNat % 16 = 0) :
    exec (.scatter h f) s = .next ((s2.queueing .se h (.scatter b x p f.ty tile)).retired (.scatter h f) (s.nextPc (.scatter h f))) := by
  refine queueing_completes (body := scatterBody h f) he rfl (((stands_of_entered he).tileAt ht).scalars hv) ?_
  refine runs_bind (popDrained_runs _ hd hq' ht) (runs_read hv fun _ hv => ?_)
  exact runs_pop_pop hv (runs_bind (checkMultiple_runs s2 hx) (runs_bind (checkMultiple_runs s2 hb) (runs_bind (checkMultiple_runs s2 hp)
    (enqueue_runs .se h _ hj hq))))
end

/-- RST and RSTA of a job that does not replay, which differ in the command's mark alone. -/
theorem rstBody_runs (fw : Word) (acc : Bool) (hr : j.replay.replaying = false)
    (hv : s0.scalars [f.d, f.base, f.idx, f.aux] = some ([v, b, x, p], s2)) (hb : goodBlock v b x) (hp : p.toNat % 4 = 0) :
    Runs (rstBody h f fw acc) s0 () (s2.queueing .se h (.rst v b x.toNat p acc)) := by
  refine runs_read hv fun _ hv => runs_read hv fun _ hv => runs_pop_pop hv (runs_bind (checkBlock_runs fw s2 hb) ?_)
  exact runs_bind (checkMultiple_runs s2 hp) (runs_bind (replaying_runs hj hr) (enqueue_runs .se h _ hj hq))

theorem ratBody_runs (hv : if f.opt = 2 ∨ f.opt = 4 then s0.scalars [f.base, f.idx, f.aux] = some ([b, v, p], s2)
    else s0.scalars [f.base, f.idx] = some ([b, v], s2) ∧ p = 0) (hb : b.toNat % 4 = 0) (hroom : s2.room f.d = true) (hl : s2.live = true) :
    Runs (ratBody h f) s0 () (((s2.keeping h 2).put h f.d none true).queueing .se h
      (.rat (ratOp f.opt) b (v.setWidth 32) (p.setWidth 32))) := by
  obtain ⟨l, t, ho⟩ := reserved_own hj h 2 f.d true
  have hqueue : ((s2.keeping h 2).put h f.d none true).queueRoom .se = true := by
    rw [State.queueRoom, hj] at hq
    rw [State.queueRoom, ho]
    exact hq
  refine ratOperands_runs hv (runs_bind (checkMultiple_runs s2 hb) (runs_bind (replayTake_runs h 2 hj (live_own hl hj).1) ?_))
  exact reserved_runs hj hl hroom (enqueue_runs .se h _ ho hqueue)
end

/-- Settles O29: each body reads its operands, passes its checks and places its command; RAT has reserved its entry by then. -/
theorem storesAreQueued : Obligations.StoresAreQueued := by
  refine fun h f s s0 s1 s2 j v b x p tile hj hq hr => ⟨fun he hv ha hn hb => st_queued hj hq he hv ha hn hb, ?_, ?_, ?_, ?_, ?_⟩
  · rintro he ⟨hd, hq', ht⟩ hv hb hx
    exact stt_queued hj hq hd hq' ht he hv hb hx
  · rintro he ⟨hd, hq', ht⟩ hv hb hx hp
    exact scatter_queued hj hq hd hq' ht he hv hb hx hp
  · rintro he hv ⟨h0, hle, hn, hs, hg, hp⟩
    exact queueing_completes he rfl ((stands_of_entered he).scalars hv) (rstBody_runs hj hq _ false hr hv ⟨h0, hle, hn, hs, hg⟩ hp)
  · rintro he hv ⟨h0, hle, hn, hs, hg, hp⟩
    exact queueing_completes he rfl ((stands_of_entered he).scalars hv) (rstBody_runs hj hq _ true hr hv ⟨h0, hle, hn, hs, hg⟩ hp)
  · intro he hv hb hroom hl
    have h2 : Stands s s2 := by
      split at hv
      · exact (stands_of_entered he).scalars hv
      · exact (stands_of_entered he).scalars hv.1
    exact queueing_completes (body := ratBody h f) he rfl (h2.reserved h 2 f.d true) (ratBody_runs hj hq hv hb hroom hl)

end Sys2Proof.Proofs
end

section
/-!
PROOF. O25 to O28: loads, generators, copies, PUB, SEND and TLBI.
-/
open Sys2Proof Sys2Proof.Machine Sys2Proof.Claims
namespace Sys2Proof.Proofs

/-! ### SEND and TLBI (R285, R286, R311) -/

section
variable {h : Hdr} {s0 s1 : State} {j : Job} (hj : s1.own = some j) (hr : j.replay.replaying = false)
include hj hr

theorem sendBody_runs {f : FM} {src ga n dep : Word} {place : CoreId × Nat}
    (hv : s0.scalars [f.d, f.base, f.idx, f.aux] = some ([src, ga, n, dep], s1)) (hd : dep.toNat < 2 ^ 32) (hb : goodBlock src ga n)
    (hp : s1.scratchRun (s1.who s1.cur.1 j) src n.toNat = .ok place) :
    Runs (sendBody h f) s0 () (s1.holding h (.send src ga n.toNat dep.toNat (f.opt.getLsbD 0))) := by
  refine runs_read hv fun _ hv => runs_read hv fun _ hv => runs_pop_pop hv (runs_bind (whoNow_runs hj) ?_)
  refine runs_bind (runs_trapIf _ _ s1 (decide_eq_false (by omega))) (runs_bind (checkBlock_runs _ s1 hb) (runs_bind (runs_get s1) ?_))
  simp only [hp]
  exact runs_bind (replaying_runs hj hr) (hold_runs h _ hj)
theorem tlbiBody_runs {f : FRR} (tenant : Bool) (a : Word) (hroom : s1.room f.d = true) :
    Runs (tlbiBody h f tenant a) s1 () ((s1.put h f.d none true).holding h (.tlbi tenant (f.fn.setWidth 3) a)) := by
  obtain ⟨l, hl⟩ := put_own hj h f.d none true
  exact runs_bind (replaying_runs hj hr) (runs_bind (reserve_runs hj hroom) (hold_runs h _ hl))
end

/-- Settles O25: the effect is held once the operands have passed their checks; TLBI has reserved its entry by then. -/
theorem sendAndTlbi : Obligations.SendAndTlbi := by
  refine fun h s s0 s1 j hj hr => ⟨fun f src ga n dep place he hv hd h0 hle hn hs hg hp => ?_, fun f a he hv hroom => ?_, fun f he h1 hroom => ?_⟩
  · have h1 := (stands_of_entered he).scalars hv
    rw [← h1.cur] at hp
    exact completes_of_straight (body := sendBody h f) he rfl (sendBody_runs hj hr hv hd ⟨h0, hle, hn, hs, hg⟩ hp) (h1.onOwn _)
  · have h1 := (stands_of_entered he).scalars hv
    exact completes_of_straight (body := tlbiPageBody h f) he rfl (runs_pop hv (tlbiBody_runs hj hr false a hroom)) ((h1.put _ _ _ _).onOwn _)
  · subst h1
    exact completes_of_straight he rfl (tlbiBody_runs hj hr true 0 hroom) (((stands_of_entered he).put _ _ _ _).onOwn _)

/-! ### Loads (R103 to R105) -/

/-- A direct access through a window that its grant and team allow passes (R153). -/
theorem checkWindow_runs {s : State} {j : Job} {perm : Perm} {a : Word} {n : Nat} (hj : s.own = some j)
    (h : inWindow a.toNat = true → ∃ l, s.window (s.who s.cur.1 j) perm a.toNat n = .ok l) : Runs (checkWindow perm a n) s () s := by
  refine runs_ite (fun hw => ?_) fun _ => runs_pure () s
  obtain ⟨l, hl⟩ := h hw
  refine runs_bind (whoNow_runs hj) (runs_bind (runs_get s) ?_)
  simp only [hl]
  exact runs_pure () s
/-- A fed queue with room takes the reservation of an LDT or GATHER. -/
theorem reserveTile_runs {s : State} {h : Hdr} {d : Spec} (hr : s.fedRoom d = true) :
    Runs (reserveTile h d) s () (s.putTile h d.toNat none) := by
  cases hj : s.own with
  | none => simp [State.fedRoom, hj] at hr
  | some j =>
    simp only [State.fedRoom, hj, Option.any_some, Bool.and_eq_true, decide_eq_true_eq] at hr
    obtain ⟨⟨hd, hf⟩, hl⟩ := hr
    refine runs_bind (needTiles_runs hj hd) (runs_bind (runs_getJob hj) (runs_bind (runs_getStream hj) (runs_bind (runs_trapIf _ _ s (by rw [hf]; rfl)) ?_)))
    refine runs_bind (runs_getJob hj) ?_
    rw [if_neg (Nat.not_le.mpr hl), State.putTile, State.onOwn_eq hj, tileIdx_mod]
    exact runs_setJob s _

theorem numbered_cur (s : State) (src : DieId) (dst : Nat) (w : Way) : (s.numbered src dst w).cur = s.cur := by cases w <;> rfl
theorem routeAt_cur (s : State) (k : Nat) : (s.routeAt k).cur = s.cur := by
  unfold State.routeAt
  split
  · rfl
  · split
    · rfl
    · split
      · rfl
      · split
        · rfl
        · exact numbered_cur ..
/-- A request that is sent changes no core. -/
theorem request_manned (s : State) (c : CoreId) (j : Job) (id : Nat) (o : Origin) (ga : Word) (k : RemoteKind) :
    Manned s (s.request c j id o ga k) := by
  refine ⟨routeAt_cur _ _, fun x => ?_⟩
  unfold State.job State.core State.request
  rw [routeAt_cores]

section
variable {h : Hdr} {f : FM} {s0 s1 : State} {j : Job} {b x p : Word}

theorem ldBody_runs (hj : s1.own = some j) (hv : s0.scalars [f.base, f.idx] = some ([b, x], s1))
    (ha : (indexed b x (tyBytes f.ty)).toNat < 2 ^ 56) (hn : (indexed b x (tyBytes f.ty)).toNat % tyBytes f.ty = 0)
    (hw : inWindow (indexed b x (tyBytes f.ty)).toNat = true →
      ∃ l, s1.window (s1.who s1.cur.1 j) .r (indexed b x (tyBytes f.ty)).toNat (tyBytes f.ty) = .ok l) (hroom : s1.room f.d = true) :
    Runs (ldBody h f) s0 () ((s1.put h f.d none false).pending h (.ld (indexed b x (tyBytes f.ty)) f.ty)) := by
  obtain ⟨l, hl⟩ := put_own hj h f.d none false
  exact runs_pop_pop hv (runs_bind (checkAddr_runs s1 ha hn) (runs_bind (checkWindow_runs hj hw) (runs_bind (reserve_runs hj hroom)
    (pend_runs h _ hl))))
/-- RLD of a job that runs live sends its request once its entry is reserved and its read pending. -/
theorem rldBody_runs {k : Job} (hj : s1.own = some j) (hv : s0.scalars [f.base, f.idx] = some ([b, x], s1))
    (hn : (indexed b x (tyBytes f.ty)).toNat % tyBytes f.ty = 0) (hroom : s1.room f.d = true) (hl : s1.live = true)
    (hk : (((s1.keeping h 4).put h f.d none false).pending h (.rld (indexed b x (tyBytes f.ty)) f.ty)).own = some k) :
    let u := ((s1.keeping h 4).put h f.d none false).pending h (.rld (indexed b x (tyBytes f.ty)) f.ty)
    Runs (rldBody h f) s0 () (u.request u.cur.1 k k.seq (u.origin h) (indexed b x (tyBytes f.ty)) (.read f.ty)) := by
  obtain ⟨l, t, ho⟩ := reserved_own hj h 4 f.d false
  refine runs_pop_pop hv (runs_bind (checkMultiple_runs s1 hn) (runs_bind (replayTake_runs h 4 hj (live_own hl hj).1) ?_))
  refine reserved_runs hj hl hroom (runs_bind (pend_runs h _ ho) (runs_bind (runs_originOf h hk) (runs_bind (runs_getJob hk) ?_)))
  exact runs_modify _ _
theorem ldtBody_runs (hv : s0.scalars [f.base, f.idx] = some ([b, x], s1)) (hb : b.toNat % 16 = 0) (hx : x.toNat % 16 = 0)
    (hr : s1.fedRoom f.d = true) (ho : (s1.putTile h f.d.toNat none).own = some j) :
    Runs (ldtBody h f) s0 () ((s1.putTile h f.d.toNat none).pending h (.ldt b x f.ty (tileIdx f.d.toNat))) :=
  runs_pop_pop hv (runs_bind (checkMultiple_runs s1 hb) (runs_bind (checkMultiple_runs s1 hx) (runs_bind (reserveTile_runs hr) (pend_runs h _ ho))))
theorem gatherBody_runs (hv : s0.scalars [f.base, f.idx, f.aux] = some ([b, x, p], s1)) (hb : b.toNat % 16 = 0) (hx : x.toNat % 64 = 0)
    (hp : p.toNat % 16 = 0) (hr : s1.fedRoom f.d = true) (ho : (s1.putTile h f.d.toNat none).own = some j) : Runs (gatherBody h f) s0 ()
      ((s1.putTile h f.d.toNat none).pending h (.gather b x p f.ty (decide (f.opt = 1)) (tileIdx f.d.toNat))) :=
  runs_read hv fun _ hv => runs_pop_pop hv (runs_bind (checkMultiple_runs s1 hx) (runs_bind (checkMultiple_runs s1 hb)
    (runs_bind (checkMultiple_runs s1 hp) (runs_bind (reserveTile_runs hr) (pend_runs h _ ho)))))
end

/-- Settles O26: each body reserves its entry and leaves its read pending. -/
theorem loadsReserveAndPend : Obligations.LoadsReserveAndPend := by
  refine fun h f s s0 s1 j b x p hj hr => ⟨fun he hv ha hn hw hroom => ?_, fun he hv hn hroom hl k hk => ?_, fun he hv hb hx hroom => ?_,
    fun he hv hb hx hp hroom => ?_⟩
  all_goals have h1 := (stands_of_entered he).scalars hv
  · rw [← h1.cur] at hw
    exact completes_of_straight (body := ldBody h f) he rfl (ldBody_runs hj hv ha hn hw hroom) ((h1.put _ _ _ _).onOwn _)
  · have hu : Stands s (((s1.keeping h 4).put h f.d none false).pending h (.rld (indexed b x (tyBytes f.ty)) f.ty)) :=
      (h1.reserved h 4 f.d false).onOwn _
    rw [← hu.cur]
    exact completes_of_straight (body := rldBody h f) he rfl (rldBody_runs hj hv hn hroom hl hk) (hu.manned (request_manned ..))
  · obtain ⟨k, hk⟩ := (h1.onOwn _).job
    exact completes_of_straight (body := ldtBody h f) he rfl (ldtBody_runs hv hb hx hroom hk) ((h1.onOwn _).onOwn _)
  · obtain ⟨k, hk⟩ := (h1.onOwn _).job
    exact completes_of_straight (body := gatherBody h f) he rfl (gatherBody_runs hv hb hx hp hroom hk) ((h1.onOwn _).onOwn _)

/-! ### Generators (R106, R107) -/

/-- Settles O27: GEN's sum is folded over the five levels in order. -/
theorem generators : Obligations.Generators := by
  refine fun h f s s0 s1 t v x hl => ⟨fun he hroom => ?_, fun he hv => ?_, fun he hv hx => ?_⟩
  · obtain ⟨j, hj⟩ := lane_own hl
    exact completes_of_straight (body := genBody h f) he rfl (runs_bind (runs_getStream_lane hl) (push_runs hj hroom))
      ((stands_of_entered he).put _ _ _ _)
  · have h1 := (stands_of_entered he).scalars hv
    obtain ⟨j, hj⟩ := h1.job
    exact completes_of_straight (body := genBaseBody f) he rfl (runs_pop hv (runs_modifyStream _ hj)) (h1.onLane _)
  · have h1 := (stands_of_entered he).scalars hv
    obtain ⟨j, hj⟩ := h1.job
    exact completes_of_straight (body := genCoefBody h f) he rfl (runs_pop_pop hv (runs_bind (runs_trapIf _ _ s1 (decide_eq_false (by omega)))
      (runs_modifyStream _ hj))) (h1.onLane _)

/-! ### Copies and PUB (R108, R110, R112) -/

/-- A copy to this destination is well formed: bytes to memory, or whole elements of 8 to 64 bits to one of eight channels. -/
def copyFits (d : Word) (ty : BitVec 5) (g : CopyGeo) : Bool :=
  if d.getLsbD 63 then decide (d.toNat % 2 ^ 63 < 8 ∧ 0x0D ≤ ty.toNat ∧ ty.toNat ≤ 0x14 ∧ g.n0 * 8 % tyWidth ty.toNat = 0)
  else decide (ty = 0x11)
/-- The command of a copy to this destination. -/
def copyKind (d : Word) (ty : BitVec 5) (g : CopyGeo) : CmdKind := if d.getLsbD 63 then .copyChan g (fin8 (d.toNat % 8)) ty else .copy g

theorem cpyBody_runs {s : State} {j : Job} {d : Word} {ty : BitVec 5} {g : CopyGeo} (h : Hdr) (fw : Word) (hj : s.own = some j)
    (hf : copyFits d ty g = true) (hq : s.queueRoom .ce = true) : Runs (cpyBody h fw ty d g) s () (s.queueing .ce h (copyKind d ty g)) := by
  unfold copyFits at hf
  unfold copyKind
  refine runs_ite (fun hc => ?_) fun hc => ?_
  · rw [if_pos hc, decide_eq_true_eq] at hf
    obtain ⟨hd, hlo, hhi, hn⟩ := hf
    have hch : pteBits d 62 3 = 0 := by unfold pteBits; omega
    rw [if_pos hc]
    refine runs_bind (runs_trapIf _ _ s (decide_eq_false (not_not.mpr hch))) (runs_bind (runs_trapIf _ _ s ?_) (enqueue_runs .ce h _ hj hq))
    rw [decide_eq_true ⟨hlo, hhi⟩, decide_eq_false (not_not.mpr hn)]
    rfl
  · rw [if_neg hc, decide_eq_true_eq] at hf
    rw [if_neg hc]
    exact runs_bind (runs_trapIf _ _ s (decide_eq_false (not_not.mpr hf))) (enqueue_runs .ce h _ hj hq)

/-- The counts of a copy with three levels lie side by side in their word. -/
theorem cpyThree_counts (n : Word) : pteBits n 23 0 = n.toNat % 2 ^ 24 ∧ pteBits n 43 24 = n.toNat / 2 ^ 24 % 2 ^ 20 ∧
    pteBits n 63 44 = n.toNat / 2 ^ 44 := by
  have h := n.isLt
  unfold pteBits
  omega

theorem pubBody_runs {h : Hdr} {f : FM} {s0 s1 : State} {j : Job} {a e : Word} (hv : s0.scalars [f.base] = some ([a], s1))
    (hj : s1.own = some j) (he : s1.leafAt (s1.who s1.cur.1 j) a = .ok e) (hp : ptPub e = true) (hr : j.replay.replaying = false) :
    Runs (pubBody h f) s0 () (s1.holding h (.pub (flipOf e))) := by
  refine runs_pop hv (runs_bind (whoNow_runs hj) (runs_bind (runs_get s1) ?_))
  simp only [he]
  exact runs_bind (runs_trapIf _ _ s1 (by rw [hp]; rfl)) (runs_bind (replaying_runs hj hr) (hold_runs h _ hj))

/-- Settles O28: both forms of CPY come to one body with a geometry of their own; PUB has found its page's leaf entry. -/
theorem copiesAndPub : Obligations.CopiesAndPub := by
  refine ⟨fun h s s0 s1 d b n ds os => ⟨fun f he hv hn hf hq => ?_, fun f he hv hf hq => ?_⟩,
    fun h f s s0 s1 j a e he hv hj hl hp hr => ?_⟩
  all_goals have h1 := (stands_of_entered he).scalars hv
  · obtain ⟨j, hj⟩ := h1.job
    refine queueing_completes (body := cpyOneBody h f) he rfl h1 (runs_read hv fun _ hv => runs_pop_pop hv ?_)
    exact runs_bind (runs_trapIf _ _ s1 (decide_eq_false (by omega))) (cpyBody_runs h _ hj hf hq)
  · obtain ⟨j, hj⟩ := h1.job
    obtain ⟨hn0, hn1, hn2⟩ := cpyThree_counts n
    refine queueing_completes (body := cpyThreeBody h f) he rfl h1 ?_
    refine runs_read hv fun _ hv => runs_read hv fun _ hv => runs_read hv fun _ hv => runs_pop_pop hv ?_
    rw [hn0, hn1, hn2]
    exact cpyBody_runs h _ hj hf hq
  · rw [← h1.cur] at hl
    exact completes_of_straight (body := pubBody h f) he rfl (pubBody_runs hv hj hl hp hr) (h1.onOwn _)

end Sys2Proof.Proofs
end

section
/-!
PROOF. O44: requests at their target, and their failure.
-/
open Sys2Proof Sys2Proof.Machine Sys2Proof.Claims
namespace Sys2Proof.Proofs

section
variable {s : State} {n : Nat} {r : Remote} (hr : s.remotes[n]? = some r)
include hr

/-! ### A request is applied at its target (R116, R246, R281) -/

section
variable (hw : r.way.isNone = false) (hb : s.behind n r = false) (hf : s.failed r = none) (hh : s.holdsBack r = false)
include hw hb hf hh

section
variable (hfence : s.fenced r = false)
include hfence

section
variable {bs : List Byte} {bad : List Bool} {flag : Word} {acc : Bool} {l : List (Target × Nat)} {f : Target} (hk : r.kind = .store bs bad flag acc)
  (hl : s.targetRun r.part r.ga bs.length acc = .ok l) (hflag : s.flagTarget r.part r.ga flag = .ok f)
include hk hl hflag

/-- A store into the command page by another job than the supervisor makes its job land (R331). -/
theorem remoteStore_refused (hrefuse : s.refusesRun r.part r.handle l = true) : exec (.remoteStoreApply n) s = .next
    (State.failLate { s with remotes := s.remotes.eraseIdx n } r.core r.handle ⟨0x08, r.org, 4, 0, r.ga, 0⟩) := by
  change Host.Outcome.next (s.applyRemote n) = _
  unfold State.applyRemote
  simp only [hr, hw, hb, hfence, hf, hh, hk, hl, hflag, hrefuse, Bool.or_self, Bool.false_eq_true, if_false, if_true]
theorem remoteStore_applies (hrefuse : s.refusesRun r.part r.handle l = false) (hlog : l.any s.logged = false) (hlogf : s.logged (f, 4) = false) :
    let gone : State := { s with remotes := s.remotes.eraseIdx n }
    exec (.remoteStoreApply n) s = .next (if acc then (gone.addRun l bs).raiseFlag f else (gone.putRun r.part l bs bad).raiseFlag f) := by
  change Host.Outcome.next (s.applyRemote n) = _
  unfold State.applyRemote
  simp only [hr, hw, hb, hfence, hf, hh, hk, hl, hflag, hrefuse, hlog, hlogf, Bool.or_self, Bool.false_eq_true, if_false]
  rw [apply_ite (State.raiseFlag · f)]
end

theorem remotePlain_applies {bs : List Byte} {bad : Bool} {t : Target} (hk : r.kind = .plain bs bad)
    (ht : s.target r.part r.ga bs.length = .ok t) (hlog : s.logged (t, bs.length) = false) :
    exec (.remoteStoreApply n) s = .next (State.putTarget { s with remotes := s.remotes.eraseIdx n } t bs bad) := by
  change Host.Outcome.next (s.applyRemote n) = _
  unfold State.applyRemote
  simp only [hr, hw, hb, hfence, hf, hh, hk, ht, hlog, Bool.or_self, Bool.false_eq_true, if_false]
theorem remoteAtomic_applies {op : AOp} {v c : BitVec 32} {ext : Bool} {key : Nat} {co : Option CoreId} (hk : r.kind = .atomic op v c ext)
    (ht : s.accTarget r.part r.ga 4 = .ok (.here key co)) (hlog : s.logged (.here key co, 4) = false) (hlate : s.atomicLate r ext = false) :
    let new := atomicNew op (BitVec.ofNat 32 (leNat (memBytes s.mem key 4))) v c
    exec (.remoteStoreApply n) s = .next ((s.putTarget (.here key co) (leBytes 4 new.1.toNat) false).answer n r
      (atomicOld (BitVec.ofNat 32 (leNat (memBytes s.mem key 4))) new.2) .none) := by
  change Host.Outcome.next (s.applyRemote n) = _
  unfold State.applyRemote
  simp only [hr, hw, hb, hfence, hf, hh, hk, ht, hlate, State.atomicAt, hlog, Bool.or_self, Bool.false_eq_true, if_false]
end

theorem remoteRead_answers {ty : BitVec 5} {key : Nat} {co : Option CoreId} (hk : r.kind = .read ty)
    (ht : s.target r.part r.ga (tyBytes ty) = .ok (.here key co))
    (hv : ∀ c, co = some c → s.veiled r.core r.handle c (key - poolKey c 0) (tyBytes ty) = false) :
    let g : Got := ⟨s.readFor r key (tyBytes ty), none⟩
    exec (.remoteRead n) s = .next (s.answer n r (extendElem ty.toNat g.nat) g.mark) := by
  have hveil : co.any (fun c => s.veiled r.core r.handle c (key - poolKey c 0) (tyBytes ty)) = false := by
    cases co with
    | none => rfl
    | some c => exact hv c rfl
  change Host.Outcome.next (s.readRemote n) = _
  unfold State.readRemote
  simp only [hr, hw, hb, hf, hh, hk, ht, hveil, Bool.or_self, Bool.false_eq_true, if_false]
end

/-! ### A request fails (R117, R241, R351, R356) -/

theorem remoteFailure_eq (reason : BitVec 16) : exec (.remoteFailure n reason) s = .next (s.failRequest n reason r) := by
  change Host.Outcome.next (s.failRemote n reason) = _
  unfold State.failRemote
  rw [hr]

section
variable (reason : BitVec 16) (hw : r.way.isNone = false)
include hw

theorem remoteFailure_found {x : BitVec 16} (hx : s.failed r = some x) : exec (.remoteFailure n reason) s = .next (s.fail n r x) := by
  rw [remoteFailure_eq hr]
  unfold State.failRequest
  simp only [hw, hx, Bool.false_eq_true, if_false]

section
variable (hf : s.failed r = none) (hh : s.holdsBack r = false)
include hf hh

theorem remoteFailure_left (hl : s.leaves r = true) (hk : ∀ pa op v c, r.kind ≠ .hostAtomic pa op v c) (hm : r.mayFail reason = true) :
    exec (.remoteFailure n reason) s = .next (s.fail n r reason) := by
  rw [remoteFailure_eq hr]
  unfold State.failRequest
  cases hkind : r.kind with
  | hostAtomic pa op v c => exact absurd hkind (hk pa op v c)
  | _ => simp only [hw, hf, hh, hl, hm, Bool.false_eq_true, if_false, if_true]
/-- A host completion with an error status has any reason (R241). -/
theorem remoteFailure_host {pa : Nat} {op : AOp} {v c : BitVec 32} (hk : r.kind = .hostAtomic pa op v c) (h1 : 1 ≤ reason.toNat)
    (h10 : reason.toNat ≤ 10) : exec (.remoteFailure n reason) s = .next (s.fail n r reason) := by
  have hl : s.leaves r = true := by rw [State.leaves, hk, Bool.or_true]
  rw [remoteFailure_eq hr]
  unfold State.failRequest
  simp only [hw, hf, hh, hl, hk, Bool.false_eq_true, if_false, if_true]
  rw [if_pos ⟨h1, h10⟩]
end
end

theorem requestTimeout_fails {w : Way} (hw : r.way = some w) (h : s.limit w ≤ (s.ftime - r.sentAt).toNat ∨ s.dropped w = true) :
    exec (.requestTimeout n) s = .next (s.fail n r 0x0003) := by
  change Host.Outcome.next (s.timeoutRemote n) = _
  unfold State.timeoutRemote
  rw [hr]
  dsimp only
  unfold State.timeoutRequest
  rw [hw]
  dsimp only
  rw [if_pos (by rwa [Bool.or_eq_true, State.overdue, decide_eq_true_eq])]
end

/-- A store that fails makes its job land. -/
theorem fail_store {s : State} {n : Nat} {r : Remote} {bs : List Byte} {bad : List Bool} {flag : Word} {acc : Bool} (reason : BitVec 16)
    (hk : r.kind = .store bs bad flag acc) :
    s.fail n r reason = State.failStore { s with remotes := s.remotes.eraseIdx n } r.core r.handle r.org r.ga reason := by
  rw [State.fail, hk]

/-! ### The time that a request may take (R356) -/

theorem limit_drains {s : State} {w : Way} {g : BitVec 4} (hg : w.group = some g) (hd : (s.groups.get g.toFin).drains = true) :
    s.limit w = 12500 * (s.groups.get g.toFin).tout.toNat := by
  simp only [State.limit, hg, Option.map_some, Option.filter, hd, if_true]
theorem limit_open {s : State} {w : Way} (hd : ∀ g, w.group = some g → (s.groups.get g.toFin).drains = false) : s.limit w = 1250000 := by
  unfold State.limit
  cases hg : w.group with
  | none => rfl
  | some g => simp only [Option.map_some, Option.filter, hd g hg, Bool.false_eq_true, if_false]

/-- Settles O44: what goes on is applied or answered by its kind; what does not is failed by the reason that is found or that its event gives. -/
theorem remoteRequests : Obligations.RemoteRequests := by
  refine ⟨fun s n r hr hway => ?_, fun s w => ⟨fun g => limit_drains, limit_open⟩⟩
  have hw : r.way.isNone = false := by rw [← Option.not_isSome, hway]; rfl
  refine ⟨fun hb hf hh => ⟨fun hfence => ⟨fun bs bad flag acc l f hk hl hflag => ?_, fun bs bad t => remotePlain_applies hr hw hb hf hh hfence,
    fun op v c ext key co => remoteAtomic_applies hr hw hb hf hh hfence⟩, fun ty key co => remoteRead_answers hr hw hb hf hh⟩,
    fun reason => ⟨fun x => remoteFailure_found hr reason hw, fun hf hh => remoteFailure_left hr reason hw hf hh,
      fun pa op v c hf hh => remoteFailure_host hr reason hw hf hh⟩,
    fun w => requestTimeout_fails hr, fun bs bad flag acc reason => fail_store reason⟩
  exact ⟨remoteStore_refused hr hw hb hf hh hfence hk hl hflag, remoteStore_applies hr hw hb hf hh hfence hk hl hflag⟩

end Sys2Proof.Proofs
end

section
/-!
PROOF. O45: SEND's chunks, PUB, TLBI, waits for log entries, the scrubber and fleet memory.
-/
open Sys2Proof Sys2Proof.Machine Sys2Proof.Claims
namespace Sys2Proof.Proofs

/-! ### A SEND's next chunk leaves (R311) -/

/-- A chunk for a target on the sender's die is written when it has come there, eight cycles later. -/
theorem chunkOf_target (s : State) (x : Sending) (t : Nat) (w : Way) (stop : Nat) (p : Packet) :
    let k := Nat.min 64 (x.n - x.sent)
    let hops := hopsFrom x.ccw (stopOf x.core) stop
    s.chunkOf x t w (.target stop) p =
      { core := x.core, handle := x.handle, part := x.part, sendId := x.id, org := x.org, ga := x.ga + BitVec.ofNat 64 x.sent
        bs := (s.chunkBytes x k).1, bad := (s.chunkBytes x k).2, last := decide (x.n ≤ x.sent + k), ccw := x.ccw
        legs := [⟨ringOf (dieOf x.core) x.ccw, stopOf x.core, hops, t⟩], die := dieOf x.core, stop := stop, arrives := t + 2 * hops + 8
        final := true, packet := p, way := w, epoch := s.module.routeEpoch, sentAt := s.ftime, tick := s.tick } := rfl

section
variable {s : State} {c : CoreId} {id : Nat} {x : Sending} (hx : s.sendings.find? (fun x => decide (x.core = c ∧ x.id = id)) = some x)
  (hs : s.spreadBefore x.core x.handle (fun o => decide (o.seq < x.fence)) = false)
include hx hs

theorem chunk_departs {w : Way} {l : Leads} {p : Packet} {t : Nat} (hway : s.sendWay x = .ok (some (w, l, p))) (ht : s.departure x = some t)
    (hle : t ≤ s.ftime.toNat) (hfirst : s.slotFirst t none (some x) = true) : exec (.sendChunkDeparture c id) s =
      .next (State.numbered { s with chunks := s.chunks ++ [s.chunkOf x t w l p], sendings := s.sentOne x t } (dieOf c)
        ((x.ga + BitVec.ofNat 64 x.sent).toNat / 2 ^ 48) w) := by
  change Host.Outcome.next (s.departChunk c id) = _
  unfold State.departChunk
  simp only [hx, hs, hway, ht, hfirst, decide_eq_false (Nat.not_lt.mpr hle), Bool.not_true, Bool.or_self, Bool.false_eq_true, if_false]
theorem sending_fails {r : BitVec 16} (hway : s.sendWay x = .error r) : exec (.sendChunkDeparture c id) s =
    .next (State.failStore { s with sendings := s.sendings.erase x } x.core x.handle x.org x.ga r) := by
  change Host.Outcome.next (s.departChunk c id) = _
  unfold State.departChunk
  simp only [hx, hs, hway, Bool.false_eq_true, if_false]
end

/-! ### A chunk comes to a router or to its target (R249, R311, R347, R356) -/

section
variable {s : State} {n : Nat} {x : Chunk} (hx : s.chunks[n]? = some x)
include hx

section
variable (ha : x.arrives ≤ s.ftime.toNat)
include ha

section
variable (hf : x.final = false)
include hf

theorem chunk_goesOn {t : Nat} {l : Leads} {p : Packet} (hl : s.chunkLeads x = .ok (some (l, p))) (ht : s.onward x = some t)
    (hle : t ≤ s.ftime.toNat) (hfirst : s.slotFirst t (some (x, n)) none = true) :
    exec (.sendChunkArrival n) s = .next { s with chunks := s.chunks.set n (s.chunkOn x t l p) } := by
  change Host.Outcome.next (s.arriveChunk n) = _
  unfold State.arriveChunk
  simp only [hx, if_neg (Nat.not_lt.mpr ha), hf, hl, ht, hfirst, decide_eq_false (Nat.not_lt.mpr hle), Bool.not_false, Bool.not_true,
    Bool.or_self, Bool.false_eq_true, if_false, if_true]
theorem chunk_lost {r : BitVec 16} (hl : s.chunkLeads x = .error r) : exec (.sendChunkArrival n) s = .next (s.failChunk n x r) := by
  change Host.Outcome.next (s.arriveChunk n) = _
  unfold State.arriveChunk
  simp only [hx, if_neg (Nat.not_lt.mpr ha), hf, hl, Bool.not_false, if_true]
end

theorem chunk_written {l : List (Target × Nat)} (hf : x.final = true) (hb : s.chunkBehind n x = false) (hd : s.dropped x.way = false)
    (hl : s.targetRun x.part x.ga x.bs.length false = .ok l) (hrefuse : s.refusesRun x.part x.handle l = false)
    (hlog : l.any s.logged = false) :
    exec (.sendChunkArrival n) s = .next (((s.eraseChunk n x).putRun x.part l x.bs x.bad).settleFront x.core) := by
  change Host.Outcome.next (s.arriveChunk n) = _
  unfold State.arriveChunk
  simp only [hx, if_neg (Nat.not_lt.mpr ha), hf, hb, hd, hl, hrefuse, hlog, Bool.not_true, Bool.or_self, Bool.false_eq_true, if_false]
end

/-- The chunks are numbered beyond the requests. -/
theorem chunk_timesOut (h : s.limit x.way ≤ (s.ftime - x.sentAt).toNat ∨ s.dropped x.way = true) :
    exec (.requestTimeout (s.remotes.length + n)) s = .next (s.failChunk n x 0x0003) := by
  have hover : (s.overdue x.way x.sentAt || s.dropped x.way) = true := by rwa [Bool.or_eq_true, State.overdue, decide_eq_true_eq]
  change Host.Outcome.next (s.timeoutRemote (s.remotes.length + n)) = _
  unfold State.timeoutRemote
  simp only [List.getElem?_eq_none (Nat.le_add_right s.remotes.length n), Nat.add_sub_cancel_left, hx, hover, if_true]
end

/-! ### PUB and TLBI (R112, R286, R288) -/

/-- The cached translations that a TLBI drops. -/
def tlbHit (x : Service) (tenant : Bool) (scope : BitVec 3) (a : Word) (t : TlbEntry) : Bool :=
  decide (t.part = x.part) && t.inScope x.core scope.toNat && (tenant || decide (t.va ≤ a.toNat ∧ a.toNat < t.va + t.size))
/-- The stores that a TLBI waits for once it has dropped its translations. -/
def tlbStores (s : State) (x : Service) (tenant : Bool) (scope : BitVec 3) (a : Word) : List (CoreId × Handle × Nat) :=
  s.translated x.part (fun c => coreInScope c x.core scope.toNat) (fun p => tenant || decide (p / 65536 = a.toNat / 65536) ||
    (s.tlb.filter (tlbHit x tenant scope a)).any (fun t => decide (t.va ≤ p ∧ p < t.va + t.size)))
/-- The state in which a TLBI has dropped its translations and waits for its stores. -/
def tlbDropped (s : State) (n : Nat) (x : Service) (tenant : Bool) (scope : BitVec 3) (a : Word) : State :=
  { s with
    services := s.services.set n { x with waits := some (tlbStores s x tenant scope a) }
    tlb := s.tlb.filter (fun t => !tlbHit x tenant scope a t)
    walker := s.walker.filter (fun e => !(decide (e.part = x.part) && e.inScope x.core scope.toNat && (tenant || e.covers a.toNat))) }

section
variable {s : State} {n : Nat} {x : Service} (hx : s.services[n]? = some x)
include hx

theorem pub_flips {b : Nat} (hk : x.kind = .pub b)
    (hw : s.fleet.any (fun m => (m.shadowOf x.core x.handle).any (fun o => decide (o.st = x.org.st ∧ o.seq < x.id))) = false) :
    exec (.pubFlip n) s = .next (State.flipImages { s with services := s.services.eraseIdx n } b) := by
  change Host.Outcome.next (s.pubFlip n) = _
  unfold State.pubFlip
  simp only [hx, hk, hw, Bool.false_eq_true, if_false]

section
variable {tenant : Bool} {scope : BitVec 3} {a : Word} (hk : x.kind = .tlbi tenant scope a)
include hk

theorem tlbi_ends {l : List (CoreId × Handle × Nat)} (hw : x.waits = some l) (hl : ∀ y ∈ l, s.unperformed y = false) :
    exec (.tlbiExecute n) s = .next (s.tlbiDone n x) := by
  have hnone : l.any s.unperformed = false := List.any_eq_false.mpr fun y hy => by rw [hl y hy]; exact Bool.false_ne_true
  change Host.Outcome.next (s.tlbiRun n) = _
  unfold State.tlbiRun
  simp only [hx, hk, hw, hnone, Bool.false_eq_true, if_false]
theorem tlbi_drops (hw : x.waits = none) (hfleet : s.fleet = []) (hrem : s.remotes = []) :
    let u := tlbDropped s n x tenant scope a
    exec (.tlbiExecute n) s = .next (if (tlbStores s x tenant scope a).any u.unperformed then u else u.tlbiDone n x) := by
  obtain ⟨core, handle, part, id, org, kind, waits⟩ := x
  cases hk
  cases hw
  have hstores : (s.fleetBefore core handle (fun o => decide (o.stamp.coord ≤ org.stamp.coord)) ||
      s.remotes.any (fun r => decide (r.core = core ∧ r.handle = handle ∧ r.org.stamp.coord ≤ org.stamp.coord) && r.kind.silent)) = false := by
    rw [State.fleetBefore, hfleet, hrem]
    rfl
  change Host.Outcome.next (s.tlbiRun n) = _
  unfold State.tlbiRun
  simp only [hx, hstores, Bool.false_and, Bool.false_eq_true, if_false]
  rfl
end
end

/-! ### Waits for log entries, and the scrubber (R249, R290) -/

section
variable {s : State} {n : Nat} {w : LogWait} (hw : s.logWaits[n]? = some w)
include hw

theorem logWait_pool {c : CoreId} {p : Nat} (hp : w.place = .pool c p) (hl : s.logged (.here (poolKey c p) (some c), w.bs.length) = false) :
    exec (.logWaitRelease n) s = .next (State.pokeClear { s with logWaits := s.logWaits.eraseIdx n } (poolKey c p) w.bs) := by
  change Host.Outcome.next (s.releaseLogWait n) = _
  unfold State.releaseLogWait
  simp only [hw, hp, hl, Bool.false_eq_true, if_false]
theorem logWait_mem {pa : Nat} (hp : w.place = .mem pa) :
    exec (.logWaitRelease n) s = .next (State.pokeHome { s with logWaits := s.logWaits.eraseIdx n } pa w.bs) := by
  change Host.Outcome.next (s.releaseLogWait n) = _
  unfold State.releaseLogWait
  simp only [hw, hp]
end

theorem patrol_poisons (s : State) (d : DieId) {line : Nat} (h : line * 64 < 0x1800000000) : exec (.patrolScrub d line true) s =
    .next ((s.poisonRun (d.val * 2 ^ 48 + line * 64) 64).report (.patrol d line)) := by
  change Host.Outcome.next (s.patrol d line true) = _
  rw [State.patrol, if_pos (by rw [decide_eq_true h]; rfl)]

/-! ### Fleet memory (R288, R318) -/

/-- The state in which a fleet write has been applied at its home, whose clock has moved, and forwarded. -/
def fleetApplied (s : State) (n : Nat) (src home : DieId) (pa : Nat) (bs : List Byte) (v : Vector (BitVec 32) 4) (bad whole : Bool)
    (by_ : Option Writer) : State :=
  let poked := State.pokeClear { s with fleet := s.fleet.eraseIdx n } pa bs
  let u := if bad then poked.poisonRun pa bs.length else if whole then poked.cleanLine (pa / 64) else poked
  (u.setCount home src v).forward home src pa bs v by_

section
variable {s : State} {n : Nat}

section
variable {src home : DieId} {line off : Nat} {bs : List Byte} {v : Vector (BitVec 32) 4} {bad whole : Bool} {pub : Option Nat} {by_ : Option Writer}
  (hm : s.fleet[n]? = some (.write src home line off bs v bad whole pub by_)) (hg : (s.dies.get home).gate v home src = true)
  (hc : s.carries (fun _ => true) src home = true)
include hm hg hc

theorem fleetWrite_applies (hp : pub = none) : s.writePa (.mem (line * 64 + off) pub false false) = line * 64 + off ∧
    exec (.fleetWriteArrival n) s = .next (fleetApplied s n src home (s.writePa (.mem (line * 64 + off) pub false false)) bs v bad whole by_) := by
  subst hp
  refine ⟨rfl, ?_⟩
  change Host.Outcome.next (s.fleetWrite n) = _
  unfold State.fleetWrite
  simp only [hm, hg, hc, Bool.not_true, Bool.or_self, Bool.false_eq_true, if_false]
  rfl
/-- A write to a PUBLISH page ends in the image that is the shadow when it arrives (R37, R288). -/
theorem fleetWrite_ends {i : Nat} {x : Writer} (hp : pub = some i) (hb : by_ = some x) : exec (.fleetWriteArrival n) s =
    .next ((fleetApplied s n src home (s.writePa (.mem (line * 64 + off) pub false false)) bs v bad whole by_).settleFront x.core) := by
  subst hp hb
  change Host.Outcome.next (s.fleetWrite n) = _
  unfold State.fleetWrite
  simp only [hm, hg, hc, Bool.not_true, Bool.or_self, Bool.false_eq_true, if_false]
  rfl
end

theorem fleetUpdate_copies {dst src : DieId} {line off : Nat} {bs : List Byte} {v : Vector (BitVec 32) 4} {bad : Bool} {by_ : Option Writer}
    (hm : s.fleet[n]? = some (.update dst src line off bs v bad by_)) (hg : (s.dies.get dst).gate v dst src = true)
    (hq : s.queuedBefore n (dst, line) = false) (hc : s.carries (fun _ => true) (homeOf line) dst = true) :
    let d := s.dies.get dst
    exec (.fleetUpdateArrival n) s = .next (State.setCount { s with
      fleet := s.fleet.eraseIdx n
      dies := s.dies.set dst { d with cache := d.cache.map (fun l => if l.line = line then
        { l with bytes := l.bytes.take off ++ bs ++ l.bytes.drop (off + bs.length), bad := bad } else l) } } dst src v) := by
  change Host.Outcome.next (s.fleetUpdate n) = _
  unfold State.fleetUpdate
  simp only [hm, hg, hq, hc, Bool.not_true, Bool.or_self, Bool.false_eq_true, if_false]
theorem fleetTick_counts {dst src : DieId} {v : Vector (BitVec 32) 4} {by_ : Option Writer} (hm : s.fleet[n]? = some (.tick dst src v by_))
    (hg : (s.dies.get dst).gate v dst src = true) (hc : s.carries (fun _ => true) src dst = true) :
    exec (.fleetUpdateArrival n) s = .next (State.setCount { s with fleet := s.fleet.eraseIdx n } dst src v) := by
  change Host.Outcome.next (s.fleetUpdate n) = _
  unfold State.fleetUpdate
  simp only [hm, hg, hc, Bool.not_true, Bool.or_self, Bool.false_eq_true, if_false]
theorem fleetFetch_answers {src home : DieId} {line : Nat} {q : Vector (BitVec 32) 4} (hm : s.fleet[n]? = some (.fetch src home line q))
    (hr : (s.dies.get home).reached q home = true) (hc : s.carries (fun _ => true) src home = true) :
    let h := s.dies.get home
    exec (.fleetFetch n) s = .next { s with
      dies := s.dies.set home { h with directory := if h.directory.contains (line, src) then h.directory else (line, src) :: h.directory }
      fleet := s.fleet.eraseIdx n ++ [.line src home line (memBytes s.mem (line * 64) 64) h.clock (s.poisonAt (line * 64) 64).isSome] } := by
  change Host.Outcome.next (s.fleetFetch n) = _
  unfold State.fleetFetch
  simp only [hm, hr, hc, Bool.not_true, Bool.or_self, Bool.false_eq_true, if_false]
theorem fleetReceipt_fills {dst home : DieId} {line : Nat} {bs : List Byte} {v : Vector (BitVec 32) 4} {bad : Bool}
    (hm : s.fleet[n]? = some (.line dst home line bs v bad)) (hr : (s.dies.get dst).reached v dst = true)
    (hq : s.queuedBefore n (dst, line) = false) (hc : s.carries (fun _ => true) home dst = true)
    (hroom : ((s.dies.get dst).cache.filter (fun l => l.line ≠ line)).length < fleetLines) :
    let d := s.dies.get dst
    exec (.fleetFetchReceipt n) s = .next { s with
      fleet := s.fleet.eraseIdx n
      dies := s.dies.set dst { d with cache := d.cache.filter (fun l => l.line ≠ line) ++ [⟨line, bs, bad⟩] } } := by
  change Host.Outcome.next (s.fleetReceipt n) = _
  unfold State.fleetReceipt
  simp only [hm, hr, hq, hc, if_neg (Nat.not_le.mpr hroom), Bool.not_true, Bool.or_self, Bool.false_eq_true, if_false]
end

/-- Settles O45: each event's conditions hold, so that it makes its effect. -/
theorem serviceAndFleetEvents : Obligations.ServiceAndFleetEvents := by
  refine ⟨fun s n => ⟨fun c id x hx hs => ⟨fun w l p t hway ht hle hfirst => ⟨chunk_departs hx hs hway ht hle hfirst, fun stop hstop => ?_⟩,
      fun r => sending_fails hx hs⟩,
    fun x hx => ⟨fun t l p ha hf => chunk_goesOn hx ha hf, fun r ha hf => chunk_lost hx ha hf, fun l ha => chunk_written hx ha,
      chunk_timesOut hx⟩,
    fun x hx => ⟨fun b => pub_flips hx, fun tenant scope a hk => ⟨fun l => tlbi_ends hx hk, tlbi_drops hx hk⟩⟩,
    fun w hw => ⟨fun c p => logWait_pool hw, fun pa => logWait_mem hw⟩, fun d line => ⟨rfl, patrol_poisons s d⟩⟩,
    fun s n => ⟨?_, ?_, ?_, ?_, ?_⟩⟩
  · subst hstop
    have hleaves := chunk_departs hx hs hway ht hle hfirst
    rw [chunkOf_target] at hleaves
    exact hleaves
  · exact fun src home line off bs v bad whole pub by_ hm hg hc => ⟨fleetWrite_applies hm hg hc, fun i x => fleetWrite_ends hm hg hc⟩
  · exact fun dst src line off bs v bad by_ => fleetUpdate_copies
  · exact fun dst src v by_ => fleetTick_counts
  · exact fun src home line q => fleetFetch_answers
  · exact fun dst home line bs v bad => fleetReceipt_fills

end Sys2Proof.Proofs
end

section
/-!
PROOF. O41: landings, the trap of stuck waits, and hard pre-emption.
-/
open Sys2Proof Sys2Proof.Machine Sys2Proof.Claims
namespace Sys2Proof.Proofs

/-! ### A landing completes (R125, R126) -/

/-- The landing of a core in state LANDING is decided twice: as the job stands, and again once FRONT has become L. -/
theorem land_completes {s u : State} {c : CoreId} {j k : Job} {l m : Landing} (hj : s.job c = some j) (hl : j.landing = some l)
    (hslot : (s.core c).slot.any (fun q => q.state = .landing) = true) (hmay : s.mayLand c j l = true)
    (hu : u = s.frontLand c j l) (hk : u.job c = some k) (hm : k.landing = some m) (hmay' : u.mayLand c k m = true) :
    s.land c = u.landed c k m := by
  unfold State.land
  simp only [hj, hl, hslot, hmay, ← hu, hk, hm, hmay', Bool.not_true, Bool.or_self, Bool.false_eq_true, if_false, if_true]

/-! ### Stuck waits trap (R125) -/

/-- A stream of a landing job has not reached the cut, and waits for what only the job itself can supply. -/
def stuckAt (s : State) (c : CoreId) (j : Job) (l : Landing) (st : StreamId) : Bool :=
  !(j.stream st).atCut l.bound && (j.stream st).adv.isNone && s.selfWait c j (j.stream st)
/-- The trap of one stuck stream, whose information word is the landing coordinate. -/
def raiseStuck (c : CoreId) (j : Job) (l : Landing) (s : State) (st : StreamId) : State :=
  s.raise c (trapRec 0x06 (optCoordWord (j.landCoord l)) 0 0 ⟨st, ⟨(j.stream st).coord, (j.stream st).waitStage⟩, j.seq, (j.stream st).pc⟩)

/-- With every stream at the cut or stuck and nothing on its way, no wait can end, so each stuck stream traps. -/
theorem trapStuck_raises {s : State} {c : CoreId} {j : Job} {l : Landing} (hj : s.job c = some j) (hl : j.landing = some l)
    (hidle : ∀ st ∈ StreamId.all, (j.stream st).atCut l.bound = true ∨ stuckAt s c j l st = true)
    (hpush : ∀ st ∈ StreamId.all, (j.stream st).pushes = []) (hops : j.ops = []) (hcmds : j.cmds = [])
    (habroad : s.abroad c j.handle l.bound = false) :
    s.trapStuck c = (StreamId.all.filter (stuckAt s c j l)).foldl (raiseStuck c j l) s := by
  have hall : StreamId.all.all (fun st => (j.stream st).atCut l.bound || stuckAt s c j l st) = true :=
    List.all_eq_true.mpr fun st hst => Bool.or_eq_true_iff.mpr (hidle st hst)
  have hnone (p : StreamId → Push → Bool) : StreamId.all.any (fun st => (j.stream st).pushes.any (p st)) = false :=
    List.any_eq_false.mpr fun st hst => by rw [hpush st hst, List.any_nil]; exact Bool.false_ne_true
  unfold stuckAt at hall
  unfold State.trapStuck
  simp only [hj, hl, hall, hnone, hops, hcmds, habroad, List.any_nil, Bool.not_true, Bool.or_self, Bool.false_eq_true, if_false]
  rfl

/-! ### Hard pre-emption (R140, R299) -/

@[simp] theorem job_withPreempts (s : State) (l : List (CoreId × Handle)) (c : CoreId) : State.job { s with preempts := l } c = s.job c := rfl
@[simp] theorem core_withPreempts (s : State) (l : List (CoreId × Handle)) (c : CoreId) : State.core { s with preempts := l } c = s.core c := rfl

section
variable {s : State} {c : CoreId} {x : CoreId × Handle} {q : JobSlot} {j : Job} (hx : s.preempts.find? (fun x => x.1 = c) = some x)
  (hq : (s.core c).slot = some q) (hj : s.job c = some j) (hh : q.handle = x.2)
include hx hq hj hh

theorem hardPreempt_lands (hr : q.state = .running ∨ q.state = .landing) : s.hardPreempt c =
    (State.setJob { s with preempts := s.preempts.erase x } c (j.hardStop 0x10 (optCoordWord j.front))).markLanding c := by
  unfold State.hardPreempt
  simp only [hx, core_withPreempts, job_withPreempts, hq, hj, hh, ne_eq, not_true_eq_false, if_false]
  obtain hr | hr := hr
  · simp only [hr]
  · simp only [hr]
theorem hardPreempt_saves (hr : q.state = .stopped) : s.hardPreempt c =
    State.addSave { s with preempts := s.preempts.erase x } q.part q.handle c := by
  unfold State.hardPreempt
  simp only [hx, core_withPreempts, job_withPreempts, hq, hj, hh, hr, ne_eq, not_true_eq_false, if_false]
end

/-- Settles O41: the conditions that each event checks hold, so that it takes its step. -/
theorem landingEvents : Obligations.LandingEvents := by
  refine fun s u c j k l m => ⟨fun hj hl hslot hmay hu hk hm hmay' => ?_, fun hj hl hidle hpush hops hcmds habroad => ?_,
    fun x q hx hq hj hh => ⟨fun hr => ?_, fun hr => ?_⟩⟩
  · exact congrArg Host.Outcome.next (land_completes hj hl hslot hmay hu hk hm hmay')
  · exact congrArg Host.Outcome.next (trapStuck_raises hj hl hidle hpush hops hcmds habroad)
  · exact congrArg Host.Outcome.next (hardPreempt_lands hx hq hj hh hr)
  · exact congrArg Host.Outcome.next (hardPreempt_saves hx hq hj hh hr)

end Sys2Proof.Proofs
end
section
/-!
PROOF. O55 (R145, R275, R276): what it means that an operation keeps the memory canonical, and a rule for each way in which the model puts
operations together. The parts after this one say, of each function that a step runs, that it keeps the form: of the few that write into
memory by the laws of memory, of the others because they leave it or are composed of functions that keep it.
-/
open Sys2Proof
namespace Sys2Proof.Machine

/-! ### Answers that hold a state -/

/-- Every state that these answers can hold has canonical memory. -/
def OptOk (o : Option State) : Prop := ∀ t, o = some t → t.MemOk
@[inherit_doc OptOk] def ExcOk {ε : Type} (o : Except ε State) : Prop := ∀ t, o = .ok t → t.MemOk
@[inherit_doc OptOk] def PairOk {α : Type} (p : State × α) : Prop := p.1.MemOk
@[inherit_doc OptOk] def OutOk (o : Host.Outcome State Fault Refusal) : Prop := ∀ t, o = .next t → t.MemOk
@[inherit_doc OptOk] def WroteOk (o : Wrote) : Prop := ∀ t, o = .done t → t.MemOk
@[inherit_doc OptOk] def FetchedOk (o : Fetched) : Prop := ∀ t, o = .idle t → t.MemOk

section
variable {α ε : Type} {s t : State} {p : Prop} [Decidable p]

theorem State.MemOk.ite (hs : s.MemOk) (ht : t.MemOk) : State.MemOk (if p then s else t) := by split <;> assumption
/-- A change that leaves the memory. -/
theorem State.MemOk.of_mem (h : s.MemOk) (e : t.mem = s.mem) : t.MemOk := by unfold State.MemOk; rw [e]; exact h

/-! A change of other fields, in the form in which the model writes it. -/

theorem State.MemOk.withJobs {l} (h : s.MemOk) : State.MemOk { s with jobs := l } := h.of_mem rfl
theorem State.MemOk.withDies {l} (h : s.MemOk) : State.MemOk { s with dies := l } := h.of_mem rfl
theorem State.MemOk.withJobsDies {l d} (h : s.MemOk) : State.MemOk { s with jobs := l, dies := d } := h.of_mem rfl
theorem State.MemOk.withCode {l} (h : s.MemOk) : State.MemOk { s with code := l } := h.of_mem rfl
theorem State.MemOk.withClamps {l} (h : s.MemOk) : State.MemOk { s with clamps := l } := h.of_mem rfl
theorem State.MemOk.withPassed {c p f n} (h : s.MemOk) : State.MemOk { s with cores := c, parts := p, ftime := f, tick := n } :=
  h.of_mem rfl
theorem State.MemOk.withOwnersParts {o l} (h : s.MemOk) : State.MemOk { s with owners := o, parts := l } := h.of_mem rfl
theorem State.MemOk.withParts {l} (h : s.MemOk) : State.MemOk { s with parts := l } := h.of_mem rfl
theorem State.MemOk.withSaves {l} (h : s.MemOk) : State.MemOk { s with saves := l } := h.of_mem rfl
theorem State.MemOk.withPreempts {l} (h : s.MemOk) : State.MemOk { s with preempts := l } := h.of_mem rfl
theorem State.MemOk.withFtime {v} (h : s.MemOk) : State.MemOk { s with ftime := v } := h.of_mem rfl
theorem State.MemOk.withModule {m} (h : s.MemOk) : State.MemOk { s with module := m } := h.of_mem rfl

theorem State.MemOk.foldl {f : State → α → State} (hf : ∀ t, t.MemOk → ∀ a, (f t a).MemOk) (l : List α) (h : s.MemOk) :
    (l.foldl f s).MemOk := by
  induction l generalizing s with
  | nil => exact h
  | cons a l ih => exact ih (hf s h a)
theorem State.MemOk.foldr {f : α → State → State} (hf : ∀ t, t.MemOk → ∀ a, (f a t).MemOk) (l : List α) (h : s.MemOk) :
    (l.foldr f s).MemOk := by
  induction l with
  | nil => exact h
  | cons a l ih => exact hf _ ih a

theorem OptOk.none : OptOk none := nofun
theorem OptOk.some (h : s.MemOk) : OptOk (some s) := fun _ e => Option.some.inj e ▸ h
theorem OptOk.ite {x y : Option State} (hx : OptOk x) (hy : OptOk y) : OptOk (if p then x else y) := by split <;> assumption
theorem State.MemOk.getD {x : Option State} (hx : OptOk x) (h : s.MemOk) : (x.getD s).MemOk := by
  cases x with
  | none => exact h
  | some t => exact hx t rfl
theorem OptOk.mapState {x : Option State} {f : State → State} (hx : OptOk x) (hf : ∀ t, t.MemOk → (f t).MemOk) : OptOk (x.map f) := by
  cases x with
  | none => exact .none
  | some t => exact .some (hf t (hx t rfl))
theorem OptOk.map {x : Option α} {f : α → State} (hf : ∀ a, (f a).MemOk) : OptOk (x.map f) := by
  cases x with
  | none => exact .none
  | some a => exact .some (hf a)
theorem OptOk.bind {x : Option α} {f : α → Option State} (hf : ∀ a, OptOk (f a)) : OptOk (x.bind f) := by
  cases x with
  | none => exact .none
  | some a => exact hf a
theorem OptOk.foldlM {f : State → α → Option State} (hf : ∀ t, t.MemOk → ∀ a, OptOk (f t a)) (l : List α) (h : s.MemOk) :
    OptOk (l.foldlM f s) := by
  induction l generalizing s with
  | nil => exact .some h
  | cons a l ih =>
    intro t e
    rw [List.foldlM_cons] at e
    obtain ⟨u, hu, e⟩ := Option.bind_eq_some_iff.mp e
    exact ih (hf s h a u hu) t e

theorem ExcOk.error {x : ε} : ExcOk (.error x) := nofun
theorem ExcOk.ok (h : s.MemOk) : ExcOk (.ok s : Except ε State) := fun _ e => Except.ok.inj e ▸ h
theorem ExcOk.ite {x y : Except ε State} (hx : ExcOk x) (hy : ExcOk y) : ExcOk (if p then x else y) := by split <;> assumption
theorem ExcOk.map {x : Except ε α} {f : α → State} (h : ∀ a, (f a).MemOk) : ExcOk (x.map f) := by
  cases x with
  | error e => exact .error
  | ok a => exact .ok (h a)
theorem ExcOk.mapState {x : Except ε State} {f : State → State} (hx : ExcOk x) (hf : ∀ t, t.MemOk → (f t).MemOk) : ExcOk (x.map f) := by
  cases x with
  | error e => exact .error
  | ok t => exact .ok (hf t (hx t rfl))
theorem ExcOk.bind {x : Except ε State} {f : State → Except ε State} (hx : ExcOk x) (hf : ∀ {t}, t.MemOk → ExcOk (f t)) :
    ExcOk (x >>= f) := by
  cases x with
  | error e => exact .error
  | ok t => exact hf (hx t rfl)
theorem ExcOk.foldlM {f : State → α → Except ε State} (hf : ∀ t, t.MemOk → ∀ a, ExcOk (f t a)) (l : List α) (h : s.MemOk) :
    ExcOk (l.foldlM f s) := by
  induction l generalizing s with
  | nil => exact .ok h
  | cons a l ih =>
    rw [List.foldlM_cons]
    exact .bind (hf s h a) ih
theorem OptOk.toOption {x : Except ε State} (hx : ExcOk x) : OptOk x.toOption := by
  cases x with
  | error e => exact .none
  | ok t => exact .some (hx t rfl)

theorem PairOk.mk {a : α} (h : s.MemOk) : PairOk (s, a) := h
theorem PairOk.ite {x y : State × α} (hx : PairOk x) (hy : PairOk y) : PairOk (if p then x else y) := by split <;> assumption
theorem PairOk.foldl {f : State × α → ε → State × α} (hf : ∀ x, PairOk x → ∀ a, PairOk (f x a)) (l : List ε) {x : State × α}
    (h : PairOk x) : PairOk (l.foldl f x) := by
  induction l generalizing x with
  | nil => exact h
  | cons a l ih => exact ih (hf x h a)

theorem OutOk.next (h : s.MemOk) : OutOk (.next s) := fun _ e => Host.Outcome.next.inj e ▸ h
theorem FetchedOk.idle (h : s.MemOk) : FetchedOk (.idle s) := fun _ e => Fetched.idle.inj e ▸ h
theorem FetchedOk.instr {i : Instr} : FetchedOk (.instr i) := nofun
theorem FetchedOk.ite {x y : Fetched} (hx : FetchedOk x) (hy : FetchedOk y) : FetchedOk (if p then x else y) := by split <;> assumption
theorem WroteOk.wait : WroteOk .wait := nofun
theorem WroteOk.full {b : Bool} : WroteOk (.full b) := nofun
theorem WroteOk.done (h : s.MemOk) : WroteOk (.done s) := fun _ e => Wrote.done.inj e ▸ h
theorem WroteOk.ite {x y : Wrote} (hx : WroteOk x) (hy : WroteOk y) : WroteOk (if p then x else y) := by split <;> assumption
end

/-! ### Bodies -/

/-- The second state has canonical memory if the first has. -/
def MemKept (s t : State) : Prop := s.MemOk → t.MemOk
/-- The operation keeps the memory canonical, whether it completes or stops. -/
def MemSafe {α : Type} (m : M α) : Prop := ∀ s, Stays MemKept m s

theorem MemKept.refl (s : State) : MemKept s s := id
theorem MemKept.trans (s t u : State) (h : MemKept s t) (g : MemKept t u) : MemKept s u := g ∘ h

section
variable {α β : Type} {m n : M α} {f : α → M β} {s t : State} {p : Prop} [Decidable p]

theorem MemSafe.pure {a : α} : MemSafe (pure a : M α) := stays_pure MemKept.refl a
theorem MemSafe.throw {x : Stop} : MemSafe (throw x : M α) := stays_throw MemKept.refl x
theorem MemSafe.get : MemSafe (get : M State) := stays_get MemKept.refl
theorem MemSafe.bind (hm : MemSafe m) (hf : ∀ a, MemSafe (f a)) : MemSafe (m >>= f) := fun s =>
  stays_bind MemKept.trans (hm s) fun a t _ => hf a t
/-- What follows a read of the state may use that its memory is canonical. -/
theorem MemSafe.get_bind {f : State → M β} (hf : ∀ s, s.MemOk → MemSafe (f s)) : MemSafe (MonadState.get >>= f) := fun s h => hf s h s h
theorem MemSafe.modify {g : State → State} (hg : ∀ s, s.MemOk → (g s).MemOk) : MemSafe (modify g : M Unit) := fun s => stays_modify (hg s)
theorem MemSafe.set (ht : t.MemOk) : MemSafe (set t : M Unit) := fun _ => stays_set fun _ => ht
theorem MemSafe.ite (hm : MemSafe m) (hn : MemSafe n) : MemSafe (if p then m else n) := by split <;> assumption
/-- A check before the rest of a body. -/
theorem MemSafe.when {f : Unit → M β} {n : M Unit} (hn : MemSafe n) (hf : ∀ a, MemSafe (f a)) : MemSafe (if p then n >>= f else f ()) :=
  .ite (.bind hn hf) (hf ())
/-- One of two operations before the rest of a body. -/
theorem MemSafe.either (hm : MemSafe m) (hn : MemSafe n) (hf : ∀ a, MemSafe (f a)) : MemSafe (if p then m >>= f else n >>= f) :=
  .ite (.bind hm hf) (.bind hn hf)
theorem MemSafe.forM {g : α → M Unit} (hg : ∀ a, MemSafe (g a)) (l : List α) : MemSafe (l.forM g) := by
  induction l with
  | nil => exact .pure
  | cons a l ih => exact .bind (hg a) fun _ => ih

theorem MemSafe.map {g : α → β} (hm : MemSafe m) : MemSafe (g <$> m) := by
  rw [map_eq_pure_bind]
  exact .bind hm fun _ => .pure
theorem MemSafe.foldlM {f : β → α → M β} (hf : ∀ b a, MemSafe (f b a)) (l : List α) (b : β) : MemSafe (l.foldlM f b) := by
  induction l generalizing b with
  | nil => exact .pure
  | cons a l ih => exact .bind (hf b a) fun b => ih b

theorem MemSafe.mapM {f : α → M β} (hf : ∀ a, MemSafe (f a)) (l : List α) : MemSafe (l.mapM f) := by
  rw [← List.mapM'_eq_mapM]
  induction l with
  | nil => exact .pure
  | cons a l ih => exact .bind (hf a) fun _ => .bind ih fun _ => .pure

theorem MemSafe.ok (hm : MemSafe m) {a : α} (h : s.MemOk) (e : m.run s = .ok a t) : t.MemOk := by
  have := hm s h
  unfold left at this
  rwa [e] at this
theorem MemSafe.error (hm : MemSafe m) {x : Stop} (h : s.MemOk) (e : m.run s = .error x t) : t.MemOk := by
  have := hm s h
  unfold left at this
  rwa [e] at this
end

end Sys2Proof.Machine
end
section
/-!
PROOF. O55: the basic operations keep the memory canonical: the state's updates, operand queues, memory accesses, the run of an instruction, the
trace and the routes.
-/
open Sys2Proof
namespace Sys2Proof.Machine

section
variable {s : State}

/-! ### The state's updates -/

theorem MemSafe.trap {α : Type} {cause info} : MemSafe (trap cause info : M α) := .throw
theorem MemSafe.stall {α : Type} {cause} : MemSafe (stall cause : M α) := .throw
theorem MemSafe.trapIf {b cause info} : MemSafe (trapIf b cause info) := stays_trapIf MemKept.refl b cause info
theorem MemSafe.stallIf {b cause} : MemSafe (stallIf b cause) := stays_stallIf MemKept.refl b cause
theorem State.MemOk.setCore {c k} (h : s.MemOk) : (s.setCore c k).MemOk := h.of_mem rfl
theorem State.MemOk.setJob {c j} (h : s.MemOk) : (s.setJob c j).MemOk := h.setCore
theorem State.MemOk.onJob {c f} (h : s.MemOk) : (s.onJob c f).MemOk := by
  unfold State.onJob
  split
  · exact h.setJob
  · exact h
theorem MemSafe.curCore : MemSafe curCore := stays_curCore MemKept.refl
theorem MemSafe.curStream : MemSafe curStream := stays_curStream MemKept.refl
theorem MemSafe.getJob : MemSafe getJob := stays_getJob MemKept.refl
theorem MemSafe.setJob {j} : MemSafe (setJob j) := .modify fun _ hs => hs.setJob
theorem MemSafe.modifyJob {f} : MemSafe (modifyJob f) := .bind .getJob fun _ => .setJob
theorem MemSafe.getStream : MemSafe getStream := stays_getStream MemKept.refl MemKept.trans
theorem MemSafe.modifyStream {f} : MemSafe (modifyStream f) := .bind .curStream fun _ => .modifyJob
theorem State.MemOk.setPart {p x} (h : s.MemOk) : (s.setPart p x).MemOk := h.of_mem rfl
theorem State.MemOk.onPart {p f} (h : s.MemOk) : (s.onPart p f).MemOk := by
  unfold State.onPart
  split
  · exact h.setPart
  · exact h
theorem State.MemOk.setSem {cl phys m} (h : s.MemOk) : (s.setSem cl phys m).MemOk := h.of_mem rfl
theorem State.MemOk.enlist {w waiter arr} (h : s.MemOk) : (s.enlist w waiter arr).MemOk := by
  unfold State.enlist
  refine .onJob ?_
  split
  · exact h.setSem
  · exact h

/-! ### Operand queues -/

theorem MemSafe.checkEntry {α : Type} {cur} {e : QEntry α} : MemSafe (checkEntry cur e) := by
  unfold Machine.checkEntry
  refine .bind .trapIf fun _ => ?_
  split
  · exact .pure
  · exact .trap
  · exact .throw
theorem MemSafe.setReg {r q} : MemSafe (setReg r q) := .modifyStream
theorem MemSafe.awaitEntry {α β : Type} {cur} {e : QEntry α} : MemSafe (awaitEntry cur e : M β) := .ite .trap .stall
theorem MemSafe.readScalar {x discard} : MemSafe (readScalar x discard) := by
  unfold Machine.readScalar
  split
  · exact .pure
  · refine .bind .getJob fun _ => .bind .curStream fun _ => ?_
    dsimp only
    split
    · exact .ite .stall .trap
    · split
      · exact .awaitEntry
      · exact .either .trapIf .checkEntry fun _ => .bind .get fun _ => .bind .stallIf fun _ => .bind .modifyStream fun _ =>
          .ite .pure (.bind .setReg fun _ => .pure)
theorem MemSafe.pop {x} : MemSafe (pop x) := .readScalar
theorem MemSafe.readPred {x} : MemSafe (readPred x) := .bind .getStream fun _ => .pure
theorem MemSafe.writePred {x b} : MemSafe (writePred x b) := .modifyStream
theorem MemSafe.stampOf {h} : MemSafe (stampOf h) := .bind .getStream fun _ => .pure
theorem MemSafe.originOf {h} : MemSafe (originOf h) := stays_originOf MemKept.refl MemKept.trans h
theorem MemSafe.pushRoom {x} : MemSafe (pushRoom x) := by
  unfold Machine.pushRoom
  split
  · exact .pure
  · exact .bind .getJob fun _ => .bind .curStream fun _ => .bind .trapIf fun _ => .ite (.ite .trap .stall) .pure
theorem MemSafe.pushEntry {h x v id held} : MemSafe (pushEntry h x v id held) := by
  unfold Machine.pushEntry
  refine .bind .pushRoom fun _ => ?_
  split
  · exact .pure
  · exact .bind .getStream fun _ => .setReg
theorem MemSafe.push {h x v} : MemSafe (push h x v) := .bind .getJob fun _ => .pushEntry
theorem MemSafe.reserve {h x held} : MemSafe (reserve h x held) := .bind .getJob fun _ => .pushEntry
theorem MemSafe.needTiles {n} : MemSafe (needTiles n) := .bind .getJob fun _ => .trapIf
theorem MemSafe.emptyTile {α : Type} {n waits feeders} : MemSafe (emptyTile n waits feeders : M α) :=
  .bind .getJob fun _ => .ite .stall .trap
theorem MemSafe.takeTile {n peek waits feeders cur seq} : MemSafe (takeTile n peek waits feeders cur seq) := by
  unfold Machine.takeTile
  refine .bind .getJob fun _ => ?_
  dsimp only
  split
  · exact .emptyTile
  · split
    · exact .stall
    · exact .bind .checkEntry fun _ => .ite .pure (.ite (.ite .trap .stall) (.bind .setJob fun _ => .pure))
theorem MemSafe.popTile {f} : MemSafe (popTile f) := .bind .getJob fun _ => .bind .getStream fun _ => .bind .trapIf fun _ => .takeTile
theorem MemSafe.popDrained {word d} : MemSafe (popDrained word d) :=
  .bind .getJob fun _ => .bind .getStream fun _ => .bind .needTiles fun _ => .bind .trapIf fun _ => .takeTile
theorem MemSafe.pushTileAt {n e waits} : MemSafe (pushTileAt n e waits) := .bind .getJob fun _ => .ite (.ite .stall .trap) .setJob
theorem MemSafe.pushTile {h td v form} : MemSafe (pushTile h td v form) :=
  .bind .getJob fun _ => .bind .getStream fun _ => .bind .trapIf fun _ => .pushTileAt
theorem MemSafe.reserveTile {h d} : MemSafe (reserveTile h d) :=
  .bind .needTiles fun _ => .bind .getJob fun _ => .bind .getStream fun _ => .bind .trapIf fun _ => .pushTileAt
theorem MemSafe.writeMask {m v} : MemSafe (writeMask m v) := .bind .getStream fun _ => .ite (.ite .trap .stall) .modifyStream
theorem MemSafe.writeNet {n v} : MemSafe (writeNet n v) := .bind .getStream fun _ => .ite (.ite .trap .stall) .modifyStream
theorem MemSafe.popToken {src toNext} : MemSafe (popToken src toNext) := by
  unfold Machine.popToken
  refine .bind .getJob fun _ => .bind .getStream fun _ => ?_
  dsimp only
  split
  · exact .ite (.bind .get fun _ => .trap) .stall
  · exact .bind .checkEntry fun _ => .setJob
theorem MemSafe.popTokens {h} : MemSafe (popTokens h) := .bind .curStream fun _ => .when .popToken fun _ => .ite .popToken .pure

/-! ### Memory accesses -/

theorem State.MemOk.sendFetch {d line} (h : s.MemOk) : (s.sendFetch d line).MemOk := .ite h (h.of_mem rfl)
theorem State.MemOk.flipImages {n} (h : s.MemOk) : (s.flipImages n).MemOk := h.of_mem rfl
theorem State.MemOk.cleanLine {line} (h : s.MemOk) : (s.cleanLine line).MemOk := h.of_mem rfl
theorem State.MemOk.poisonRun {key n} (h : s.MemOk) : (s.poisonRun key n).MemOk := h.of_mem rfl
theorem State.MemOk.partWrite {pn a bs} (h : s.MemOk) : ExcOk (s.partWrite pn a bs) := .map fun _ => h.pokeHome _ _
theorem State.MemOk.ringPut {pn base size ws} (h : s.MemOk) : OptOk (s.ringPut pn base size ws) := by
  unfold State.ringPut
  split
  · dsimp only
    split
    · rename_i _ e
      have hp := (h.partWrite _ e).pokeHome
      exact .some (.ite ((hp _ _).pokeHome _ _) (hp _ _))
    · exact .none
  · exact .none
theorem State.MemOk.msix {fn v} (h : s.MemOk) : (s.msix fn v).MemOk := h.of_mem rfl
theorem State.MemOk.report {r} (h : s.MemOk) : (s.report r).MemOk := h.of_mem rfl
theorem State.MemOk.errorEvent {pn kind pa va stamp hd c} (h : s.MemOk) : (s.errorEvent pn kind pa va stamp hd c).MemOk := by
  unfold State.errorEvent
  split
  · exact .ite h.report (.getD h.ringPut h.report)
  · exact h

/-! ### The run of an instruction -/

theorem MemSafe.retire {pc h skipped} : MemSafe (retire pc h skipped) := .bind .curStream fun _ => .modifyJob
theorem MemSafe.attempt {i e body} (hbody : MemSafe body) : MemSafe (attempt i e body) :=
  .bind .getJob fun _ => .bind .curStream fun _ => .when .stall fun _ => .bind .trapIf fun _ => .bind .trapIf fun _ => .bind .get fun _ =>
    .bind .trapIf fun _ => .ite .retire (.when .popTokens fun _ => .bind hbody fun _ => .retire)
theorem State.MemOk.setJState {c x} (h : s.MemOk) : (s.setJState c x).MemOk := by
  unfold State.setJState
  dsimp only
  split
  · exact h.setCore
  · exact h
theorem State.MemOk.markLanding {c} (h : s.MemOk) : (s.markLanding c).MemOk := by
  unfold State.markLanding
  split
  · exact .ite h.setJState h
  · exact h
theorem State.MemOk.raise {c t} (h : s.MemOk) : (s.raise c t).MemOk := by
  unfold State.raise
  refine .markLanding (.onJob ?_)
  split
  · exact .ite h.errorEvent h
  · exact h
theorem State.MemOk.runInstr {i body} (h : s.MemOk) (hbody : MemSafe body) : OutOk (runInstr i body s) := by
  unfold Machine.runInstr
  split
  · exact .next h
  · rename_i e _
    have ha : MemSafe (attempt i e body) := .attempt hbody
    split
    · exact .next (ha.ok h ‹_›)
    · exact .next h.onJob
    · exact .next h.enlist.onJob
    · exact .next (ha.error h ‹_›).onJob
    · exact .next (ha.error h ‹_›).raise
    · exact .next h.sendFetch
    · exact .next (ha.error h ‹_›).onJob.markLanding
    · exact .next (ha.error h ‹_›).raise
theorem MemSafe.straight {body} (hbody : MemSafe body) : MemSafe (straight body) := .bind hbody fun _ => .pure

/-! ### The trace -/

theorem State.MemOk.traceOut {pn ws} (h : s.MemOk) : OptOk (s.traceOut pn ws) := by
  unfold State.traceOut
  split
  · exact .some h
  · refine .ite (.some h) ?_
    dsimp only
    split
    · refine .ite .none ?_
      split
      · rename_i t ht
        have hp := h.ringPut t ht
        split
        · rename_i u hu
          exact .some (hp.partWrite u hu)
        · exact .some hp
      · exact .some h
    · exact .some h
theorem State.MemOk.sendGroup {pn l} (h : s.MemOk) : OptOk (s.sendGroup pn l) := .foldlM (fun _ hs _ => hs.traceOut) _ h
theorem State.MemOk.sendHeld {pn} (l) (h : s.MemOk) : PairOk (s.sendHeld pn l) := by
  induction l generalizing s with
  | nil => exact .mk h
  | cons g l ih =>
    unfold State.sendHeld
    split
    · rename_i t ht
      exact ih (h.sendGroup t ht)
    · exact .mk h
theorem State.MemOk.traceHeld {pn} (h : s.MemOk) : (s.traceHeld pn).MemOk := by
  unfold State.traceHeld
  split
  · exact .ite h (.onPart (h.sendHeld _))
  · exact h
theorem State.MemOk.traceDrain {pn} (n) (l) (h : s.MemOk) : PairOk (s.traceDrain pn n l) := by
  induction n generalizing s l with
  | zero => exact .mk h
  | succ n ih =>
    cases l with
    | nil => exact .mk h
    | cons r l =>
      unfold State.traceDrain
      dsimp only
      split
      · rename_i t ht
        exact ih _ (h.sendGroup t ht)
      · exact .mk h
theorem State.MemOk.traceRelease {c} (h : s.MemOk) : (s.traceRelease c).MemOk := by
  unfold State.traceRelease
  split
  · exact .ite h (.onJob (h.traceHeld.traceDrain _ _))
  · exact h
theorem State.MemOk.settleTrace {c} (h : s.MemOk) : (s.settleTrace c).MemOk := by
  unfold State.settleTrace
  split
  · exact .ite h.traceRelease h
  · exact h
theorem State.MemOk.countLost {pn} (h : s.MemOk) : (s.countLost pn).MemOk := by
  unfold State.countLost
  dsimp only
  split
  · exact .ite (.getD (.toOption h.onPart.partWrite) h.onPart) h.onPart
  · exact h.onPart
theorem State.MemOk.addTrace {c r} (h : s.MemOk) : (s.addTrace c r).MemOk := by
  unfold State.addTrace
  split
  · exact .ite (.countLost (.ite h.setJob h)) h.setJob
  · exact h
theorem State.MemOk.trace {c kind st tag stamp stage seq value} (h : s.MemOk) : (s.trace c kind st tag stamp stage seq value).MemOk := by
  unfold State.trace
  split
  · split
    · exact .ite h.addTrace.settleTrace h
    · exact h
  · exact h
theorem MemSafe.traceOwn {h kind tag value} : MemSafe (traceOwn h kind tag value) :=
  .bind .originOf fun _ => .bind .curCore fun _ => .modify fun _ hs => hs.trace
theorem State.MemOk.keepTrace {j} (h : s.MemOk) : (s.keepTrace j).MemOk := .ite h h.onPart
theorem MemSafe.traceRoom {h} : MemSafe (traceRoom h) := .bind .getJob fun _ => .bind .originOf fun _ => .ite (.ite .trap .stall) .pure
theorem State.MemOk.recordPlace {c o sub} (h : s.MemOk) : (s.recordPlace c o sub).MemOk := by
  unfold State.recordPlace
  split
  · exact .ite h.setJob h
  · exact h
theorem State.MemOk.recordArrival {c o sub v mark} (h : s.MemOk) : (s.recordArrival c o sub v mark).MemOk := by
  unfold State.recordArrival
  split
  · exact .ite h.setJob.settleTrace h
  · exact h
theorem MemSafe.recordLater {h sub} : MemSafe (recordLater h sub) :=
  .bind .traceRoom fun _ => .bind .originOf fun _ => .bind .curCore fun _ => .modify fun _ hs => hs.recordPlace
theorem MemSafe.replaying : MemSafe replaying := by
  unfold Machine.replaying
  refine .bind .getJob fun _ => .ite .pure ?_
  refine .bind .get fun _ => ?_
  split
  · exact .throw
  · exact .bind .setJob fun _ => .pure
  · exact .pure
theorem MemSafe.replayTake {h sub} : MemSafe (replayTake h sub) := by
  unfold Machine.replayTake
  refine .bind .replaying fun _ => .ite .pure ?_
  refine .bind .getJob fun _ => .bind .get fun _ => .bind .originOf fun _ => ?_
  dsimp only
  split
  on_goal 1 => refine .bind .pure fun _ => ?_
  on_goal 2 => refine .bind .throw fun _ => ?_
  all_goals
    split
    · exact .throw
    · exact .ite (.bind .setJob fun _ => .pure) .throw
    · exact .throw
theorem MemSafe.replayPoison {m} : MemSafe (replayPoison m) := .ite (.bind .get fun _ => .pure) .pure
theorem MemSafe.replayFabric {m ga} : MemSafe (replayFabric m ga) := .ite (.bind .get fun _ => .pure) .pure
theorem MemSafe.pushMarked {h x v m} : MemSafe (pushMarked h x v m) := by
  unfold Machine.pushMarked
  refine .bind .push fun _ => ?_
  split
  · exact .pure
  · split
    · exact .pure
    · exact .modifyStream
theorem MemSafe.arrival {h x sub live} (hlive : MemSafe live) : MemSafe (arrival h x sub live) := by
  unfold Machine.arrival
  refine .bind .replayTake fun _ => ?_
  split
  · exact .bind .replayPoison fun _ => .pushMarked
  · exact .bind .traceRoom fun _ => .bind hlive fun _ => .bind .push fun _ => .bind .originOf fun _ => .bind .curCore fun _ =>
      .modify fun _ hs => hs.recordArrival

/-! ### Routes -/

theorem State.MemOk.numbered {src dst x} (h : s.MemOk) : (s.numbered src dst x).MemOk := by
  unfold State.numbered
  split
  · exact h.of_mem rfl
  · exact h
theorem State.MemOk.routeAt {k} (h : s.MemOk) : (s.routeAt k).MemOk := by
  unfold State.routeAt
  split
  · exact h
  · refine .ite h ?_
    split
    · exact h
    · exact .ite h (.numbered (h.of_mem rfl))
theorem State.MemOk.routeAll (h : s.MemOk) : s.routeAll.MemOk := .ite h (.foldl (fun _ hs _ => hs.routeAt) _ h)
end

end Sys2Proof.Machine
end
section
/-!
PROOF. O55: writes that take effect, released effects, FRONT's advance and the save of a context keep the memory canonical (R118, R131, R249,
R316 to R318, R330, R333).
-/
open Sys2Proof
namespace Sys2Proof.Machine

section
variable {s : State}

/-! ### Effects -/

theorem State.MemOk.foreignPool {k p bs bad} (h : s.MemOk) : OptOk (s.foreignPool k p bs bad) :=
  .ite .none (.some (.ite (h.pokeClear _ _).poisonRun (h.pokeClear _ _)))
theorem State.MemOk.poolWrite {c o k p bs bad} (h : s.MemOk) : WroteOk (s.poolWrite c o k p bs bad) := by
  unfold State.poolWrite
  dsimp only
  split
  · exact .wait
  · exact .ite .wait (.ite .full (.done (.ite (h.setJob.pokeClear _ _).poisonRun (h.setJob.pokeClear _ _))))
theorem State.MemOk.foreignWrite {k p bs by_} (h : s.MemOk) : (s.foreignWrite k p bs by_).MemOk := by
  unfold State.foreignWrite
  split
  · rename_i _ e
    exact h.foreignPool _ e
  · exact h.of_mem rfl
theorem State.MemOk.setClock {d v} (h : s.MemOk) : (s.setClock d v).MemOk := h.of_mem rfl
theorem State.MemOk.forward {home src pa bs v o} (h : s.MemOk) : (s.forward home src pa bs v o).MemOk := h.of_mem rfl
theorem State.MemOk.dropCopy {d line} (h : s.MemOk) : (s.dropCopy d line).MemOk := h.of_mem rfl
theorem State.MemOk.slotWrite {pn pa o bs bad} (h : s.MemOk) : (s.slotWrite pn pa o bs bad).MemOk :=
  .ite h (.onPart (.ite (h.pokeClear _ _).poisonRun (h.pokeClear _ _)))
theorem State.MemOk.fleetOut {d pub o pa bs bad whole} (h : s.MemOk) : (s.fleetOut d pub o pa bs bad whole).MemOk := by
  have hput {t : State} (ht : t.MemOk) (a : Nat) := ht.pokeClear a bs
  unfold State.fleetOut
  dsimp only
  split
  · refine .ite (.ite ?_ ?_) ?_
    · exact .forward (.setClock (.ite (hput h _).poisonRun (.ite (hput h _).cleanLine (hput h _))))
    · exact .ite (hput h _).poisonRun (.ite (hput h _).cleanLine (hput h _))
    · refine State.MemOk.of_mem (s := if pub.isSome then _ else _) (.ite h.setClock.dropCopy.dropCopy h.setClock.dropCopy) rfl
  · exact .ite (hput h _).poisonRun (.ite (hput h _).cleanLine (hput h _))
theorem State.MemOk.storeOut {c pn o pa bs bad whole} (h : s.MemOk) : (s.storeOut c pn o pa bs bad whole).MemOk := by
  unfold State.storeOut
  split
  · exact h.slotWrite
  · exact h.fleetOut
theorem State.MemOk.setGroup {n g} (h : s.MemOk) : (s.setGroup n g).MemOk := .ite (h.of_mem rfl) (h.of_mem rfl)
theorem State.MemOk.writeEmap {pn i v} (h : s.MemOk) : (s.writeEmap pn i v).MemOk := h.onPart
theorem State.MemOk.writeEgcfg {pn i v} (h : s.MemOk) : (s.writeEgcfg pn i v).MemOk := .ite h h.setGroup
theorem State.MemOk.writeCkpair {pn v} (h : s.MemOk) : (s.writeCkpair pn v).MemOk := by
  unfold State.writeCkpair
  refine .ite h.onPart.onPart ?_
  split
  · exact h.onPart.onPart
  · exact .ite h.onPart.onPart (.ite h.onPart.onPart h.onPart.onPart)
theorem State.MemOk.writeCkseal {pn v} (h : s.MemOk) : (s.writeCkseal pn v).MemOk := by
  unfold State.writeCkseal
  split
  · exact .ite h (h.of_mem rfl)
  · exact h
theorem State.MemOk.clearRecord {ev} (h : s.MemOk) : (s.clearRecord ev).MemOk := by
  unfold State.clearRecord
  dsimp only
  split
  · exact h.onJob
  · split
    · exact h.onJob.setCore
    · split
      · split
        · rename_i t ht
          exact h.onJob.setCore.partWrite t ht
        · exact h.onJob.setCore
      · exact h.onJob.setCore
theorem State.MemOk.applySwr {pn fn idx v} (h : s.MemOk) : (s.applySwr pn fn idx v).MemOk := by
  unfold State.applySwr
  split
  · refine .ite ?_ h
    split
    · split
      · exact h.setPart.clearRecord
      · exact h.onJob
    · exact h
  · exact h.onPart
  · exact h.onPart
  · exact h.writeEgcfg
  · exact h.writeEmap
  · exact h.writeCkpair
  · exact h.writeCkseal
  · exact h.onPart
  · exact h.onPart
  · exact h
theorem State.MemOk.request {c j id o ga k} (h : s.MemOk) : (s.request c j id o ga k).MemOk := .routeAt (h.of_mem rfl)
theorem State.MemOk.serve {x} (h : s.MemOk) : (s.serve x).MemOk := by
  unfold State.serve
  split
  · exact .setSem (h.of_mem rfl)
  · exact h.of_mem rfl
  · exact h
theorem State.MemOk.serveAll (h : s.MemOk) : s.serveAll.MemOk := .foldl (fun _ hs _ => .ite hs hs.serve) _ h
theorem State.MemOk.release {c j l x} (h : s.MemOk) : (s.release c j l x).MemOk := by
  unfold State.release
  split
  · exact h.storeOut
  · split <;> exact h.request
  · exact h.request
  · exact h.request
  · exact h.request
  · exact h.of_mem rfl
  · exact h.of_mem rfl
  · exact h.of_mem rfl
  · exact h.of_mem rfl
  · exact h.of_mem rfl
  · exact h.applySwr
  · exact h.onPart
theorem State.MemOk.releaseAll {c j l} (h : s.MemOk) : (s.releaseAll c j l).MemOk := .serveAll (.foldl (fun _ hs _ => hs.release) _ h)

/-! ### FRONT -/

theorem State.MemOk.frontTo {c f} (h : s.MemOk) : (s.frontTo c f).MemOk := by
  unfold State.frontTo
  split
  · exact h
  · exact .ite h h.setJob.markLanding.releaseAll.traceRelease
theorem State.MemOk.settleFront {c} (h : s.MemOk) : (s.settleFront c).MemOk := by
  unfold State.settleFront
  split
  · exact h
  · exact h.frontTo
theorem State.MemOk.iterationEnd {c st j t a} (h : s.MemOk) : (s.iterationEnd c st j t a).MemOk := by
  unfold State.iterationEnd
  split
  · exact h
  · split
    · exact h
    · exact .ite h.trace.trace.setCore h.trace
theorem State.MemOk.doAdvance {c st} (h : s.MemOk) : (s.doAdvance c st).MemOk := by
  unfold State.doAdvance
  split
  · exact h
  · refine .ite h ?_
    dsimp only
    have hm {f} : (((s.settleFront c).onJob c f).markLanding c).MemOk := h.settleFront.onJob.markLanding
    split
    · exact hm
    · split
      · exact hm
      · refine .ite hm.setJob (.ite hm (.ite hm.setJob ?_))
        split
        · exact hm.raise
        · exact hm.iterationEnd.onJob.settleFront

/-! ### Issue of commands and held effects -/

theorem MemSafe.enqueue {e h k} : MemSafe (enqueue e h k) := .bind .getJob fun _ => .when .stall fun _ => .bind .originOf fun _ => .setJob
theorem MemSafe.pend {h k} : MemSafe (pend h k) := .bind .originOf fun _ => .bind .get fun _ => .modifyJob
theorem MemSafe.hold {h k} : MemSafe (hold h k) := .bind .originOf fun _ => .modifyJob
theorem MemSafe.faultTrap {α : Type} {f} : MemSafe (faultTrap f : M α) := stays_faultTrap MemKept.refl f
theorem MemSafe.whoNow : MemSafe whoNow := stays_whoNow MemKept.refl MemKept.trans

/-! ### Save of a context -/

theorem State.MemOk.writePieces {pn base l} (h : s.MemOk) : ExcOk (s.writePieces pn base l) := .foldlM (fun _ hs _ => hs.partWrite) _ h
theorem State.MemOk.saveGranule {pn c area g} (h : s.MemOk) : ExcOk (s.saveGranule pn c area g) := by
  -- The body takes the place of the function's name before its arguments are there: else the kernel would compute with the granule's 2^16 bytes.
  generalize e : @State.saveGranule = f
  delta State.saveGranule at e
  subst e
  beta_reduce
  split
  · exact .error
  · exact h.partWrite
theorem State.MemOk.saveRange {pn c area x} (h : s.MemOk) : ExcOk (s.saveRange pn c area x) := by
  unfold State.saveRange
  refine .foldlM (fun _ hs _ => ?_) _ h
  split
  · exact .error
  · exact hs.partWrite
theorem State.MemOk.saveContext {pn c area j live} (h : s.MemOk) : ExcOk (s.saveContext pn c area j live) := by
  unfold State.saveContext
  split
  · exact .error
  · refine .ite ?_ ?_
    · exact .bind (.foldlM (fun _ hs _ => hs.saveRange) _ h) fun hs => hs.writePieces
    · exact .bind (.foldlM (fun _ hs _ => hs.saveGranule) _ h) fun hs => .bind hs.writePieces fun hs => hs.writePieces
theorem State.MemOk.scrub {c pn} (h : s.MemOk) : (s.scrub c pn).MemOk :=
  have hc : ((s.clearPool c 64).setCore c { (s.clearPool c 64).core c with bank := [], prof := Vector.replicate 16 none }).MemOk :=
    (h.clearPool c 64).setCore
  .onPart (hc.of_mem rfl)
end

end Sys2Proof.Machine
end
section
/-!
PROOF. O55: control, resumption, system and synchronisation instructions keep the memory canonical.
-/
open Sys2Proof
namespace Sys2Proof.Machine

section
variable {s : State}

/-! ### Control instructions -/

theorem MemSafe.tripValue {f} : MemSafe (tripValue f) := .ite .pop .pure
theorem MemSafe.loopBody {h f} : MemSafe (loopBody h f) := by
  unfold Machine.loopBody
  refine .bind .tripValue fun _ => .bind .getStream fun _ => .bind .trapIf fun _ => .bind .trapIf fun _ => .ite ?_ ?_
  · exact .bind .modifyStream fun _ => .pure
  · exact .bind .getJob fun _ => .bind .curStream fun _ => .bind .modifyStream fun _ => .bind .traceOwn fun _ =>
      .when .modifyStream fun _ => .pure
theorem MemSafe.setcTo {c} : MemSafe (setcTo c) :=
  .bind .getStream fun _ => .bind .trapIf fun _ => .ite .pure (.bind .trapIf fun _ => .modifyStream)
theorem MemSafe.setcRegBody {h f} : MemSafe (setcRegBody h f) := .bind .pop fun _ => .bind .trapIf fun _ => .setcTo
theorem MemSafe.advcBody {f} : MemSafe (advcBody f) := by
  unfold Machine.advcBody
  refine .bind .getStream fun _ => .bind .trapIf fun _ => ?_
  split
  · exact .trap
  · exact .modifyStream
theorem MemSafe.getcBody {h f} : MemSafe (getcBody h f) := .bind .getStream fun _ => .push
theorem MemSafe.getfrBody {h f} : MemSafe (getfrBody h f) := .arrival (.bind .getJob fun _ => .pure)
theorem MemSafe.lclampBody {h f} : MemSafe (lclampBody h f) := by
  unfold Machine.lclampBody
  refine .bind .tripValue fun _ => .bind .getJob fun _ => .bind .get fun _ => .ite ?_ (.modify fun _ hs => hs.withClamps)
  exact .bind .trapIf fun _ => .bind .trapIf fun _ => .ite (.modify fun _ hs => hs.withClamps) (.modify fun _ hs => hs.withClamps)
theorem MemSafe.dropN {x n} : MemSafe (dropN x n) := by
  induction n with
  | zero => exact .pure
  | succ n ih => exact .bind .readScalar fun _ => ih
theorem MemSafe.qdepthBody {h f} : MemSafe (qdepthBody h f) :=
  .bind .getStream fun _ => .bind .getJob fun _ => .bind .curStream fun _ => .ite (.arrival .pure) .push
theorem MemSafe.qclrBody {f} : MemSafe (qclrBody f) := .bind .getStream fun _ => .dropN
theorem MemSafe.bindBody {h f} : MemSafe (bindBody h f) := by
  unfold Machine.bindBody
  refine .bind .getJob fun _ => .bind .curStream fun _ => ?_
  split
  · exact .pure
  · exact .bind .trapIf fun _ => .bind .trapIf fun _ => .bind .stampOf fun _ => .setJob
theorem MemSafe.trapBody {f} : MemSafe (trapBody f) := .bind .pop fun _ => .trap
theorem MemSafe.ownRequest {h c brk kind origin tag} : MemSafe (ownRequest h c brk kind origin tag) := .bind .originOf fun _ => .pure
theorem MemSafe.placeOwn {r} : MemSafe (placeOwn r) := .bind .modifyJob fun _ => .bind .curCore fun _ => .modify fun _ hs => hs.markLanding
theorem MemSafe.yieldBody {h} : MemSafe (yieldBody h) := .bind .getStream fun _ => .bind .ownRequest fun _ => .placeOwn
theorem MemSafe.bkptBody {h f} : MemSafe (bkptBody h f) := .bind .getStream fun _ => .bind .ownRequest fun _ => .placeOwn
theorem MemSafe.stopWord {w brk origin h} : MemSafe (stopWord w brk origin h) := .ite (.bind .ownRequest fun _ => .placeOwn) .modifyJob
theorem State.MemOk.stopAt {c hd w r} (h : s.MemOk) : (s.stopAt c hd w r).MemOk := by
  unfold State.stopAt
  dsimp only
  split
  · exact .ite (.ite h.setJob (.ite (.ite h (.ite h.setJob h)) h.setJob.markLanding)) h.setCore
  · exact h.setCore
theorem MemSafe.stopatBody {h fw w hd} : MemSafe (stopatBody h fw w hd) :=
  .bind .getJob fun _ => .bind .get fun _ => .bind .trapIf fun _ => .bind .trapIf fun _ =>
    .ite .stopWord (.modify fun _ hs => .foldl (fun _ hs _ => hs.stopAt) _ hs)
theorem MemSafe.stopatRegBody {h f} : MemSafe (stopatRegBody h f) := .bind .pop fun _ => .bind .pop fun _ => .stopatBody

/-! ### Resumption and triggers -/

theorem State.MemOk.unsaved {c hd} (h : s.MemOk) : (s.unsaved c hd).MemOk := h.of_mem rfl
theorem State.MemOk.resumeOn {c hd} (h : s.MemOk) : PairOk (s.resumeOn c hd) := by
  unfold State.resumeOn
  refine .foldl (fun _ hr _ => ?_) _ (.mk h)
  split
  · exact .ite (.ite hr (.ite (.mk hr.unsaved.onJob.setJState.markLanding) (.ite (.mk hr.setCore) hr))) hr
  · exact hr
theorem State.MemOk.resumeLaunch {hd} (h : s.MemOk) : PairOk (s.resumeLaunch hd) := by
  unfold State.resumeLaunch
  split
  · exact .mk h
  · exact .mk (PairOk.foldl (fun _ hr _ => .mk (State.MemOk.resumeOn hr)) _ (.mk h))
theorem State.MemOk.fireTrigger {pn tag by_} (h : s.MemOk) : PairOk (s.fireTrigger pn tag by_) := by
  unfold State.fireTrigger
  split
  · exact .mk h
  · dsimp only
    split
    · exact .mk h
    · exact .mk h.setPart

/-! ### System instructions -/

theorem MemSafe.srdBody {h f} : MemSafe (srdBody h f) :=
  .bind .pop fun _ => .bind .trapIf fun _ => .arrival (.bind .getJob fun _ => .bind .get fun _ => .pure)
theorem MemSafe.swrTo {h fn idx v} : MemSafe (swrTo h fn idx v) := by
  unfold Machine.swrTo
  refine .bind .originOf fun _ => ?_
  dsimp only
  split
  · exact .modifyJob
  · exact .modifyJob
  · exact .modifyJob
  · exact .enqueue
  · exact .modifyJob
  · exact .modifyJob
  · exact .stopWord
  · exact .ite (.ite .pure (.bind .replaying fun _ => .ite .pure .hold)) .pure
theorem MemSafe.swrBody {h f fw} : MemSafe (swrBody h f fw) := .bind .pop fun _ => .bind .pop fun _ => .bind .trapIf fun _ => .swrTo
theorem MemSafe.getPart : MemSafe getPart := by
  unfold Machine.getPart
  refine .bind .getJob fun _ => .bind .get fun _ => ?_
  split
  · exact .pure
  · exact .stall
theorem MemSafe.putPart {p} : MemSafe (putPart p) := .bind .getJob fun _ => .modify fun _ hs => hs.setPart
theorem MemSafe.eretBody {h f} : MemSafe (eretBody h f) := .bind .getPart fun _ => .bind .trapIf fun _ => .bind .putPart fun _ => .pure
theorem MemSafe.waitevBody {h f} : MemSafe (waitevBody h f) := by
  unfold Machine.waitevBody
  refine .bind .getPart fun _ => .bind .originOf fun _ => ?_
  split
  · exact .bind .push fun _ => .bind .putPart fun _ => .modifyJob
  · exact .ite .push .stall
theorem MemSafe.resumeBody {h f} : MemSafe (resumeBody h f) :=
  .bind .pop fun _ => .bind .getJob fun _ => .bind .get fun _ => .bind .trapIf fun _ => .get_bind fun _ hs =>
    .bind (.set hs.resumeLaunch) fun _ => .push
theorem MemSafe.writePool {h k p bs bad} : MemSafe (writePool h k p bs bad) := by
  unfold Machine.writePool
  refine .bind .originOf fun _ => .get_bind fun _ h => ?_
  split
  · rename_i _ e
    exact .set (h.poolWrite _ e)
  · exact .stall
  · exact .ite .trap .stall
theorem MemSafe.mboxBody {h f} : MemSafe (mboxBody h f) := by
  unfold Machine.mboxBody
  refine .bind .pop fun _ => .bind .pop fun _ => .bind .whoNow fun _ => .bind .trapIf fun _ => .bind .trapIf fun _ => ?_
  split
  · exact .trap
  · refine .bind .getPart fun _ => ?_
    dsimp only
    split
    · exact .ite .push .stall
    · exact .bind .get fun _ => .bind .getJob fun _ => .when .stall fun _ => .bind .writePool fun _ => .bind .writePool fun _ =>
        .bind .originOf fun _ => .bind .putPart fun _ => .bind .hold fun _ => .push
theorem MemSafe.fenceBody {f} : MemSafe (fenceBody f) :=
  .bind .getJob fun _ => .bind .get fun _ => .when .stall fun _ => .ite .modifyStream .pure
theorem MemSafe.spawnBody {h f} : MemSafe (spawnBody h f) := by
  unfold Machine.spawnBody
  refine .bind .pop fun _ => .bind .pop fun _ => .bind .trapIf fun _ => .bind .replayTake fun _ => ?_
  split
  · exact .bind .replayPoison fun _ => .pushMarked
  · exact .bind .recordLater fun _ => .bind .reserve fun _ => .hold
theorem MemSafe.rdvBody : MemSafe rdvBody := .modifyStream
theorem MemSafe.snapBody {h f} : MemSafe (snapBody h f) := by
  unfold Machine.snapBody
  refine .bind .originOf fun _ => .bind .getJob fun _ => .bind .curCore fun _ => .get_bind fun _ hs =>
    .bind (.set hs.fireTrigger) fun _ => ?_
  split
  · exact .traceOwn
  · exact .pure
theorem MemSafe.tmarkBody {h f} : MemSafe (tmarkBody h f) := .bind .pop fun _ => .traceOwn

/-! ### Synchronisation -/

theorem MemSafe.semOf {v} : MemSafe (semOf v) := by
  unfold Machine.semOf
  refine .bind .get fun _ => .bind .getJob fun _ => ?_
  split
  · exact .pure
  · exact .trap
theorem MemSafe.semAcquire {h v n deadline} : MemSafe (semAcquire h v n deadline) := by
  unfold Machine.semAcquire
  refine .bind .semOf fun x => .get_bind fun s hs => .bind .getJob fun _ => .bind .originOf fun _ => .bind .getStream fun _ => ?_
  have htake {m f} {r : Word} : MemSafe (do MonadState.set (s.setSem (clusterOf s.cur.1) x.phys m); Machine.modifyJob f; return r) :=
    .bind (.set hs.setSem) fun _ => .bind .modifyJob fun _ => .pure
  split
  · exact .bind .modifyStream fun _ => .pure
  · exact .stall
  · refine .ite .pure (.ite ?_ (.ite .pure .throw))
    split
    refine .ite ?_ htake
    split
    · exact .bind .trap fun _ => htake
    · exact htake
theorem MemSafe.semwBody {h f} : MemSafe (semwBody h f) :=
  .bind .pop fun _ => .bind .semOf fun _ => .bind .replaying fun _ => .ite .pure (.bind .semAcquire fun _ => .pure)
theorem MemSafe.semsBody {h f} : MemSafe (semsBody h f) := by
  unfold Machine.semsBody
  refine .bind .pop fun _ => .bind .semOf fun _ => .bind .originOf fun _ => .ite .pure (.ite ?_ ?_)
  · exact .bind .replaying fun _ => .ite .pure .hold
  · exact .bind .getJob fun _ => .modify fun _ hs => hs.setSem
theorem MemSafe.semwtBody {h f} : MemSafe (semwtBody h f) :=
  .bind .pop fun _ => .bind .pop fun _ => .bind .semOf fun _ => .bind .pushRoom fun _ => .arrival .semAcquire
theorem MemSafe.barrWait {h f crew w deadline} : MemSafe (barrWait h f crew w deadline) := by
  unfold Machine.barrWait
  refine .bind .get fun _ => .bind .getJob fun _ => .bind .originOf fun _ => .bind .getStream fun _ => ?_
  split
  · exact .bind .modifyStream fun _ => .pure
  · exact .stall
  · exact .ite (.ite .pure (.ite .pure .throw)) (.ite (.bind .modifyJob fun _ => .pure) .throw)
theorem MemSafe.barrSkip {crew w} : MemSafe (barrSkip crew w) := .modifyJob
theorem MemSafe.barrBody {h f} : MemSafe (barrBody h f) :=
  .bind .getJob fun _ => .bind .trapIf fun _ => .ite
    (.bind .pop fun _ => .bind .pushRoom fun _ => .bind .replaying fun _ => .when .barrSkip fun _ => .arrival .barrWait)
    (.bind .replaying fun _ => .ite .barrSkip (.bind .barrWait fun _ => .pure))
theorem MemSafe.sstepWait {h} : MemSafe (sstepWait h) := by
  unfold Machine.sstepWait
  refine .bind .get fun _ => .bind .getJob fun _ => .bind .originOf fun _ => .bind .getStream fun t => ?_
  cases t.wait
  case sstepPassed => exact .bind .modifyStream fun _ => .pure
  case sstep => exact .stall
  all_goals
    dsimp only
    split
    · exact .when .stall fun _ => .bind .modifyJob fun _ => .pure
    · exact .throw
theorem MemSafe.sstepBody {h f} : MemSafe (sstepBody h f) := by
  unfold Machine.sstepBody
  refine .bind .originOf fun _ => .bind .replayTake fun _ => ?_
  split
  · exact .bind .modifyJob fun _ => .bind .replayPoison fun _ => .pushMarked
  · exact .bind .traceRoom fun _ => .bind .pushRoom fun _ => .bind .sstepWait fun _ => .bind .modifyJob fun _ => .bind .push fun _ =>
      .bind .curCore fun _ => .modify fun _ hs => hs.recordArrival
theorem MemSafe.checkBlock {fw src ga n} : MemSafe (checkBlock fw src ga n) :=
  .bind .trapIf fun _ => .bind .trapIf fun _ => .bind .trapIf fun _ => .trapIf
theorem MemSafe.sendBody {h f} : MemSafe (sendBody h f) := by
  unfold Machine.sendBody
  refine .bind .pop fun _ => .bind .pop fun _ => .bind .pop fun _ => .bind .pop fun _ => .bind .whoNow fun _ => .bind .trapIf fun _ =>
    .bind .checkBlock fun _ => .bind .get fun _ => ?_
  split
  · exact .faultTrap
  · exact .bind .replaying fun _ => .ite .pure .hold
theorem MemSafe.tlbiBody {h f tenant a} : MemSafe (tlbiBody h f tenant a) :=
  .bind .replaying fun _ => .ite .push (.bind .reserve fun _ => .hold)
theorem MemSafe.tlbiPageBody {h f} : MemSafe (tlbiPageBody h f) := .bind .pop fun _ => .tlbiBody
end

end Sys2Proof.Machine
end
section
/-!
PROOF. O55: memory and matrix instructions keep the memory canonical.
-/
open Sys2Proof
namespace Sys2Proof.Machine

section
variable {s : State}

/-! ### Memory instructions -/

theorem MemSafe.checkAddr {a n} : MemSafe (checkAddr a n) := .bind .trapIf fun _ => .trapIf
theorem MemSafe.checkWindow {perm a n} : MemSafe (checkWindow perm a n) := by
  unfold Machine.checkWindow
  refine .ite (.bind .whoNow fun _ => .bind .get fun _ => ?_) .pure
  split
  · exact .faultTrap
  · exact .pure
theorem MemSafe.checkMultiple {v n} : MemSafe (checkMultiple v n) := .trapIf
theorem MemSafe.ldBody {h f} : MemSafe (ldBody h f) :=
  .bind .pop fun _ => .bind .pop fun _ => .bind .checkAddr fun _ => .bind .checkWindow fun _ => .bind .reserve fun _ => .pend
theorem MemSafe.ldtBody {h f} : MemSafe (ldtBody h f) :=
  .bind .pop fun _ => .bind .pop fun _ => .bind .checkMultiple fun _ => .bind .checkMultiple fun _ => .bind .reserveTile fun _ => .pend
theorem MemSafe.gatherBody {h f} : MemSafe (gatherBody h f) :=
  .bind .pop fun _ => .bind .pop fun _ => .bind .pop fun _ => .bind .checkMultiple fun _ => .bind .checkMultiple fun _ =>
    .bind .checkMultiple fun _ => .bind .reserveTile fun _ => .pend
theorem MemSafe.rldBody {h f} : MemSafe (rldBody h f) := by
  unfold Machine.rldBody
  refine .bind .pop fun _ => .bind .pop fun _ => .bind .checkMultiple fun _ => .bind .replayTake fun _ => ?_
  split
  · exact .bind .replayFabric fun _ => .pushMarked
  · exact .bind .recordLater fun _ => .bind .reserve fun _ => .bind .pend fun _ => .bind .originOf fun _ => .bind .getJob fun _ =>
      .modify fun _ hs => hs.request
theorem MemSafe.genBody {h f} : MemSafe (genBody h f) := .bind .getStream fun _ => .push
theorem MemSafe.genBaseBody {f} : MemSafe (genBaseBody f) := .bind .pop fun _ => .modifyStream
theorem MemSafe.genCoefBody {h f} : MemSafe (genCoefBody h f) :=
  .bind .pop fun _ => .bind .pop fun _ => .bind .trapIf fun _ => .modifyStream
theorem MemSafe.cpyBody {h fw ty d g} : MemSafe (cpyBody h fw ty d g) :=
  .ite (.bind .trapIf fun _ => .bind .trapIf fun _ => .enqueue) (.bind .trapIf fun _ => .enqueue)
theorem MemSafe.cpyOneBody {h f} : MemSafe (cpyOneBody h f) :=
  .bind .pop fun _ => .bind .pop fun _ => .bind .pop fun _ => .bind .trapIf fun _ => .cpyBody
theorem MemSafe.cpyThreeBody {h f} : MemSafe (cpyThreeBody h f) :=
  .bind .pop fun _ => .bind .pop fun _ => .bind .pop fun _ => .bind .pop fun _ => .bind .pop fun _ => .cpyBody
theorem MemSafe.pubBody {h f} : MemSafe (pubBody h f) := by
  unfold Machine.pubBody
  refine .bind .pop fun _ => .bind .whoNow fun _ => .bind .get fun _ => ?_
  split
  · exact .faultTrap
  · exact .bind .trapIf fun _ => .bind .replaying fun _ => .ite .pure .hold
theorem MemSafe.sttBody {h f} : MemSafe (sttBody h f) :=
  .bind .popDrained fun _ => .bind .pop fun _ => .bind .pop fun _ => .bind .checkMultiple fun _ => .bind .checkMultiple fun _ => .enqueue
theorem MemSafe.scatterBody {h f} : MemSafe (scatterBody h f) :=
  .bind .popDrained fun _ => .bind .pop fun _ => .bind .pop fun _ => .bind .pop fun _ => .bind .checkMultiple fun _ =>
    .bind .checkMultiple fun _ => .bind .checkMultiple fun _ => .enqueue
theorem MemSafe.rstBody {h f fw acc} : MemSafe (rstBody h f fw acc) :=
  .bind .pop fun _ => .bind .pop fun _ => .bind .pop fun _ => .bind .pop fun _ => .bind .checkBlock fun _ => .bind .checkMultiple fun _ =>
    .bind .replaying fun _ => .ite .pure .enqueue
theorem MemSafe.ratBody {h f} : MemSafe (ratBody h f) := by
  unfold Machine.ratBody
  refine .bind .pop fun _ => .bind .pop fun _ => .either .pop .pure fun _ => .bind .checkMultiple fun _ => .bind .replayTake fun _ => ?_
  split
  · exact .bind .replayFabric fun _ => .pushMarked
  · exact .bind .recordLater fun _ => .bind .reserve fun _ => .enqueue
theorem MemSafe.atomicReplay {h op a v c x} : MemSafe (atomicReplay h op a v c x) := by
  unfold Machine.atomicReplay
  refine .bind .whoNow fun _ => .bind .get fun _ => ?_
  split
  · exact .faultTrap
  · exact .ite .writePool .pure
  · exact .pure
theorem MemSafe.atomicBody {h d op sub a v c} : MemSafe (atomicBody h d op sub a v c) := by
  unfold Machine.atomicBody
  refine .bind .checkAddr fun _ => .bind .whoNow fun _ => .ite (.bind .get fun _ => ?_) ?_
  on_goal 1 => split
  on_goal 1 => refine .bind .faultTrap fun _ => ?_
  all_goals
    refine .bind .replayTake fun _ => ?_
    split
    · dsimp only
      split
      · exact .bind .replayFabric fun _ => .pushMarked
      · exact .bind .atomicReplay fun _ => .bind .replayFabric fun _ => .pushMarked
    · refine .bind .recordLater fun _ => .bind .reserve fun _ => ?_
      dsimp only
      split
      · exact .bind .getJob fun _ => .bind .modifyStream fun _ => .pend
      · exact .pend
theorem MemSafe.atomic2 {h f op sub} : MemSafe (atomic2 h f op sub) := .bind .pop fun _ => .bind .pop fun _ => .atomicBody
theorem MemSafe.atomic3 {h f op} : MemSafe (atomic3 h f op) := .bind .pop fun _ => .bind .pop fun _ => .bind .pop fun _ => .atomicBody

/-! ### Pool accesses -/

theorem MemSafe.unveiled {k p n} : MemSafe (unveiled k p n) := stays_unveiled MemKept.refl MemKept.trans k p n
theorem MemSafe.readPool {k p n va} : MemSafe (readPool k p n va) := stays_readPool MemKept.refl MemKept.trans k p n va
theorem MemSafe.writeRuns {h k x} : MemSafe (writeRuns h k x) := by
  induction x with
  | nil => exact .pure
  | cons _ _ ih => exact .bind .writePool fun _ => ih
theorem MemSafe.writeBytes {h k p bs} : MemSafe (writeBytes h k p bs) := .writeRuns
theorem MemSafe.scratchPlace {a align n} : MemSafe (scratchPlace a align n) := stays_scratchPlace MemKept.refl MemKept.trans a align n

/-! ### Store -/

theorem MemSafe.checkBusy {a} : MemSafe (checkBusy a) := stays_checkBusy MemKept.refl MemKept.trans a
theorem MemSafe.stBody {h f} : MemSafe (stBody h f) :=
  .bind .pop fun _ => .bind .pop fun _ => .bind .pop fun _ => .bind .checkAddr fun _ => .bind .checkBusy fun _ => .enqueue

/-! ### Matrix instructions -/

theorem MemSafe.mfmtBody {h f} : MemSafe (mfmtBody h f) := by
  unfold Machine.mfmtBody
  refine .bind .pop fun _ => .bind .trapIf fun _ => .bind .getJob fun _ => .bind .getStream fun _ => .ite ?_ ?_
  · exact .either .trap .stall fun _ => .when .stall fun _ => .modifyJob
  · exact .when .stall fun _ => .modifyJob
theorem MemSafe.popFmt : MemSafe popFmt := by
  unfold Machine.popFmt
  refine .bind .getJob fun _ => .bind .getStream fun _ => ?_
  split
  · exact .trap
  · exact .bind .checkEntry fun _ => .bind .setJob fun _ => .pure
theorem MemSafe.sampleFz : MemSafe sampleFz := .bind .getJob fun _ => .pure
theorem MemSafe.checkTile {t} : MemSafe (checkTile t) := .bind .getJob fun _ => .trapIf
theorem MemSafe.joinBatch {b} : MemSafe (joinBatch b) := .modifyJob
theorem MemSafe.mcbBody {h f} : MemSafe (mcbBody h f) := .bind .pop fun _ => .bind .checkMultiple fun _ => .bind .sampleFz fun _ => .enqueue
theorem MemSafe.mmaBody {h f} : MemSafe (mmaBody h f) := by
  have htwo {p : Prop} [Decidable p] {x y : Spec} {d : Word × Word} :
      MemSafe (if p then do return (← Machine.pop x, ← Machine.pop y) else Pure.pure d) :=
    .ite (.bind .pop fun _ => .bind .pop fun _ => .pure) .pure
  exact .bind htwo fun _ => .bind htwo fun _ => .when .needTiles fun _ => .when .needTiles fun _ => .bind .checkTile fun _ =>
    .bind .popFmt fun _ => .bind .getJob fun _ => .bind .sampleFz fun _ => .bind .enqueue fun _ => .joinBatch
theorem MemSafe.mcommitBody {f} : MemSafe (mcommitBody f) := .bind .getStream fun _ => .modifyJob
theorem MemSafe.mwaitBody {f} : MemSafe (mwaitBody f) := .bind .getJob fun _ => .when .stall fun _ => .setJob
theorem MemSafe.checkElem {fw tile posn} : MemSafe (checkElem fw tile posn) :=
  .bind .checkTile fun _ => .bind .trapIf fun _ => .bind .get fun _ => .bind .getJob fun _ => .bind .whoNow fun _ => .bind .trapIf fun _ =>
    .ite .stall .pure
theorem MemSafe.mrdBody {h f} : MemSafe (mrdBody h f) := .bind .pop fun _ => .bind .checkElem fun _ => .bind .reserve fun _ => .pend
theorem MemSafe.mwrBody {h f} : MemSafe (mwrBody h f) :=
  .bind .pop fun _ => .bind .pop fun _ => .bind .checkElem fun _ => .bind .get fun _ => .bind .getJob fun _ => .bind .whoNow fun _ =>
    .when .stall fun _ => .writeBytes
theorem MemSafe.mzeroBody {h f} : MemSafe (mzeroBody h f) := .bind .checkTile fun _ => .enqueue
theorem MemSafe.mstBody {h f fw lns mx} : MemSafe (mstBody h f fw lns mx) :=
  .bind .pop fun _ => .bind .pop fun _ => .bind .pop fun _ => .either .pop .pure fun _ => .bind .trapIf fun _ => .bind .checkTile fun _ =>
    .bind .checkMultiple fun _ => .bind .checkMultiple fun _ => .when .checkMultiple fun _ => .bind .getJob fun _ =>
    .bind .sampleFz fun _ => .bind .enqueue fun _ => .joinBatch
theorem MemSafe.mseedBody {h f} : MemSafe (mseedBody h f) := .bind .pop fun _ => .enqueue
end

end Sys2Proof.Machine
end
section
/-!
PROOF. O55: scalar and vector instructions keep the memory canonical.
-/
open Sys2Proof
namespace Sys2Proof.Machine

section
variable {s : State}

/-! ### Scalar instructions -/

theorem MemSafe.alu2 {h f g} : MemSafe (alu2 h f g) := .bind .pop fun _ => .bind .pop fun _ => .push
theorem MemSafe.alu1 {h f g} : MemSafe (alu1 h f g) := .bind .pop fun _ => .push
theorem MemSafe.compare2 {f g} : MemSafe (compare2 f g) := .bind .pop fun _ => .bind .pop fun _ => .writePred
theorem MemSafe.selBody {h f} : MemSafe (selBody h f) := .bind .pop fun _ => .bind .pop fun _ => .bind .readPred fun _ => .push
theorem MemSafe.movBody {h f} : MemSafe (movBody h f) := .either (.bind .readPred fun _ => .pure) .pop fun _ => .ite .writePred .push
theorem MemSafe.addiBody {h f} : MemSafe (addiBody h f) := .bind .pop fun _ => .push
theorem MemSafe.branchTarget {f} : MemSafe (branchTarget f) := .bind .getStream fun _ => .pure
theorem MemSafe.brBody {f} : MemSafe (brBody f) := .bind .branchTarget fun _ => .pure
theorem MemSafe.brcBody {f} : MemSafe (brcBody f) := .bind .readPred fun _ => .bind .branchTarget fun _ => .pure
theorem MemSafe.callBody {h f} : MemSafe (callBody h f) := .bind .branchTarget fun _ => .bind .getStream fun _ => .bind .push fun _ => .pure
theorem MemSafe.retBody {f} : MemSafe (retBody f) := .bind .pop fun _ => .bind .trapIf fun _ => .pure

/-! ### Vector instructions -/

theorem MemSafe.laneCtx {rm} : MemSafe (laneCtx rm) := .bind .getJob fun _ => .pure
theorem MemSafe.vFlags {fl} : MemSafe (vFlags fl) := .bind .getStream fun _ => .ite .modifyJob .pure
theorem MemSafe.vDraws {x n} : MemSafe (vDraws x n) := .bind .getStream fun _ => .ite .modifyJob .pure
theorem MemSafe.vFinish {x n fl} : MemSafe (vFinish x n fl) := .bind .vFlags fun _ => .vDraws
theorem MemSafe.maskOf {f} : MemSafe (maskOf f) := .bind .getStream fun _ => .pure
theorem MemSafe.pushMarkedTile {h td v m form} : MemSafe (pushMarkedTile h td v m form) := by
  unfold Machine.pushMarkedTile
  refine .bind .pushTile fun _ => ?_
  split
  · exact .pure
  · exact .modifyJob
theorem MemSafe.popMany {x n} : MemSafe (popMany x n) := by
  induction n with
  | zero => exact .pure
  | succ n ih => exact .bind .pop fun _ => .bind ih fun _ => .pure
theorem MemSafe.needs {x} : MemSafe (VOpd.needs x) := by
  unfold VOpd.needs
  split
  · exact .needTiles
  · exact .pure
theorem MemSafe.checkSegs {bases cnt x} : MemSafe (VOpd.checkSegs bases cnt x) := by
  unfold VOpd.checkSegs
  split
  · exact .forM (fun _ => .bind .scratchPlace fun _ => .pure) _
  · exact .pure
theorem MemSafe.checkSource {cnt x} : MemSafe (VOpd.checkSource cnt x) := stays_checkSource MemKept.refl MemKept.trans cnt x
theorem MemSafe.checkDest {cnt x} : MemSafe (VOpd.checkDest cnt x) := stays_checkDest MemKept.refl MemKept.trans cnt x
theorem MemSafe.readSeg {a ty} : MemSafe (readSeg a ty) := stays_readSeg MemKept.refl MemKept.trans a ty
theorem MemSafe.read {bases i consumes x} : MemSafe (VOpd.read bases i consumes x) := by
  unfold VOpd.read
  split
  · exact .pure
  · exact .bind .popTile fun _ => .pure
  · refine .bind .readSeg fun _ => ?_
    split
    · split
      · exact .ite .throw .pure
      · exact .pure
theorem MemSafe.writeSeg {h a ty t on} : MemSafe (writeSeg h a ty t on) :=
  .bind .scratchPlace fun _ => .forM (fun _ => .bind .get fun _ => .writeRuns) _
theorem MemSafe.write {h bases i v m form on x} : MemSafe (VOpd.write h bases i v m form on x) := by
  unfold VOpd.write
  split
  · exact .pure
  · exact .pushMarkedTile
  · exact .writeSeg
theorem MemSafe.readScales {a} : MemSafe (readScales a) := .bind .scratchPlace fun _ => .bind .readPool fun _ => .pure
theorem MemSafe.writeScales {h a bs} : MemSafe (writeScales h a bs) := .bind .scratchPlace fun _ => .writeBytes
theorem MemSafe.sources {p bases i} : MemSafe (VPlan.sources p bases i) :=
  .bind .read fun _ => .bind .read fun _ => .bind .read fun _ => .pure
theorem MemSafe.put {p h bases x i v} : MemSafe (VPlan.put p h bases x i v) := by
  unfold VPlan.put
  split
  · dsimp only
    split
    · exact .bind .write fun _ => .pure
    · exact .bind .write fun _ => .pure
    · exact .bind .writeScales fun _ => .bind .write fun _ => .pure
    · exact .bind .readScales fun _ => .bind .write fun _ => .pure
    · exact .bind .write fun _ => .pure
    · exact .bind .write fun _ => .pure
theorem MemSafe.iter {p h bases x i} : MemSafe (VPlan.iter p h bases x i) := .bind .sources fun _ => .put
theorem MemSafe.loop {p h bases x n i fl} : MemSafe (VPlan.loop p h bases x n i fl) := by
  induction n generalizing i fl with
  | zero => exact .pure
  | succ n ih =>
    unfold VPlan.loop
    refine .get_bind fun s hs => ?_
    split
    · rename_i t e
      exact .bind (.set (MemSafe.iter.ok hs e)) fun _ => ih
    · exact .ite .stall (.bind .modifyStream fun _ => .throw)
    · rename_i t _ e
      exact .bind (.set (MemSafe.iter.error hs e)) fun _ => .throw
theorem MemSafe.checkPlaces {p bases} : MemSafe (VPlan.checkPlaces p bases) := by
  unfold VPlan.checkPlaces
  dsimp only
  split
  · exact .bind (.forM (fun _ => .bind .scratchPlace fun _ => .pure) _) fun _ => .forM (fun _ => .checkSegs) _
  · exact .forM (fun _ => .checkSegs) _
theorem MemSafe.runBase {h f p} : MemSafe (runBase h f p) := by
  unfold Machine.runBase
  refine .bind (.forM (fun _ => .needs) _) fun _ => .bind .laneCtx fun _ => .bind (.ite ?_ ?_) fun _ => .vFinish
  · exact .bind .popMany fun _ => .bind .checkPlaces fun _ => .iter
  · exact .bind .sources fun _ => .bind .popMany fun _ => .bind .checkPlaces fun _ => .put
theorem MemSafe.runPlan {h f p} : MemSafe (runPlan h f p) := by
  unfold Machine.runPlan
  refine .bind .getStream fun _ => ?_
  split
  · exact .bind .loop fun _ => .bind .modifyStream fun _ => .vFlags
  · exact .bind (.forM (fun _ => .needs) _) fun _ => .bind .popMany fun _ => .bind .checkPlaces fun _ => .bind .checkDest fun _ =>
      .bind (.forM (fun _ => .checkSource) _) fun _ => .bind .laneCtx fun _ => .bind .vDraws fun _ => .bind .loop fun _ =>
      .bind .modifyStream fun _ => .vFlags
theorem MemSafe.vbBody {h f st} : MemSafe (vbBody h f st) := .bind .maskOf fun _ => .runBase
theorem MemSafe.vfBody {h f st} : MemSafe (vfBody h f st) := .bind .maskOf fun _ => .runPlan
theorem MemSafe.vnCheck {bit ty} : MemSafe (vnCheck bit ty) := stays_vnCheck MemKept.refl MemKept.trans bit ty
theorem MemSafe.vnRead {bit ty} : MemSafe (vnRead bit ty) := stays_vnRead MemKept.refl MemKept.trans bit ty
theorem MemSafe.vnWrite {h bit ty v} : MemSafe (vnWrite h bit ty v) := by
  unfold Machine.vnWrite
  split
  exact .bind .scratchPlace fun _ => .bind .get fun _ => .writeBytes
theorem MemSafe.vnAlign {base ty} : MemSafe (vnAlign base ty) := .checkMultiple
theorem MemSafe.vnBody {h f op} : MemSafe (vnBody h f op) := by
  unfold Machine.vnBody
  refine .bind .popMany fun _ => .bind .vnAlign fun _ => .bind .vnAlign fun _ => .when .vnAlign fun _ =>
    .bind (.forM (fun _ => .vnCheck) _) fun _ => .bind (.forM (fun _ => .vnCheck) _) fun _ => .when (.forM (fun _ => .vnCheck) _) fun _ =>
    .bind .laneCtx fun _ => .bind (.foldlM (fun _ _ => ?_) _ _) fun _ => .vFinish
  exact .bind .vnRead fun _ => .either .vnRead .pure fun _ => .bind .vnWrite fun _ => .pure
theorem MemSafe.vnReduce {h f} : MemSafe (vnReduce h f) := by
  unfold Machine.vnReduce
  refine .bind .trapIf fun _ => .bind .popMany fun _ => .bind .vnAlign fun _ => .bind .vnAlign fun _ =>
    .bind (.forM (fun _ => .vnCheck) _) fun _ => .bind (.forM (fun _ => .vnCheck) _) fun _ => .bind .laneCtx fun _ =>
    .bind (.foldlM (fun _ _ => ?_) _ _) fun _ => .vFinish
  exact .bind (.mapM (fun _ => .vnRead) _) fun _ => .bind .vnWrite fun _ => .pure
theorem MemSafe.vcmpBody {f} : MemSafe (vcmpBody f) :=
  .bind (.forM (fun _ => .needs) _) fun _ => .bind .popTile fun _ => .bind .popTile fun _ => .bind .laneCtx fun _ => .bind .maskOf fun _ =>
    .bind .writeMask fun _ => .vFinish
theorem MemSafe.moveBody {h f src} : MemSafe (moveBody h f src) :=
  .bind (.forM (fun _ => .needs) _) fun _ => .bind .popTile fun _ => .bind .pop fun _ => .bind .maskOf fun _ => .pushTile
theorem MemSafe.fixedMoveBody {h f src} : MemSafe (fixedMoveBody h f src) :=
  .bind (.forM (fun _ => .needs) _) fun _ => .bind .popTile fun _ => .bind .maskOf fun _ => .pushTile
theorem MemSafe.reduceBody {h f g} : MemSafe (reduceBody h f g) :=
  .bind (.forM (fun _ => .needs) _) fun _ => .bind .popTile fun _ => .bind .laneCtx fun _ => .bind .maskOf fun _ => .bind .pushTile fun _ =>
    .vFinish
theorem MemSafe.vnetsetBody {f} : MemSafe (vnetsetBody f) :=
  .bind .pop fun _ => .bind .scratchPlace fun _ => .bind .readPool fun _ => .writeNet
theorem MemSafe.vnetBody {h f} : MemSafe (vnetBody h f) := .bind .getStream fun _ => .fixedMoveBody
theorem MemSafe.vgenBody {h f} : MemSafe (vgenBody h f) := .bind .needs fun _ => .bind .pop fun _ => .bind .maskOf fun _ => .pushTile
end

end Sys2Proof.Machine
end
section
/-!
PROOF. O55: what the engines and pending operations do to the memory keeps it canonical.
-/
open Sys2Proof
namespace Sys2Proof.Machine

section
variable {s : State}

/-! ### Performing a body -/

theorem State.MemOk.perform {c o unit body} (h : s.MemOk) (hbody : MemSafe body) : (s.perform c o unit body).MemOk := by
  have hc : State.MemOk { s with cur := (c, o.st) } := h.of_mem rfl
  unfold State.perform
  split
  · rename_i e
    exact .settleFront (.onJob ((hbody.ok hc e).of_mem rfl))
  · rename_i e
    exact .raise ((hbody.error hc e).of_mem rfl)
  · rename_i e
    exact .raise ((hbody.error hc e).of_mem rfl)
  · exact h.sendFetch
  · rename_i e
    exact .markLanding (.onJob ((hbody.error hc e).of_mem rfl))
  · exact h
theorem State.MemOk.performCmd {c e q unit body} (h : s.MemOk) (hbody : MemSafe body) : (s.performCmd c e q unit body).MemOk := by
  unfold State.performCmd
  dsimp only
  split
  · exact .onJob (h.perform hbody)
  · exact .onJob (h.perform hbody)
  · exact h.perform hbody
theorem MemSafe.readLoc {l n} : MemSafe (readLoc l n) := by
  unfold Machine.readLoc
  refine .bind .get fun _ => .bind .getJob fun _ => ?_
  dsimp only
  split
  · exact .bind .unveiled fun _ => .pure
  · split
    · exact .bind .unveiled fun _ => .pure
    · exact .pure
  · split
    · exact .faultTrap
    · exact .pure
theorem MemSafe.readPieces {direct x} : MemSafe (readPieces direct x) := by
  induction x with
  | nil => exact .pure
  | cons p l ih =>
    have hrest {x n} : MemSafe (do let g ← Machine.readLoc x n; let r ← Machine.readPieces direct l; return g.append r) :=
      .bind .readLoc fun _ => .bind ih fun _ => .pure
    refine .bind .whoNow fun _ => .bind .get fun _ => ?_
    split
    · exact .faultTrap
    · refine .ite ?_ hrest
      split
      · refine .bind .get fun _ => .bind .getJob fun _ => ?_
        split
        · exact .bind .throw fun _ => hrest
        · exact hrest
      · exact hrest
theorem MemSafe.readMem {direct a n} : MemSafe (readMem direct a n) := .readPieces
theorem MemSafe.releaseRoom {o n} : MemSafe (releaseRoom o n) := .bind .getJob fun _ => .ite (.ite .trap .stall) .pure
theorem MemSafe.holdFor {o id k page} : MemSafe (holdFor o id k page) := .bind .releaseRoom fun _ => .modifyJob
theorem MemSafe.writeSector {o id a bs bad whole} : MemSafe (writeSector o id a bs bad whole) := by
  unfold Machine.writeSector
  refine .bind .whoNow fun _ => .get_bind fun s h => ?_
  dsimp only
  split
  · exact .faultTrap
  · split
    · split
      · rename_i t e
        exact .set (h.poolWrite t e)
      · exact .stall
      · exact .ite .trap .stall
    · exact .holdFor
    · exact .ite (.ite .stall (.set h.fleetOut)) (.bind .getJob fun _ => .ite .holdFor (.ite .stall (.set h.storeOut)))
theorem MemSafe.writePiecesOf {o id all x} : MemSafe (writePiecesOf o id all x) := by
  induction x with
  | nil => exact .pure
  | cons _ _ ih => exact .bind .writeSector fun _ => ih
theorem MemSafe.writeCmdRuns {o id runs} : MemSafe (writeCmdRuns o id runs) := .writePiecesOf

/-! ### Engines -/

theorem MemSafe.begin_ {e id x} : MemSafe (begin_ e id x) := .modifyJob
theorem MemSafe.finish {e id} : MemSafe (finish e id) := .modifyJob
theorem MemSafe.mstatFlags {o bits} : MemSafe (mstatFlags o bits) := .ite .pure .modifyJob
theorem MemSafe.cmdSem {v} : MemSafe (cmdSem v) := by
  unfold Machine.cmdSem
  refine .bind .get fun _ => .bind .getJob fun _ => ?_
  split
  · exact .pure
  · exact .trap
theorem MemSafe.mmaWait {q v n} : MemSafe (mmaWait q v n) := by
  unfold Machine.mmaWait
  refine .ite .pure (.bind .cmdSem fun x => .get_bind fun s h => .ite .pure (.ite ?_ (.bind (.set h.setSem) fun _ => .pure)))
  have htake {m f} : MemSafe (do MonadState.set (s.setSem (clusterOf s.cur.1) x.phys m); Machine.modifyJob f; return true) :=
    .bind (.set h.setSem) fun _ => .bind .modifyJob fun _ => .pure
  split
  refine .ite ?_ htake
  split
  · exact .bind .trap fun _ => htake
  · exact htake
theorem MemSafe.mmaSignal {q v} : MemSafe (mmaSignal q v) :=
  .bind .cmdSem fun _ => .bind .getJob fun _ => .ite (.bind .replaying fun _ => .ite .pure .modifyJob) (.modify fun _ hs => hs.setSem)
theorem MemSafe.operandSector {a} : MemSafe (operandSector a) := by
  unfold Machine.operandSector
  refine .bind .whoNow fun _ => .bind .get fun _ => ?_
  split
  · exact .faultTrap
  · exact .readPool
theorem MemSafe.operandRow {m t i n} : MemSafe (operandRow m t i n) := by
  induction n with
  | zero => exact .pure
  | succ _ ih => exact .bind ih fun _ => .bind .operandSector fun _ => .pure
theorem MemSafe.operandBytes {m ty x} : MemSafe (operandBytes m ty x) := by
  induction x with
  | nil => exact .pure
  | cons _ _ ih => exact .bind .operandRow fun _ => .bind ih fun _ => .pure
theorem MemSafe.scratchOperand {x1 x2 along outer k ty} : MemSafe (scratchOperand x1 x2 along outer k ty) :=
  .bind .trapIf fun _ => .bind .trapIf fun _ => .bind .trapIf fun _ => .bind .trapIf fun _ => .bind .operandBytes fun _ => .pure
theorem MemSafe.tileOperand {q field rows outer k ty} : MemSafe (tileOperand q field rows outer k ty) := .bind .takeTile fun _ => .pure
theorem MemSafe.scaleRows {sofs outer k} : MemSafe (scaleRows sofs outer k) := by
  unfold Machine.scaleRows
  refine .bind .whoNow fun _ => .bind .trapIf fun _ => .bind .get fun _ => ?_
  dsimp only
  split
  · exact .throw
  · exact .pure
theorem MemSafe.enterOperand {q scratch x1 x2 field along outer k ty scaled sofs slot fz} :
    MemSafe (enterOperand q scratch x1 x2 field along outer k ty scaled sofs slot fz) :=
  .either .scratchOperand .tileOperand fun _ => .either (.map .scaleRows) .pure fun _ => .bind .getJob fun _ => .pure
theorem MemSafe.accPoison {tile row n col m} : MemSafe (accPoison tile row n col m) := by
  unfold Machine.accPoison
  refine .bind .whoNow fun _ => .bind .get fun _ => ?_
  split
  · exact .throw
  · exact .pure
theorem MemSafe.retain {o tile} : MemSafe (retain o tile) :=
  .bind .get fun _ => .bind .getJob fun _ => .bind .whoNow fun _ => .ite .pure (.ite (.ite .trap .stall) (.setJob))
theorem MemSafe.writeTileRow {o tile row ws} : MemSafe (writeTileRow o tile row ws) :=
  .bind .whoNow fun _ => .bind .get fun _ => .when .stall fun _ => .bind .modifyJob fun _ => .modify fun _ hs => hs.pokeClear _ _
theorem MemSafe.writeTileRows {o tile x} : MemSafe (writeTileRows o tile x) := by
  induction x with
  | nil => exact .pure
  | cons _ _ ih => exact .bind .writeTileRow fun _ => ih
theorem MemSafe.readCopy {g x} : MemSafe (readCopy g x) := by
  induction x with
  | nil => exact .pure
  | cons _ _ ih =>
    refine .bind .readMem fun _ => ?_
    split
    · exact .bind .throw fun _ => .bind ih fun _ => .pure
    · exact .bind ih fun _ => .pure
theorem MemSafe.readIndices {direct a} : MemSafe (readIndices direct a) := by
  unfold Machine.readIndices
  refine .bind .readMem fun _ => ?_
  split
  · exact .throw
  · exact .pure
  · exact .pure
theorem MemSafe.startStore {q lns w a pitch ty mx mode fz} : MemSafe (startStore q lns w a pitch ty mx mode fz) := by
  unfold Machine.startStore
  refine .bind .whoNow fun _ => .bind .accPoison fun _ => .bind .get fun _ => .bind .getJob fun _ => ?_
  dsimp only
  split <;> exact .pure
theorem MemSafe.startMma {q f fmt a1 a2 b1 b2 mconst fz} : MemSafe (startMma q f fmt a1 a2 b1 b2 mconst fz) := by
  unfold Machine.startMma
  refine .ite (.bind .mmaWait fun _ => .pure) ?_
  exact .bind .enterOperand fun _ => .bind .enterOperand fun _ => .when .accPoison fun _ => .bind .retain fun _ => .bind .whoNow fun _ =>
    .bind .get fun _ => .begin_
theorem MemSafe.codebookRoom {o slot} : MemSafe (codebookRoom o slot) := .bind .getJob fun _ => .ite (.ite .trap .stall) .pure
theorem MemSafe.startMcb {q slot a fz} : MemSafe (startMcb q slot a fz) :=
  .bind .codebookRoom fun _ => .bind .operandSector fun _ => .begin_
theorem MemSafe.startBody {e q} : MemSafe (startBody e q) := by
  unfold Machine.startBody
  split
  · exact .bind .readCopy fun _ => .begin_
  · exact .bind .readCopy fun _ => .begin_
  · exact .begin_
  · exact .begin_
  · refine .bind .readIndices fun _ => ?_
    split
    · exact .throw
    · exact .begin_
  · refine .bind .whoNow fun _ => .bind .get fun _ => ?_
    split
    · exact .faultTrap
    · exact .bind .readMem fun _ => .begin_
  · exact .begin_
  · exact .begin_
  · exact .startMma
  · exact .startMcb
  · exact .bind .retain fun _ => .begin_
  · exact .bind .startStore fun _ => .begin_
  · exact .begin_
theorem State.MemOk.startCommand {c e id} (h : s.MemOk) : (s.startCommand c e id).MemOk := by
  unfold State.startCommand
  split
  · exact h
  · split
    · exact h
    · exact .ite (h.performCmd .startBody) h
theorem MemSafe.writeRunsAt {q l} : MemSafe (writeRunsAt q l) := .writeCmdRuns
theorem MemSafe.sendHeld {q k} : MemSafe (sendHeld q k) := .holdFor
theorem MemSafe.completeBody {e q x} : MemSafe (completeBody e q x) := by
  unfold Machine.completeBody
  dsimp only
  split
  · exact .bind .writeCmdRuns fun _ => .finish
  · exact .bind .writeRunsAt fun _ => .finish
  · exact .bind .writeRunsAt fun _ => .finish
  · exact .bind .writeRunsAt fun _ => .finish
  · exact .bind .sendHeld fun _ => .finish
  · exact .bind .sendHeld fun _ => .finish
  · exact .when .mmaSignal fun _ => .bind .writeTileRows fun _ => .bind .mstatFlags fun _ => .finish
  · exact .bind .writeTileRows fun _ => .finish
  · exact .bind .modifyJob fun _ => .bind .mstatFlags fun _ => .finish
  · exact .bind .writeRunsAt fun _ => .bind .mstatFlags fun _ => .ite .finish (.bind .modifyJob fun _ => .finish)
  · exact .bind .modifyJob fun _ => .finish
  · exact .finish
theorem State.MemOk.completeCommand {c e id} (h : s.MemOk) : (s.completeCommand c e id).MemOk := by
  unfold State.completeCommand
  split
  · exact h
  · split
    · exact h
    · split
      · exact h
      · exact .ite (h.performCmd .completeBody) h
theorem State.MemOk.deliver {c ch} (h : s.MemOk) : (s.deliver c ch).MemOk := by
  unfold State.deliver
  split
  · exact h
  · split
    · exact h
    · split
      · dsimp only
        split
        · exact h
        · exact .ite h (.ite h.setJob (.ite h h.setJob))
      · exact h

/-! ### Pending operations -/

theorem MemSafe.ldRead {o a ty} : MemSafe (ldRead o a ty) := .bind .readMem fun _ => .modifyJob
theorem MemSafe.readRows {n x} : MemSafe (readRows n x) := by
  induction x with
  | nil => exact .pure
  | cons a _ ih =>
    cases a with
    | none => exact .bind ih fun _ => .pure
    | some _ => exact .bind .readMem fun _ => .bind ih fun _ => .pure
theorem MemSafe.ldtRead {o a p ty q} : MemSafe (ldtRead o a p ty q) := .bind .readRows fun _ => .modifyJob
theorem MemSafe.gatherRows {o t p ty zero q idx} : MemSafe (gatherRows o t p ty zero q idx) := by
  unfold Machine.gatherRows
  refine .bind .readRows fun _ => .bind .modifyJob fun _ => .ite ?_ .pure
  refine .modify fun _ hs => .foldl (fun _ hs _ => ?_) _ hs
  split
  · exact hs.errorEvent
  · exact hs
theorem MemSafe.gatherRead {o t l p ty zero q} : MemSafe (gatherRead o t l p ty zero q) := by
  unfold Machine.gatherRead
  refine .bind .readIndices fun _ => .bind .get fun _ => ?_
  dsimp only
  split
  · exact .modifyJob
  · exact .gatherRows
theorem MemSafe.mrdRead {o tile posn} : MemSafe (mrdRead o tile posn) := .bind .whoNow fun _ => .bind .readLoc fun _ => .modifyJob
theorem State.MemOk.fillEntry {c id} (h : s.MemOk) : (s.fillEntry c id).MemOk := by
  unfold State.fillEntry
  split
  · exact h
  · split
    · exact h
    · refine .ite h ?_
      split
      · exact h.perform .ldRead
      · exact h.perform .ldtRead
      · exact h.perform .gatherRead
      · exact h.perform .mrdRead
      · exact h
      · exact h
theorem MemSafe.ownWord {p a} : MemSafe (ownWord p a) := by
  unfold Machine.ownWord
  refine .bind .whoNow fun _ => .bind .unveiled fun _ => .bind .get fun _ => .bind .getJob fun _ => ?_
  split
  · exact .throw
  · exact .bind .readPool fun _ => .pure
theorem MemSafe.arrive {o id sub v m} : MemSafe (arrive o id sub v m) := .bind .curCore fun _ => .modify fun _ hs => hs.onJob.recordArrival
theorem MemSafe.leave {o op a v c ga host} : MemSafe (atomicApply.leave o op a v c ga host) :=
  .bind .holdFor fun _ => .modifyJob
theorem MemSafe.atomicApply {o op a v c} : MemSafe (atomicApply o op a v c) := by
  unfold Machine.atomicApply
  refine .bind .whoNow fun _ => .bind .get fun _ => ?_
  split
  · exact .faultTrap
  · refine .ite (.bind .ownWord fun _ => .get_bind fun s h => ?_) .leave
    dsimp only
    split
    · rename_i t e
      exact .bind (.set (h.poolWrite t e)) fun _ => .arrive
    · exact .bind .stall fun _ => .arrive
    · exact .either .trap .stall fun _ => .arrive
  · exact .leave
  · exact .leave
theorem State.MemOk.applyAtomic {c id} (h : s.MemOk) : (s.applyAtomic c id).MemOk := by
  unfold State.applyAtomic
  split
  · exact h
  · split
    · exact h
    · refine .ite h ?_
      split
      · exact h
      · exact h.perform .atomicApply
      · exact h
theorem MemSafe.awaitTry {o cc a v} : MemSafe (awaitTry o cc a v) := by
  unfold Machine.awaitTry
  refine .bind .whoNow fun _ => .bind .get fun _ => .bind .getJob fun _ => ?_
  dsimp only
  split
  · exact .arrive
  · split
    · exact .faultTrap
    · exact .ite (.bind .ownWord fun _ => .ite .arrive .stall) (.bind .unveiled fun _ => .ite .arrive (.ite .arrive .stall))
    · split
      · exact .arrive
      · exact .bind .unveiled fun _ => .ite .arrive (.ite .arrive .stall)
    · exact .trap
theorem State.MemOk.watch (h : s.MemOk) : s.watch.MemOk := by
  unfold State.watch
  exact h.of_mem rfl
theorem State.MemOk.satisfyAwait {c id} (h : s.MemOk) : (s.satisfyAwait c id).MemOk := by
  unfold State.satisfyAwait
  split
  · exact h
  · split
    · exact h
    · refine .ite h ?_
      split
      · exact h.perform .awaitTry
      · exact h
theorem State.MemOk.pushToken {c st toNext} (h : s.MemOk) : (s.pushToken c st toNext).MemOk := by
  unfold State.pushToken
  split
  · exact h
  · dsimp only
    split
    · exact h
    · exact .ite h (.ite h.raise (.ite h.setJob h.setJob.settleFront))
end

end Sys2Proof.Machine
end
section
/-!
PROOF. O55: landing, the debug window and a job's start, save, restore and end keep the memory canonical.
-/
open Sys2Proof
namespace Sys2Proof.Machine

section
variable {s : State}

/-! ### Landing -/

theorem State.MemOk.undo {c acBase x} (h : s.MemOk) : (s.undo c acBase x).MemOk := by
  unfold State.undo
  split
  · exact .ite (h.pokeClear _ _).poisonRun (h.pokeClear _ _)
  · exact .foldl (fun _ hs _ => hs.poisonRun) _ (h.pokeClear _ _)
theorem State.MemOk.replayLog {c j bound} (h : s.MemOk) : (s.replayLog c j bound).MemOk := .foldl (fun _ hs _ => hs.undo) _ h
theorem State.MemOk.landSems {c j bound} (h : s.MemOk) : (s.landSems c j bound).MemOk := h.of_mem rfl
theorem State.MemOk.landTrace {c j bound kind} (h : s.MemOk) : (s.landTrace c j bound kind).MemOk := by
  unfold State.landTrace
  dsimp only
  split
  · exact h.onJob.traceRelease
  · exact h.onJob.traceRelease.trace.onJob.traceRelease
theorem State.MemOk.onSlot {c f} (h : s.MemOk) : (s.onSlot c f).MemOk := by
  unfold State.onSlot
  split
  · exact h.setCore
  · exact h
theorem State.MemOk.yielded {c j} (h : s.MemOk) : (s.yielded c j).MemOk := by
  unfold State.yielded
  split
  · exact h
  · exact .ite h.onSlot.setCore h.setJob.setJState
theorem State.MemOk.addSave {pn hd c} (h : s.MemOk) : (s.addSave pn hd c).MemOk := .ite h (h.of_mem rfl)
theorem State.MemOk.frontLand {c j l} (h : s.MemOk) : (s.frontLand c j l).MemOk := by
  unfold State.frontLand
  split
  · exact .ite h.frontTo h
  · exact h
theorem State.MemOk.landed {c j l} (h : s.MemOk) : (s.landed c j l).MemOk := by
  unfold State.landed
  dsimp only
  generalize e : State.landTrace _ _ _ _ _ = t
  have ht : t.MemOk := by
    rw [← e]
    exact .landTrace (.setJob (.onPart (.ite h.replayLog.landSems.onPart h.replayLog.landSems)))
  split
  · exact ht
  · exact .ite ht.yielded (.ite ht.setJState (.ite ht.setJState.onPart.msix (.ite ht.setJState.onPart.addSave ht.setJState.onPart)))
theorem State.MemOk.land {c} (h : s.MemOk) : (s.land c).MemOk := by
  unfold State.land
  split
  · exact h
  · split
    · exact h
    · refine .ite h ?_
      dsimp only
      split
      · exact h.frontLand
      · split
        · exact h.frontLand
        · exact .ite h.frontLand.landed h.frontLand
theorem State.MemOk.trapStuck {c} (h : s.MemOk) : (s.trapStuck c).MemOk := by
  unfold State.trapStuck
  split
  · exact h
  · split
    · exact h
    · exact .ite h (.foldl (fun _ hs _ => hs.raise) _ h)
theorem State.MemOk.hardPreempt {c} (h : s.MemOk) : (s.hardPreempt c).MemOk := by
  unfold State.hardPreempt
  split
  · exact h
  · dsimp only
    split
    · refine .ite (h.of_mem rfl) ?_
      split
      · exact .markLanding (.setJob (h.of_mem rfl))
      · exact .markLanding (.setJob (h.of_mem rfl))
      · exact .addSave (h.of_mem rfl)
      · exact h.of_mem rfl
    · exact h.of_mem rfl
theorem State.MemOk.clampSlot {c i q x} (h : s.MemOk) : (s.clampSlot c i q x).MemOk := by
  unfold State.clampSlot
  split
  · exact h
  · refine .setCore ?_
    split
    · split
      · rename_i t e
        exact h.writePieces t e
      · exact h
    · exact h
theorem State.MemOk.clampOff {x} (h : s.MemOk) : (State.applyClamp.off s x).MemOk := by
  unfold State.applyClamp.off
  split
  · split
    · exact h.clampSlot
    · exact h
  · exact h
theorem State.MemOk.applyClamp {k} (h : s.MemOk) : (s.applyClamp k).MemOk := by
  unfold State.applyClamp
  split
  · exact h
  · dsimp only
    have hgone : State.MemOk { s with clamps := s.clamps.eraseIdx k } := h.of_mem rfl
    split
    · refine .ite (.ite h ?_) hgone.clampOff
      split
      · exact hgone.setJob
      · exact .ite (.ite hgone.setJob (.ite hgone.setJob hgone.setJob)) hgone.setJob.markLanding
    · exact hgone.clampOff

/-! ### The debug window -/

theorem State.MemOk.debugStop {pn v} (h : s.MemOk) : (s.debugStop pn v).MemOk := by
  unfold State.debugStop
  split
  · exact h
  · dsimp only
    split
    · exact .ite h h.stopAt
    · exact h
theorem State.MemOk.onVf {pn f} (h : s.MemOk) : (s.onVf pn f).MemOk := .ite h.onPart h
theorem State.MemOk.traceWake {pn} (h : s.MemOk) : (s.traceWake pn).MemOk := by
  unfold State.traceWake
  split
  · exact h
  · exact .foldl (fun _ hs _ => hs.traceRelease) _ h.traceHeld
theorem State.MemOk.fireTimed {pn} (h : s.MemOk) : (s.fireTimed pn).MemOk := by
  unfold State.fireTimed
  split
  · exact h
  · exact .ite (.withFtime (.onPart h.withFtime.fireTrigger)) h
theorem State.MemOk.captureGroup {pn c j t} (h : s.MemOk) : (s.captureGroup pn c j t).MemOk := by
  unfold State.captureGroup
  dsimp only
  have hadd {l : List (List Word)} {f : State → List Word → TraceRec} {r} :
      ((l.foldl (fun (s : State) ws => s.addTrace c (f s ws)) (s.addTrace c r)).settleTrace c).MemOk :=
    .settleTrace (.foldl (fun _ hs _ => hs.addTrace) _ h.addTrace)
  split
  · refine .ite ?_ hadd
    split
    · rename_i t e
      exact h.sendGroup t e
    · exact hadd
  · split
    · rename_i t e
      exact h.sendGroup t e
    · exact hadd
theorem State.MemOk.capture {pn c} (h : s.MemOk) : (s.capture pn c).MemOk := by
  unfold State.capture
  split
  · exact h
  · split
    · exact h
    · refine .ite h ?_
      dsimp only
      split
      · exact .ite h.setPart.captureGroup h.setPart
      · exact h.setPart

/-! ### The jobs' life -/

theorem State.MemOk.preemptFor {c} (h : s.MemOk) : (s.preemptFor c).MemOk := by
  unfold State.preemptFor
  split
  · exact .ite (h.of_mem rfl) h
  · exact h
theorem State.MemOk.accept {c i q} (h : s.MemOk) : (s.accept c i q).MemOk := .ite h.setCore.preemptFor h.setCore
theorem State.MemOk.offer {l} (h : s.MemOk) : PairOk (s.offer l) := by
  unfold State.offer
  split
  · exact .mk h
  · dsimp only
    split
    · exact .mk h
    · split
      · exact .mk h
      · refine .ite (.mk h) (.ite (.mk h) (.mk (.foldl (fun _ hs _ => ?_) _ h.setPart.withJobs)))
        split
        · exact hs.accept
        · exact hs
theorem State.MemOk.offerLaunch {k} (h : s.MemOk) : (s.offerLaunch k).MemOk := by
  unfold State.offerLaunch
  split
  · split
    · exact h
    · exact h.offer.of_mem rfl
  · exact h
theorem State.MemOk.fillEntryOf {c hd st id v m} (h : s.MemOk) : (s.fillEntryOf c hd st id v m).MemOk := h.onJob
theorem State.MemOk.fillStatus {k} (h : s.MemOk) : (s.fillStatus k).MemOk := by
  unfold State.fillStatus
  split
  · exact h
  · split
    · exact h
    · exact .ite (.recordArrival (.fillEntryOf (h.of_mem rfl))) (h.of_mem rfl)
theorem State.MemOk.age {c i} (h : s.MemOk) : (s.age c i).MemOk := by
  unfold State.age
  split
  · exact h.setCore
  · exact h
theorem State.MemOk.setBlock {cl b x clear} (h : s.MemOk) : (s.setBlock cl b x clear).MemOk := h.of_mem rfl
theorem State.MemOk.allocBlocks {c hd r} (h : s.MemOk) (e : s.allocBlocks c hd = some r) : r.1.MemOk := by
  unfold State.allocBlocks at e
  dsimp only at e
  split at e
  · cases e
  · split at e
    · cases e
      exact h.setBlock.setBlock
    · split at e
      · cases e
        exact h.setBlock.setBlock
      · cases e
theorem State.MemOk.freeJobBlocks {c hd} (h : s.MemOk) : (s.freeJobBlocks c hd).MemOk := .foldl (fun _ hs _ => .ite hs.setBlock hs) _ h
theorem State.MemOk.keepContext {c hd} (h : s.MemOk) : (s.keepContext c hd).MemOk := by
  unfold State.keepContext
  split
  · exact .ite h (h.of_mem rfl)
  · exact h
theorem State.MemOk.contextBack {c hd b} (h : s.MemOk) : (s.contextBack c hd b).MemOk := by
  unfold State.contextBack
  split
  · exact h.setBlock
  · exact h
theorem State.MemOk.allocCrews {hd cores} (h : s.MemOk) : OptOk (s.allocCrews hd cores) :=
  .foldlM (fun _ hs _ => .ite (.some hs) (.ite .none (.some hs.withDies))) _ h
theorem State.MemOk.setSlot {c i q} (h : s.MemOk) : (s.setSlot c i q).MemOk := h.setCore
theorem State.MemOk.saveJob {c i q j0 live} (h : s.MemOk) : ExcOk (s.saveJob c i q j0 live) := by
  unfold State.saveJob
  dsimp only
  split
  · exact .error
  · split
    · exact .error
    · rename_i t e
      have ht := h.keepTrace.saveContext t e
      have hp {l f} : State.MemOk (State.onPart
          { ((t.keepContext c q.handle).freeJobBlocks c q.handle).scrub c q.part with preempts := l } q.part f) :=
        .onPart (.withPreempts ht.keepContext.freeJobBlocks.scrub)
      exact .ok (.setSlot (.getD (.toOption hp.writePieces) hp))
theorem State.MemOk.countsBack {c area pn map b fresh} (h : s.MemOk) : (s.countsBack c area pn map b fresh).MemOk :=
  .foldr (fun _ hs _ => .ite hs.setSem hs) _ h
theorem State.MemOk.granuleBack {pn c area g} (h : s.MemOk) : (s.granuleBack pn c area g).MemOk := by
  unfold State.granuleBack
  split
  · exact h.pokeClear _ _
  · exact h
theorem State.MemOk.rangeBack {pn c area x} (h : s.MemOk) : (s.rangeBack pn c area x).MemOk := by
  unfold State.rangeBack
  refine .foldl (fun _ hs _ => ?_) _ h
  split
  · exact hs.pokeClear _ _
  · exact hs
theorem State.MemOk.takeCore {c i q j} (h : s.MemOk) : (s.takeCore c i q j).MemOk := h.setSlot.setCore.markLanding
theorem State.MemOk.restoreFailed {c i q cause} (h : s.MemOk) : (s.restoreFailed c i q cause).MemOk := h.setSlot.onPart
theorem State.MemOk.restoreJob {c i q old area} (h : s.MemOk) : OptOk (s.restoreJob c i q old area) := by
  unfold State.restoreJob
  split
  · exact .some h.restoreFailed
  · refine .ite (.some h.restoreFailed) ?_
    split
    · exact .none
    · rename_i t _ _ _ e
      have ht : t.MemOk := h.allocBlocks e
      refine .some (.takeCore (.onPart (.ite (.setCore ?_) (.setCore ?_))))
      all_goals
        refine .ite (.foldl (fun _ ht _ => ht.rangeBack) _ (.clearPool ?_ _ _)) (.foldl (fun _ ht _ => ht.granuleBack) _ ?_)
        all_goals exact .ite ht.countsBack.contextBack ht.countsBack
theorem State.MemOk.freshJob {c i q} (h : s.MemOk) : OptOk (s.freshJob c i q) := by
  unfold State.freshJob
  split
  · exact .none
  · rename_i t _ _ _ e
    have ht : t.MemOk := h.allocBlocks e
    refine .some (.takeCore (.withCode (.setCore ?_)))
    split
    · exact ht.pokeClear _ _
    · exact ht
theorem State.MemOk.clearLeft {c i} (h : s.MemOk) : PairOk (s.clearLeft c i) := by
  unfold State.clearLeft
  split
  · exact .mk h
  · split
    · rename_i t e
      exact .mk (State.MemOk.setSlot (h.saveJob t e))
    · exact .mk h.setSlot.setCore
theorem State.MemOk.startJob {c i q} (h : s.MemOk) : OptOk (s.startJob c i q) := by
  unfold State.startJob
  split
  · exact .some h.takeCore
  · exact h.restoreJob
  · exact h.freshJob
theorem State.MemOk.choose {c} (h : s.MemOk) : (s.choose c).MemOk := by
  unfold State.choose
  refine .ite h ?_
  split
  · exact h
  · dsimp only
    have hx {i k} : ((s.setCore c k).clearLeft c i).1.MemOk := h.setCore.clearLeft
    refine .ite (.ite hx ?_) h.setCore
    split
    · rename_i t e
      exact State.MemOk.of_mem ((OptOk.bind fun _ => hx.startJob) t e) rfl
    · exact h
theorem State.MemOk.startHeld {hd c} (h : s.MemOk) : OptOk (s.startHeld hd c) := by
  unfold State.startHeld
  split
  · exact h.startJob
  · exact .some h
theorem State.MemOk.startLaunch {hd} (h : s.MemOk) : (s.startLaunch hd).MemOk := by
  unfold State.startLaunch
  split
  · exact h
  · dsimp only
    refine .ite h ?_
    generalize e : List.foldl _ (s, true) _ = r
    have hr : PairOk r := by
      rw [← e]
      exact PairOk.foldl (fun _ hr _ => .mk (State.MemOk.clearLeft hr)) _ (.mk h)
    refine .ite hr ?_
    split
    · exact h
    · rename_i t e
      have ht : t.MemOk := OptOk.ite (.some hr) (State.MemOk.allocCrews hr) t e
      split
      · rename_i u e
        exact .withJobs (OptOk.foldlM (fun _ hs _ => hs.startHeld) _ ht u e)
      · exact h
theorem State.MemOk.complete {g} (h : s.MemOk) : (s.complete g).MemOk := by
  unfold State.complete
  refine .withJobsDies (.onPart ?_)
  split
  · exact .ite h.report (.getD h.ringPut h.report)
  · exact h
theorem State.MemOk.leaveCore {c hd} (h : s.MemOk) : (s.leaveCore c hd).MemOk := by
  unfold State.leaveCore
  dsimp only
  split
  · refine .ite ?_ ?_
    · refine .setCore (.keepTrace ?_)
      split
      · exact h.setSlot
      · exact h
    · split
      · exact h.setSlot
      · exact h
  · split
    · exact h.setSlot
    · exact h
theorem State.MemOk.endOn {c} (h : s.MemOk) : (s.endOn c).MemOk := by
  unfold State.endOn
  split
  · exact h.setSlot.setCore
  · exact h
theorem State.MemOk.pokeTiles {c j} (h : s.MemOk) : (s.pokeTiles c j).MemOk := .foldl (fun _ ht _ => (ht.pokeClear _ _)) _ h
theorem State.MemOk.endJob {c} (h : s.MemOk) : (s.endJob c).MemOk := by
  unfold State.endJob
  dsimp only
  split
  · refine .ite h ?_
    have hend {c j l} : State.MemOk
        { ((((s.settleFront c).pokeTiles c j).traceRelease c |>.endOn c).keepContext c j.handle).freeJobBlocks c j.handle with jobs := l } :=
      .withJobs h.settleFront.pokeTiles.traceRelease.endOn.keepContext.freeJobBlocks
    split
    · exact hend.leaveCore
    · refine .ite (.complete ?_) ?_
      all_goals exact .ite (.foldl (fun _ hs _ => hs.leaveCore) _ hend) hend
  · exact h
theorem State.MemOk.enterEvent {pn} (h : s.MemOk) : (s.enterEvent pn).MemOk := by
  unfold State.enterEvent
  split
  · exact h
  · split
    · exact h
    · refine .ite h (.setPart (.setJob ?_))
      split
      · exact h.of_mem rfl
      · exact h
theorem State.MemOk.fireTimer {pn} (h : s.MemOk) : (s.fireTimer pn).MemOk := h.onPart
theorem State.MemOk.serveSem {cl phys} (h : s.MemOk) : (s.serveSem cl phys).MemOk := by
  unfold State.serveSem
  dsimp only
  split
  · exact h
  · refine .ite h ?_
    split
    · exact h.setSem.onJob.raise
    · exact h.setSem.onJob
theorem State.MemOk.timeoutSem {c} (h : s.MemOk) : (s.timeoutSem c).MemOk := by
  unfold State.timeoutSem
  dsimp only
  split
  · exact h
  · exact .onJob (h.of_mem rfl)
theorem State.MemOk.passBarr {hd crew cores} (h : s.MemOk) : (s.passBarr hd crew cores).MemOk := by
  unfold State.passBarr
  refine .foldl (fun _ hs _ => ?_) _ h
  split
  · refine .ite hs ?_
    split
    · exact .ite hs.setJob hs
    · exact hs
  · exact hs
theorem State.MemOk.countArrivalOf {c crew} (h : s.MemOk) : (s.countArrivalOf c crew).MemOk := by
  unfold State.countArrivalOf
  dsimp only
  split
  · exact h
  · split
    · exact h
    · split
      · exact h
      · have hj {j} : ((s.settleFront c).setJob c j).MemOk := h.settleFront.setJob
        refine .ite h (.ite (.ite hj hj.withJobs) (.ite (.passBarr hj.withDies) ?_))
        split
        · exact hj.setBlock.passBarr
        · exact hj
theorem State.MemOk.timeoutBarr {c} (h : s.MemOk) : (s.timeoutBarr c).MemOk := h.onJob
theorem State.MemOk.passStep {hd} (h : s.MemOk) : (s.passStep hd).MemOk := by
  unfold State.passStep
  split
  · exact h
  · exact .foldl (fun _ hs _ => hs.onJob) _ h
end

end Sys2Proof.Machine
end
section
/-!
PROOF. O55: remote operations, fleet messages and Mitten's commands keep the memory canonical.
-/
open Sys2Proof
namespace Sys2Proof.Machine

section
variable {s : State}

/-! ### Remote operations and fleet messages -/

theorem State.MemOk.putTarget {t bs bad} (h : s.MemOk) : (s.putTarget t bs bad).MemOk := by
  unfold State.putTarget
  split
  · exact h
  · exact .ite (h.pokeHome _ _).poisonRun (h.pokeHome _ _)
theorem State.MemOk.putPieces {pn l bs bad} (h : s.MemOk) : (s.putPieces pn l bs bad).MemOk := by
  induction l generalizing s bs bad with
  | nil => exact h
  | cons x l ih =>
    refine ih ?_
    split
    · split
      · exact h.slotWrite
      · exact h.putTarget
    · exact h.putTarget
theorem State.MemOk.cleanLines {xs} (h : s.MemOk) : (s.cleanLines xs).MemOk := .foldl (fun _ hs _ => .ite hs.cleanLine hs) _ h
theorem State.MemOk.putRun {pn l bs bad} (h : s.MemOk) : (s.putRun pn l bs bad).MemOk := h.putPieces.cleanLines
theorem State.MemOk.addRun {l bs} (h : s.MemOk) : (s.addRun l bs).MemOk := by
  induction l generalizing s bs with
  | nil => exact h
  | cons x l ih =>
    obtain ⟨t, n⟩ := x
    cases t with
    | here k c => exact ih h.putTarget
    | away => exact ih h
theorem State.MemOk.raiseFlag {x} (h : s.MemOk) : (s.raiseFlag x).MemOk := by
  unfold State.raiseFlag
  split
  · exact h.putTarget
  · exact h
theorem State.MemOk.onJobOf {c hd f} (h : s.MemOk) : (s.onJobOf c hd f).MemOk := by
  unfold State.onJobOf
  dsimp only
  split
  · exact .ite h.setJob h.setCore
  · exact h.setCore
theorem State.MemOk.failLate {c hd t} (h : s.MemOk) : (s.failLate c hd t).MemOk := .ite h.onJobOf.markLanding h.onJobOf
theorem State.MemOk.failStore {c hd o ga reason} (h : s.MemOk) : (s.failStore c hd o ga reason).MemOk := h.failLate
theorem State.MemOk.answer {k r v m} (h : s.MemOk) : (s.answer k r v m).MemOk :=
  .ite (h.of_mem rfl) (.settleFront (.recordArrival (.onJob (h.of_mem rfl))))
theorem State.MemOk.fail {k r reason} (h : s.MemOk) : (s.fail k r reason).MemOk := by
  unfold State.fail
  split
  · exact .failStore (h.of_mem rfl)
  · exact .failStore (h.of_mem rfl)
  · exact h.answer
theorem State.MemOk.atomicAt {k r op v c t} (h : s.MemOk) : (s.atomicAt k r op v c t).MemOk := by
  unfold State.atomicAt
  split
  · exact h.answer
  · exact .ite h h.putTarget.answer
theorem State.MemOk.applyRemote {k} (h : s.MemOk) : (s.applyRemote k).MemOk := by
  unfold State.applyRemote
  split
  · exact h
  · refine .ite h ?_
    split
    · exact h.fail
    · refine .ite h ?_
      split
      · exact h
      · split
        · exact h.fail
        · exact h.fail
        · exact .ite (.failLate (h.of_mem rfl)) (.ite h (.raiseFlag (.ite (.addRun (h.of_mem rfl)) (.putRun (h.of_mem rfl)))))
      · split
        · exact h.fail
        · exact .ite h (.putTarget (h.of_mem rfl))
      · split
        · exact h.fail
        · exact .ite h h.atomicAt
      · exact h.atomicAt
theorem State.MemOk.readRemote {k} (h : s.MemOk) : (s.readRemote k).MemOk := by
  unfold State.readRemote
  split
  · exact h
  · refine .ite h ?_
    split
    · exact .ite h.fail h
    · refine .ite h ?_
      split
      · split
        · exact h.fail
        · exact h.answer
        · exact .ite h h.answer
      · exact h
theorem State.MemOk.failRequest {k reason r} (h : s.MemOk) : (s.failRequest k reason r).MemOk := by
  unfold State.failRequest
  refine .ite h ?_
  split
  · exact h.fail
  · refine .ite h (.ite ?_ ?_)
    · split <;> exact .ite h.fail h
    · split
      · exact h.fail
      · exact h
theorem State.MemOk.timeoutRequest {k r} (h : s.MemOk) : (s.timeoutRequest k r).MemOk := by
  unfold State.timeoutRequest
  split <;> exact .ite h.fail h
theorem State.MemOk.eraseChunk {k x} (h : s.MemOk) : (s.eraseChunk k x).MemOk := h.of_mem rfl
theorem State.MemOk.failChunk {k x reason} (h : s.MemOk) : (s.failChunk k x reason).MemOk := h.eraseChunk.failStore
theorem State.MemOk.failRemote {k reason} (h : s.MemOk) : (s.failRemote k reason).MemOk := by
  unfold State.failRemote
  split
  · exact h.failRequest
  · split
    · exact .ite h.failChunk h
    · exact h
theorem State.MemOk.timeoutRemote {k} (h : s.MemOk) : (s.timeoutRemote k).MemOk := by
  unfold State.timeoutRemote
  split
  · exact h.timeoutRequest
  · split
    · exact .ite h.failChunk h
    · exact h
theorem State.MemOk.departChunk {c id} (h : s.MemOk) : (s.departChunk c id).MemOk := by
  unfold State.departChunk
  split
  · exact h
  · refine .ite h ?_
    split
    · exact .failStore (h.of_mem rfl)
    · exact .ite h (.numbered (h.of_mem rfl))
    · exact h
theorem State.MemOk.arriveChunk {k} (h : s.MemOk) : (s.arriveChunk k).MemOk := by
  unfold State.arriveChunk
  split
  · exact h
  · refine .ite h (.ite ?_ ?_)
    · split
      · exact h.failChunk
      · exact .ite h (h.of_mem rfl)
      · exact h
    · refine .ite h ?_
      dsimp only
      split
      · exact h.eraseChunk.failStore
      · exact .ite h.eraseChunk.failLate (.ite h h.eraseChunk.putRun.settleFront)
theorem State.MemOk.pubFlip {k} (h : s.MemOk) : (s.pubFlip k).MemOk := by
  unfold State.pubFlip
  split
  · split
    · exact .ite h (.flipImages (h.of_mem rfl))
    · exact h
  · exact h
theorem State.MemOk.tlbiDone {k x} (h : s.MemOk) : (s.tlbiDone k x).MemOk := .fillEntryOf (h.of_mem rfl)
theorem State.MemOk.tlbiRun {k} (h : s.MemOk) : (s.tlbiRun k).MemOk := by
  unfold State.tlbiRun
  split
  · split
    · exact .ite h h.tlbiDone
    · exact .ite h (.ite (h.of_mem rfl) (.tlbiDone (h.of_mem rfl)))
    · exact h
  · exact h
theorem State.MemOk.releaseLogWait {k} (h : s.MemOk) : (s.releaseLogWait k).MemOk := by
  have hl : State.MemOk { s with logWaits := s.logWaits.eraseIdx k } := h.of_mem rfl
  unfold State.releaseLogWait
  split
  · split
    · exact .ite h (hl.pokeClear _ _)
    · exact hl.pokeHome _ _
  · exact h
theorem State.MemOk.patrol {d line bad} (h : s.MemOk) : (s.patrol d line bad).MemOk := .ite h.poisonRun.report h
theorem State.MemOk.setCount {d k v} (h : s.MemOk) : (s.setCount d k v).MemOk := h.setClock
theorem State.MemOk.fleetWrite {k} (h : s.MemOk) : (s.fleetWrite k).MemOk := by
  have hl {a bs} : (State.pokeClear { s with fleet := s.fleet.eraseIdx k } a bs).MemOk :=
    State.MemOk.pokeClear (s := { s with fleet := s.fleet.eraseIdx k }) (h.of_mem rfl) a bs
  unfold State.fleetWrite
  split
  · refine .ite h ?_
    dsimp only
    split
    · exact .settleFront (.forward (.setCount (.ite hl.poisonRun (.ite hl.cleanLine hl))))
    · exact .forward (.setCount (.ite hl.poisonRun (.ite hl.cleanLine hl)))
  · exact h
theorem State.MemOk.fleetUpdate {k} (h : s.MemOk) : (s.fleetUpdate k).MemOk := by
  unfold State.fleetUpdate
  split
  · exact .ite h (.setCount (h.of_mem rfl))
  · exact .ite h (.setCount (h.of_mem rfl))
  · exact h
theorem State.MemOk.fleetFetch {k} (h : s.MemOk) : (s.fleetFetch k).MemOk := by
  unfold State.fleetFetch
  split
  · exact .ite h (h.of_mem rfl)
  · exact h
theorem State.MemOk.fleetReceipt {k} (h : s.MemOk) : (s.fleetReceipt k).MemOk := by
  unfold State.fleetReceipt
  split
  · exact .ite h (h.of_mem rfl)
  · exact h

/-! ### Mitten's commands -/

theorem State.MemOk.saveOn {hd c live} (h : s.MemOk) : ExcOk (s.saveOn hd c live) := by
  unfold State.saveOn
  split
  · exact .ite (.ok h) (h.saveJob.mapState fun _ ht => ht.setCore)
  · exact .ok h
theorem State.MemOk.saveAll {hd live cs} (h : s.MemOk) : ExcOk (s.saveAll hd live cs) := .foldlM (fun _ hs _ => hs.saveOn) _ h
theorem State.MemOk.putResult {pn slot n} (h : s.MemOk) : (s.putResult pn slot n).MemOk := by
  unfold State.putResult
  split
  · exact .getD (.toOption h.partWrite) h
  · exact h
theorem State.MemOk.takeCommand {pn slot live} (h : s.MemOk) : (s.takeCommand pn slot live).MemOk := by
  unfold State.takeCommand
  split
  · exact h
  · split
    · exact h
    · exact .ite h (.putResult (.withSaves h.setPart))
theorem State.MemOk.endCommand {k x} (h : s.MemOk) : (s.endCommand k x).MemOk := by
  unfold State.endCommand
  split
  · exact h.of_mem rfl
  · refine .ite h ?_
    dsimp only
    split
    · exact .raiseFlag (.setPart (h.of_mem rfl))
    · exact .setPart (h.of_mem rfl)
theorem State.MemOk.saveDone {k} (h : s.MemOk) : (s.saveDone k).MemOk := by
  unfold State.saveDone
  split
  · exact h
  · split
    · split
      · rename_i t e
        exact .withSaves (h.saveAll t e)
      · exact h.withSaves
    · refine .endCommand (.withSaves ?_)
      split
      · rename_i t e
        exact h.saveAll t e
      · exact h.putResult
end

end Sys2Proof.Machine
end
section
/-!
PROOF. O55: the host, Brim's requests, the fabric and Cuff keep the memory canonical.
-/
open Sys2Proof
namespace Sys2Proof.Machine

section
variable {s : State}

/-! ### The host and Brim -/

theorem State.MemOk.mail {pn n msg whole} (h : s.MemOk) : (s.mail pn n msg whole).MemOk := by
  unfold State.mail
  split
  · exact .ite h (.ite h.setPart h)
  · exact h
theorem State.MemOk.ask {n msg whole} (h : s.MemOk) : (s.ask n msg whole).MemOk := .ite h (h.of_mem rfl)
theorem State.MemOk.hostPut {pn t bs} (h : s.MemOk) : (s.hostPut pn t bs).MemOk := by
  unfold State.hostPut
  split
  · exact h.foreignWrite
  · exact h.pokeHome _ _
  · exact h
theorem State.MemOk.hostWrite {pn a bs} (h : s.MemOk) : (s.hostWrite pn a bs).MemOk := by
  unfold State.hostWrite
  split
  · exact h
  · refine .ite h ?_
    split
    · exact .traceWake (.cleanLines (.foldl (fun _ hs _ => hs.hostPut) _ h))
    · exact h
theorem State.MemOk.hostAtomic {pn a op width v c} (h : s.MemOk) : (s.hostAtomic pn a op width v c).MemOk := by
  unfold State.hostAtomic
  split
  · refine .ite h ?_
    split
    · exact h
    · refine .ite h ?_
      split
      · exact .ite h (h.pokeClear _ _)
      · exact h
  · exact h
theorem State.MemOk.startSup {pn n} (h : s.MemOk) : OptOk (s.startSup pn n) := by
  unfold State.startSup
  split
  · exact .none
  · split
    · exact .none
    · exact OptOk.mapState (State.MemOk.freshJob h.setSlot.setPart.withJobs) fun _ ht => ht.onJob
theorem State.MemOk.endSup {p} (h : s.MemOk) : (s.endSup p).MemOk := by
  unfold State.endSup
  exact .withJobs h.freeJobBlocks.leaveCore
theorem State.MemOk.resumeSup {pn} (h : s.MemOk) : (s.resumeSup pn).MemOk := by
  unfold State.resumeSup
  split
  · exact .ite h.resumeLaunch.onPart h
  · exact h
theorem State.MemOk.restartSup {pn} (h : s.MemOk) : (s.restartSup pn).MemOk := by
  unfold State.restartSup
  split
  · exact .ite h (.ite (.getD h.endSup.startSup h) h.setPart)
  · exact h
theorem State.MemOk.restartsDue (h : s.MemOk) : s.restartsDue.MemOk := .foldl (fun _ hs _ => .ite hs.onPart.restartSup hs) _ h
theorem State.MemOk.writeBar0 {fn off v} (h : s.MemOk) : (s.writeBar0 fn off v).MemOk := by
  unfold State.writeBar0
  split
  · exact .ite (h.of_mem rfl) h
  · refine .ite h.mail (.ite (.ite h.resumeSup (.ite h.restartSup h)) ?_)
    exact .ite h.onVf (.ite h.onVf (.ite h.onVf (.ite h.onVf (.ite h.onVf (.ite (.ite h.debugStop h) h)))))
theorem State.MemOk.setVf {on} (h : s.MemOk) : (s.setVf on).MemOk := .ite h (.ite h.withModule h.withModule.withParts)
theorem State.MemOk.tearCore {c} (h : s.MemOk) : (s.tearCore c).MemOk := .ite h.setCore.onJob.markLanding h.setCore
theorem State.MemOk.dropJobs {pn p} (h : s.MemOk) : (s.dropJobs pn p).MemOk := by
  unfold State.dropJobs
  dsimp only
  generalize e : List.foldl _ s p.cores = t
  have ht : t.MemOk := by
    rw [← e]
    exact .foldl (fun _ hs _ => hs.scrub.setCore) _ h
  exact ht.of_mem rfl
theorem State.MemOk.tear {pn} (h : s.MemOk) : (s.tear pn).MemOk := by
  unfold State.tear
  split
  · exact h
  · dsimp only
    split
    · exact .onPart (.foldl (fun _ hs _ => hs.tearCore) _ (h.of_mem rfl))
    · exact .ite h (.onPart (.report (h.of_mem rfl)))
    · exact h.setPart
    · exact h.onPart
    · exact h.dropJobs.onPart
    · exact h
theorem State.MemOk.askQuote {fn nonce} (h : s.MemOk) : (s.askQuote fn nonce).MemOk := by
  unfold State.askQuote
  refine .ite h ?_
  split
  · split
    · exact h.setPart
    · exact h
  · exact h.of_mem rfl
theorem State.MemOk.putQuote {fn q} (h : s.MemOk) : (s.putQuote fn q).MemOk := by
  unfold State.putQuote
  dsimp only
  split
  · split
    · exact .ite (.setPart (h.of_mem rfl)) h
    · exact h
  · exact .ite (h.of_mem rfl) h
theorem State.MemOk.reply {bs status operands} (h : s.MemOk) : (s.reply bs status operands).MemOk := .msix (h.of_mem rfl)
theorem State.MemOk.takeRequest {op bs} (h : s.MemOk) : OptOk (s.takeRequest op bs) := .ite .none (.map fun _ => h.withModule)
theorem State.MemOk.carryOut {pn clmask groups x} (h : s.MemOk) : (s.carryOut pn clmask groups x).MemOk := by
  unfold State.carryOut
  dsimp only
  generalize e : List.foldl _ _ groups = t
  have ht : t.MemOk := by
    rw [← e]
    exact .foldl (fun _ hs _ => hs.setGroup) _ (.pokeHome (.foldl (fun _ hs _ => hs.pokeHome _ _) _ h.setPart) _ _)
  exact ht.of_mem rfl
theorem State.MemOk.create {bs x} (h : s.MemOk) : (s.create bs x).MemOk := by
  unfold State.create
  split
  · exact h
  · rename_i t e
    have ht := h.takeRequest t e
    refine .ite ht.reply ?_
    dsimp only
    split
    · exact ht.reply
    · refine .ite ht.reply (.ite ht.reply ?_)
      split
      · rename_i u e
        exact (ht.carryOut.startSup u e).reply
      · exact ht.reply
theorem State.MemOk.freeGroups {pn} (h : s.MemOk) : (s.freeGroups pn).MemOk := .foldl (fun _ hs _ => .ite hs.setGroup hs) _ h
theorem State.MemOk.destroy {bs} (h : s.MemOk) : (s.destroy bs).MemOk := by
  unfold State.destroy
  split
  · exact h
  · rename_i t e
    have ht := h.takeRequest t e
    refine .ite ht.reply ?_
    dsimp only
    split
    · exact ht.reply
    · exact .ite ht.reply (.ite ht.reply (.reply (State.MemOk.freeGroups (ht.dropJobs.zeroUnits _) |>.withOwnersParts)))
theorem State.MemOk.telemetryReply {bs} (h : s.MemOk) : (s.telemetryReply bs).MemOk := by
  unfold State.telemetryReply
  split
  · exact h
  · rename_i t e
    have ht := h.takeRequest t e
    exact .ite ht.reply ht.reply
theorem State.MemOk.askPersonality {bs} (h : s.MemOk) : (s.askPersonality bs).MemOk := by
  unfold State.askPersonality
  split
  · exact h
  · rename_i t e
    have ht := h.takeRequest t e
    exact .ite ht.reply (.ite ht.reply ht.setGroup.reply)
theorem State.MemOk.setNode {bs} (h : s.MemOk) : (s.setNode bs).MemOk := by
  unfold State.setNode
  split
  · exact h
  · rename_i t e
    have ht := h.takeRequest t e
    exact .ite ht.reply (.ite ht.reply (.reply ht.withModule))
theorem State.MemOk.raiseRecovery (h : s.MemOk) : s.raiseRecovery.MemOk := .foldl (fun _ hs _ => hs.msix) _ h.msix
theorem State.MemOk.openRecovery (h : s.MemOk) : s.openRecovery.MemOk := .raiseRecovery (h.of_mem rfl)
theorem State.MemOk.brimTimeout (h : s.MemOk) : s.brimTimeout.MemOk := .ite h.openRecovery h
theorem State.MemOk.recovery {msg} (h : s.MemOk) : (s.recovery msg).MemOk := by
  unfold State.recovery
  refine .ite h ?_
  dsimp only
  split
  · exact h.of_mem rfl
  · split
    · exact h.of_mem rfl
    · exact .restartsDue (.raiseRecovery (h.of_mem rfl))
theorem State.MemOk.bringUp (h : s.MemOk) : s.bringUp.MemOk := by
  unfold State.bringUp
  dsimp only
  split
  · refine .ite h.withModule (.ite h ?_)
    split
    · exact h.withModule
    · exact h.openRecovery
  · exact h.zeroDram
  · exact h.withModule
  · exact h

/-! ### The fabric -/

theorem State.MemOk.setPort {g x} (h : s.MemOk) : (s.setPort g x).MemOk := .ite h.setGroup (h.of_mem rfl)
theorem State.MemOk.drain {g} (h : s.MemOk) : (s.drain g).MemOk := h.of_mem rfl
theorem State.MemOk.flipEmap {g} (h : s.MemOk) : (s.flipEmap g).MemOk := by
  unfold State.flipEmap
  exact h.withParts
theorem State.MemOk.newEpoch (h : s.MemOk) : s.newEpoch.MemOk := h.of_mem rfl
theorem State.MemOk.part_ (h : s.MemOk) : s.part_.MemOk := h.of_mem rfl
theorem State.MemOk.rejoin (h : s.MemOk) : s.rejoin.MemOk := h.of_mem rfl
theorem State.MemOk.alignAll {ok} (h : s.MemOk) : (s.alignAll ok).MemOk := .foldl (fun _ hs _ => hs.setGroup) _ h
theorem State.MemOk.estimate (h : s.MemOk) : s.estimate.MemOk := by
  unfold State.estimate
  split
  exact .ite h.withModule.alignAll h.withModule.alignAll
theorem State.MemOk.linkUp {g x st} (h : s.MemOk) : (s.linkUp g x st).MemOk := by
  unfold State.linkUp
  refine .newEpoch (.ite (.rejoin (.ite (.estimate ?_) ?_)) (.ite (.estimate ?_) ?_))
  all_goals exact .ite h.setPort.flipEmap h.setPort
theorem State.MemOk.linkDown {g x reason} (h : s.MemOk) : (s.linkDown g x reason).MemOk :=
  .newEpoch (.ite (.part_ (.ite h.setPort.flipEmap h.setPort)) (.ite h.setPort.flipEmap h.setPort))
theorem State.MemOk.taken {g} (h : s.MemOk) : (s.taken g).MemOk := .ite h.setPort h
theorem State.MemOk.badFlit {g x} (h : s.MemOk) : (s.badFlit g x).MemOk := .ite h.linkDown h.setPort
theorem State.MemOk.arrive {g type bs f} (h : s.MemOk) (hf : ∀ x, (f x).MemOk) : (s.arrive g type bs f).MemOk :=
  .ite h (.ite h.badFlit (.ite (.ite h h.setPort) (hf _).taken))
theorem State.MemOk.beginChange {g} (h : s.MemOk) : (s.beginChange g).MemOk := .ite h h.drain.setPort
theorem State.MemOk.persReqd {g bs} (h : s.MemOk) : (s.persReqd g bs).MemOk := h.arrive fun _ => .ite h.setPort h.drain.setPort
theorem State.MemOk.dropLink {g} (h : s.MemOk) : (s.dropLink g).MemOk := .ite h (.ite h.setPort.flipEmap.newEpoch h.setPort)
theorem State.MemOk.compare {g x} (h : s.MemOk) : (s.compare g x).MemOk := by
  unfold State.compare
  refine .ite h.linkDown (.ite h.linkUp (.ite h.setPort ?_))
  split
  · exact h.linkUp
  · exact h.linkDown
theorem State.MemOk.describe {g bs} (h : s.MemOk) : (s.describe g bs).MemOk := h.arrive fun _ => .ite h.setPort h.compare
theorem State.MemOk.trained {g width speed} (h : s.MemOk) : (s.trained g width speed).MemOk :=
  .ite h (.ite (.ite h.setPort h.compare) h.linkUp)
theorem State.MemOk.goDown {g reason} (h : s.MemOk) : (s.goDown g reason).MemOk := .ite h h.linkDown
theorem State.MemOk.sample {g lane flits corrected eye} (h : s.MemOk) : (s.sample g lane flits corrected eye).MemOk :=
  .ite h (.ite h.setPort (.ite h.setPort h.setPort))
theorem State.MemOk.swapReqd {g bs} (h : s.MemOk) : (s.swapReqd g bs).MemOk :=
  h.arrive fun _ => .ite h.setPort (.ite h.setPort h.setPort)
theorem State.MemOk.swapAckd {g bs} (h : s.MemOk) : (s.swapAckd g bs).MemOk := h.arrive fun _ => h.setPort
theorem State.MemOk.rotate {g} (h : s.MemOk) : (s.rotate g).MemOk := .ite h h.setPort
theorem State.MemOk.keyChanged {g bs} (h : s.MemOk) : (s.keyChanged g bs).MemOk := h.arrive fun _ => h.setPort
theorem State.MemOk.keyAcked {g bs} (h : s.MemOk) : (s.keyAcked g bs).MemOk := h.arrive fun _ => h.setPort
theorem State.MemOk.flowAt {g} (h : s.MemOk) : (s.flowAt g).MemOk := by
  unfold State.flowAt
  refine .ite h ?_
  split
  exact .ite h.linkDown h.setPort
theorem State.MemOk.flow (h : s.MemOk) : s.flow.MemOk := .foldl (fun _ hs _ => hs.flowAt) _ h
theorem State.MemOk.sendTime {g} (h : s.MemOk) : (s.sendTime g).MemOk := .ite h.setPort h
theorem State.MemOk.takeTime {g bs} (h : s.MemOk) : (s.takeTime g bs).MemOk :=
  h.arrive fun _ => .ite (.alignAll h.setPort.withModule) h.setPort.estimate
theorem State.MemOk.loseJob {hd pn c} (h : s.MemOk) : (s.loseJob hd pn c).MemOk := by
  unfold State.loseJob
  split
  · exact h
  · exact .leaveCore (.ite h.freeJobBlocks.scrub h)
theorem State.MemOk.split {hd} (h : s.MemOk) : (s.split hd).MemOk := by
  unfold State.split
  split
  · exact h
  · refine .ite h (.ite ?_ ?_)
    · exact .foldl (fun _ hs _ => .ite hs.onJob.markLanding hs) _ h.withJobs
    · exact .complete (.foldl (fun _ hs _ => hs.leaveCore) _ (.foldl (fun _ hs _ => hs.loseJob) _ h.withJobs))

/-! ### Cuff -/

theorem State.MemOk.cuffWrite {pn a bs} (h : s.MemOk) : (s.cuffWrite pn a bs).MemOk := by
  unfold State.cuffWrite
  refine .foldl (fun _ hs _ => ?_) _ h
  split
  · exact hs.pokeHome _ _
  · exact hs
theorem State.MemOk.openSlot {pn p g} (h : s.MemOk) : (s.openSlot pn p g).MemOk := .foldl (fun _ hs _ => hs.cuffWrite) _ h.cuffWrite
theorem State.MemOk.openFor {pn p g} (h : s.MemOk) : (s.openFor pn p g).MemOk := .ite h h.openSlot
theorem State.MemOk.pair {pn feed force kwsize} (h : s.MemOk) : (s.pair pn feed force kwsize).MemOk := by
  unfold State.pair
  split
  · exact h
  · exact .ite h (.ite h.setPart (.ite h.cuffWrite.setPart h.cuffWrite.setPart.openSlot))
theorem State.MemOk.keep {pn g a data} (h : s.MemOk) : (s.keep pn g a data).MemOk := by
  unfold State.keep
  split
  · exact h
  · refine .ite h ?_
    dsimp only
    split
    · exact h.pokeHome _ _
    · exact (h.pokeHome _ _).openFor.cuffWrite.cuffWrite
theorem State.MemOk.sealPage {pn p g before i} (h : s.MemOk) : PairOk (s.sealPage pn p g before i) :=
  .ite (.mk h.cuffWrite) (.ite (.mk h.cuffWrite.cuffWrite) (.mk h.cuffWrite))
theorem State.MemOk.sealKept {pn p g} (h : s.MemOk) : (s.sealKept pn p g).MemOk := by
  unfold State.sealKept
  dsimp only
  generalize e : List.foldl _ (s.openFor pn p g, false) _ = r
  have hr : PairOk r := by
    rw [← e]
    exact PairOk.foldl (fun _ hr _ => .mk (State.MemOk.sealPage hr)) _ (.mk h.openFor)
  exact .ite h (.openFor (State.MemOk.cuffWrite hr).cuffWrite.cuffWrite)
theorem State.MemOk.resultBlock {pn p g status man} (h : s.MemOk) : (s.resultBlock pn p g status man).MemOk := h.cuffWrite
theorem State.MemOk.sealEnded {pn p g status man} (h : s.MemOk) : (s.sealEnded pn p g status man).MemOk :=
  .ite h (.ite h.setPart (.ite h h.setPart.resultBlock))
theorem State.MemOk.sealMsg {pn g result} (h : s.MemOk) : (s.sealMsg pn g result).MemOk := by
  unfold State.sealMsg
  split
  · exact h
  · split
    · exact h.sealKept
    · exact h.sealEnded
theorem State.MemOk.beginCk {k op f} (h : s.MemOk) (hf : ∀ t pn p g, t.MemOk → (f t pn p g).MemOk) : (s.beginCk k op f).MemOk := by
  unfold State.beginCk
  split
  · exact h
  · have hk : State.MemOk { s with ckReqs := s.ckReqs.eraseIdx k } := h.of_mem rfl
    refine .ite h ?_
    dsimp only
    split
    · exact .ite hk (hf _ _ _ _ hk)
    · exact hk
theorem State.MemOk.ckFail {pn p op err} (h : s.MemOk) : (s.ckFail pn p op err).MemOk := h.setPart
theorem State.MemOk.ckStart {pn p op g} (h : s.MemOk) : (s.ckStart pn p op g).MemOk := h.setPart
theorem State.MemOk.dumpWrite {pn p a bs} (h : s.MemOk) : (s.dumpWrite pn p a bs).MemOk := by
  unfold State.dumpWrite
  refine .foldl (fun _ hs _ => ?_) _ h
  split
  · exact hs.pokeHome _ _
  · exact hs
theorem State.MemOk.restoreEnded {pn header records pages} (h : s.MemOk) : (s.restoreEnded pn header records pages).MemOk := by
  unfold State.restoreEnded
  split
  · exact h
  · split
    · exact .ite h (.ite (.resultBlock (.setPart (.foldl (fun _ hs _ => hs.cuffWrite) _ h))) h.cuffWrite.setPart.resultBlock)
    · exact h
theorem State.MemOk.dumpEnded {pn} (h : s.MemOk) : (s.dumpEnded pn).MemOk := by
  unfold State.dumpEnded
  split
  · exact h
  · split
    · exact .ite h (.setPart (.foldl (fun _ hs _ => hs.dumpWrite) _ h.dumpWrite))
    · exact h
end

end Sys2Proof.Machine
end
section
/-!
PROOF. O55: the choice of the next step, the fetch and the passing of time keep the memory canonical.
-/
open Sys2Proof
namespace Sys2Proof.Machine

section
variable {s : State}

/-! ### Choice, fetch and time -/

theorem State.MemOk.pick (h : s.MemOk) : s.pick.2.MemOk := by
  unfold State.pick
  split
  · exact h.of_mem rfl
  · split <;> exact h
theorem State.MemOk.atStream {c st} (h : s.MemOk) : (s.atStream c st).MemOk := h.of_mem rfl
theorem State.MemOk.fetchTrap {j st cause info reason pc va stage} (h : s.MemOk) : (s.fetchTrap j st cause info reason pc va stage).MemOk :=
  h.raise
theorem State.MemOk.fetchStops {j st pc stage x} (h : s.MemOk) : (s.fetchStops j st pc stage x).MemOk := by
  unfold State.fetchStops
  split
  · exact h.sendFetch
  · exact h.fetchTrap
  · exact h
  · exact .ite h.fetchTrap h.fetchTrap
theorem State.MemOk.fetch (h : s.MemOk) : FetchedOk s.fetch := by
  unfold State.fetch
  split
  · exact .idle h
  · refine .ite (.idle h) (.ite (.idle h.enterEvent) ?_)
    dsimp only
    split
    · exact .idle h.fetchStops
    · split
      · exact .idle h.fetchTrap
      · split
        · exact .idle h.fetchStops
        · split
          · exact .idle h.fetchTrap
          · exact .instr
theorem State.MemOk.cacheWalk (h : s.MemOk) : s.cacheWalk.MemOk := by
  unfold State.cacheWalk
  split
  · exact h
  · split
    · exact h
    · split
      · exact h.of_mem rfl
      · exact h
theorem State.MemOk.cacheNonLeaf (h : s.MemOk) : s.cacheNonLeaf.MemOk := by
  unfold State.cacheNonLeaf
  split
  · exact h
  · split
    · exact h
    · dsimp only
      split
      · exact .ite (h.of_mem rfl) h
      · exact h
theorem State.MemOk.keepCode (h : s.MemOk) : s.keepCode.MemOk := by
  unfold State.keepCode
  split
  · exact h
  · split
    · exact h
    · split
      · exact h
      · split
        · exact h
        · exact h.of_mem rfl
theorem State.MemOk.seeCode (h : s.MemOk) : s.seeCode.MemOk := h.of_mem rfl
theorem State.MemOk.meetError (h : s.MemOk) : s.meetError.MemOk := by
  unfold State.meetError
  split
  · exact h
  · split
    · exact h
    · dsimp only
      split
      · exact .ite h.errorEvent h
      · exact .ite h.poisonRun.errorEvent h
      · exact .ite h.errorEvent h
      · exact .ite h.poisonRun.errorEvent h
theorem State.MemOk.meetCxl (h : s.MemOk) : s.meetCxl.MemOk := by
  unfold State.meetCxl
  split
  · split
    · exact h.poisonRun
    · exact h
  · exact h
theorem State.MemOk.pass (h : s.MemOk) : s.pass.MemOk := by
  unfold State.pass
  exact .withPassed h.watch.cacheWalk.cacheNonLeaf.keepCode.seeCode.meetError.meetCxl.routeAll.serveAll.flow
theorem OutOk.afterStep {o} (h : OutOk o) : OutOk (afterStep o) := by
  cases o with
  | next t => exact .next (State.MemOk.pass (h t rfl))
  | fault f => nofun
  | refused r => nofun
end

end Sys2Proof.Machine
end
section
/-!
PROOF. O55: every step keeps the memory canonical (R145, R275, R276).
-/
open Sys2Proof
namespace Sys2Proof.Machine

section
variable {s : State}

theorem State.MemOk.execRdv {hd f} (h : s.MemOk) : OutOk (execRdv hd f s) := by
  have hr : OutOk (Machine.runInstr (.rdv hd f) (Machine.straight rdvBody) s) := h.runInstr (.straight .rdvBody)
  unfold Machine.execRdv
  split
  · rename_i t e
    exact .next (.ite (hr t e).settleFront (hr t e))
  · nofun
  · nofun
theorem State.MemOk.exec {i} (h : s.MemOk) : OutOk (exec i s) := by
  unfold Machine.exec
  cases i with
  | add | sub | mul | mulh | div | rem | and | or | xor | shl | shr | sar | rot | min | max => exact h.runInstr (.straight .alu2)
  | clz | popc => exact h.runInstr (.straight .alu1)
  | sel => exact h.runInstr (.straight .selBody)
  | mov => exact h.runInstr (.straight .movBody)
  | cmpEq | cmpNe | cmpLt | cmpLe | cmpLtu | cmpLeu => exact h.runInstr (.straight .compare2)
  | addi => exact h.runInstr (.straight .addiBody)
  | ldi | ldih => exact h.runInstr (.straight .push)
  | br => exact h.runInstr .brBody
  | brc => exact h.runInstr .brcBody
  | call => exact h.runInstr .callBody
  | ret => exact h.runInstr .retBody
  | loop => exact h.runInstr .loopBody
  | lclamp => exact h.runInstr (.straight .lclampBody)
  | setcRegister => exact h.runInstr (.straight .setcRegBody)
  | setcImmediate => exact h.runInstr (.straight .setcTo)
  | advc => exact h.runInstr (.straight .advcBody)
  | getc => exact h.runInstr (.straight .getcBody)
  | getfr => exact h.runInstr (.straight .getfrBody)
  | tok => exact h.runInstr (.straight .pure)
  | bind => exact h.runInstr (.straight .bindBody)
  | qdrop => exact h.runInstr (.straight .dropN)
  | qdepth => exact h.runInstr (.straight .qdepthBody)
  | qclr => exact h.runInstr (.straight .qclrBody)
  | srd => exact h.runInstr (.straight .srdBody)
  | swr | swrStopat | swrEvmask | swrRmode | swrSrseed | swrMseed | swrTraprec | swrEmap | swrEgcfg | swrCkpair =>
    exact h.runInstr (.straight .swrBody)
  | trap => exact h.runInstr (.straight .trapBody)
  | eret => exact h.runInstr .eretBody
  | waitev => exact h.runInstr (.straight .waitevBody)
  | yield => exact h.runInstr (.straight .yieldBody)
  | fence => exact h.runInstr (.straight .fenceBody)
  | stopatRegister => exact h.runInstr (.straight .stopatRegBody)
  | stopatImmediate => exact h.runInstr (.straight .stopatBody)
  | resume => exact h.runInstr (.straight .resumeBody)
  | spawn => exact h.runInstr (.straight .spawnBody)
  | rdv => exact h.execRdv
  | mbox => exact h.runInstr (.straight .mboxBody)
  | semw => exact h.runInstr (.straight .semwBody)
  | sems => exact h.runInstr (.straight .semsBody)
  | semwt => exact h.runInstr (.straight .semwtBody)
  | barr => exact h.runInstr (.straight .barrBody)
  | sstep => exact h.runInstr (.straight .sstepBody)
  | send => exact h.runInstr (.straight .sendBody)
  | tlbiPage => exact h.runInstr (.straight .tlbiPageBody)
  | tlbiTenant => exact h.runInstr (.straight .tlbiBody)
  | bkpt => exact h.runInstr (.straight .bkptBody)
  | snap => exact h.runInstr (.straight .snapBody)
  | tmark => exact h.runInstr (.straight .tmarkBody)
  | ld => exact h.runInstr (.straight .ldBody)
  | ldt => exact h.runInstr (.straight .ldtBody)
  | gather => exact h.runInstr (.straight .gatherBody)
  | gen => exact h.runInstr (.straight .genBody)
  | genBase => exact h.runInstr (.straight .genBaseBody)
  | genCoef => exact h.runInstr (.straight .genCoefBody)
  | cpy => exact h.runInstr (.straight .cpyOneBody)
  | cpyThreeLevels => exact h.runInstr (.straight .cpyThreeBody)
  | pub => exact h.runInstr (.straight .pubBody)
  | rld => exact h.runInstr (.straight .rldBody)
  | st => exact h.runInstr (.straight .stBody)
  | stt => exact h.runInstr (.straight .sttBody)
  | scatter => exact h.runInstr (.straight .scatterBody)
  | rst | rsta => exact h.runInstr (.straight .rstBody)
  | rat => exact h.runInstr (.straight .ratBody)
  | aadd | axch | aincw | await => exact h.runInstr (.straight .atomic2)
  | acas | afaddb => exact h.runInstr (.straight .atomic3)
  | vadd | vsub | vmul | vfma | vdiv | vabs | vneg | vmin | vmax | vminp | vmaxp | vsel | vand | vor | vxor | vshl | vshr | vcvt | vqmx
  | vdqmx | vexp2 | vlog2 | vrcp | vrsq | vtanh | vld | vst =>
    exact h.runInstr (.straight .vbBody)
  | vaddVf | vsubVf | vmulVf | vfmaVf | vdivVf | vabsVf | vnegVf | vminVf | vmaxVf | vminpVf | vmaxpVf | vselVf | vandVf | vorVf
  | vxorVf | vshlVf | vshrVf | vcvtVf | vqmxVf | vdqmxVf | vexp2Vf | vlog2Vf | vrcpVf | vrsqVf | vtanhVf | vldVf | vstVf =>
    exact h.runInstr (.straight .vfBody)
  | vcmp => exact h.runInstr (.straight .vcmpBody)
  | vrotr | vrotc | vbcr | vbcc => exact h.runInstr (.straight .moveBody)
  | vredr | vredc => exact h.runInstr (.straight .reduceBody)
  | vtrn => exact h.runInstr (.straight .fixedMoveBody)
  | vnetset => exact h.runInstr (.straight .vnetsetBody)
  | vnet => exact h.runInstr (.straight .vnetBody)
  | vgen => exact h.runInstr (.straight .vgenBody)
  | vaddNest | vsubNest | vmulNest | vdivNest | vabsNest | vnegNest | vminNest | vmaxNest | vminpNest | vmaxpNest | vandNest | vorNest
  | vxorNest | vshlNest | vshrNest | vcvtNest =>
    exact h.runInstr (.straight .vnBody)
  | vredrNest => exact h.runInstr (.straight .vnReduce)
  | mfmt => exact h.runInstr (.straight .mfmtBody)
  | mcb => exact h.runInstr (.straight .mcbBody)
  | mma => exact h.runInstr (.straight .mmaBody)
  | mcommit => exact h.runInstr (.straight .mcommitBody)
  | mwait => exact h.runInstr (.straight .mwaitBody)
  | mrd => exact h.runInstr (.straight .mrdBody)
  | mwr => exact h.runInstr (.straight .mwrBody)
  | mzero => exact h.runInstr (.straight .mzeroBody)
  | mstl | mstf => exact h.runInstr (.straight .mstBody)
  | mseed => exact h.runInstr (.straight .mseedBody)
  | lclampApply => exact .next h.applyClamp
  | cksealSeal | cksealRestore => exact .next (h.beginCk fun _ _ _ _ hs => .ite hs.ckFail (.ite hs.ckFail hs.ckStart))
  | cksealDump => exact .next (h.beginCk fun _ _ _ _ hs => .ite hs.ckFail hs.ckStart)
  | advance => exact .next h.doAdvance
  | entryFill => exact .next h.fillEntry
  | tokenPush => exact .next h.pushToken
  | engineCommandStart => exact .next h.startCommand
  | engineCommandComplete => exact .next h.completeCommand
  | channelElementDelivery => exact .next h.deliver
  | landingComplete => exact .next h.land
  | stuckWaitTrap => exact .next h.trapStuck
  | hardPreemption => exact .next h.hardPreempt
  | jobChoice => exact .next h.choose
  | launchStart => exact .next h.startLaunch
  | jobAging => exact .next h.age
  | launchOffer => exact .next h.offerLaunch
  | spawnStatusFill => exact .next h.fillStatus
  | jobEnd => exact .next h.endJob
  | eventEntry => exact .next h.enterEvent
  | timerFire => exact .next h.fireTimer
  | semaphoreWaitServed => exact .next h.serveSem
  | semwtTimeout => exact .next h.timeoutSem
  | barrierArrival => exact .next h.countArrivalOf
  | barrierTimeout => exact .next h.timeoutBarr
  | superstepPassage => exact .next h.passStep
  | sendChunkDeparture => exact .next h.departChunk
  | sendChunkArrival => exact .next h.arriveChunk
  | atomicApply => exact .next h.applyAtomic
  | awaitSatisfied => exact .next h.satisfyAwait
  | remoteStoreApply => exact .next h.applyRemote
  | remoteRead => exact .next h.readRemote
  | remoteFailure => exact .next h.failRemote
  | pubFlip => exact .next h.pubFlip
  | tlbiExecute => exact .next h.tlbiRun
  | logWaitRelease => exact .next h.releaseLogWait
  | patrolScrub => exact .next h.patrol
  | fleetWriteArrival => exact .next h.fleetWrite
  | fleetUpdateArrival => exact .next h.fleetUpdate
  | fleetFetch => exact .next h.fleetFetch
  | fleetFetchReceipt => exact .next h.fleetReceipt
  | mailboxWrite fn =>
    cases fn with
    | none => exact .next h.ask
    | some _ => exact .next h.mail
  | hostBar2Access _ _ w =>
    cases w with
    | none => exact .next h
    | some _ => exact .next h.hostWrite
  | hostAtomicop => exact .next h.hostAtomic
  | hostRegisterWrite => exact .next h.writeBar0
  | pctlResume => exact .next h.resumeSup
  | pctlRestart => exact .next h.restartSup
  | vfTeardown => exact .next h.tear
  | mittenSave | mittenSavelive => exact .next h.takeCommand
  | mittenSaveDone => exact .next h.saveDone
  | governorWindow => exact .next (.ite h h.setCore)
  | powerMeasurement => exact .next (h.of_mem rfl)
  | attestationNonce => exact .next h.askQuote
  | quoteReady => exact .next h.putQuote
  | createPartition => exact .next h.create
  | destroyPartition => exact .next h.destroy
  | readTelemetry => exact .next h.telemetryReply
  | setPersonality => exact .next h.askPersonality
  | setNode => exact .next h.setNode
  | brimTimeout => exact .next h.brimTimeout
  | recoveryMessage => exact .next h.recovery
  | powerGood => exact .next h.bringUp
  | personalityChange => exact .next h.beginChange
  | linkDrop => exact .next h.dropLink
  | linkTrained => exact .next h.trained
  | linkDown => exact .next h.goDown
  | fleetSplit => exact .next h.split
  | lsd => exact .next h.describe
  | swapreq => exact .next h.swapReqd
  | swapack => exact .next h.swapAckd
  | keychg => exact .next h.keyChanged
  | keyack => exact .next h.keyAcked
  | persreq => exact .next h.persReqd
  | persack => exact .next (h.arrive fun _ => h.setPort)
  | time => exact .next h.takeTime
  | timeFlitSend => exact .next h.sendTime
  | laneHealthSample => exact .next h.sample
  | keyRotation => exact .next h.rotate
  | keeperStore => exact .next h.keep
  | sealSet => exact .next h.sealMsg
  | tctl | trbase | trsize => exact .next h.onVf
  | trigat => exact .next h.fireTimed
  | dbgstop => exact .next (.ite h.debugStop h)
  | snapshotCapture => exact .next h.capture
  | vfEnable => exact .next h.setVf
  | requestTimeout => exact .next h.timeoutRemote
  | pairing => exact .next h.pair
  | cksealRestoreDone => exact .next h.restoreEnded
  | cksealDumpDone => exact .next h.dumpEnded
theorem State.MemOk.step (h : s.MemOk) : OutOk (step s) := by
  have hp := h.pick
  unfold Machine.step
  split
  · exact .next hp.pass
  · split
    · exact .next hp.pass
    · exact .afterStep hp.exec
  · split
    · rename_i t e
      exact .next (State.MemOk.pass (hp.atStream.fetch t e))
    · exact .afterStep hp.atStream.exec
end

end Sys2Proof.Machine

namespace Sys2Proof.Proofs
open Sys2Proof.Machine

/-- Settles O55: a step composes operations of the model, each of which keeps the form: it leaves the memory, or changes it by `pokeClear`,
`pokeHome`, `clearPool`, `zeroUnits` or `zeroDram`, which keep it. -/
theorem stepMemCanonical : Obligations.StepMemCanonical := by
  unfold Obligations.StepMemCanonical
  exact fun _ t h e => State.MemOk.step h t e

end Sys2Proof.Proofs
end

section
/-!
PROOF. O34: base forms on tiles, and the elements and flags of an element-wise operation.
-/
open Sys2Proof Sys2Proof.Machine Sys2Proof.Claims
namespace Sys2Proof.Proofs

/-! ### Base forms on tiles (R184, R189 to R198) -/

/-- Tile sources that can be read: the first one, then the others. -/
theorem tiles_cons_inv {s u : State} {f : BitVec 5} {l : List (BitVec 5)} {vs : List Tile} (h : s.tiles (f :: l) = some (vs, u)) :
    ∃ v ws t, vs = v :: ws ∧ s.tile f = some (v, t) ∧ t.tiles l = some (ws, u) := by
  obtain _ | ⟨v, ws⟩ := vs
  · simp only [State.tiles] at h
    split at h
    · cases h
    · simp at h
  · obtain ⟨t, ht, hl⟩ := tiles_cons h
    exact ⟨v, ws, t, rfl, ht, hl⟩
/-- A tile destination with room takes the tile. -/
theorem pushTile_runs {s : State} {h : Hdr} {d : BitVec 4} {v : Tile} {form : Bool} (hr : s.tileRoom d = true) :
    Runs (pushTile h d v form) s () (s.putTile h d.toNat (some v)) := by
  cases hj : s.own with
  | none => simp [State.tileRoom, hj] at hr
  | some j =>
    simp only [State.tileRoom, hj, Option.any_some, Bool.and_eq_true, Bool.not_eq_true', decide_eq_true_eq] at hr
    obtain ⟨hf, hl⟩ := hr
    refine runs_bind (runs_getJob hj) (runs_bind (runs_getStream hj) (runs_bind (runs_trapIf _ _ s hf) (runs_bind (runs_getJob hj) ?_)))
    rw [if_neg (Nat.not_le.mpr hl), State.putTile, State.onOwn_eq hj]
    exact runs_setJob s _
/-- A destination that is a tile queue with room takes the tile without a mark. -/
theorem queue_write_runs {s : State} {h : Hdr} {d : BitVec 4} {v : Tile} {bases : List Word} {i : Nat} {form : Bool} {on : Nat → Bool}
    (hr : s.tileRoom d = true) : Runs ((VOpd.queue (d.setWidth 5)).write h bases i v .none form on) s () (s.putTile h d.toNat (some v)) := by
  have hd : (d.setWidth 5).setWidth 4 = d := by simp
  dsimp only [VOpd.write]
  rw [hd]
  exact runs_bind (pushTile_runs hr) (runs_pure () _)

/-- An operand that is a tile queue gives its tile and no poison. -/
theorem queue_read_runs {o : VOpd} {f : BitVec 5} (ho : o = .queue f) {s t : State} {v : Tile} {bases : List Word} {i : Nat} {b : Bool}
    (h : s.tile f = some (v, t)) : Runs (o.read bases i b) s (v, none) t := ho ▸ runs_bind (popTile_runs h) (runs_pure _ t)
theorem unused_read_runs {o : VOpd} (ho : o = .unused) (s : State) (bases : List Word) (i : Nat) (b : Bool) :
    Runs (o.read bases i b) s (Tile.zero, none) s := ho ▸ runs_pure _ s

theorem eop_sources_cases (op : EOp) : op.sources = 1 ∨ op.sources = 2 ∨ op.sources = 3 := by
  cases op <;> simp [EOp.sources]

section
variable {s u : State} {f : FVB} {op : EOp} {ts : List Tile}

/-- R189: an operation on tiles reads its one, two or three sources in order. -/
theorem basePlan_reads (mask : BitVec 1024) (h : s.tiles ([f.ta, f.tb, f.tc].take op.sources) = some (ts, u)) :
    reads (basePlan f (.elem op) mask) [] 0 s (ts.getD 0 Tile.zero, none) (ts.getD 1 Tile.zero, none) (ts.getD 2 Tile.zero, none) u := by
  have ha0 : (basePlan f (.elem op) mask).a = .queue f.ta := by simp [basePlan]
  have hb1 (hn : 2 ≤ op.sources) : (basePlan f (.elem op) mask).b = .queue f.tb := if_pos hn
  have hb0 (hn : ¬2 ≤ op.sources) : (basePlan f (.elem op) mask).b = .unused := if_neg hn
  have hc1 (hn : 3 ≤ op.sources) : (basePlan f (.elem op) mask).c = .queue f.tc := if_pos hn
  have hc0 (hn : ¬3 ≤ op.sources) : (basePlan f (.elem op) mask).c = .unused := if_neg hn
  obtain hn | hn | hn := eop_sources_cases op <;> rw [hn] at h <;> obtain ⟨a, as, sa, rfl, ha, h⟩ := tiles_cons_inv h
  · cases h
    exact ⟨u, u, queue_read_runs ha0 ha, unused_read_runs (hb0 (by omega)) _ _ _ _, unused_read_runs (hc0 (by omega)) _ _ _ _⟩
  · obtain ⟨b, bs, sb, rfl, hb, h⟩ := tiles_cons_inv h
    cases h
    exact ⟨sa, u, queue_read_runs ha0 ha, queue_read_runs (hb1 (by omega)) hb, unused_read_runs (hc0 (by omega)) _ _ _ _⟩
  · obtain ⟨b, bs, sb, rfl, hb, h⟩ := tiles_cons_inv h
    obtain ⟨c, cs, sc, rfl, hc, h⟩ := tiles_cons_inv h
    cases h
    exact ⟨sa, sb, queue_read_runs ha0 ha, queue_read_runs (hb1 (by omega)) hb, queue_read_runs (hc1 (by omega)) hc⟩
/-- The operands of an operation on tiles pass the checks at issue when the job has tile queues. -/
theorem basePlan_checked (mask : BitVec 1024) (h : s.hasTiles = true) : Checked (basePlan f (.elem op) mask) [] s := by
  have ho (c : Prop) [Decidable c] (q : BitVec 5) : operandOk s [] 1 (if c then .queue q else .unused) := by
    split
    · exact h
    · trivial
  refine ⟨fun o hm => ?_, fun k hk => by simp [basePlan, VStep.scaled] at hk⟩
  simp only [List.mem_cons, List.not_mem_nil, or_false] at hm
  obtain rfl | rfl | rfl | rfl := hm
  · exact h
  · exact ho _ _
  · exact ho _ _
  · exact h

end

theorem tileOps_exec {i : Instr} {h : Hdr} {f : FVB} {op : EOp} (hi : tileOps i = some (h, f, op)) (s : State) :
    exec i s = runInstr i (straight (vbBody h f (.elem op))) s := by
  unfold tileOps at hi
  split at hi <;> cases hi <;> rfl
/-- R189 to R198: a base form on tiles completes with its operation's tile and flags. -/
theorem tileOps_completes {i : Instr} {h : Hdr} {f : FVB} {op : EOp} {s s0 s1 : State} {j : Job} {ts : List Tile}
    (hi : tileOps i = some (h, f, op)) (he : s.entered i = some s0) (hj : s0.own = some j) (hd : j.hdr.tdep ≠ 0)
    (hv : s0.tiles ([f.ta, f.tb, f.tc].take op.sources) = some (ts, s1)) (hr : s1.tileRoom f.td = true) :
    let t := j.stream s0.cur.2
    let r := tileOp op f.ty.toNat (sampled j f.rm) 0 f.men (t.masks.get (fin8 f.mask.toNat)) (ts.getD 0 Tile.zero) (ts.getD 1 Tile.zero)
      (ts.getD 2 Tile.zero)
    exec i s = .next ((vEnd (s1.putTile h f.td.toNat (some r.1)) t.coord (sampled j f.rm) 1024 r.2).retired i (s.nextPc i)) := by
  intro t r
  have hreads := basePlan_reads (t.masks.get (fin8 f.mask.toNat)) hv
  have hputs : puts (basePlan f (.elem op) (t.masks.get (fin8 f.mask.toNat))) h [] (sampled j f.rm) 0 (ts.getD 0 Tile.zero, none)
      (ts.getD 1 Tile.zero, none) (ts.getD 2 Tile.zero, none) s1 r.2 (s1.putTile h f.td.toNat (some r.1)) := ⟨rfl, queue_write_runs hr⟩
  have h1 := reads_sameIssue hreads
  have htiles : s1.hasTiles = true := (h1.hasTiles hj).trans (by simp [State.hasTiles, hj, hd])
  have hbody := runBase_tiles_runs (f := f) hj (by simp [basePlan]) hreads rfl (basePlan_checked _ htiles) hputs
  have h2 := SameIssue.trans _ _ _ h1 (puts_sameIssue hputs)
  obtain ⟨k, hk, -⟩ := h2.job hj
  obtain ⟨hc, ho⟩ := vEnd_keeps t.coord (sampled j f.rm) 1024 r.2 hk
  rw [tileOps_exec hi]
  exact straight_completes he (runs_bind (maskOf_runs f hj) hbody) (hc.trans (h2.1.trans (entered_keeps he).1)) ho

/-! ### Element-wise operations (R186) -/

theorem isOn_iff {men : Bool} {mask : BitVec 1024} {k : Nat} : isOn men mask k = true ↔ men = false ∨ mask.getLsbD k = true := by
  simp [isOn]
/-- A flag of a list of results is set when one of them sets it. -/
theorem foldl_or_flag {g : Fl → Bool} (hg : ∀ a b, g (a.or b) = (g a || g b)) (l : List Fl) (x : Fl) :
    g (l.foldl Fl.or x) = true ↔ g x = true ∨ ∃ y ∈ l, g y = true := by
  induction l generalizing x with
  | nil => simp
  | cons y l ih => simp [ih, hg, or_assoc]
theorem tileMap_get (f : Fin 1024 → BitVec 32 × Fl) (k : Fin 1024) : (tileMap f).1.get k = (f k).1 := by
  simp [tileMap, Vector.get_eq_getElem]
theorem tileMap_flag {g : Fl → Bool} (hg : ∀ a b, g (a.or b) = (g a || g b)) (h0 : g Fl.clear = false) (f : Fin 1024 → BitVec 32 × Fl) :
    g (tileMap f).2 = true ↔ ∃ k, g (f k).2 = true := by
  simp only [tileMap, allFlags, foldl_or_flag hg, h0, Vector.toList_ofFn, List.map_ofFn, List.mem_ofFn, Bool.false_eq_true, false_or,
    exists_exists_eq_and, Function.comp_apply]
/-- Each flag is set by either of two results, and no flag is set at the start. -/
theorem flag_or {g : Fl → Bool} (hg : g ∈ [Fl.nv, Fl.dz, Fl.of, Fl.uf, Fl.nx]) : (∀ a b, g (a.or b) = (g a || g b)) ∧ g Fl.clear = false := by
  simp only [List.mem_cons, List.not_mem_nil, or_false] at hg
  obtain rfl | rfl | rfl | rfl | rfl := hg <;> exact ⟨fun _ _ => rfl, rfl⟩

section
variable (op : EOp) (ty : Nat) (x : LaneCtx) (e0 : Nat) (men : Bool) (mask : BitVec 1024) (a b c : Tile)

/-- The result of an operation at a place of a tile. -/
def elemAt (k : Fin 1024) : Nat × Fl := elemOp op ty x.fz x.mode (x.z (e0 + k.val)) (a.get k).toNat (b.get k).toNat (c.get k).toNat

theorem tileOp_get (k : Fin 1024) :
    (tileOp op ty x e0 men mask a b c).1.get k = if isOn men mask k then slotOf ty (elemAt op ty x e0 a b c k).1 else a.get k := by
  rw [tileOp, tileMap_get]
  split <;> rfl
theorem tileOp_flag {g : Fl → Bool} (hg : g ∈ [Fl.nv, Fl.dz, Fl.of, Fl.uf, Fl.nx]) :
    g (tileOp op ty x e0 men mask a b c).2 = true ↔ ∃ k : Fin 1024, isOn men mask k = true ∧ g (elemAt op ty x e0 a b c k).2 = true := by
  obtain ⟨hor, hclear⟩ := flag_or hg
  rw [tileOp, tileMap_flag hor hclear]
  refine exists_congr fun k => ?_
  split
  · exact (and_iff_right ‹_›).symm
  · simp [*]

end

end Sys2Proof.Proofs
end

section
/-!
PROOF. O34: the integer results of vector operations and the conversions to integers.
-/
open Sys2Proof Sys2Proof.Machine Sys2Proof.Claims
namespace Sys2Proof.Proofs

/-! ### Integer codes (R164, R185) -/

/-- A signed code's number is that of two's complement. -/
theorem toSigned_eq_codeNum (w a : Nat) : toSigned w a = codeNum w true a := by
  unfold toSigned codeNum
  simp only [true_and, ← Nat.not_lt, ite_not]
/-- A code's number is the code modulo 2^w. -/
theorem codeNum_emod (w : Nat) (sg : Bool) (a : Nat) : codeNum w sg a % ((2 ^ w : Nat) : Int) = ((a % 2 ^ w : Nat) : Int) := by
  unfold codeNum
  split
  · rw [Int.sub_emod_right, ← Int.natCast_emod, Nat.mod_mod]
  · rw [← Int.natCast_emod, Nat.mod_mod]
/-- The number of a code wraps to the slot of the code. -/
theorem wrapped_codeNum (w : Nat) (sg : Bool) (a : Nat) : wrapped w sg (codeNum w sg a) = BitVec.ofInt 32 (codeNum w sg a) := by
  unfold wrapped
  rw [codeNum_emod, Int.toNat_natCast]
  unfold codeNum
  simp only [Nat.mod_mod]

/-- What the tables of types say of an integer type of the vector engine (R49, R99, R164). -/
structure IntTy (ty w : Nat) (sg : Bool) : Prop where
  int : tyFloat ty = false
  exponent : ty ≠ 0x08
  log : ¬(ty = 0x09 ∨ ty = 0x0A)
  signed : tySigned ty = sg
  width : tyWidth ty = w

theorem intTypes_intTy {ty w : Nat} {sg : Bool} (h : (ty, w, sg) ∈ intTypes) : IntTy ty w sg := by
  simp only [intTypes, List.mem_cons, Prod.mk.injEq, List.not_mem_nil, or_false] at h
  obtain ⟨rfl, rfl, rfl⟩ | ⟨rfl, rfl, rfl⟩ | ⟨rfl, rfl, rfl⟩ | ⟨rfl, rfl, rfl⟩ | ⟨rfl, rfl, rfl⟩ | ⟨rfl, rfl, rfl⟩ := h <;>
    exact ⟨rfl, by decide, by decide, rfl, rfl⟩

section
variable {ty w : Nat} {sg : Bool} (h : IntTy ty w sg)
include h

theorem IntTy.intKey_eq (a : Nat) : intKey ty a = codeNum w sg a := by
  obtain ⟨-, -, -, rfl, rfl⟩ := h
  unfold intKey
  split
  · rename_i hs
    rw [toSigned_eq_codeNum, hs]
  · rename_i hs
    simp [codeNum, hs]
theorem IntTy.slotOf_eq (a : Nat) : slotOf ty a = BitVec.ofInt 32 (codeNum w sg a) := by
  rw [← h.intKey_eq]
  unfold slotOf intKey
  split
  · rfl
  · exact (BitVec.ofInt_natCast 32 _).symm
/-- R185: a result modulo 2^w has the slot of its number. -/
theorem IntTy.slotOf_wrapInt (v : Int) : slotOf ty (wrapInt w v) = wrapped w sg v := h.slotOf_eq _
/-- A code has the slot of its number. -/
theorem IntTy.slotOf_code (a : Nat) : slotOf ty a = wrapped w sg (codeNum w sg a) := by rw [h.slotOf_eq, wrapped_codeNum]
theorem IntTy.slotOf_intPick (big : Bool) (a b : Nat) : slotOf ty (intPick ty big a b) =
    wrapped w sg (if decide (codeNum w sg a < codeNum w sg b) = big then codeNum w sg b else codeNum w sg a) := by
  unfold intPick
  rw [h.intKey_eq, h.intKey_eq]
  split <;> exact h.slotOf_code _

end

/-! ### Conversions to integers (R170, R178, R195) -/

/-- An integer saturated to an integer type (R178). -/
def saturated (w : Nat) (sg : Bool) (v : Int) : Int :=
  if v < intLeast w sg then intLeast w sg else if intMost w sg < v then intMost w sg else v
/-- The integer that a finite value rounds to (R170). -/
def rounded (c : RndCtx) : Val → Int
  | .fin neg m e st => if neg then -((rndTo c neg m e st 0).1 : Int) else (rndTo c neg m e st 0).1
  | _ => 0

theorem intLeast_le_zero (w : Nat) (sg : Bool) : intLeast w sg ≤ 0 := by
  unfold intLeast
  split
  · exact Int.neg_nonpos_of_nonneg (Int.natCast_nonneg _)
  · exact le_refl 0
theorem zero_le_intMost (w : Nat) (sg : Bool) : 0 ≤ intMost w sg := by
  have h1 := Nat.two_pow_pos (w - 1)
  have h2 := Nat.two_pow_pos w
  unfold intMost
  split <;> omega

section
variable {ty w : Nat} {sg : Bool} (h : IntTy ty w sg)
include h

theorem IntTy.encInt_fin (c : RndCtx) (neg : Bool) (m : Nat) (e : Int) (st : Bool) :
    let x := rounded c (.fin neg m e st)
    encInt ty c (.fin neg m e st) =
      if x < intLeast w sg then (wrapInt w (intLeast w sg), ⟨true, false, false, false, true⟩)
      else if intMost w sg < x then (wrapInt w (intMost w sg), ⟨true, false, false, false, true⟩)
      else (wrapInt w x, Fl.inexact (rndTo c neg m e st 0).2) := by
  obtain ⟨-, -, -, rfl, rfl⟩ := h
  rfl
/-- R178: a finite value is rounded and saturates, with NV where it does. -/
theorem IntTy.encInt_finite (c : RndCtx) {v : Val} (hn : v.isNan = false) (hi : v.isInf = false) :
    let x := rounded c v
    let r := encInt ty c v
    slotOf ty r.1 = wrapped w sg (saturated w sg x) ∧ (r.2.nv = true ↔ x < intLeast w sg ∨ intMost w sg < x) := by
  cases v with
  | nan s n => cases hn
  | inf n => cases hi
  | zero n =>
    have hl := not_lt.mpr (intLeast_le_zero w sg)
    have hm := not_lt.mpr (zero_le_intMost w sg)
    refine ⟨?_, by simp [rounded, encInt, Fl.clear, hl, hm]⟩
    simp only [rounded, saturated, hl, hm, if_false]
    rw [← h.slotOf_wrapInt]
    simp [encInt, wrapInt]
  | fin neg m e st =>
    dsimp only
    rw [h.encInt_fin c neg m e st]
    unfold saturated
    split
    · exact ⟨h.slotOf_wrapInt _, by simp [*]⟩
    · split
      · exact ⟨h.slotOf_wrapInt _, by simp [*]⟩
      · exact ⟨h.slotOf_wrapInt _, by simp [Fl.inexact, *]⟩

/-- R177: a code of a format that is no LNS converts to an integer type by its value. -/
theorem IntTy.convert_eq {s : Nat} (hs : ¬(s = 0x09 ∨ s = 0x0A)) (opf rsf : Bool) (m : Rm) (z a : Nat) :
    convert ty s opf rsf m z a = encInt ty ⟨m, z, (decodeVal s opf a).quantum⟩ (decodeVal s opf a) := by
  simp [convert, encVal, h.int, h.exponent, h.log, hs]
theorem IntTy.decodeVal_eq (opf : Bool) (a : Nat) : decodeVal ty opf a = Val.ofInt (codeNum w sg a) := by
  rw [← h.intKey_eq]
  simp [decodeVal, intKey, h.int, h.exponent, h.log]

end

/-! ### Integer to integer (R195) -/

theorem ofInt_isNan (v : Int) : (Val.ofInt v).isNan = false := by
  unfold Val.ofInt
  split <;> rfl
theorem ofInt_isInf (v : Int) : (Val.ofInt v).isInf = false := by
  unfold Val.ofInt
  split <;> rfl
/-- An integer is its own rounding. -/
theorem rounded_ofInt (c : RndCtx) (v : Int) : rounded c (Val.ofInt v) = v := by
  unfold Val.ofInt
  split
  · exact Eq.symm ‹_›
  · simp only [rounded, rndTo, le_refl, if_true, sub_self, Int.toNat_zero, pow_zero, mul_one, decide_eq_true_eq]
    split <;> omega

/-- R178, R195: a code of one integer type converted to another saturates. -/
theorem convert_int {ty w ts ws : Nat} {sg ss : Bool} (h : IntTy ty w sg) (hs : IntTy ts ws ss) (opf rsf : Bool) (m : Rm) (z a : Nat) :
    let v := codeNum ws ss a
    let r := convert ty ts opf rsf m z a
    slotOf ty r.1 = wrapped w sg (saturated w sg v) ∧ (r.2.nv = true ↔ v < intLeast w sg ∨ intMost w sg < v) := by
  have hr := h.encInt_finite ⟨m, z, (Val.ofInt (codeNum ws ss a)).quantum⟩ (ofInt_isNan (codeNum ws ss a)) (ofInt_isInf _)
  rw [rounded_ofInt] at hr
  rw [h.convert_eq hs.log, hs.decodeVal_eq]
  exact hr

/-- R185, R189, R191: VADD to VMAX on integer codes, modulo 2^w and with no flag. -/
theorem IntTy.elemOp_results {ty w : Nat} {sg : Bool} (h : IntTy ty w sg) (fz z a b c : Nat) (m : Rm) :
    let is (op : EOp) (v : Int) : Prop :=
      slotOf ty (elemOp op ty fz m z a b c).1 = wrapped w sg v ∧ (elemOp op ty fz m z a b c).2 = Fl.clear
    let na := codeNum w sg a
    let nb := codeNum w sg b
    is .add (na + nb) ∧ is .sub (na - nb) ∧ is .mul (na * nb) ∧ is .neg (-na) ∧ is .abs (na.natAbs : Int) ∧
    is .min (if na < nb then na else nb) ∧ is .max (if na < nb then nb else na) := by
  have hwrap := h.slotOf_wrapInt
  have hmin := h.slotOf_intPick false a b
  have hmax := h.slotOf_intPick true a b
  simp only [decide_eq_false_iff_not, decide_eq_true_eq, ite_not] at hmin hmax
  simp [elemOp, h.int, h.width, h.intKey_eq, hwrap, hmin, hmax]

end Sys2Proof.Proofs
end

section
/-!
PROOF. O34: f32 codes as integer numbers of units, their order, and the encoding of exact results.
-/
open Sys2Proof Sys2Proof.Machine Sys2Proof.Claims
namespace Sys2Proof.Proofs

/-! ### f32 codes (R161, R162) -/

/-- The sign of an f32 code. -/
def sign32 (a : Nat) : Bool := decide (a / 2 ^ 31 % 2 = 1)
/-- The significand of a finite f32 code with the magnitude g, as an integer. -/
def sig32 (g : Nat) : Nat := if g / 2 ^ 23 = 0 then g else g % 2 ^ 23 + 2 ^ 23
/-- The exponent of a magnitude in units of 2^-149: subnormal numbers have that of the least normal ones. -/
def ulp32 (g : Nat) : Nat := g / 2 ^ 23 - 1
/-- A magnitude as a number of units of 2^-149. -/
def mag32 (g : Nat) : Nat := sig32 g * 2 ^ ulp32 g

theorem units32_eq (a : Nat) : units32 a = if sign32 a then -(mag32 (a % 2 ^ 31) : Int) else mag32 (a % 2 ^ 31) := by
  have hex : a / 2 ^ 23 % 2 ^ 8 = a % 2 ^ 31 / 2 ^ 23 := by omega
  have hman : a % 2 ^ 23 = a % 2 ^ 31 % 2 ^ 23 := by omega
  unfold units32 mag32 sig32 ulp32 sign32
  simp only [hex, hman, decide_eq_true_eq]
  by_cases h0 : a % 2 ^ 31 / 2 ^ 23 = 0
  · have hg : a % 2 ^ 31 % 2 ^ 23 = a % 2 ^ 31 := by omega
    simp only [h0, hg, if_true, Nat.zero_sub, pow_zero, mul_one]
  · simp only [h0, if_false]
/-- The magnitude in units of 2^-149 rises with the code. -/
theorem mag32_strictMono : StrictMono mag32 := by
  refine strictMono_nat_of_lt_succ fun g => ?_
  by_cases hm : g % 2 ^ 23 + 1 < 2 ^ 23
  · have hd : (g + 1) / 2 ^ 23 = g / 2 ^ 23 := by omega
    have hs : sig32 g < sig32 (g + 1) := by
      unfold sig32
      rw [hd]
      split <;> omega
    unfold mag32 ulp32
    rw [hd]
    exact Nat.mul_lt_mul_of_pos_right hs (Nat.two_pow_pos _)
  · have hd : (g + 1) / 2 ^ 23 = g / 2 ^ 23 + 1 := by omega
    have hs : sig32 (g + 1) = 2 ^ 23 := by
      unfold sig32
      rw [hd, if_neg (by omega)]
      omega
    unfold mag32 ulp32
    rw [hd, hs, Nat.add_sub_cancel]
    cases hk : g / 2 ^ 23 with
    | zero =>
      have hg : sig32 g < 2 ^ 23 := by
        unfold sig32
        rw [if_pos hk]
        omega
      simpa using hg
    | succ k =>
      have hg : sig32 g < 2 ^ 23 * 2 := by
        unfold sig32
        split <;> omega
      rw [Nat.add_sub_cancel, pow_succ' 2 k, ← mul_assoc]
      exact Nat.mul_lt_mul_of_pos_right hg (Nat.two_pow_pos k)

/-- R161, R162: an f32 code is a NaN, an infinity, a zero, or its significand times a power of two. -/
theorem decodeFloat_f32 (a : Nat) : decodeFloat 0 false a =
    if nan32 a then .nan (snan32 a) (sign32 a)
    else if a % 2 ^ 31 = 0x7F800000 then .inf (sign32 a)
    else if a % 2 ^ 31 = 0 then .zero (sign32 a)
    else .fin (sign32 a) (sig32 (a % 2 ^ 31)) ((ulp32 (a % 2 ^ 31) : Int) - 149) false := by
  have hsig : decide (a % 2 ^ 31 % 2 ^ 23 / 2 ^ 22 = 0) = decide (a / 2 ^ 22 % 2 = 0) := decide_eq_decide.2 (by omega)
  unfold decodeFloat
  simp only [FFmt.ofTy, Option.some.injEq, Option.isSome_some, Bool.true_and, Bool.false_eq_true, if_false, Nat.add_one_sub_one]
  obtain hlt | heq | hgt := lt_trichotomy (a % 2 ^ 31) 0x7F800000
  · have hn : nan32 a = false := decide_eq_false (by omega)
    rw [hn, if_neg (by omega), if_neg Bool.false_ne_true, if_neg hlt.ne]
    by_cases h0 : a % 2 ^ 31 = 0
    · rw [if_pos h0, if_pos h0]
      rfl
    · rw [if_neg h0, if_neg h0]
      unfold sig32 ulp32
      by_cases hex : a % 2 ^ 31 / 2 ^ 23 = 0
      · rw [if_pos hex, if_pos hex, hex, show a % 2 ^ 31 % 2 ^ 23 = a % 2 ^ 31 by omega]
        rfl
      · rw [if_neg hex, if_neg hex]
        congr 1
        omega
  · have hn : nan32 a = false := decide_eq_false (by omega)
    rw [hn, if_pos (by omega), if_pos heq.symm, if_neg Bool.false_ne_true, if_pos heq]
    rfl
  · have hn : nan32 a = true := decide_eq_true hgt
    rw [hn, if_pos (by omega), if_neg hgt.ne, if_pos rfl, hsig]
    unfold snan32
    rw [hn]
    rfl

theorem nan32_eq_false {a : Nat} (h : a % 2 ^ 31 < 0x7F800000) : nan32 a = false := decide_eq_false (by omega)
theorem snan32_le (a : Nat) (h : snan32 a = true) : nan32 a = true := by
  unfold snan32 at h
  exact (Bool.and_eq_true _ _ ▸ h).1
@[simp] theorem decodeFloat_f32_isNan (a : Nat) : (decodeFloat 0 false a).isNan = nan32 a := by
  rw [decodeFloat_f32]
  split
  · exact Eq.symm ‹_›
  · split <;> [skip; split] <;> exact (Bool.eq_false_iff.2 ‹_›).symm
@[simp] theorem decodeFloat_f32_isSig (a : Nat) : (decodeFloat 0 false a).isSig = snan32 a := by
  rw [decodeFloat_f32]
  split
  · rfl
  · have hs : snan32 a = false := Bool.eq_false_iff.2 fun h => absurd (snan32_le a h) ‹_›
    rw [hs]
    split <;> [skip; split] <;> rfl
theorem decodeFloat_finite {a : Nat} (h : a % 2 ^ 31 < 0x7F800000) : decodeFloat 0 false a =
    if a % 2 ^ 31 = 0 then .zero (sign32 a) else .fin (sign32 a) (sig32 (a % 2 ^ 31)) ((ulp32 (a % 2 ^ 31) : Int) - 149) false := by
  rw [decodeFloat_f32, nan32_eq_false h, if_neg Bool.false_ne_true, if_neg h.ne]

/-! ### Minimum and maximum (R191) -/

theorem floatKey_f32 (a : Nat) : floatKey 0 a = if sign32 a then -((a % 2 ^ 31 : Nat) : Int) - 1 else (a % 2 ^ 31 : Nat) := by
  simp only [sign32, decide_eq_true_eq]
  rfl
/-- An f32 code is below another when its key is, with -0 below +0. -/
theorem below32_eq_floatKey (a b : Nat) : below32 a b = decide (floatKey 0 a < floatKey 0 b) := by
  have hlt : mag32 (a % 2 ^ 31) < mag32 (b % 2 ^ 31) ↔ a % 2 ^ 31 < b % 2 ^ 31 := mag32_strictMono.lt_iff_lt
  have hgt : mag32 (b % 2 ^ 31) < mag32 (a % 2 ^ 31) ↔ b % 2 ^ 31 < a % 2 ^ 31 := mag32_strictMono.lt_iff_lt
  have ha : decide (a / 2 ^ 31 % 2 = 1) = sign32 a := rfl
  have hb : decide (b / 2 ^ 31 % 2 = 0) = !sign32 b := by
    rw [sign32, ← decide_not]
    exact decide_eq_decide.2 (by omega)
  rw [below32, units32_eq, units32_eq, floatKey_f32, floatKey_f32, ha, hb]
  generalize mag32 (a % 2 ^ 31) = ma, mag32 (b % 2 ^ 31) = mb at hlt hgt ⊢
  generalize a % 2 ^ 31 = ga, b % 2 ^ 31 = gb at hlt hgt ⊢
  cases sign32 a <;> cases sign32 b
  case false.false => simpa using hlt
  case true.true => simpa using hgt
  case false.true =>
    have h : (ma : Int) < -mb ↔ (ga : Int) < -gb - 1 := by omega
    simpa using h
  case true.false =>
    have h : -(ma : Int) < mb ∨ ma = 0 ∧ mb = 0 := by omega
    simpa using h

/-! ### Exact results (R170, R187) -/

/-- A dyadic number as a number of units of 2^-149, where it is one. -/
def dyUnits (d : Dy) : Int := d.x * ((2 ^ (d.e + 149).toNat : Nat) : Int)

/-- The sum of numbers of units is their sum. -/
theorem dyUnits_add {a b : Dy} (ha : -149 ≤ a.e) (hb : -149 ≤ b.e) :
    -149 ≤ (a.add b).e ∧ dyUnits (a.add b) = dyUnits a + dyUnits b := by
  have hp (c : Dy) (e : Int) (he : -149 ≤ e) (hc : e ≤ c.e) :
      c.x * ((2 ^ (c.e - e).toNat : Nat) : Int) * ((2 ^ (e + 149).toNat : Nat) : Int) = dyUnits c := by
    unfold dyUnits
    rw [mul_assoc, ← Nat.cast_mul, ← pow_add, show (c.e - e).toNat + (e + 149).toNat = (c.e + 149).toNat by omega]
  have hm : -149 ≤ min a.e b.e := le_min ha hb
  refine ⟨hm, ?_⟩
  rw [← hp a _ hm (min_le_left _ _), ← hp b _ hm (min_le_right _ _), ← add_mul]
  rfl
theorem dy_negate (v : Val) : v.negate.dy = ⟨-v.dy.x, v.dy.e⟩ := by
  cases v with
  | fin n m e st => cases n <;> simp [Val.negate, Val.dy]
  | _ => rfl
theorem dyUnits_negate (v : Val) : dyUnits v.negate.dy = -dyUnits v.dy := by
  rw [dy_negate]
  exact neg_mul _ _
/-- The value of a finite f32 code is its number of units. -/
theorem dyUnits_decodeFloat {a : Nat} (h : a % 2 ^ 31 < 0x7F800000) :
    -149 ≤ (decodeFloat 0 false a).dy.e ∧ dyUnits (decodeFloat 0 false a).dy = units32 a := by
  rw [decodeFloat_finite h, units32_eq]
  split
  · rename_i h0
    rw [h0]
    simp [Val.dy, dyUnits, mag32, sig32]
  · have he : ((ulp32 (a % 2 ^ 31) : Int) - 149 + 149).toNat = ulp32 (a % 2 ^ 31) := by omega
    refine ⟨by simp only [Val.dy]; omega, ?_⟩
    simp only [Val.dy, dyUnits, he, mag32, Nat.cast_mul]
    split <;> ring

/-- R170: a multiple of the quantum is its own rounding, in every mode. The exponents e and q count from a common one. -/
theorem rndTo_exact {m n : Nat} {e q lo : Int} {mode : Rm} {z : Nat} {neg : Bool} (hz : z < 2 ^ 64) (hm : m ≠ 0) (he : lo ≤ e) (hq : lo ≤ q)
    (h : m * 2 ^ (e - lo).toNat = n * 2 ^ (q - lo).toNat) : rndTo ⟨mode, z, none⟩ neg m e false q = (n, false) := by
  unfold rndTo
  by_cases hqe : q ≤ e
  · have hs : (e - lo).toNat = (e - q).toNat + (q - lo).toNat := by omega
    rw [hs, pow_add, ← mul_assoc] at h
    rw [if_pos hqe, Nat.eq_of_mul_eq_mul_right (Nat.two_pow_pos _) h]
  · have hs : (q - lo).toNat = (q - e).toNat + (e - lo).toNat := by omega
    rw [hs, pow_add, ← mul_assoc] at h
    have hmn := Nat.eq_of_mul_eq_mul_right (Nat.two_pow_pos _) h
    have hn : 0 < n := Nat.pos_of_ne_zero fun h0 => hm (by rw [hmn, h0, zero_mul])
    have hk : min (q - e).toNat (Nat.log2 m + 200) = (q - e).toNat := by
      have hle : (q - e).toNat ≤ Nat.log2 m := (Nat.le_log2 hm).2 (hmn ▸ Nat.le_mul_of_pos_left _ hn)
      omega
    rw [if_neg hqe]
    simp only [hk]
    rw [hmn, Nat.mul_div_cancel _ (Nat.two_pow_pos _), Nat.mul_mod_left]
    have hp : 0 < 2 ^ (q - e).toNat := Nat.two_pow_pos _
    have hz' : z < 18446744073709551616 := hz
    cases mode <;> simp [srUp, RndCtx.d, hp.ne, hz']

/-- A magnitude is its exponent and its significand. -/
theorem ulp32_sig32 (g : Nat) : ulp32 g * 2 ^ 23 + sig32 g = g := by
  unfold ulp32 sig32
  split <;> omega
theorem log2_mul_two_pow {m : Nat} (h : m ≠ 0) (k : Nat) : Nat.log2 (m * 2 ^ k) = Nat.log2 m + k := by
  rw [Nat.log2_eq_log_two, Nat.log2_eq_log_two]
  induction k with
  | zero => simp
  | succ k ih => rw [pow_succ, ← mul_assoc, Nat.log_mul_base one_lt_two (mul_ne_zero h (Nat.two_pow_pos k).ne'), ih, add_assoc]
/-- The exponent of a magnitude is that of its leading bit, 23 bits lower, and no less than 0. -/
theorem log2_mag32 (g : Nat) : Nat.log2 (mag32 g) - 23 = ulp32 g := by
  unfold mag32 sig32
  split
  · rename_i h0
    have hu : ulp32 g = 0 := by
      unfold ulp32
      rw [h0]
    rw [hu, pow_zero, mul_one, Nat.sub_eq_zero_iff_le]
    by_cases hg : g = 0
    · rw [hg]
      decide
    · exact (Nat.log2_lt hg).2 (by omega) |>.le
  · have hs : Nat.log2 (g % 2 ^ 23 + 2 ^ 23) = 23 := by
      rw [Nat.log2_eq_iff (by omega)]
      omega
    rw [log2_mul_two_pow (by omega), hs, Nat.add_sub_cancel_left]

theorem units32_natAbs (a : Nat) : (units32 a).natAbs = mag32 (a % 2 ^ 31) := by
  rw [units32_eq]
  split <;> simp
theorem units32_neg {a : Nat} (h : units32 a ≠ 0) : decide (units32 a < 0) = sign32 a := by
  rw [units32_eq] at h ⊢
  cases hs : sign32 a <;> simp only [hs, if_true, if_false, Bool.false_eq_true] at h ⊢
  · exact decide_eq_false (by omega)
  · exact decide_eq_true (by omega)
/-- A code of 32 bits is its sign and its magnitude. -/
theorem signBit_add_mag {a : Nat} (h : a < 2 ^ 32) : signBit (sign32 a) 32 + a % 2 ^ 31 = a := by
  unfold signBit sign32
  simp only [decide_eq_true_eq]
  split <;> omega

/-- R170, R187: an exact result that an f32 code has is that code, with no flag. -/
theorem encFloat_exact {d : Dy} {q z : Nat} {m : Rm} {s : Bool} (hz : z < 2 ^ 64) (he : -149 ≤ d.e) (hq : q < 2 ^ 32)
    (hf : q % 2 ^ 31 < 0x7F800000) (h0 : units32 q ≠ 0) (hd : dyUnits d = units32 q) :
    encFloat 0 false ⟨m, z, none⟩ (d.val s) = (q, Fl.clear) := by
  have hpos : (0 : Int) < ((2 ^ (d.e + 149).toNat : Nat) : Int) := Int.natCast_pos.2 (Nat.two_pow_pos _)
  have hx0 : d.x ≠ 0 := fun hx => h0 (by rw [← hd, dyUnits, hx, zero_mul])
  have hsign : decide (d.x < 0) = sign32 q := by
    have hneg := mul_lt_mul_iff_left₀ (b := d.x) (c := 0) hpos
    rw [zero_mul] at hneg
    rw [← units32_neg h0, ← hd]
    exact decide_eq_decide.2 hneg.symm
  have hmag : d.x.natAbs * 2 ^ (d.e - -149).toNat = mag32 (q % 2 ^ 31) := by
    rw [← units32_natAbs, ← hd, dyUnits, Int.natAbs_mul, Int.natAbs_natCast, sub_neg_eq_add]
  have hqe : max (lgOf d.x.natAbs d.e) (-126) - 23 = (ulp32 (q % 2 ^ 31) : Int) - 149 := by
    have hlog := log2_mag32 (q % 2 ^ 31)
    rw [← hmag, log2_mul_two_pow (Int.natAbs_ne_zero.2 hx0)] at hlog
    unfold lgOf
    omega
  have hr : rndTo ⟨m, z, none⟩ (sign32 q) d.x.natAbs d.e false ((ulp32 (q % 2 ^ 31) : Int) - 149) = (sig32 (q % 2 ^ 31), false) :=
    rndTo_exact hz (Int.natAbs_ne_zero.2 hx0) he (by omega)
      (by rw [hmag, mag32, show ((ulp32 (q % 2 ^ 31) : Int) - 149 - -149).toNat = ulp32 (q % 2 ^ 31) by omega])
  have hcode : ((ulp32 (q % 2 ^ 31) : Int) - 149 + 23 - -126).toNat * 2 ^ 23 + sig32 (q % 2 ^ 31) = q % 2 ^ 31 := by
    rw [show ((ulp32 (q % 2 ^ 31) : Int) - 149 + 23 - -126).toNat = ulp32 (q % 2 ^ 31) by omega, ulp32_sig32]
  rw [Dy.val, if_neg hx0, hsign]
  simp only [encFloat, FFmt.ofTy, Nat.cast_ofNat, Int.reduceSub, Bool.false_and, Bool.false_eq_true, if_false]
  rw [hqe, hr, hcode, if_neg (by omega), signBit_add_mag hq]
  rfl


/-- The value of a finite code is no NaN and no infinity. -/
theorem decodeFloat_finite_neither {a : Nat} (h : a % 2 ^ 31 < 0x7F800000) :
    (decodeFloat 0 false a).isNan = false ∧ (decodeFloat 0 false a).isInf = false := by
  rw [decodeFloat_finite h]
  split <;> exact ⟨rfl, rfl⟩

end Sys2Proof.Proofs
end

section
/-!
PROOF. O34: the f32 results of vector operations, and the statement.
-/
open Sys2Proof Sys2Proof.Machine Sys2Proof.Claims
namespace Sys2Proof.Proofs

/-! ### f32 to integer under RTZ (R170, R195) -/

/-- RTZ to an integer drops the bits below the point. -/
theorem rndTo_rtz {c : RndCtx} (hc : c.mode = .rtz) {p : Nat} (hp : p ≤ 200) (neg : Bool) (m u : Nat) :
    (rndTo c neg m ((u : Int) - p) false 0).1 = m * 2 ^ u / 2 ^ p := by
  unfold rndTo
  by_cases h : p ≤ u
  · have hs : 2 ^ u = 2 ^ (u - p) * 2 ^ p := by rw [← pow_add, Nat.sub_add_cancel h]
    rw [if_pos (by omega), hs, ← mul_assoc, Nat.mul_div_cancel _ (Nat.two_pow_pos p), show ((u : Int) - p - 0).toNat = u - p by omega]
  · have hs : 2 ^ p = 2 ^ (p - u) * 2 ^ u := by rw [← pow_add, Nat.sub_add_cancel (by omega)]
    have hk : min (0 - ((u : Int) - p)).toNat (Nat.log2 m + 200) = p - u := by omega
    rw [if_neg (by omega), hs, Nat.mul_div_mul_right _ _ (Nat.two_pow_pos u)]
    simp only [hk, hc, Bool.false_eq_true, if_false, add_zero]
/-- R195: a finite f32 code rounds under RTZ to its number of units, truncated. -/
theorem rounded_f32_rtz {c : RndCtx} (hc : c.mode = .rtz) {a : Nat} (h : a % 2 ^ 31 < 0x7F800000) :
    rounded c (decodeFloat 0 false a) = (units32 a).tdiv ((2 ^ 149 : Nat) : Int) := by
  rw [decodeFloat_finite h, units32_eq]
  split
  · rename_i h0
    rw [h0]
    simp [rounded, mag32, sig32]
  · have hr : ((rndTo c (sign32 a) (sig32 (a % 2 ^ 31)) ((ulp32 (a % 2 ^ 31) : Int) - 149) false 0).1 : Int) =
        (mag32 (a % 2 ^ 31) : Int).tdiv ((2 ^ 149 : Nat) : Int) := by
      rw [← Int.ofNat_tdiv]
      exact congrArg _ (rndTo_rtz hc (by decide) _ _ _)
    simp only [rounded, hr]
    split
    · exact (Int.neg_tdiv _ _).symm
    · rfl
/-- R178, R195: a finite f32 code converted to an integer type under RTZ saturates. -/
theorem convert_f32_rtz {ty w : Nat} {sg : Bool} (h : IntTy ty w sg) {a : Nat} (ha : a % 2 ^ 31 < 0x7F800000) (rsf : Bool) (z : Nat) :
    let v := (units32 a).tdiv ((2 ^ 149 : Nat) : Int)
    let r := convert ty 0 false rsf .rtz z a
    slotOf ty r.1 = wrapped w sg (saturated w sg v) ∧ (r.2.nv = true ↔ v < intLeast w sg ∨ intMost w sg < v) := by
  obtain ⟨hn, hi⟩ := decodeFloat_finite_neither ha
  have hr := h.encInt_finite ⟨.rtz, z, (decodeFloat 0 false a).quantum⟩ hn hi
  rw [rounded_f32_rtz rfl ha] at hr
  rw [h.convert_eq (by decide)]
  exact hr

/-! ### Operations on f32 codes (R189 to R191) -/

/-- A result has the slot of the f32 code v and sets no flag but NV. -/
def Gives (r : Nat × Fl) (v : Nat) (nv : Bool) : Prop := slotOf 0 r.1 = BitVec.ofNat 32 v ∧ r.2 = ⟨nv, false, false, false, false⟩

theorem slotOf_f32 (r : Nat) : slotOf 0 r = BitVec.ofNat 32 r := BitVec.eq_of_toNat_eq (by simp [slotOf, tySigned, tyWidth])
theorem gives_code (v : Nat) (nv : Bool) : Gives (v, Fl.inv nv) v nv := ⟨slotOf_f32 v, rfl⟩
theorem gives_mod (v : Nat) : Gives (v % 2 ^ 32, Fl.clear) v false :=
  ⟨(slotOf_f32 _).trans (BitVec.eq_of_toNat_eq (by simp)), rfl⟩

/-! The exact sum, product and quotient of a NaN: the positive quiet NaN, with NV where one is signalling (R190). -/

theorem val_add_nan (rdn : Bool) {a b : Val} (h : (a.isNan || b.isNan) = true) : Val.add rdn a b = (.qnan, a.isSig || b.isSig) := if_pos h
theorem val_mul_nan {a b : Val} (h : (a.isNan || b.isNan) = true) : Val.mul a b = (.qnan, a.isSig || b.isSig) := by
  cases a with
  | nan s n => rfl
  | _ => cases b with
    | nan s n => rfl
    | _ => cases h
theorem val_div_nan {a b : Val} (h : (a.isNan || b.isNan) = true) : Val.div a b = (.qnan, a.isSig || b.isSig, false) := by
  cases a with
  | nan s n => rfl
  | _ => cases b with
    | nan s n => rfl
    | _ => cases h
@[simp] theorem negate_isNan (v : Val) : v.negate.isNan = v.isNan := by cases v <;> rfl
@[simp] theorem negate_isInf (v : Val) : v.negate.isInf = v.isInf := by cases v <;> rfl
@[simp] theorem negate_isSig (v : Val) : v.negate.isSig = v.isSig := by cases v <;> rfl
/-- The exact sum of finite values, whatever sign a zero takes. -/
theorem val_add_finite (rdn : Bool) {a b : Val} (ha : a.isNan = false) (hb : b.isNan = false) (hia : a.isInf = false) (hib : b.isInf = false) :
    ∃ s, Val.add rdn a b = ((a.dy.add b.dy).val s, false) := by
  unfold Val.add
  rw [ha, hb, hia, hib]
  exact ⟨_, rfl⟩

theorem floatResult_qnan (fz z : Nat) (m : Rm) (nv : Bool) : floatResult 0 fz m z (Val.qnan, nv) = (0x7FC00000, Fl.inv nv) := by
  cases nv <;> rfl
theorem flushRaw_f32 (a : Nat) : flushRaw 0 false a = a % 2 ^ 32 := rfl
theorem floatKey_mod (a : Nat) : floatKey 0 (a % 2 ^ 32) = floatKey 0 a := by
  have hs : a % 2 ^ 32 / 2 ^ 31 % 2 = a / 2 ^ 31 % 2 := by omega
  rw [floatKey_f32, floatKey_f32, sign32, hs, Nat.mod_mod_of_dvd _ (by decide)]
  rfl

section
variable {a b : Nat} (big prop : Bool)

theorem floatPick_signalling (h : (snan32 a || snan32 b) = true) : floatPick 0 false big prop a b = (0x7FC00000, Fl.inv true) := by
  unfold floatPick
  simp only [decodeFloat_f32_isSig, h, if_true]
  rfl
/-- R191: quiet NaNs: VMINP and VMAXP propagate them, VMIN and VMAX take the other operand where it is a number. -/
theorem floatPick_quiet (hs : (snan32 a || snan32 b) = false) (hn : (nan32 a || nan32 b) = true) : floatPick 0 false big prop a b =
    (if prop || (nan32 a && nan32 b) then 0x7FC00000 else if nan32 a then b % 2 ^ 32 else a % 2 ^ 32, Fl.clear) := by
  unfold floatPick
  simp only [decodeFloat_f32_isSig, decodeFloat_f32_isNan, hs, hn, if_true, Bool.false_eq_true, if_false]
  rfl
/-- R191: of two numbers VMIN and VMINP take the one below, VMAX and VMAXP the other. -/
theorem floatPick_numbers (ha : nan32 a = false) (hb : nan32 b = false) :
    floatPick 0 false big prop a b = ((if below32 a b = big then b else a) % 2 ^ 32, Fl.clear) := by
  have hs (c : Nat) (hc : nan32 c = false) : snan32 c = false := by rw [snan32, hc, Bool.false_and]
  unfold floatPick
  simp only [decodeFloat_f32_isSig, decodeFloat_f32_isNan, hs a ha, hs b hb, ha, hb, Bool.or_self, Bool.false_eq_true, if_false, flushRaw_f32,
    floatKey_mod, below32_eq_floatKey]
  split <;> rfl

end

/-- Without its bit in FZCTL an f32 operand is not flushed (R173, R174). -/
theorem opfOf_f32 {fz : Nat} (h : fz % 2 = 0) : opfOf fz 0 = false := by
  have h0 : ¬fz / 2 ^ (2 * 0) % 2 = 1 := by omega
  rw [opfOf, decide_eq_false h0, Bool.and_false]
/-- Without its bit in FZCTL an f32 result is not flushed (R173, R174). -/
theorem rsfOf_f32 {fz : Nat} (h : fz % 4 = 0) : rsfOf fz 0 = false := by
  have h1 : ¬fz / 2 ^ (2 * 0 + 1) % 2 = 1 := by omega
  rw [rsfOf, decide_eq_false h1, Bool.and_false]

section
variable {fz : Nat} (m : Rm) {z : Nat} (a b c : Nat)

theorem elemOp_f32_abs : Gives (elemOp .abs 0 fz m z a b c) (a % 2 ^ 31) false := gives_code _ _
theorem elemOp_f32_neg : Gives (elemOp .neg 0 fz m z a b c) ((a % 2 ^ 32) ^^^ 2 ^ 31) false := gives_code _ _

variable (hfz : fz % 4 = 0)
include hfz

theorem elemOp_f32_add : elemOp .add 0 fz m z a b c =
    floatResult 0 fz m z (Val.add (decide (m = .rdn)) (decodeFloat 0 false a) (decodeFloat 0 false b)) := by
  rw [← opfOf_f32 (fz := fz) (by omega)]
  rfl
theorem elemOp_f32_sub : elemOp .sub 0 fz m z a b c =
    floatResult 0 fz m z (Val.add (decide (m = .rdn)) (decodeFloat 0 false a) (decodeFloat 0 false b).negate) := by
  rw [← opfOf_f32 (fz := fz) (by omega)]
  rfl
theorem elemOp_f32_mul : elemOp .mul 0 fz m z a b c = floatResult 0 fz m z (Val.mul (decodeFloat 0 false a) (decodeFloat 0 false b)) := by
  rw [← opfOf_f32 (fz := fz) (by omega)]
  rfl
theorem elemOp_f32_div : elemOp .div 0 fz m z a b c =
    let r := Val.div (decodeFloat 0 false a) (decodeFloat 0 false b)
    let q := floatResult 0 fz m z (r.1, r.2.1)
    (q.1, q.2.or ⟨false, r.2.2, false, false, false⟩) := by
  simp only [elemOp, opfOf_f32 (fz := fz) (by omega)]
/-- R191: VMIN, VMAX, VMINP and VMAXP pick one of two f32 codes. -/
theorem elemOp_f32_pick : elemOp .min 0 fz m z a b c = floatPick 0 false false false a b ∧
    elemOp .max 0 fz m z a b c = floatPick 0 false true false a b ∧ elemOp .minp 0 fz m z a b c = floatPick 0 false false true a b ∧
    elemOp .maxp 0 fz m z a b c = floatPick 0 false true true a b := by
  simp only [elemOp, opfOf_f32 (fz := fz) (by omega)]
  exact ⟨rfl, rfl, trivial, trivial⟩
/-- R190, R191: a NaN operand gives the positive quiet NaN, with NV where one is signalling. -/
theorem elemOp_f32_nan (h : (nan32 a || nan32 b) = true) {op : EOp} (hop : op ∈ [EOp.add, .sub, .mul, .div, .minp, .maxp]) :
    elemOp op 0 fz m z a b c = (0x7FC00000, Fl.inv (snan32 a || snan32 b)) := by
  have hn : ((decodeFloat 0 false a).isNan || (decodeFloat 0 false b).isNan) = true := by simpa using h
  have hsub : ((decodeFloat 0 false a).isNan || (decodeFloat 0 false b).negate.isNan) = true := by simpa using h
  have hpick (big : Bool) : floatPick 0 false big true a b = (0x7FC00000, Fl.inv (snan32 a || snan32 b)) := by
    cases hs : snan32 a || snan32 b
    · rw [floatPick_quiet big true hs h]
      rfl
    · exact floatPick_signalling big true hs
  obtain ⟨-, -, hminp, hmaxp⟩ := elemOp_f32_pick m (z := z) a b c hfz
  simp only [List.mem_cons, List.not_mem_nil, or_false] at hop
  obtain rfl | rfl | rfl | rfl | rfl | rfl := hop
  · rw [elemOp_f32_add m a b c hfz, val_add_nan _ hn, floatResult_qnan, decodeFloat_f32_isSig, decodeFloat_f32_isSig]
  · rw [elemOp_f32_sub m a b c hfz, val_add_nan _ hsub, floatResult_qnan, negate_isSig, decodeFloat_f32_isSig, decodeFloat_f32_isSig]
  · rw [elemOp_f32_mul m a b c hfz, val_mul_nan hn, floatResult_qnan, decodeFloat_f32_isSig, decodeFloat_f32_isSig]
  · rw [elemOp_f32_div m a b c hfz, val_div_nan hn]
    dsimp only
    rw [floatResult_qnan, decodeFloat_f32_isSig, decodeFloat_f32_isSig]
    simp [Fl.or, Fl.inv]
  · rw [hminp, hpick]
  · rw [hmaxp, hpick]

/-- R170, R187: the sum of two values that an f32 code holds is that code, with no flag. -/
theorem floatResult_exact (hz : z < 2 ^ 64) (rdn : Bool) {x y : Val} {q : Nat} (hx : x.isNan = false ∧ x.isInf = false ∧ -149 ≤ x.dy.e)
    (hy : y.isNan = false ∧ y.isInf = false ∧ -149 ≤ y.dy.e) (hq : q < 2 ^ 32) (hf : q % 2 ^ 31 < 0x7F800000) (h0 : units32 q ≠ 0)
    (h : dyUnits x.dy + dyUnits y.dy = units32 q) : floatResult 0 fz m z (Val.add rdn x y) = (q, Fl.clear) := by
  obtain ⟨hxn, hxi, hxe⟩ := hx
  obtain ⟨hyn, hyi, hye⟩ := hy
  obtain ⟨he, hu⟩ := dyUnits_add hxe hye
  obtain ⟨s, hs⟩ := val_add_finite rdn hxn hyn hxi hyi
  rw [floatResult, hs, rsfOf_f32 hfz]
  dsimp only
  rw [encFloat_exact hz he hq hf h0 (hu.trans h)]
  rfl
/-- The exact sum and difference of two finite f32 codes. -/
theorem elemOp_f32_exact (hz : z < 2 ^ 64) (ha : a % 2 ^ 31 < 0x7F800000) (hb : b % 2 ^ 31 < 0x7F800000) {q : Nat} (hq : q < 2 ^ 32)
    (hf : q % 2 ^ 31 < 0x7F800000) (h0 : units32 q ≠ 0) :
    (units32 a + units32 b = units32 q → elemOp .add 0 fz m z a b c = (q, Fl.clear)) ∧
    (units32 a - units32 b = units32 q → elemOp .sub 0 fz m z a b c = (q, Fl.clear)) := by
  obtain ⟨hae, hau⟩ := dyUnits_decodeFloat ha
  obtain ⟨hbe, hbu⟩ := dyUnits_decodeFloat hb
  obtain ⟨han, hai⟩ := decodeFloat_finite_neither ha
  obtain ⟨hbn, hbi⟩ := decodeFloat_finite_neither hb
  refine ⟨fun h => ?_, fun h => ?_⟩
  · rw [elemOp_f32_add m a b c hfz]
    exact floatResult_exact m hfz hz _ ⟨han, hai, hae⟩ ⟨hbn, hbi, hbe⟩ hq hf h0 (by rw [hau, hbu, h])
  · rw [elemOp_f32_sub m a b c hfz]
    refine floatResult_exact m hfz hz _ ⟨han, hai, hae⟩ ⟨?_, ?_, ?_⟩ hq hf h0 ?_
    · rw [negate_isNan, hbn]
    · rw [negate_isInf, hbi]
    · rw [dy_negate]
      exact hbe
    · rw [dyUnits_negate, hau, hbu, ← sub_eq_add_neg, h]

end

/-! ### Two operands (R191) -/

/-- R191: VMIN and VMAX of f32 codes. -/
theorem elemOp_f32_minMax {fz : Nat} (m : Rm) {z : Nat} (a b c : Nat) (hfz : fz % 4 = 0) :
    let is (op : EOp) (r : Nat) (nv : Bool) : Prop := Gives (elemOp op 0 fz m z a b c) r nv
    ((snan32 a || snan32 b) = true → is .min 0x7FC00000 true ∧ is .max 0x7FC00000 true) ∧
    ((snan32 a || snan32 b) = false → nan32 a = true →
      is .min (if nan32 b then 0x7FC00000 else b) false ∧ is .max (if nan32 b then 0x7FC00000 else b) false) ∧
    ((snan32 a || snan32 b) = false → nan32 a = false → nan32 b = true → is .min a false ∧ is .max a false) ∧
    (nan32 a = false → nan32 b = false →
      is .min (if below32 a b then a else b) false ∧ is .max (if below32 a b then b else a) false) := by
  obtain ⟨hmin, hmax, -⟩ := elemOp_f32_pick m (z := z) a b c hfz
  intro is
  simp only [is, hmin, hmax]
  refine ⟨fun hs => ?_, fun hs ha => ?_, fun hs ha hb => ?_, fun ha hb => ?_⟩
  · rw [floatPick_signalling _ _ hs, floatPick_signalling _ _ hs]
    exact ⟨gives_code _ _, gives_code _ _⟩
  · have hn : (nan32 a || nan32 b) = true := by rw [ha, Bool.true_or]
    rw [floatPick_quiet _ _ hs hn, floatPick_quiet _ _ hs hn, ha]
    cases nan32 b
    · exact ⟨gives_mod b, gives_mod b⟩
    · exact ⟨gives_code _ _, gives_code _ _⟩
  · have hn : (nan32 a || nan32 b) = true := by rw [hb, Bool.or_true]
    rw [floatPick_quiet _ _ hs hn, floatPick_quiet _ _ hs hn, ha]
    exact ⟨gives_mod a, gives_mod a⟩
  · rw [floatPick_numbers _ _ ha hb, floatPick_numbers _ _ ha hb]
    cases below32 a b
    · exact ⟨gives_mod b, gives_mod a⟩
    · exact ⟨gives_mod a, gives_mod b⟩

/-! ### f32 to bf16 (R170, R177, R195) -/

/-- Only stochastic rounding looks at the lane's output (R170). -/
theorem rndTo_z {m : Rm} (h : m ≠ .sr) (z : Nat) (src : Option Int) : rndTo ⟨m, z, src⟩ = rndTo ⟨m, 0, src⟩ := by
  cases m with
  | sr => exact absurd rfl h
  | _ => rfl
theorem encFloat_z {m : Rm} (h : m ≠ .sr) (z : Nat) (src : Option Int) (t : Nat) (rsf : Bool) (v : Val) :
    encFloat t rsf ⟨m, z, src⟩ v = encFloat t rsf ⟨m, 0, src⟩ v := by
  cases v with
  | fin neg n e st => simp only [encFloat, rndTo_z h z]
  | _ => rfl
/-- R177, R195: f32 to bf16 rounds the value of the code once. -/
theorem elemOp_f32_bf16 (m : Rm) (z fz a b c : Nat) : elemOp (.cvt 0) 2 fz m z a b c =
    encFloat 2 (rsfOf fz 2) ⟨m, z, (decodeFloat 0 (opfOf fz 0) a).quantum⟩ (decodeFloat 0 (opfOf fz 0) a) := by
  simp [elemOp, convert, encVal, decodeVal, tyFloat]
/-- R195: an f32 code three quarters of the way between two bf16 codes goes up under RNE and down under RTZ. -/
theorem elemOp_f32_bf16_between (z : Nat) : (elemOp (.cvt 0) 2 0 .rne z 0x3F80C000 0 0).1 = 0x3F81 ∧
    (elemOp (.cvt 0) 2 0 .rtz z 0x3F80C000 0 0).1 = 0x3F80 := by
  rw [elemOp_f32_bf16, elemOp_f32_bf16, encFloat_z (m := .rne) (by decide), encFloat_z (m := .rtz) (by decide)]
  decide

/-! ### VectorOnTiles -/

/-- Settles O34: the body of a base form on tiles completes; its tile and its flags are those of its elements; and the elements' results are
the numbers of the rules, taken modulo 2^w, saturated, picked by order or encoded without rounding. -/
theorem vectorOnTiles : Obligations.VectorOnTiles := by
  refine ⟨fun i h f op hi s s0 s1 j ts he hj hd hv hr => ?_, fun op ty x e0 men mask a b c => ⟨fun k => ?_, fun g hg => ?_⟩,
    fun ty w sg hty fz z a b c m => ?_, fun fz z a b c m hfz hz => ?_, fun z => ?_⟩
  · rw [← (entered_keeps he).1]
    exact tileOps_completes hi he hj hd hv hr
  · dsimp only
    rw [tileOp_get, ← isOn_iff]
    exact ⟨fun hon => if_pos hon, fun hoff => if_neg hoff⟩
  · dsimp only
    simp only [tileOp_flag op ty x e0 men mask a b c hg, isOn_iff]
    rfl
  · have h := intTypes_intTy hty
    obtain ⟨hadd, hsub, hmul, hneg, habs, hmin, hmax⟩ := h.elemOp_results fz z a b c m
    refine ⟨hadd, hsub, hmul, hneg, habs, hmin, hmax, fun ts ws ss hts => ?_, fun ha hfz => ?_⟩
    · exact convert_int h (intTypes_intTy hts) _ _ m z a
    · have hr := convert_f32_rtz h ha (rsfOf fz ty) z
      rw [← opfOf_f32 hfz] at hr
      exact hr
  · obtain ⟨hs, hqa, hqb, hnum⟩ := elemOp_f32_minMax m (z := z) a b c hfz
    refine ⟨elemOp_f32_abs m a b c, elemOp_f32_neg m a b c, fun hn op hop => ?_, hs, hqa, hqb, hnum, fun ha hb q hq hf h0 => ?_⟩
    · dsimp only
      rw [elemOp_f32_nan m a b c hfz hn hop]
      exact gives_code _ _
    · obtain ⟨hadd, hsub⟩ := elemOp_f32_exact m a b c hfz hz ha hb hq hf h0
      refine ⟨fun h => ?_, fun h => ?_⟩
      · dsimp only
        rw [hadd h]
        exact gives_code q false
      · dsimp only
        rw [hsub h]
        exact gives_code q false
  · obtain ⟨hrne, hrtz⟩ := elemOp_f32_bf16_between z
    exact ⟨rfl, rfl, rfl, hrne, hrtz⟩

end Sys2Proof.Proofs
end

section
/-!
PROOF. O38: the N-forms. The elements and the groups of a nest keep what an instruction samples at issue (`SameIssue`), so the flags and the
draws at the end use the coordinate of its start.
-/
open Sys2Proof Sys2Proof.Machine Sys2Proof.Claims
namespace Sys2Proof.Proofs

/-! ### Steps of a body in order -/

section
variable {α β : Type} {s t : State}

/-- A check that some forms make, before the rest of a body. -/
theorem runs_when {p : Prop} [Decidable p] {m : M Unit} {g : Unit → M α} {a : α} (hm : p → Runs m s () s) (hg : Runs (g ()) s a t) :
    Runs (if p then m >>= g else g ()) s a t := runs_ite (fun hp => runs_bind (hm hp) hg) fun _ => hg
/-- A fold over a list runs when each element's step runs from what the elements before it have left. -/
theorem foldlM_runs {g : β → α → M β} {b' : β} {P : List α → β → State → Prop} (hnil : ∀ b s, P [] b s → b' = b ∧ t = s)
    (hcons : ∀ a l b s, P (a :: l) b s → ∃ c u, Runs (g b a) s c u ∧ P l c u) {l : List α} {b : β} (h : P l b s) :
    Runs (l.foldlM g b) s b' t := by
  induction l generalizing b s with
  | nil =>
    obtain ⟨rfl, rfl⟩ := hnil b s h
    exact runs_pure _ _
  | cons a l ih =>
    obtain ⟨c, u, hg, hl⟩ := hcons a l b s h
    exact runs_bind hg (ih hl)
/-- Reads that leave the state as it is give the list of their values. -/
theorem mapM_runs {g : α → M β} {l : List α} {vs : List β} (h : List.Forall₂ (fun a v => Runs (g a) s v s) l vs) :
    Runs (l.mapM g) s vs s := by
  rw [← List.mapM'_eq_mapM]
  induction h with
  | nil => exact runs_pure _ s
  | cons ha _ ih => exact runs_bind ha (runs_bind ih (runs_pure _ s))
/-- Reads at the places below n, each of which gives the value of a list at its place. -/
theorem mapM_range_runs {g : Nat → M Nat} {n : Nat} {vs : List Nat} (hn : vs.length = n) (h : ∀ k, k < n → Runs (g k) s (vs.getD k 0) s) :
    Runs ((List.range n).mapM g) s vs s := by
  refine mapM_runs (List.forall₂_iff_get.2 ⟨by simp [hn], fun k hk hv => ?_⟩)
  have hg := h k (by omega)
  rw [List.getD_eq_getElem _ _ hv] at hg
  simpa using hg

end

/-! ### Elements and groups (R207, R208) -/

/-- FZCTL, the rounding mode, the seed and the draws are sampled as they were at the start (R171, R176). -/
theorem SameIssue.laneCtx_runs {s t : State} {j : Job} (h : SameIssue s t) (hj : s.own = some j) (rm : BitVec 3) :
    Runs (laneCtx rm) t (sampled j rm) t := by
  obtain ⟨k, hk, hsame, -⟩ := h.job hj
  exact sampled_same hsame rm ▸ Proofs.laneCtx_runs rm hk
theorem vnWrite_stays (h : Hdr) (bit : Int) (ty v : Nat) (s : State) : Stays SameIssue (vnWrite h bit ty v) s :=
  stays_bind SameIssue.trans (stays_scratchPlace SameIssue.refl SameIssue.trans _ _ _ s) fun _ t _ =>
    stays_bind SameIssue.trans (stays_get SameIssue.refl t) fun _ u _ => writeRuns_stays _ _ _ u
theorem vnAlign_runs {a : Word} {ty : Nat} (s : State) (h : a.toNat % Nat.max 1 (tyWidth ty / 8) = 0) : Runs (vnAlign a ty) s () s :=
  checkMultiple_runs s h

section
variable {h : Hdr} {f : FVN} {op : EOp} {d a b : Word} {x : LaneCtx} {l : List (List Nat × Nat)} {fl fl' : Fl} {s t : State}

theorem points_sameIssue (hp : points h f op d a b x l fl s fl' t) : SameIssue s t := by
  induction l generalizing fl s with
  | nil =>
    obtain ⟨-, rfl⟩ := hp
    exact SameIssue.refl _
  | cons pe l ih =>
    obtain ⟨va, vb, u, -, -, hw, hl⟩ := hp
    exact SameIssue.trans _ _ _ (stays_of_runs hw (vnWrite_stays _ _ _ _ s)) (ih hl)
theorem groups_sameIssue (hg : groups h f d a x l fl s fl' t) : SameIssue s t := by
  induction l generalizing fl s with
  | nil =>
    obtain ⟨-, rfl⟩ := hg
    exact SameIssue.refl _
  | cons pe l ih =>
    obtain ⟨vs, u, -, -, hw, hl⟩ := hg
    exact SameIssue.trans _ _ _ (stays_of_runs hw (vnWrite_stays _ _ _ _ s)) (ih hl)

end

/-! ### The bodies of N-forms -/

section
variable {h : Hdr} {f : FVN} {op : EOp} {bases : List Word} {fl : Fl} {s0 s1 s2 : State} {j : Job}

/-- R207: an element-wise N-form pops its bases, checks them and every address, and computes its elements. -/
theorem vnBody_runs (hj : s0.own = some j)
    (hv : s0.scalars (List.replicate (if decide (2 ≤ op.sources) then 3 else 2) f.vb.sx) = some (bases, s1)) :
    let ty := f.vb.ty.toNat
    let aty := VStep.aTy (.elem op) ty
    let unit (n : Nat) : Nat := Nat.max 1 (tyWidth n / 8)
    let two := decide (2 ≤ op.sources)
    let d := bases.getD 0 0
    let a := bases.getD 1 0
    let b := bases.getD 2 0
    let x := sampled j f.vb.rm
    let pts := vnPoints f (vnCount f 0)
    d.toNat % unit ty = 0 → a.toNat % unit aty = 0 → (two = true → b.toNat % unit ty = 0) →
    (∀ pt ∈ pts, Runs (vnCheck (vnBit d ty f.sd f.ud pt) ty) s1 () s1 ∧ Runs (vnCheck (vnBit a aty f.sa f.ua pt) aty) s1 () s1 ∧
      (two = true → Runs (vnCheck (vnBit b ty f.sb f.ub pt) ty) s1 () s1)) →
    points h f op d a b x pts.zipIdx Fl.clear s1 fl s2 →
    Runs (vnBody h f op) s0 () (vEnd s2 (j.stream s0.cur.2).coord x pts.length fl) := by
  intro ty aty unit two d a b x pts hd ha hb hc hp
  obtain ⟨hcd, hc⟩ := forall₂_and.1 hc
  obtain ⟨hca, hcb⟩ := forall₂_and.1 hc
  have h1 := scalars_sameIssue hv
  have hfin := vFinish_runs x pts.length fl hj (SameIssue.trans _ _ _ h1 (points_sameIssue hp))
  refine runs_bind (popMany_runs hv) (runs_bind (vnAlign_runs s1 hd) (runs_bind (vnAlign_runs s1 ha)
    (runs_when (fun h2 => vnAlign_runs s1 (hb h2)) (runs_bind (forM_runs hcd) (runs_bind (forM_runs hca)
    (runs_when (fun h2 => forM_runs fun pt hm => hcb pt hm h2) (runs_bind (h1.laneCtx_runs hj f.vb.rm)
    (runs_bind (foldlM_runs (P := fun l fl' s => points h f op d a b x l fl' s fl s2) (fun _ _ e => e) ?_ hp) hfin))))))))
  rintro pe l fl' s ⟨va, vb, u, hra, hrb, hw, hl⟩
  refine ⟨_, u, runs_bind hra (runs_ite (fun h2 => ?_) fun h2 => ?_), hl⟩
  · rw [if_pos (of_decide_eq_true h2)] at hrb
    exact runs_bind hrb (runs_bind hw (runs_pure _ u))
  · rw [if_neg (by simpa using h2)] at hrb
    subst hrb
    exact runs_bind (runs_pure 0 s) (runs_bind hw (runs_pure _ u))
/-- R208: VREDR.nest pops its bases, checks them and every address, and reduces its groups. -/
theorem vnReduce_runs {d a : Word} (hj : s0.own = some j) (hs : f.sd.toNat % 256 = 0)
    (hv : s0.scalars [f.vb.sx, f.vb.sx] = some ([d, a], s1)) :
    let ty := f.vb.ty.toNat
    let unit := Nat.max 1 (tyWidth ty / 8)
    let x := sampled j f.vb.rm
    let pts := vnPoints f (vnCount f 0)
    d.toNat % unit = 0 → a.toNat % unit = 0 →
    (∀ pt ∈ vnPoints f 1, Runs (vnCheck (vnBit d ty f.sd f.ud pt) ty) s1 () s1) →
    (∀ pt ∈ pts, Runs (vnCheck (vnBit a ty f.sa f.ua pt) ty) s1 () s1) →
    groups h f d a x (vnPoints f 1).zipIdx Fl.clear s1 fl s2 →
    Runs (vnReduce h f) s0 () (vEnd s2 (j.stream s0.cur.2).coord x pts.length fl) := by
  intro ty unit x pts hd ha hcd hca hg
  have h1 := scalars_sameIssue hv
  have hfin := vFinish_runs x pts.length fl hj (SameIssue.trans _ _ _ h1 (groups_sameIssue hg))
  refine runs_bind (runs_trapIf _ _ s0 (decide_eq_false (not_not.mpr hs))) (runs_bind (popMany_runs (n := 2) hv)
    (runs_bind (vnAlign_runs s1 hd) (runs_bind (vnAlign_runs s1 ha) (runs_bind (forM_runs hcd) (runs_bind (forM_runs hca)
    (runs_bind (h1.laneCtx_runs hj f.vb.rm)
    (runs_bind (foldlM_runs (P := fun l fl' s => groups h f d a x l fl' s fl s2) (fun _ _ e => e) ?_ hg) hfin)))))))
  rintro pe l fl' s ⟨vs, u, hn, hr, hw, hl⟩
  exact ⟨_, u, runs_bind (mapM_range_runs hn hr) (runs_bind hw (runs_pure _ u)), hl⟩

end

/-! ### VectorNests -/

theorem exec_nest {i : Instr} {h : Hdr} {f : FVN} {op : EOp} (hi : nestOps i = some (h, f, op)) (s : State) :
    exec i s = runInstr i (straight (vnBody h f op)) s := by
  unfold nestOps at hi
  split at hi <;> cases hi <;> rfl
/-- A body that completes with its flags and draws after work that keeps what was sampled: its instruction completes. -/
theorem vEnd_completes {i : Instr} {body : M Unit} {s s0 u : State} {j : Job} {c : Coord} {x : LaneCtx} {n : Nat} {fl : Fl}
    (he : s.entered i = some s0) (hj : s0.own = some j) (hs : SameIssue s0 u) (hb : Runs body s0 () (vEnd u c x n fl)) :
    runInstr i (straight body) s = .next ((vEnd u c x n fl).retired i (s.nextPc i)) := by
  obtain ⟨k, hk, -⟩ := hs.job hj
  obtain ⟨hc, ho⟩ := vEnd_keeps c x n fl hk
  exact straight_completes he hb (hc.trans (hs.1.trans (entered_keeps he).1)) ho
/-- The bases of an element-wise N-form are the two or three words that it pops. -/
theorem nest_bases {s0 s1 : State} {x : Spec} {d a b : Word} {two : Bool}
    (h : if two then s0.scalars [x, x, x] = some ([d, a, b], s1) else s0.scalars [x, x] = some ([d, a], s1) ∧ b = 0) :
    ∃ bases, s0.scalars (List.replicate (if two then 3 else 2) x) = some (bases, s1) ∧ d = bases.getD 0 0 ∧ a = bases.getD 1 0 ∧
      b = bases.getD 2 0 := by
  cases two with
  | true => exact ⟨[d, a, b], h, rfl, rfl, rfl⟩
  | false => exact ⟨[d, a], h.1, rfl, rfl, h.2⟩

/-- Settles O38: the bodies of the N-forms complete, and their reads and writes leave the coordinate with which the flags and the draws are
made. -/
theorem vectorNests : Obligations.VectorNests := by
  refine fun h f s s0 s1 s2 j d a b fl hj => ⟨fun i op hi he hv hd ha hb hc hp => ?_, fun he hs hv hd ha hcd hca hg => ?_⟩ <;>
    rw [← (entered_keeps he).1]
  · obtain ⟨bases, hpop, rfl, rfl, rfl⟩ := nest_bases hv
    rw [exec_nest hi]
    exact vEnd_completes he hj (SameIssue.trans _ _ _ (scalars_sameIssue hpop) (points_sameIssue hp)) (vnBody_runs hj hpop hd ha hb hc hp)
  · exact vEnd_completes he hj (SameIssue.trans _ _ _ (scalars_sameIssue hv) (groups_sameIssue hg)) (vnReduce_runs hj hs hv hd ha hcd hca hg)

end Sys2Proof.Proofs
end

section
/-!
PROOF. O35: VSEL, the moves of slots, the reductions, VNET and VGEN.
-/
open Sys2Proof Sys2Proof.Machine Sys2Proof.Claims
namespace Sys2Proof.Proofs

/-! ### What the reads of sources leave (R21, R26, R186) -/

/-- The executing stream has the same mask registers in both states. -/
def SameMasks (s t : State) : Prop := t.lane.map Stream.masks = s.lane.map Stream.masks

theorem SameMasks.trans {s t u : State} (h : SameMasks s t) (k : SameMasks t u) : SameMasks s u := Eq.trans k h
theorem tile_sameMasks {s t : State} {f : BitVec 5} {v : Tile} (h : s.tile f = some (v, t)) : SameMasks s t := congrArg _ (tile_lane h)
theorem scalars_sameMasks {l : List Spec} {s t : State} {vs : List Word} {j : Job} (h : s.scalars l = some (vs, t)) (hj : s.own = some j) :
    SameMasks s t := by
  obtain ⟨regs, fences, hl⟩ := (scalars_reads h).lane_eq hj
  rw [SameMasks, hl, State.lane_eq hj]
  rfl
/-- The mask of an instruction after it has read its sources is the one that it had at its start. -/
theorem SameMasks.maskOf_runs {s t : State} {j k : Job} (h : SameMasks s t) (hj : s.own = some j) (hk : t.own = some k) (f : FVB) :
    Runs (maskOf f) t ((j.stream s.cur.2).masks.get (fin8 f.mask.toNat)) t := by
  have hm : (k.stream t.cur.2).masks = (j.stream s.cur.2).masks := by
    simpa [SameMasks, State.lane_eq hj, State.lane_eq hk] using h
  exact hm ▸ Proofs.maskOf_runs f hk
theorem tile_sameIssue {s t : State} {f : BitVec 5} {v : Tile} (h : s.tile f = some (v, t)) : SameIssue s t :=
  stays_of_runs (popTile_runs h) (popTile_stays f s)
theorem putTile_sameIssue {s : State} {d : BitVec 4} (h : Hdr) (v : Tile) (hr : s.tileRoom d = true) :
    SameIssue s (s.putTile h d.toNat (some v)) := stays_of_runs (pushTile_runs (form := false) hr) (pushTile_stays h d v false s)
/-- The operands of an instruction on tiles pass their check when the job has tile queues. -/
theorem forM_needs_runs {s : State} {j : Job} (l : List VOpd) (hj : s.own = some j) (hd : j.hdr.tdep ≠ 0) :
    Runs (l.forM VOpd.needs) s () s := forM_runs fun _ _ => needs_runs hj fun _ _ => by simp [State.hasTiles, hj, hd]

/-! ### VSEL (R193) -/

theorem tileSel_get (mask : BitVec 1024) (a b : Tile) (k : Fin 1024) :
    (tileSel mask a b).get k = if mask.getLsbD k then a.get k else b.get k := by simp [tileSel, Vector.get_eq_getElem]
/-- A tile is known by its slots. -/
theorem tile_ext {v w : Tile} (h : ∀ k, v.get k = w.get k) : v = w := Vector.ext fun i hi => h ⟨i, hi⟩

section
variable {h : Hdr} {f : FVB} {s s0 s1 s2 : State} {j : Job} {a b : Tile} {n : Word}

theorem selPlan_checked (mask : BitVec 1024) (ht : s.hasTiles = true) : Checked (basePlan f .sel mask) [] s := by
  refine ⟨fun o hm => ?_, fun k hk => by simp [basePlan, VStep.scaled] at hk⟩
  simp only [List.mem_cons, List.not_mem_nil, or_false] at hm
  obtain rfl | rfl | rfl | rfl := hm
  · exact ht
  · exact ht
  · trivial
  · exact ht
/-- R193: VSEL reads its two tiles and pushes the selection by its mask. -/
theorem vsel_completes (he : s.entered (.vsel h f) = some s0) (hj : s0.own = some j) (hd : j.hdr.tdep ≠ 0)
    (hv : s0.tiles [f.ta, f.tb] = some ([a, b], s1)) (hr : s1.tileRoom f.td = true) :
    let t := j.stream s0.cur.2
    let v := tileSel (t.masks.get (fin8 f.mask.toNat)) a b
    exec (.vsel h f) s = .next ((vEnd (s1.putTile h f.td.toNat (some v)) t.coord (sampled j f.rm) 1024 Fl.clear).retired (.vsel h f)
      (s.nextPc (.vsel h f))) := by
  intro t v
  obtain ⟨u, ha, hv⟩ := tiles_cons hv
  obtain ⟨w, hb, hn⟩ := tiles_cons hv
  cases hn
  have h1 := SameIssue.trans _ _ _ (tile_sameIssue ha) (tile_sameIssue hb)
  have htiles : s1.hasTiles = true := (h1.hasTiles hj).trans (by simp [State.hasTiles, hj, hd])
  have hreads : reads (basePlan f .sel (t.masks.get (fin8 f.mask.toNat))) [] 0 s0 (a, none) (b, none) (Tile.zero, none) s1 :=
    ⟨u, s1, queue_read_runs rfl ha, queue_read_runs rfl hb, unused_read_runs rfl _ _ _ _⟩
  have hputs : puts (basePlan f .sel (t.masks.get (fin8 f.mask.toNat))) h [] (sampled j f.rm) 0 (a, none) (b, none) (Tile.zero, none) s1
      Fl.clear (s1.putTile h f.td.toNat (some v)) := ⟨rfl, queue_write_runs hr⟩
  have hbody := runBase_tiles_runs (f := f) hj (by simp [basePlan]) hreads rfl (selPlan_checked _ htiles) hputs
  exact vEnd_completes he hj (SameIssue.trans _ _ _ h1 (putTile_sameIssue h v hr)) (runs_bind (maskOf_runs f hj) hbody)

/-! ### Moves, reductions, VNET and VGEN (R199, R200, R203, R205) -/

/-- A body that pushes a tile at its end: its instruction completes. -/
theorem putTile_completes {i : Instr} {body : M Unit} {u : State} {v : Tile} (he : s.entered i = some s0)
    (hj : s0.own = some j) (hs : SameIssue s0 u) (hr : u.tileRoom f.td = true) (hb : Runs body s0 () (u.putTile h f.td.toNat (some v))) :
    runInstr i (straight body) s = .next ((u.putTile h f.td.toNat (some v)).retired i (s.nextPc i)) := by
  have h2 := SameIssue.trans _ _ _ hs (putTile_sameIssue h v hr)
  obtain ⟨k, hk, -⟩ := h2.job hj
  exact straight_completes he hb (h2.1.trans (entered_keeps he).1) (by rw [hk]; rfl)

/-- R199: a move by an index reads its tile, then the index. -/
theorem moveBody_completes {i : Instr} (src : Nat → Fin 1024 → Fin 1024) (he : s.entered i = some s0) (hj : s0.own = some j)
    (hd : j.hdr.tdep ≠ 0) (ha : s0.tile f.ta = some (a, s1)) (hn : s1.scalars [f.sx] = some ([n], s2)) (hr : s2.tileRoom f.td = true) :
    runInstr i (straight (moveBody h f src)) s = .next ((s2.putTile h f.td.toNat (some (tileMove (src n.toNat) f.men
      ((j.stream s0.cur.2).masks.get (fin8 f.mask.toNat)) a))).retired i (s.nextPc i)) := by
  have h2 := SameIssue.trans _ _ _ (tile_sameIssue ha) (scalars_sameIssue hn)
  obtain ⟨i1, hi1, -⟩ := (tile_sameIssue ha).job hj
  obtain ⟨k, hk, -⟩ := h2.job hj
  have hmask := ((tile_sameMasks ha).trans (scalars_sameMasks hn hi1)).maskOf_runs hj hk f
  exact putTile_completes he hj h2 hr (runs_bind (forM_needs_runs _ hj hd) (runs_bind (popTile_runs ha) (runs_pop hn (runs_bind hmask
    (pushTile_runs hr)))))
/-- R199, R203: a move without an index reads its tile. -/
theorem fixedMoveBody_runs (src : Fin 1024 → Fin 1024) (hj : s0.own = some j) (hd : j.hdr.tdep ≠ 0) (ha : s0.tile f.ta = some (a, s1))
    (hr : s1.tileRoom f.td = true) : Runs (fixedMoveBody h f src) s0 () (s1.putTile h f.td.toNat (some (tileMove src f.men
      ((j.stream s0.cur.2).masks.get (fin8 f.mask.toNat)) a))) := by
  obtain ⟨k, hk, -⟩ := (tile_sameIssue ha).job hj
  exact runs_bind (forM_needs_runs _ hj hd) (runs_bind (popTile_runs ha) (runs_bind ((tile_sameMasks ha).maskOf_runs hj hk f)
    (pushTile_runs hr)))
/-- R200: a reduction reads its tile, and its flags and draws follow its push. -/
theorem reduceBody_completes {i : Instr} (g : Nat → Nat → LaneCtx → Bool → BitVec 1024 → Tile → Tile × Fl) (he : s.entered i = some s0)
    (hj : s0.own = some j) (hd : j.hdr.tdep ≠ 0) (ha : s0.tile f.ta = some (a, s1)) (hr : s1.tileRoom f.td = true) :
    let t := j.stream s0.cur.2
    let r := g f.fn.toNat f.ty.toNat (sampled j f.rm) f.men (t.masks.get (fin8 f.mask.toNat)) a
    runInstr i (straight (reduceBody h f g)) s = .next ((vEnd (s1.putTile h f.td.toNat (some r.1)) t.coord (sampled j f.rm) 1024
      r.2).retired i (s.nextPc i)) := by
  intro t r
  have h1 := tile_sameIssue ha
  obtain ⟨k, hk, -⟩ := h1.job hj
  have h2 := SameIssue.trans _ _ _ h1 (putTile_sameIssue h r.1 hr)
  exact vEnd_completes he hj h2 (runs_bind (forM_needs_runs _ hj hd) (runs_bind (popTile_runs ha) (runs_bind (h1.laneCtx_runs hj f.rm)
    (runs_bind ((tile_sameMasks ha).maskOf_runs hj hk f) (runs_bind (pushTile_runs hr) (vFinish_runs _ _ _ hj h2))))))
/-- R205: VGEN reads its pattern alone. -/
theorem vgen_completes (he : s.entered (.vgen h f) = some s0) (hj : s0.own = some j) (hd : j.hdr.tdep ≠ 0)
    (hn : s0.scalars [f.sx] = some ([n], s1)) (hr : s1.tileRoom f.td = true) :
    exec (.vgen h f) s = .next ((s1.putTile h f.td.toNat (some (tileGen n f.men
      ((j.stream s0.cur.2).masks.get (fin8 f.mask.toNat))))).retired (.vgen h f) (s.nextPc (.vgen h f))) := by
  have h1 := scalars_sameIssue hn
  obtain ⟨k, hk, -⟩ := h1.job hj
  have hneeds : Runs (VOpd.needs (.queue (f.td.setWidth 5))) s0 () s0 := needs_runs hj fun _ _ => by simp [State.hasTiles, hj, hd]
  exact putTile_completes he hj h1 hr (runs_bind hneeds (runs_pop hn (runs_bind ((scalars_sameMasks hn hj).maskOf_runs hj hk f)
    (pushTile_runs hr))))

end

/-! ### Slots of a move (R186, R199) -/

theorem tileMove_get (src : Fin 1024 → Fin 1024) (men : Bool) (mask : BitVec 1024) (a : Tile) (k : Fin 1024) :
    (tileMove src men mask a).get k = if isOn men mask k then a.get (src k) else a.get k := by
  simp [tileMove, Vector.get_eq_getElem]
theorem pos_val (r c : Nat) : (pos r c).val = 64 * (r % 16) + c % 64 := by
  simp only [pos]
  omega
/-- The places of the five moves. -/
theorem moveSources (n : Nat) (k : Fin 1024) (r c : Nat) (hk : k.val = 64 * r + c) (hc : c < 64) :
    (srcRotr n k).val = 64 * r + (c + n) % 64 ∧ (srcRotc n k).val = 64 * ((r + n) % 16) + c ∧ (srcBcr n k).val = 64 * r + n % 64 ∧
    (srcBcc n k).val = 64 * (n % 16) + c ∧ (srcTrn k).val = 64 * (c % 16) + (16 * (c / 16) + r) := by
  have hlt := k.isLt
  have hr : k.val / 64 = r := by omega
  have hm : k.val % 64 = c := by omega
  simp only [srcRotr, srcRotc, srcBcr, srcBcc, srcTrn, pos_val, hr, hm]
  omega

/-! ### Integer sums of rows and columns (R200) -/

theorem pos_eq {r c : Nat} (hr : r < 16) (hc : c < 64) : (pos r c).val = 64 * r + c := by
  rw [pos_val, Nat.mod_eq_of_lt hr, Nat.mod_eq_of_lt hc]
theorem toList_getD_val (a : Tile) (k : Fin 1024) : a.toList.getD k.val 0 = a.get k := by
  simp [List.getD_eq_getElem?_getD, Vector.get_eq_getElem]
/-- The sum over what passes a test is the sum with zero in place of the rest. -/
theorem sum_map_filter {α : Type} (p : α → Bool) (g : α → Int) (l : List α) :
    ((l.filter p).map g).sum = (l.map (fun e => if p e then g e else 0)).sum := by
  induction l with
  | nil => rfl
  | cons e l ih => cases hp : p e <;> simp [hp, ih]

/-- What an integer add takes of the slot e of a tile: its number where the element is on, else zero (R186, R200). -/
def addend (w : Nat) (sg men : Bool) (mask : BitVec 1024) (a : Tile) (e : Nat) : Int :=
  if men = false ∨ mask.getLsbD e = true then codeNum w sg (a.toList.getD e 0).toNat else 0

section
variable {ty w : Nat} {sg : Bool} (h : IntTy ty w sg)
include h

theorem IntTy.reduce_add (fz z : Nat) (m : Rm) (l : List Nat) : reduce 0 ty fz m z l = (wrapInt w (l.map (codeNum w sg)).sum, Fl.clear) := by
  have hkey : intKey ty = codeNum w sg := funext h.intKey_eq
  simp [reduce, h.int, h.width, hkey]
/-- R200: an add over the slots at the places of a group. -/
theorem IntTy.group_add (fz z : Nat) (m : Rm) (men : Bool) (mask : BitVec 1024) (a : Tile) {N : Nat} {e : Nat → Nat} {src : Nat → Fin 1024}
    (hsrc : ∀ n, n < N → (src n).val = e n) :
    slotOf ty (reduce 0 ty fz m z (((List.range N).filter (fun n => isOn men mask (e n))).map (fun n => (a.get (src n)).toNat))).1 =
      wrapped w sg ((List.range N).map (fun n => addend w sg men mask a (e n))).sum := by
  rw [h.reduce_add]
  dsimp only
  rw [h.slotOf_wrapInt, List.map_map, sum_map_filter]
  congr 2
  refine List.map_congr_left fun n hn => ?_
  rw [← hsrc n (List.mem_range.1 hn)]
  simp only [addend, toList_getD_val, isOn_iff, Function.comp_apply]

variable (x : LaneCtx) (men : Bool) (mask : BitVec 1024) (a : Tile) {k : Fin 1024} {r c : Nat} (hk : k.val = 64 * r + c) (hc : c < 64)
include hk hc

theorem IntTy.tileRedr_add : (tileRedr 0 ty x men mask a).1.get k =
    wrapped w sg ((List.range 64).map (fun n => addend w sg men mask a (64 * r + n))).sum := by
  have hlt := k.isLt
  have hr : k.val / 64 = r := by omega
  rw [← h.group_add x.fz (x.z (64 * r)) x.mode men mask a fun n hn => pos_eq (by omega) hn]
  simp [tileRedr, Vector.get_eq_getElem, hr, List.getElem?_range (show r < 16 by omega)]
theorem IntTy.tileRedc_add : (tileRedc 0 ty x men mask a).1.get k =
    wrapped w sg ((List.range 16).map (fun n => addend w sg men mask a (64 * n + c))).sum := by
  have hm : k.val % 64 = c := by omega
  rw [← h.group_add x.fz (x.z c) x.mode men mask a fun n hn => pos_eq hn hc]
  simp [tileRedc, Vector.get_eq_getElem, hm, List.getElem?_range hc]

end

/-! ### The tile of VGEN (R205) -/

/-- A field of a word as a signed number of its width. -/
theorem toSigned_field (n : Word) (w k : Nat) : toSigned w (n.toNat / 2 ^ k) = ((n >>> k).setWidth w).toInt := by
  have hlt (x : Nat) : x % 2 ^ w < 2 ^ (w - 1) ↔ 2 * (x % 2 ^ w) < 2 ^ w := by
    cases w with
    | zero => simp [Nat.mod_one]
    | succ w =>
      rw [Nat.add_sub_cancel, Nat.pow_succ]
      omega
  rw [BitVec.toInt_eq_toNat_cond, BitVec.toNat_setWidth, BitVec.toNat_ushiftRight, Nat.shiftRight_eq_div_pow]
  exact if_congr (hlt _) rfl rfl
theorem ofInt_emod_add (n : Nat) (v : Int) : BitVec.ofInt 32 (((n % 2 ^ 32 : Nat) : Int) + v) = BitVec.ofInt 32 ((n : Int) + v) := by
  apply BitVec.eq_of_toNat_eq
  simp only [BitVec.toNat_ofInt, Int.natCast_emod, Int.emod_add_emod]
theorem tileGen_get (n : Word) (men : Bool) (mask : BitVec 1024) {k : Fin 1024} {r c : Nat} (hk : k.val = 64 * r + c) (hc : c < 64) :
    (tileGen n men mask).get k = if isOn men mask k
      then BitVec.ofInt 32 ((n.toNat : Int) + r * ((n >>> 48).setWidth 16).toInt + c * ((n >>> 32).setWidth 16).toInt) else 0 := by
  have hr : k.val / 64 = r := by omega
  have hm : k.val % 64 = c := by omega
  have hget : (tileGen n men mask).get k = if isOn men mask k then BitVec.ofInt 32 (((n.toNat % 2 ^ 32 : Nat) : Int) +
      ((k.val / 64 : Nat) : Int) * toSigned 16 (n.toNat / 2 ^ 48) + ((k.val % 64 : Nat) : Int) * toSigned 16 (n.toNat / 2 ^ 32)) else 0 := by
    simp [tileGen, Vector.get_eq_getElem]
  rw [hget, hr, hm, add_assoc, ofInt_emod_add, ← add_assoc, toSigned_field, toSigned_field]

/-! ### VectorSelectAndMoves -/

/-- Settles O35: the bodies complete, since the reads of their sources leave the masks and what was sampled; and the slots of their tiles are
those at the places of the moves, the sums and VGEN's numbers. -/
theorem vectorSelectAndMoves : Obligations.VectorSelectAndMoves := by
  refine ⟨fun h f s s0 s1 j a b v he hj hd hv hr => ?_, fun h f s s0 s1 s2 j a n hj hd => ?_, fun src men mask a k => ?_, moveSources,
    fun ty w sg hty x men mask a k r c hk hc => ?_, fun n men mask k r c hk hc => ?_⟩
  · rw [← (entered_keeps he).1]
    intro t hsel
    rw [tile_ext fun k => (hsel k).trans (tileSel_get _ a b k).symm]
    exact vsel_completes he hj hd hv hr
  · refine ⟨fun ha hn hr => ⟨fun he => ?_, fun he => ?_, fun he => ?_, fun he => ?_⟩,
      fun ha hr => ⟨fun he => ?_, fun he => ?_, fun he => ?_, fun he => ?_⟩, fun he hn hr => ?_⟩ <;> rw [← (entered_keeps he).1]
    · exact moveBody_completes srcRotr he hj hd ha hn hr
    · exact moveBody_completes srcRotc he hj hd ha hn hr
    · exact moveBody_completes srcBcr he hj hd ha hn hr
    · exact moveBody_completes srcBcc he hj hd ha hn hr
    · exact putTile_completes he hj (tile_sameIssue ha) hr (fixedMoveBody_runs srcTrn hj hd ha hr)
    · exact putTile_completes he hj (tile_sameIssue ha) hr (runs_bind (runs_getStream hj) (fixedMoveBody_runs _ hj hd ha hr))
    · exact reduceBody_completes tileRedr he hj hd ha hr
    · exact reduceBody_completes tileRedc he hj hd ha hr
    · exact vgen_completes he hj hd hn hr
  · rw [tileMove_get]
    simp only [isOn_iff]
  · have h := intTypes_intTy hty
    exact ⟨h.tileRedr_add x men mask a hk hc, h.tileRedc_add x men mask a hk hc⟩
  · rw [tileGen_get n men mask hk hc]
    simp only [isOn_iff]

end Sys2Proof.Proofs
end

section
/-!
PROOF. O31 to O33: the instructions of the matrix engine at issue.
-/
open Sys2Proof Sys2Proof.Machine Sys2Proof.Claims
namespace Sys2Proof.Proofs

/-! ### What the ME's instructions share (R82, R228, R230) -/

section
variable {s : State} {j : Job} (hj : s.own = some j)
include hj

theorem sampleFz_runs : Runs sampleFz s ((j.rreg .fzctl).setWidth 16) s := runs_bind (runs_getJob hj) (runs_pure _ s)
/-- A tile of the job's grant passes. -/
theorem checkTile_runs {t : BitVec 5} (ht : t.toNat < j.hdr.acg) : Runs (checkTile t) s () s :=
  runs_bind (runs_getJob hj) (runs_trapIf _ _ s (decide_eq_false (by omega)))
/-- A command joins the queue, then the open set of its batch. -/
theorem batched_runs (h : Hdr) (k : CmdKind) (b : BitVec 4) (hq : s.queueRoom .me = true) :
    Runs (do enqueue .me h k; joinBatch b) s () ((s.queueing .me h k).onOwn (fun j => { j with openSet := j.openSet ++ [(b, j.seq)] })) :=
  runs_bind (enqueue_runs .me h k hj hq) (runs_modifyJob _ (j := j.setQueue .me _) (by rw [State.queueing, State.onOwn_own, hj]; rfl))
end

/-! ### MFMT (R219) -/

section
variable {h : Hdr} {s s0 s1 : State} {j : Job} {w : Word} (hj : s1.own = some j)
include hj

theorem mfmtBody_runs {f : FRR} (hv : s0.scalars [f.a] = some ([w], s1)) (hw : fmtOk w = true) (hl : j.fmtQ.items.length < 16)
    (hp : j.fmtQ.items.length + j.fmtQ.popped.length < 32) :
    let entry : QEntry Word := ⟨some w, ⟨(j.stream s1.cur.2).coord, h.stage⟩, .none, false, j.seq, none⟩
    Runs (mfmtBody h f) s0 () (s1.onOwn (fun j => { j with fmtQ := ⟨j.fmtQ.items ++ [entry], j.fmtQ.popped⟩ })) := by
  refine runs_pop hv (runs_bind (runs_trapIf _ _ s1 (by rw [hw]; rfl)) (runs_bind (runs_getJob hj) (runs_bind (runs_getStream hj) ?_)))
  rw [if_neg (Nat.not_le.mpr hp), if_neg (Nat.not_le.mpr hl), State.onOwn_eq hj]
  exact runs_bind (runs_getJob hj) (runs_setJob s1 _)

/-! ### Commands and batches (R220, R228, R230, R235) -/

theorem mcbBody_runs {f : FM} (hv : s0.scalars [f.base] = some ([w], s1)) (hw : w.toNat % 32 = 0) (hq : s1.queueRoom .me = true) :
    Runs (mcbBody h f) s0 () (s1.queueing .me h
      (.mcb ⟨f.opt.toNat % 4, Nat.mod_lt _ (by decide)⟩ w ((j.rreg .fzctl).setWidth 16))) :=
  runs_pop hv (runs_bind (checkMultiple_runs s1 hw) (runs_bind (sampleFz_runs hj) (enqueue_runs .me h _ hj hq)))
theorem mcommitBody_runs (f : FRR) : Runs (mcommitBody f) s1 () (s1.onOwn (fun k => { k with
    openSet := k.openSet.filter (fun x => x.1 ≠ f.fn.setWidth 4)
    committed := k.committed ++ (k.openSet.filter (fun x => x.1 = f.fn.setWidth 4)).map
      (fun x => (f.fn.setWidth 4, x.2, (j.stream s1.cur.2).coord, k.seq)) })) :=
  runs_bind (runs_getStream hj) (runs_modifyJob _ hj)
/-- MWAIT of a batch of which no committed command is left. -/
theorem mwaitBody_runs {f : FRR} (hc : ∀ c ∈ j.committed, c.1 = f.fn.setWidth 4 → ∀ q ∈ j.meQ, q.id ≠ c.2.1) :
    Runs (mwaitBody f) s1 () (s1.onOwn (fun j => { j with committed := j.committed.filter (fun c => c.1 ≠ f.fn.setWidth 4) })) := by
  have hnone : j.committed.any (fun c => decide (c.1 = f.fn.setWidth 4) && j.meQ.any (fun q => q.id = c.2.1)) = false := by
    simpa using hc
  refine runs_bind (runs_getJob hj) ?_
  simp only [hnone, Bool.false_eq_true, if_false]
  rw [State.onOwn_eq hj]
  exact runs_setJob s1 _
end

/-! ### MMA (R218, R221) -/

/-- The registers of an MMA's operand: two scalar sources where it lies in a scratchpad, none where it is a tile. -/
def operandRead (on : Bool) (x y : Spec) (s : State) (a b : Word) (t : State) : Prop :=
  if on then s.scalars [x, y] = some ([a, b], t) else a = 0 ∧ b = 0 ∧ t = s

theorem operandRead_runs {on : Bool} {x y : Spec} {s t : State} {a b : Word} (hv : operandRead on x y s a b t) :
    Runs (if on then (do let a ← pop x; let b ← pop y; return (a, b)) else pure (0, 0)) s (a, b) t := by
  cases on with
  | true => exact runs_pop_pop hv (runs_pure _ t)
  | false =>
    obtain ⟨rfl, rfl, rfl⟩ := hv
    exact runs_pure _ t
theorem Stands.operandRead {on : Bool} {x y : Spec} {r s t : State} {a b : Word} (hr : Stands r s) (hv : operandRead on x y s a b t) :
    Stands r t := by
  cases on with
  | true => exact hr.scalars hv
  | false =>
    obtain ⟨-, -, rfl⟩ := hv
    exact hr

/-- The state in which an MMA has popped its format word. -/
def fmtPopped (s : State) : State := s.onOwn (fun j => { j with fmtQ := j.fmtQ.pop (j.stream s.cur.2).coord j.seq })

section
variable {s : State} {j : Job} (hj : s.own = some j)
include hj

theorem fmtPopped_own : (fmtPopped s).own = some { j with fmtQ := j.fmtQ.pop (j.stream s.cur.2).coord j.seq } := by
  rw [fmtPopped, State.onOwn_own, hj]
  rfl
theorem popFmt_runs {e : QEntry Word} {l : List (QEntry Word)} {w : Word} (hi : j.fmtQ.items = e :: l)
    (hw : e.usable (j.stream s.cur.2).coord = some w) : Runs popFmt s w (fmtPopped s) := by
  obtain ⟨hc, hval, -⟩ := checkEntry_runs s hw
  rw [fmtPopped, State.onOwn_eq hj]
  refine runs_bind (runs_getJob hj) (runs_bind (runs_getStream hj) ?_)
  simp only [hi, hval]
  exact runs_bind hc (runs_bind (runs_setJob s _) (runs_pure w _))
end

theorem mmaBody_runs {h : Hdr} {f : FMX} {s0 s1 s2 : State} {j : Job} {x1 x2 y1 y2 w : Word} {e : QEntry Word} {l : List (QEntry Word)}
    (ha : operandRead f.ak f.a1 f.a2 s0 x1 x2 s1) (hb : operandRead f.bk f.b1 f.b2 s1 y1 y2 s2) (hj : s2.own = some j)
    (hd : f.ak = false ∨ f.bk = false → j.hdr.tdep ≠ 0) (hacc : f.acc.toNat < j.hdr.acg) (hi : j.fmtQ.items = e :: l)
    (hw : e.usable (j.stream s2.cur.2).coord = some w) (hq : s2.queueRoom .me = true) :
    Runs (mmaBody h f) s0 () (((fmtPopped s2).queueing .me h (.mma f w x1 x2 y1 y2 ((j.rreg .mconst).setWidth 32)
      ((j.rreg .fzctl).setWidth 16))).onOwn (fun j => { j with openSet := j.openSet ++ [(f.batch, j.seq)] })) := by
  have hp := fmtPopped_own hj
  have hroom : (fmtPopped s2).queueRoom .me = true := by
    rw [State.queueRoom, hj] at hq
    rw [State.queueRoom, hp]
    exact hq
  refine runs_bind (operandRead_runs ha) (runs_bind (operandRead_runs hb) ?_)
  refine runs_when (fun hn => needTiles_runs hj (hd (.inl (by simpa using hn)))) ?_
  refine runs_when (fun hn => needTiles_runs hj (hd (.inr (by simpa using hn)))) ?_
  refine runs_bind (checkTile_runs hj hacc) (runs_bind (popFmt_runs hj hi hw) (runs_bind (runs_getJob hp) ?_))
  exact runs_bind (sampleFz_runs hp) (batched_runs hp h _ f.batch hroom)

/-- Settles O31: each body passes its checks and leaves its command or its sets; MMA has popped its format word by then. -/
theorem matrixControlAndMma : Obligations.MatrixControlAndMma := by
  refine ⟨fun h s s0 s1 j w hj => ⟨fun f he hv hw hl hp => ?_, fun f he hv hw hq => ?_, fun f he h1 ht hq => ?_, fun f he hv hq => ?_,
    fun f he h1 => ?_, fun f he h1 hc => ?_⟩, fun h f s s0 s1 s2 j x1 x2 y1 y2 w e l he ha hb hj hd hacc hi hw hq => ?_⟩
  all_goals have h0 := stands_of_entered he
  · have h1 := h0.scalars hv
    rw [← h1.cur]
    exact completes_of_straight (body := mfmtBody h f) he rfl (mfmtBody_runs hj hv hw hl hp) (h1.onOwn _)
  · exact queueing_completes (body := mcbBody h f) he rfl (h0.scalars hv) (mcbBody_runs hj hv hw hq)
  · subst h1
    exact queueing_completes (body := mzeroBody h f) he rfl h0 (runs_bind (checkTile_runs hj ht) (enqueue_runs .me h _ hj hq))
  · exact queueing_completes (body := mseedBody h f) he rfl (h0.scalars hv) (runs_pop hv (enqueue_runs .me h _ hj hq))
  · subst h1
    rw [← h0.cur]
    exact completes_of_straight he rfl (mcommitBody_runs hj f) (h0.onOwn _)
  · subst h1
    exact completes_of_straight he rfl (mwaitBody_runs hj hc) (h0.onOwn _)
  · have h2 : Stands s s2 := (h0.operandRead ha).operandRead hb
    rw [← h2.cur] at hw ⊢
    exact completes_of_straight (body := mmaBody h f) he rfl (mmaBody_runs ha hb hj hd hacc hi hw hq) (((h2.onOwn _).onOwn _).onOwn _)

/-! ### MSTL and MSTF (R231 to R234) -/

section
variable {h : Hdr} {f : FM} {lns mx : Bool} {s0 s1 : State} {j : Job} {w a p x : Word}

/-- The registers of MSTL and MSTF, with the scale address where block scales are written. -/
def storeRead (f : FM) (mx : Bool) (s0 : State) (w a p x : Word) (s1 : State) : Prop :=
  if mx then s0.scalars [f.d, f.base, f.idx, f.aux] = some ([w, a, p, x], s1)
  else s0.scalars [f.d, f.base, f.idx] = some ([w, a, p], s1) ∧ x = 0

theorem storeRead_runs {g : Word → Word → Word → Word → M Unit} {u : State} (hv : storeRead f mx s0 w a p x s1)
    (k : Runs (g w a p x) s1 () u) : Runs (do
      let w ← pop f.d
      let a ← pop f.base
      let p ← pop f.idx
      let x ← if mx then pop f.aux else pure 0
      g w a p x) s0 () u := by
  cases mx with
  | true => exact runs_read hv fun _ hv => runs_read hv fun _ hv => runs_pop_pop hv k
  | false =>
    obtain ⟨hv, rfl⟩ := hv
    exact runs_read hv fun _ hv => runs_pop_pop hv (runs_bind (runs_pure 0 s1) k)
theorem Stands.storeRead {r : State} (hr : Stands r s0) (hv : storeRead f mx s0 w a p x s1) : Stands r s1 := by
  cases mx with
  | true => exact hr.scalars hv
  | false => exact hr.scalars hv.1

/-- A store word that MSTL or MSTF of a type accepts (R231, R234). -/
def goodStore (w : Word) (ty : BitVec 5) (mx : Bool) : Prop :=
  let sw := storeWord w
  w.toNat < 2 ^ 41 ∧ (sw.up = true → mx = true) ∧ sw.rm ≠ 7 ∧ sw.row0 + sw.rows ≤ 128 ∧ sw.col0 + sw.cols ≤ 128 ∧
    sw.cols * tyWidth ty.toNat % 8 = 0 ∧ (mx = true → sw.col0 % 32 = 0 ∧ sw.cols % 32 = 0)

/-- A good store word passes the checks of R231 and R234. -/
theorem checkStore_runs {ty : BitVec 5} (fw : Word) (s : State) (hw : goodStore w ty mx) :
    let sw := storeWord w
    Runs (trapIf (decide (pteBits w 63 41 ≠ 0) || (sw.up && !mx) || decide (sw.rm = 7) ||
      decide (128 < sw.row0 + sw.rows ∨ 128 < sw.col0 + sw.cols) || decide (sw.cols * tyWidth ty.toNat % 8 ≠ 0) ||
      (mx && decide (sw.col0 % 32 ≠ 0 ∨ sw.cols % 32 ≠ 0))) 0x01 fw) s () s := by
  obtain ⟨h41, hup, hrm, hrows, hcols, hbits, hmx⟩ := hw
  have hfield : pteBits w 63 41 = 0 := by unfold pteBits; omega
  have hu : ((storeWord w).up && !mx) = false := by cases mx <;> simp_all
  have hfit : ¬ (128 < (storeWord w).row0 + (storeWord w).rows ∨ 128 < (storeWord w).col0 + (storeWord w).cols) := by omega
  have hm : (mx && decide ((storeWord w).col0 % 32 ≠ 0 ∨ (storeWord w).cols % 32 ≠ 0)) = false := by cases mx <;> simp_all
  refine runs_trapIf _ _ s ?_
  rw [hfield, hu, hm, hbits, decide_eq_false hrm, decide_eq_false hfit]
  rfl

theorem mstBody_runs (fw : Word) (hv : storeRead f mx s0 w a p x s1) (hj : s1.own = some j) (hw : goodStore w f.ty mx)
    (hx : mx = true → x.toNat % 4 = 0) (hacc : (storeWord w).acc.toNat < j.hdr.acg) (ha : a.toNat % 32 = 0) (hp : p.toNat % 32 = 0)
    (hq : s1.queueRoom .me = true) : Runs (mstBody h f fw lns mx) s0 () ((s1.queueing .me h (.mst lns (storeWord w) a p f.ty
      (if mx then some x else none) (Rm.select (storeWord w).rm ((j.rreg .rmode).toNat % 8)) ((j.rreg .fzctl).setWidth 16))).onOwn
        (fun j => { j with openSet := j.openSet ++ [((storeWord w).batch, j.seq)] })) := by
  refine storeRead_runs hv (runs_bind (checkStore_runs fw s1 hw) (runs_bind (checkTile_runs hj hacc) ?_))
  refine runs_bind (checkMultiple_runs s1 ha) (runs_bind (checkMultiple_runs s1 hp) (runs_when (fun hm => checkMultiple_runs s1 (hx hm)) ?_))
  exact runs_bind (runs_getJob hj) (runs_bind (sampleFz_runs hj) (batched_runs hj h _ _ hq))
end

/-- Settles O33: MSTL and MSTF share one body, which differs in the log domain and in the scale address. -/
theorem matrixStores : Obligations.MatrixStores := by
  intro i h f lns mx hi s s0 s1 j w a p x he hv hj sw h41 hup hrm hrows hcols hbits hmx hacc ha hp hq
  have hw : goodStore w f.ty mx := ⟨h41, hup, hrm, hrows, hcols, hbits, fun hm => ⟨(hmx hm).1, (hmx hm).2.1⟩⟩
  have hrun (fw : Word) := mstBody_runs (h := h) (lns := lns) fw hv hj hw (fun hm => (hmx hm).2.2) hacc ha hp hq
  have h1 : Stands s s1 := (stands_of_entered he).storeRead hv
  obtain ⟨rfl, rfl, rfl⟩ | ⟨rfl, rfl, rfl⟩ := hi
  · exact completes_of_straight he rfl (hrun _) ((h1.onOwn _).onOwn _)
  · exact completes_of_straight he rfl (hrun _) ((h1.onOwn _).onOwn _)

/-! ### MRD and MWR (R229, R230) -/

/-- A write to a pool leaves the executing stream with its job. -/
theorem Stands.writeBytes {r s t : State} {h : Hdr} {k : CoreId} {p : Nat} {bs : List Byte} (hr : Stands r s)
    (hw : Runs (writeBytes h k p bs) s () t) : Stands r t := by
  obtain ⟨j, hj⟩ := hr.job
  have hs : SameIssue s t := stays_of_runs hw (writeRuns_stays ..)
  obtain ⟨l, hl, -⟩ := hs.job hj
  exact ⟨hs.1.trans hr.1, by rw [hl]; rfl⟩

section
variable {h : Hdr} {f : FRR} {s0 s1 s2 : State} {j : Job} {a v : Word} (hj : s1.own = some j) (ht : f.fn.toNat < j.hdr.acg)
  (ha : a.toNat < 2 ^ 14) (hb : s1.busyTile (s1.who s1.cur.1 j) j ((s1.who s1.cur.1 j).tile f.fn.toNat) = false)
  (ho : s1.openTile (s1.who s1.cur.1 j) j ((s1.who s1.cur.1 j).tile f.fn.toNat) = false)
include hj ht ha hb ho

/-- An element of a tile that no command has still to write passes. -/
theorem checkElem_runs (fw : Word) : Runs (checkElem fw f.fn a) s1 () s1 := by
  refine runs_bind (checkTile_runs hj ht) (runs_bind (runs_trapIf _ _ s1 (decide_eq_false (by omega))) (runs_bind (runs_get s1) ?_))
  refine runs_bind (runs_getJob hj) (runs_bind (whoNow_runs hj) (runs_bind (runs_trapIf _ _ s1 hb) ?_))
  rw [ho]
  exact runs_pure () s1
theorem mrdBody_runs (hv : s0.scalars [f.a] = some ([a], s1)) (hr : s1.room f.d = true) :
    Runs (mrdBody h f) s0 () ((s1.put h f.d none false).pending h (.mrd f.fn (a.setWidth 14))) := by
  obtain ⟨l, hl⟩ := put_own hj h f.d none false
  exact runs_pop hv (runs_bind (checkElem_runs hj ht ha hb ho _) (runs_bind (reserve_runs hj hr) (pend_runs h _ hl)))
theorem mwrBody_runs (hv : s0.scalars [f.a, f.b] = some ([a, v], s1))
    (hw : s1.opWaits (s1.who s1.cur.1 j) j ⟨j.seq, ⟨.c, ⟨0, 0⟩, j.seq, 0⟩, .mrd f.fn (a.setWidth 14), none, 0⟩ = false)
    (hs : Runs (writeBytes h s1.cur.1 ((s1.who s1.cur.1 j).elemOff f.fn a.toNat) (leBytes 4 (v.toNat % 2 ^ 32))) s1 () s2) :
    Runs (mwrBody h f) s0 () s2 := by
  refine runs_pop_pop hv (runs_bind (checkElem_runs hj ht ha hb ho _) (runs_bind (runs_get s1) (runs_bind (runs_getJob hj)
    (runs_bind (whoNow_runs hj) ?_))))
  simp only [hw, Bool.false_eq_true, if_false]
  exact hs
end

/-- Settles O32: both pass the checks of an element; MRD reserves and leaves its read, MWR writes at the element's place. -/
theorem matrixElements : Obligations.MatrixElements := by
  intro h f s s0 s1 s2 j a v hj
  dsimp only
  refine fun ht ha hb ho => ⟨fun he hv hr => ?_, fun he hv hw hs => ?_⟩
  all_goals have h1 := (stands_of_entered he).scalars hv
  · rw [← h1.cur] at hb ho
    exact completes_of_straight (body := mrdBody h f) he rfl (mrdBody_runs hj ht ha hb ho hv hr) ((h1.put _ _ _ _).onOwn _)
  · rw [← h1.cur] at hb ho hw hs
    exact completes_of_straight (body := mwrBody h f) he rfl (mwrBody_runs hj ht ha hb ho hv hw hs) (h1.writeBytes hs)

end Sys2Proof.Proofs
end

section
/-!
PROOF. O48 and O56: the module's own events, and what reset leaves.
-/
open Sys2Proof Sys2Proof.Machine Sys2Proof.Claims
namespace Sys2Proof.Proofs

/-! ### Mitten (R331, R332, R342) -/

/-- Mitten takes up the oldest command of a partition, when the event is of its slot and of its kind. -/
theorem takeCommand_oldest {s : State} {pn : PartId} {p : Partition} {m : MittenCmd} {rest : List MittenCmd} {live : Bool}
    (hp : s.part pn = some p) (hm : p.mitten = m :: rest) (ht : m.taken = false) (hl : decide (m.op = 2) = live) :
    let u := s.setPart pn { p with mitten := { m with taken := true } :: rest }
    s.takeCommand pn m.slot live = State.putResult { u with saves := s.saves ++ [⟨pn, m.handle, some m.slot, live,
      if s.mittenResult pn m = 0 then u.stoppedCores m.handle else []⟩] } pn m.slot (s.mittenResult pn m) := by
  unfold State.takeCommand
  simp only [hp, hm, ht, hl, ne_eq, not_true_eq_false, decide_false, bne_self_eq_false, Bool.or_self, Bool.false_eq_true, if_false]
  rfl
theorem saveDone_preempted {s t : State} {n : Nat} {x : Saving} (hx : s.saves[n]? = some x) (hs : x.slot = none)
    (ht : s.saveAll x.handle false x.cores = .ok t) : s.saveDone n = { t with saves := t.saves.eraseIdx n } := by
  unfold State.saveDone
  simp only [hx, hs, ht]
theorem saveDone_commanded {s t : State} {n k : Nat} {x : Saving} (hx : s.saves[n]? = some x) (hs : x.slot = some k)
    (ht : s.saveAll x.handle x.live x.cores = .ok t) : s.saveDone n =
      State.endCommand { t with saves := t.saves.set n { x with cores := [] } } n { x with cores := [] } := by
  unfold State.saveDone
  simp only [hx, hs, ht]

/-! ### Power and attestation (R238, R336, R340) -/

/-- Whatever a window makes of a budget, it stays from 125 to 1,250. -/
theorem window_bounded (k : Core) (hot over_ : Bool) (free : Nat) : ∃ b : Nat, b ≤ 1250 ∧ 125 ≤ b ∧ ∃ src,
    k.window hot over_ free = { k with budget := BitVec.ofNat 11 b, govsrc := src } :=
  ⟨_, Nat.min_le_left _ _, le_min (by decide) (le_max_left _ _), _, rfl⟩

section
variable {s : State} {pn : PartId} {p : Partition} {nonce : List Byte}

theorem askQuote_module (hn : nonce.length = 32) :
    s.askQuote none nonce = { s with module := { s.module with nonce := nonce, quoteReady := false } } := if_neg (not_not.mpr hn)
theorem askQuote_vf (hn : nonce.length = 32) (hp : s.vf pn = some p) :
    s.askQuote (some pn) nonce = s.setPart pn { p with nonce := nonce, quoteReady := false } := by
  unfold State.askQuote
  rw [if_neg (not_not.mpr hn)]
  simp only [hp]
theorem putQuote_partition (hp : s.part pn = some p) (hr : p.quoteReady = false) (hn : p.nonce.length = 32) :
    let quote := s.module.crownQuote s.tick (pn.val + 1) p.nonce (p.record pn)
    s.putQuote (some pn) quote = State.setPart { s with module := s.module.signed } pn { p with quote := quote, quoteReady := true } := by
  unfold State.putQuote
  simp only [hp, hr, hn, Bool.not_false, decide_true, Bool.and_self, if_true]
end

/-! ### Requests to Brim (R337, R339) -/

theorem leNat_cons (b : Byte) (bs : List Byte) : leNat (b :: bs) = b.toNat + 256 * leNat bs := rfl
/-- The operation's byte of a request whose first word is an operation. -/
theorem reqOk_operation {op n : Nat} {r : List Byte} (h : reqOk op n r = true) (hop : op < 256) : req r 0 1 = op := by
  unfold reqOk at h
  rw [Bool.and_eq_true, decide_eq_true_eq] at h
  obtain ⟨⟨hlen, hword⟩, -⟩ := h
  obtain _ | ⟨b, bs⟩ := r
  · cases hlen
  rw [req, List.drop_zero, List.take_succ_cons, leNat_cons] at hword ⊢
  have hb := b.isLt
  have hnil : leNat (bs.take 0) = 0 := rfl
  omega

/-- The state in which Brim has taken the oldest message of a request mailbox. -/
def requestTaken (s : State) (m : Fin 4) : State :=
  { s with module := { s.module with requests := s.module.requests.set m.val (s.module.requests.get m).tail m.isLt } }

section
variable {s : State} {r : List Byte} {m : Fin 4} (hb : s.brim = true) (hr : s.module.asked r = some m)
include hb hr

theorem takeRequest_asked {op n : Nat} (hok : reqOk op n r = true) (hop : op < 256) : s.takeRequest op r = some (requestTaken s m) := by
  unfold State.takeRequest
  simp only [hb, reqOk_operation hok hop, hr, ne_eq, not_true_eq_false, false_and, decide_false, Bool.not_true, Bool.or_self,
    Bool.false_eq_true, if_false, Option.map_some]
  rfl

theorem create_made {t : State} {plan : Plan} {pn : PartId} (hok : reqOk 0x01 22 r = true) (hmask : req r 8 8 ≠ 0)
    (hfree : (requestTaken s m).freePart = some pn)
    (hplan : (requestTaken s m).planFree (BitVec.ofNat 64 (req r 8 8)) (fun d => req r (16 + 2 * d) 2) (maskGroups (req r 24 2)) plan = true)
    (hmap : ((requestTaken s m).carryOut pn (BitVec.ofNat 64 (req r 8 8)) (maskGroups (req r 24 2)) plan).planMapped pn plan = true)
    (hsup : ((requestTaken s m).carryOut pn (BitVec.ofNat 64 (req r 8 8)) (maskGroups (req r 24 2)) plan).startSup pn 1 = some t) :
    s.create r plan = t.reply r 0 (leBytes 1 pn.val ++ leBytes 1 (pn.val + 1)) := by
  unfold State.create
  simp only [takeRequest_asked hb hr hok (by decide), hok, hmask, hfree, hplan, hmap, hsup, decide_false, Bool.not_true, Bool.or_self,
    Bool.false_eq_true, if_false]
theorem destroy_free {p : Partition} (hok : reqOk 0x02 1 r = true) (hn : req r 8 1 < 32) (hp : s.part (partOf (req r 8 1)) = some p)
    (hvf : s.module.vfEnable = false) (ht : p.tearing = 0) :
    let pn := partOf (req r 8 1)
    let v := (((requestTaken s m).dropJobs pn p).zeroUnits ((s.owners.filter (fun o => o.2 = pn)).map Prod.fst)).freeGroups pn
    s.destroy r = State.reply { v with owners := v.owners.filter (fun o => o.2 ≠ pn), parts := v.parts.set pn none } r 0 [] := by
  have hw : (requestTaken s m).part (partOf (req r 8 1)) = some p := hp
  have hv : (requestTaken s m).module.vfEnable = false := hvf
  unfold State.destroy
  simp only [takeRequest_asked hb hr hok (by decide), hok, hw, hv, ht, decide_eq_false (Nat.not_le.mpr hn), ne_eq, not_true_eq_false,
    Bool.not_true, Bool.or_self, Bool.false_eq_true, if_false]
  rfl
theorem telemetryReply_measured (hok : reqOk 0x03 0 r = true) :
    s.telemetryReply r = (requestTaken s m).reply r 0 (leBytes 4 s.module.power.toNat ++
      [0, 1, 2, 3].flatMap (fun i => leBytes 2 (s.module.temps.getD i 0).toNat) ++ leBytes 2 s.module.feed.toNat) := by
  unfold State.telemetryReply
  simp only [takeRequest_asked hb hr hok (by decide), hok, Bool.not_true, Bool.false_eq_true, if_false]
  rfl
theorem askPersonality_asked {g : Fin 16} (hok : reqOk 0x04 2 r = true) (hg : req r 8 1 = g.val) (h3 : req r 9 1 < 3)
    (ha : (s.groups.get g).assigned = none) (hoff : req r 9 1 = 1 → s.module.groupOff g.val = false) :
    let u := (requestTaken s m).setGroup g { s.groups.get g with persReq := BitVec.ofNat 4 (req r 9 1) }
    s.askPersonality r = u.reply r 0 (leBytes 8 (egstat (u.groups.get g)).toNat) := by
  have hgroup : req r 8 1 % 16 = g.val := by rw [hg, Nat.mod_eq_of_lt g.isLt]
  have hsmall : ¬ (16 ≤ req r 8 1 ∨ 3 ≤ req r 9 1) := by omega
  have hmay : ¬ (((requestTaken s m).groups.get g).assigned ≠ none ∨
      req r 9 1 = 1 ∧ (requestTaken s m).module.groupOff g.val = true) := by
    rintro (h | ⟨h1, h⟩)
    · exact h ha
    · exact Bool.false_ne_true ((hoff h1).symm.trans h)
  unfold State.askPersonality
  simp only [takeRequest_asked hb hr hok (by decide), hok, decide_eq_false hsmall, hgroup, Fin.eta, Bool.not_true, Bool.or_self,
    Bool.false_eq_true, if_false]
  rw [if_neg hmay]
  rfl
theorem setNode_placed (hok : reqOk 0x05 5 r = true) (hn : req r 8 2 < 2 ^ 14) (hx : req r 10 1 % 2 = 0) (hx2 : 2 ≤ req r 10 1)
    (hy : req r 11 1 % 2 = 0) (hy2 : 2 ≤ req r 11 1) (hz : 1 ≤ req r 12 1) (ht : s.torusUp = false) :
    s.setNode r = State.reply { requestTaken s m with module := { (requestTaken s m).module with
      node := BitVec.ofNat 14 (req r 8 2)
      dx := BitVec.ofNat 8 (req r 10 1)
      dy := BitVec.ofNat 8 (req r 11 1)
      dz := BitVec.ofNat 8 (req r 12 1) } } r 0 [] := by
  have hgood : ¬ (2 ^ 14 ≤ req r 8 2 ∨ req r 10 1 % 2 ≠ 0 ∨ req r 10 1 < 2 ∨ req r 11 1 % 2 ≠ 0 ∨ req r 11 1 < 2 ∨ req r 12 1 < 1) := by omega
  have hdown : (requestTaken s m).torusUp = false := ht
  unfold State.setNode
  simp only [takeRequest_asked hb hr hok (by decide), hok, decide_eq_false hgood, hdown, Bool.not_true, Bool.or_self,
    Bool.false_eq_true, if_false]
end

/-! ### Recovery (R338) -/

theorem brimTimeout_late {s : State} {x : List Byte × Word} (hb : s.module.brimUp = true) (hl : ∃ l ∈ s.module.requests.toList, x ∈ l)
    (hx : 125000000 ≤ (s.ftime - x.2).toNat) : s.brimTimeout = s.openRecovery := by
  obtain ⟨l, hl, hxl⟩ := hl
  unfold State.brimTimeout
  rw [hb, Bool.true_and, if_pos]
  exact List.any_eq_true.mpr ⟨l, hl, List.any_eq_true.mpr ⟨x, hxl, decide_eq_true hx⟩⟩
/-- While the mailbox is open a message is added; the image is verified where the length in its header is reached. -/
theorem recovery_open {s : State} {msg : List Byte} (ho : s.module.recOpen = true) (hl : msg.length = 64) :
    let m := s.module
    let bytes := m.recBytes ++ msg
    s.recovery msg = match Config.imageLength bytes with
      | none => { s with module := { m with recBytes := bytes, recResult := 0 } }
      | some n => if bytes.length < n then { s with module := { m with recBytes := bytes, recResult := 0 } } else match refusal (bytes.take n) with
        | some r => { s with module := { m with recBytes := [], recResult := r } }
        | none => State.restartsDue (State.raiseRecovery
            { s with module := { m.runs (bytes.take n) with recBytes := bytes, recResult := 1, recOpen := false } }) := by
  have hclosed : (!s.module.recOpen || decide (msg.length ≠ 64)) = false := by rw [ho, hl]; rfl
  unfold State.recovery
  simp only [hclosed, Bool.false_eq_true, if_false]
  cases hn : Config.imageLength (s.module.recBytes ++ msg) with
  | none => rfl
  | some n =>
    by_cases hs : (s.module.recBytes ++ msg).length < n
    · simp only [Option.filter_some, decide_eq_true_eq, if_neg (Nat.not_le.mpr hs), if_pos hs]
    · cases hr : refusal ((s.module.recBytes ++ msg).take n) <;>
        simp only [Option.filter_some, decide_eq_true_eq, if_pos (Nat.not_lt.mp hs), if_neg hs, hr]

/-! ### Bring-up (R341) -/

section
variable {s : State}

theorem bringUp_verified (h0 : s.module.step = 0) (hb : s.module.brimUp = true) :
    s.bringUp = { s with module := { s.module with step := 1 } } := by
  unfold State.bringUp
  simp only [h0, hb, if_true]
theorem bringUp_verifies (h0 : s.module.step = 0) (hb : s.module.brimUp = false) (ho : s.module.recOpen = false) :
    s.bringUp = match refusal Config.brimImage with
      | none => { s with module := { s.module.runs Config.brimImage with step := 1 } }
      | some _ => s.openRecovery := by
  unfold State.bringUp
  cases refusal Config.brimImage <;> simp only [h0, hb, ho, Bool.false_eq_true, if_false]
theorem bringUp_trains (h1 : s.module.step = 1) : ∃ (f : Word) (feed : BitVec 16), s.bringUp = { s with
    dieLinks := s.trainLinks
    groups := s.groups.map (fun g => { g with talign := true })
    mem := zeroDram s.mem
    ftime := f
    module := { s.module with step := 2, feed := feed } } := by
  unfold State.bringUp
  simp only [h1]
  exact ⟨_, _, rfl⟩
theorem bringUp_appears (h2 : s.module.step = 2) : s.bringUp = { s with module := { s.module with step := 3 } } := by
  unfold State.bringUp
  simp only [h2]
/-- Every end of a die link is up at its full width and first speed once Brim has trained it. -/
theorem trainLinks_up (n : Fin 16) : (s.trainLinks.get n).state = 2 ∧ (s.trainLinks.get n).width = 16 ∧ (s.trainLinks.get n).speed = 1 := by
  simp [State.trainLinks, Vector.get_eq_getElem, Group16.trained]
end

/-- Settles O48: each event's conditions hold, so that it takes its step. -/
theorem moduleEvents : Obligations.ModuleEvents := by
  intro s t pn p
  refine ⟨fun m rest hp hm ht => ⟨fun hop => ?_, fun hop => ?_⟩, fun n x hx hs ht => ?_, fun n k x hx hs ht => ?_, fun c => ⟨fun h => ?_,
    fun h => ?_⟩, fun power temps => rfl, fun nonce hn => ⟨?_, fun hp => ?_⟩, fun hp hr hn => ?_, fun hb r m hr => ?_, fun x hb hl hx => ?_,
    fun msg ho hl => ?_, fun h0 => ⟨fun hb => ?_, fun hb ho => ?_⟩, fun h1 => ?_, fun n => trainLinks_up n, fun h2 => ?_⟩
  · exact congrArg Host.Outcome.next (takeCommand_oldest hp hm ht (decide_eq_false hop))
  · exact congrArg Host.Outcome.next (takeCommand_oldest hp hm ht (decide_eq_true hop))
  · exact congrArg Host.Outcome.next (saveDone_preempted hx hs ht)
  · exact congrArg Host.Outcome.next (saveDone_commanded hx hs ht)
  · obtain ⟨b, hle, hge, src, hw⟩ := window_bounded (s.core c) (s.module.temps.any (fun t => decide (950 < t.toNat)))
      (decide (2600 < s.module.power.toNat)) (Config.freeWord s.tick 0).toNat
    refine ⟨b, hle, hge, src, congrArg Host.Outcome.next ?_⟩
    rw [if_neg (not_not.mpr h), hw]
  · exact congrArg Host.Outcome.next (if_pos h)
  · exact congrArg Host.Outcome.next (askQuote_module hn)
  · exact congrArg Host.Outcome.next (askQuote_vf hn hp)
  · exact congrArg Host.Outcome.next (putQuote_partition hp hr hn)
  · refine ⟨fun plan u hok hmask hfree hplan hu hmap hsup => ?_, fun hok hn hpn hp hvf ht => ?_, fun hok => ?_, fun g hok hg h3 ha hoff => ?_,
      fun hok hn hx hx2 hy hy2 hz ht => ?_⟩
    · subst hu
      exact congrArg Host.Outcome.next (create_made hb hr hok hmask hfree hplan hmap hsup)
    · subst hpn
      exact congrArg Host.Outcome.next (destroy_free hb hr hok hn hp hvf ht)
    · exact congrArg Host.Outcome.next (telemetryReply_measured hb hr hok)
    · exact congrArg Host.Outcome.next (askPersonality_asked hb hr hok hg h3 ha hoff)
    · exact congrArg Host.Outcome.next (setNode_placed hb hr hok hn hx hx2 hy hy2 hz ht)
  · exact congrArg Host.Outcome.next (brimTimeout_late hb hl hx)
  · exact congrArg Host.Outcome.next (recovery_open ho hl)
  · exact congrArg Host.Outcome.next (bringUp_verified h0 hb)
  · exact congrArg Host.Outcome.next (bringUp_verifies h0 hb ho)
  · obtain ⟨f, feed, h⟩ := bringUp_trains h1
    exact ⟨f, feed, congrArg Host.Outcome.next h⟩
  · exact congrArg Host.Outcome.next (bringUp_appears h2)

/-! ### Reset (R238, R250, R288, R317, R341, R359) -/

theorem reset_core (c : CoreId) : State.reset.core c = Core.reset := Vector.get_replicate _ _ c
theorem reset_sem (cl : Fin 64) (n : BitVec 8) : State.reset.sem cl n = Sem.reset := by
  rw [State.sem, show State.reset.clusters.get cl = Cluster.reset from Vector.get_replicate _ _ cl]
  exact Vector.get_replicate _ _ _
theorem reset_die (d : DieId) : State.reset.dies.get d = Die.reset := Vector.get_replicate _ _ d
theorem reset_group (g : Fin 16) : State.reset.groups.get g = Group16.reset := Vector.get_replicate _ _ g
theorem reset_part (pn : PartId) : State.reset.part pn = none := Vector.get_replicate _ _ pn

/-- Settles O56: each core, cluster, die, partition and group is the one that reset leaves. -/
theorem resetState : Obligations.ResetState := by
  refine ⟨State.reset_memOk, fun a => rfl, rfl, rfl, rfl, reset_part, fun c => ?_, fun cl n => ?_, fun d => ?_, fun g => ?_⟩
  · rw [State.job, reset_core]
    exact ⟨rfl, fun i => Vector.get_replicate _ _ i, rfl, rfl⟩
  · rw [reset_sem]
    rfl
  · rw [reset_die]
    exact ⟨rfl, rfl⟩
  · rw [reset_group]
    exact ⟨rfl, rfl⟩

end Sys2Proof.Proofs
end

section
/-!
PROOF. O23 and O30: semaphores, and the atomics and AWAIT at their issue.
-/
open Sys2Proof Sys2Proof.Machine Sys2Proof.Claims
namespace Sys2Proof.Proofs

/-! ### Room for a scalar (R21, R25, R26) -/

theorem pushRoom_runs {s : State} {j : Job} {x : Spec} (hj : s.own = some j) (hr : s.room x = true) : Runs (pushRoom x) s () s := by
  unfold State.room at hr
  unfold pushRoom
  cases hx : Spec.reg x with
  | none => exact runs_pure () s
  | some r =>
    simp only [hx, hj, Bool.and_eq_true, Bool.not_eq_true', decide_eq_true_eq] at hr
    obtain ⟨⟨hb, hl⟩, hp⟩ := hr
    refine runs_bind (runs_getJob hj) (runs_bind (runs_curStream s) (runs_bind (runs_trapIf _ _ s ?_) ?_))
    · rw [hb, decide_eq_false (Nat.not_le.mpr hl)]
      rfl
    · rw [if_neg (Nat.not_le.mpr hp)]
      exact runs_pure () s
/-- A change of one stream that leaves its registers leaves the registers of all. -/
theorem onStream_regs {j : Job} {st : StreamId} {f : Stream → Stream} (hf : (f (j.stream st)).regs = (j.stream st).regs) (x : StreamId) :
    ((j.onStream st f).stream x).regs = (j.stream x).regs := by
  by_cases hx : st = x
  · subst hx
    rw [Job.stream_onStream, hf]
  · rw [Job.onStream, Job.stream_setStream_ne j _ hx]
/-- The bound registers of a job follow from its bindings and its registers (R25, R110). -/
theorem bound_congr {j k : Job} (hb : k.bindings = j.bindings) (hq : ∀ st, (k.stream st).regs = (j.stream st).regs) : k.bound = j.bound := by
  have hlive : k.bindingLive = j.bindingLive := by
    funext b
    rw [Job.bindingLive, Job.bindingLive, hq]
  funext st r
  rw [Job.bound, Job.bound, hb, hlive]
/-- A change of the executing job that leaves its bindings and registers leaves the room for a scalar. -/
theorem onOwn_room {s : State} {f : Job → Job} (hb : ∀ j, (f j).bindings = j.bindings)
    (hq : ∀ j st, ((f j).stream st).regs = (j.stream st).regs) (x : Spec) : (s.onOwn f).room x = s.room x := by
  unfold State.room
  rw [State.onOwn_own, State.onOwn_cur]
  cases s.own with
  | none => cases Spec.reg x <;> rfl
  | some j =>
    cases Spec.reg x with
    | none => rfl
    | some r => simp only [Option.map_some, hq, bound_congr (hb j) (hq j)]

/-! ### Semaphores (R250 to R253) -/

/-- The state in which the executing stream no longer waits. -/
def idled (s : State) : State := s.onLane (fun t => { t with wait := .none })

theorem idled_room (s : State) (x : Spec) : (idled s).room x = s.room x :=
  onOwn_room (f := fun j => j.onStream s.cur.2 (fun t => { t with wait := .none })) (fun _ => rfl) (fun _ => onStream_regs rfl) x
theorem unitsTaken_room (s : State) (e : SemEntry) (k : Nat) (x : Spec) : (unitsTaken s e k).room x = s.room x := by
  refine (onOwn_room ?_ ?_ x).trans (room_congr rfl rfl x)
  · exact fun _ => rfl
  · exact fun _ _ => rfl
theorem Stands.unitsTaken {s u : State} (hu : Stands s u) (e : SemEntry) (k : Nat) : Stands s (unitsTaken u e k) :=
  Stands.onOwn (u := u.setSem _ _ _) hu _

/-- A change of the executing job is known by what it makes of that job. -/
theorem modifyJob_runs {s : State} {j : Job} {f g : Job → Job} (hj : s.own = some j) (h : f j = g j) :
    Runs (modifyJob f) s () (s.onOwn g) := by
  rw [State.onOwn_eq hj, ← h, ← State.onOwn_eq hj]
  exact runs_modifyJob f hj
/-- An arrival of a live job whose value comes with a change of the state (R400). -/
theorem arrival_moves {s u : State} {j k : Job} {h : Hdr} {x : Spec} {sub : Nat} {m : M Word} {v : Word} (hj : s.own = some j)
    (hl : s.live = true) (hm : Runs m s v u) (hk : u.own = some k) (hr : u.room x = true) :
    Runs (arrival h x sub m) s () (u.arrived h x sub v) := by
  obtain ⟨hp, hf⟩ := live_own hl hj
  obtain ⟨l, hput⟩ := put_own hk h x (some v) false
  unfold State.arrived
  rw [← State.put_cur u h x (some v) false, ← put_origin hk h x (some v) false h]
  exact runs_bind (replayTake_runs h sub hj hp) (runs_bind (traceRoom_runs h hj hf) (runs_bind hm (runs_bind (push_runs hk hr)
    (runs_bind (runs_originOf h hput) (runs_bind (runs_curCore _) (runs_modify _ _))))))

section
variable {s : State} {j : Job} {v : BitVec 5} {e : SemEntry} (hj : s.own = some j) (he : s.semEntry s.cur.1 j v = some e)
include hj he

theorem semOf_runs : Runs (semOf v) s e s := by
  refine runs_bind (runs_get s) (runs_bind (runs_getJob hj) ?_)
  simp only [he]
  exact runs_pure e s
/-- What an acquisition reads: the semaphore's entry, the state, the executing job and stream. -/
theorem semAcquire_reads (h : Hdr) {g : SemEntry → State → Job → Origin → Stream → M Word} {w : Word} {u : State}
    (k : Runs (g e s j (s.origin h) (j.stream s.cur.2)) s w u) : Runs (do
      let e ← semOf v
      let s ← get
      let j ← getJob
      let o ← originOf h
      let t ← getStream
      g e s j o t) s w u :=
  runs_bind (semOf_runs hj he) (runs_bind (runs_get s) (runs_bind (runs_getJob hj) (runs_bind (runs_originOf h hj)
    (runs_bind (runs_getStream hj) k))))

section
variable (h : Hdr) {n : Word} (dl : Option Word)

theorem semAcquire_served {st : Nat} (hw : (j.stream s.cur.2).wait = .semServed st) :
    Runs (semAcquire h v n dl) s (BitVec.ofNat 64 st) (idled s) := by
  refine semAcquire_reads hj he h ?_
  simp only [hw]
  exact runs_bind (runs_modifyStream _ hj) (runs_pure _ _)

variable (hw : (j.stream s.cur.2).wait = .none)
include hw

theorem semAcquire_nothing (hn : n.toNat % 2 ^ 32 = 0) :
    Runs (semAcquire h v n dl) s (BitVec.ofNat 64 (servedStatus s.ftime dl)) s := by
  refine semAcquire_reads hj he h ?_
  simp only [hw, hn, if_true]
  exact runs_pure _ s
theorem semAcquire_takes (hn : n.toNat % 2 ^ 32 ≠ 0) (hr : unitsReady s (j.stream s.cur.2) e (n.toNat % 2 ^ 32) = true) :
    Runs (semAcquire h v n dl) s (BitVec.ofNat 64 (servedStatus s.ftime dl)) (unitsTaken s e (n.toNat % 2 ^ 32)) := by
  obtain ⟨havail, hbelow⟩ := Bool.and_eq_true_iff.mp hr
  refine semAcquire_reads hj he h ?_
  rw [State.origin_eq hj]
  simp only [hw, hn, havail, if_false, if_true]
  cases hs : e.shared with
  | true => exact runs_bind (runs_set s _) (runs_bind (t := unitsTaken s e _) (modifyJob_runs hj rfl) (runs_pure _ _))
  | false =>
    rw [hs, Bool.false_or, Option.isNone_iff_eq_none] at hbelow
    simp only [hbelow]
    exact runs_bind (runs_set s _) (runs_bind (t := unitsTaken s e _) (modifyJob_runs hj rfl) (runs_pure _ _))
theorem semAcquire_late {d : Word} (hn : n.toNat % 2 ^ 32 ≠ 0) (hc : (s.sem (clusterOf s.cur.1) e.phys).count < n.toNat % 2 ^ 32)
    (hd : d < s.ftime) : Runs (semAcquire h v n (some d)) s 0 s := by
  refine semAcquire_reads hj he h ?_
  simp only [hw, hn, decide_eq_false (Nat.not_le.mpr hc), Bool.and_false, Bool.false_eq_true, if_false, Option.any_some, decide_eq_true hd, if_true]
  exact runs_pure 0 s
end
end

section
variable {h : Hdr} {f : FRR} {s0 s1 u : State} {j : Job} {n d w : Word} {e : SemEntry} (hj : s1.own = some j)
  (he : s1.semEntry s1.cur.1 j f.fn = some e)
include hj he

theorem semwBody_runs (hr : j.replay.replaying = false) (hv : s0.scalars [f.a] = some ([n], s1))
    (ha : Runs (semAcquire h f.fn n none) s1 w u) : Runs (semwBody h f) s0 () u :=
  runs_pop hv (runs_bind (semOf_runs hj he) (runs_bind (replaying_runs hj hr) (runs_bind ha (runs_pure () u))))
theorem semwtBody_runs (hl : s1.live = true) (hv : s0.scalars [f.a, f.b] = some ([n, d], s1)) (hroom : s1.room f.d = true)
    (ha : Runs (semAcquire h f.fn n (some d)) s1 w u) (hu : Stands s1 u) (hroom' : u.room f.d = s1.room f.d) :
    Runs (semwtBody h f) s0 () (u.arrived h f.d 5 w) := by
  obtain ⟨k, hk⟩ := hu.job
  exact runs_pop_pop hv (runs_bind (semOf_runs hj he) (runs_bind (pushRoom_runs hj hroom) (arrival_moves hj hl ha hk (hroom'.trans hroom))))

variable (hv : s0.scalars [f.a] = some ([n], s1))
include hv

theorem semsBody_nothing (hn : n.toNat % 2 ^ 32 = 0) : Runs (semsBody h f) s0 () s1 := by
  refine runs_pop hv (runs_bind (semOf_runs hj he) (runs_bind (runs_originOf h hj) ?_))
  rw [if_pos hn]
  exact runs_pure () s1
theorem semsBody_shared (hr : j.replay.replaying = false) (hn : n.toNat % 2 ^ 32 ≠ 0) (hs : e.shared = true) :
    Runs (semsBody h f) s0 () (s1.holding h (.sems e.phys (n.toNat % 2 ^ 32))) := by
  refine runs_pop hv (runs_bind (semOf_runs hj he) (runs_bind (runs_originOf h hj) ?_))
  rw [if_neg hn, if_pos hs]
  exact runs_bind (replaying_runs hj hr) (hold_runs h _ hj)
theorem semsBody_unshared (hn : n.toNat % 2 ^ 32 ≠ 0) (hs : e.shared = false) :
    Runs (semsBody h f) s0 () (s1.setSem (clusterOf s1.cur.1) e.phys ((s1.sem (clusterOf s1.cur.1) e.phys).signal (n.toNat % 2 ^ 32)
      (some (j.handle, s1.cur.1, ⟨(j.stream s1.cur.2).coord, h.stage⟩)))) := by
  refine runs_pop hv (runs_bind (semOf_runs hj he) (runs_bind (runs_originOf h hj) ?_))
  rw [if_neg hn, hs, if_neg Bool.false_ne_true, State.origin_eq hj]
  exact runs_bind (runs_getJob hj) (runs_modify _ s1)
end

/-- Settles O23: SEMW and SEMWT come to one acquisition of units, which does not wait; SEMS signals at once or holds its signal. -/
theorem semaphoreUse : Obligations.SemaphoreUse := by
  intro h f s s0 s1 j n d e hj he hr t k idle now
  refine ⟨fun hs hv => ?_, fun hs hv hl hroom => ?_, fun hs hv => ?_⟩
  all_goals
    have h1 := (stands_of_entered hs).scalars hv
    simp only [t, k, idle, now, ← h1.cur] at he ⊢
  · have completes {w : Word} {u : State} (ha : Runs (semAcquire h f.fn n none) s1 w u) (hu : Stands s u) :=
      completes_of_straight (body := semwBody h f) hs rfl (semwBody_runs hj he hr hv ha) hu
    exact ⟨fun hw hn => completes (semAcquire_nothing hj he h none hw hn) h1,
      fun hw hn hready => completes (semAcquire_takes hj he h none hw hn hready) (h1.unitsTaken _ _),
      fun st hw => completes (semAcquire_served hj he h none hw) (h1.onLane _)⟩
  · have completes {w : Word} {u : State} (ha : Runs (semAcquire h f.fn n (some d)) s1 w u) (hu : Stands s u)
        (hroom' : u.room f.d = s1.room f.d) :=
      completes_of_straight (body := semwtBody h f) hs rfl
        (semwtBody_runs hj he hl hv hroom ha ⟨hu.cur.trans h1.cur.symm, hu.2⟩ hroom') (hu.arrived _ _ _ _)
    have hnow : BitVec.ofNat 64 (servedStatus s1.ftime (some d)) = if d = s1.ftime then 3 else 1 := by
      simp only [servedStatus, Option.some.injEq]
      split <;> rfl
    rw [← hnow]
    exact ⟨fun hw hn => completes (semAcquire_nothing hj he h (some d) hw hn) h1 rfl,
      fun hw hn hready => completes (semAcquire_takes hj he h (some d) hw hn hready) (h1.unitsTaken _ _) (unitsTaken_room ..),
      fun hw hn hc hd => completes (semAcquire_late hj he h hw hn hc hd) h1 rfl,
      fun st hw => completes (semAcquire_served hj he h (some d) hw) (h1.onLane _) (idled_room _ _)⟩
  · exact ⟨fun hn => completes_of_straight (body := semsBody h f) hs rfl (semsBody_nothing hj he hv hn) h1,
      fun hn hsh => completes_of_straight (body := semsBody h f) hs rfl (semsBody_shared hj he hv hr hn hsh) (h1.onOwn _),
      fun hn hsh => completes_of_straight (body := semsBody h f) hs rfl (semsBody_unshared hj he hv hn hsh) h1⟩

/-! ### Atomics and AWAIT at issue (R240 to R248, R378) -/

/-- The state in which an atomic has kept the place of its record and reserved its entry; that of an AWAIT, whose records alone have the
sub-kind 3, orders its reader (R378). -/
def atomicReserved (s : State) (h : Hdr) (d : Spec) (sub : Nat) : State :=
  let u := (s.keeping h sub).put h d none false
  if sub = 3 then u.awaiting else u

section
variable {h : Hdr} {d : Spec} {op : AOp} {sub : Nat} {a : Word} {s : State} {j : Job}

theorem Stands.atomicReserved {r : State} (hr : Stands r s) : Stands r (atomicReserved s h d sub) := by
  unfold Proofs.atomicReserved
  split
  · exact (hr.reserved h sub d false).onOwn _
  · exact hr.reserved h sub d false
theorem awaiting_eq {k : Job} (hk : s.own = some k) :
    s.awaiting = s.onLane (fun t => { t with awaited := t.awaited ++ [k.seq] }) := by
  rw [State.awaiting, State.onLane, State.onOwn_eq hk, State.onOwn_eq hk]
/-- A live job whose atomic passes the checks leaves it pending; each of its two ways to the checks' end goes on in the same way. -/
theorem atomicBody_runs (v c : BitVec 32) (hj : s.own = some j) (hl : s.live = true) (ha : a.toNat < 2 ^ 56) (hn : a.toNat % 4 = 0)
    (hw : inWindow a.toNat = true → ∃ p, s.atomicPlace (s.who s.cur.1 j) op a = .ok p) (hroom : s.room d = true)
    (hsub : sub = 3 ↔ ∃ cc, op = .await cc) :
    Runs (atomicBody h d op sub a v c) s () ((atomicReserved s h d sub).pending h (.atomic op a v c)) := by
  obtain ⟨l, t, ho⟩ := reserved_own hj h sub d false
  refine runs_bind (checkAddr_runs s ha hn) (runs_bind (whoNow_runs hj) (runs_ite (fun hin => ?_) fun _ => ?_))
  on_goal 1 =>
    obtain ⟨p, hp⟩ := hw hin
    refine runs_bind (runs_get s) ?_
    simp only [hp]
  all_goals
    refine runs_bind (replayTake_runs h sub hj (live_own hl hj).1) (reserved_runs hj hl hroom ?_)
    by_cases h3 : sub = 3
    · obtain ⟨cc, rfl⟩ := hsub.mp h3
      rw [atomicReserved, if_pos h3, awaiting_eq ho]
      exact runs_bind (runs_getJob ho) (runs_bind (runs_modifyStream _ ho) (pend_runs h _ (onLane_eq ho _)))
    · rw [atomicReserved, if_neg h3]
      cases op with
      | await cc => exact absurd (hsub.mpr ⟨cc, rfl⟩) h3
      | _ => exact pend_runs h _ ho
end

section
variable {i : Instr} {h : Hdr} {f : FM} {op : AOp} {three : Bool} {sub : Nat} (hi : atomics i = some (h, f, op, three, sub))
include hi

theorem exec_atomic (s : State) : exec i s = runInstr i (straight (if three then atomic3 h f op else atomic2 h f op sub)) s := by
  unfold atomics at hi
  split at hi <;> cases hi <;> rfl
theorem atomics_sub : (three = true → sub = 2) ∧ (sub = 3 ↔ ∃ cc, op = .await cc) := by
  unfold atomics at hi
  split at hi <;> cases hi
  case h_1 => split <;> simp
  all_goals simp
end

/-- An atomic reads its operands, the third where it has one, and goes on with its body. -/
theorem atomicOperands_runs {h : Hdr} {f : FM} {op : AOp} {three : Bool} {sub : Nat} {s0 s1 u : State} {a v c : Word}
    (h2 : three = true → sub = 2) (hv : if three then s0.scalars [f.base, f.idx, f.aux] = some ([a, v, c], s1)
      else s0.scalars [f.base, f.idx] = some ([a, v], s1) ∧ c = 0)
    (k : Runs (atomicBody h f.d op sub a (v.setWidth 32) (c.setWidth 32)) s1 () u) :
    Runs (if three then atomic3 h f op else atomic2 h f op sub) s0 () u := by
  cases three with
  | true =>
    cases h2 rfl
    exact runs_read hv fun _ hv => runs_pop_pop hv k
  | false =>
    obtain ⟨hv, rfl⟩ := hv
    exact runs_pop_pop hv k

/-- Settles O30: each instruction reads its operands and comes to the one body of the atomics. -/
theorem atomicsPend : Obligations.AtomicsPend := by
  intro i h f op three sub hi s s0 s1 j a v c he hv hj hl ha hn hw hroom
  obtain ⟨h2, hsub⟩ := atomics_sub hi
  have h1 : Stands s s1 := by
    split at hv
    · exact (stands_of_entered he).scalars hv
    · exact (stands_of_entered he).scalars hv.1
  rw [← h1.cur] at hw
  exact completes_of_straight he (exec_atomic hi s)
    (atomicOperands_runs h2 hv (atomicBody_runs _ _ hj hl ha hn hw hroom hsub)) (h1.atomicReserved.onOwn _)

end Sys2Proof.Proofs
end

section
/-!
PROOF. O43: the supervisor's entry, the timer, semaphores, barriers and supersteps.
-/
open Sys2Proof Sys2Proof.Machine Sys2Proof.Claims
namespace Sys2Proof.Proofs

/-! ### Events and the timer (R257, R259) -/

theorem slot_busy (k : Core) : k.busy = k.slot.any (fun q => q.state = .running || q.state = .landing) := by
  unfold Core.busy Core.slot
  cases k.on <;> rfl

section
variable {s : State} {pn : PartId} {p : Partition} (hp : s.part pn = some p)
include hp

theorem onPart_some (f : Partition → Partition) : s.onPart pn f = s.setPart pn (f p) := by
  unfold State.onPart
  simp only [hp]
theorem mustEnter_pending {j : Job} (hj : s.job p.supcore = some j) (hh : j.handle = p.supHandle) (hv : p.evmask.getLsbD 8 = true)
    (hd : p.delivery = true) (hn : p.nextEvent ≠ none) (hi : (j.stream .c).phase = .issuing) (hw : (j.stream .c).wait = .none)
    (hb : (s.core p.supcore).slot.any (fun q => q.state = .running || q.state = .landing) = true) : s.mustEnter pn p.supcore = true := by
  have hsome : p.nextEvent.isSome = true := Option.isSome_iff_ne_none.mpr hn
  have hmay : (j.stream .c).mayEnter = true := by
    unfold Stream.mayEnter
    simp only [hi, hw, decide_true, Bool.and_self]
  unfold State.mustEnter
  simp only [hp, hj, hh, hv, hd, hsome, hmay, slot_busy, hb, decide_true, Bool.and_self]
theorem enterEvent_enters {j : Job} (hj : s.job p.supcore = some j) (hm : s.mustEnter pn p.supcore = true)
    (hw : (j.stream .c).wait = .none) :
    let k := if (j.stream .c).adv.any (fun a => a.loop.isNone) then j.undoLast .c else j
    s.enterEvent pn = (s.setJob p.supcore (k.onStream .c (fun t => { t with
      pc := p.tvec
      adv := none
      wait := .none
      cause := 0
      tried := false }))).setPart pn (p.enter (k.stream .c).pc) := by
  unfold State.enterEvent
  simp only [hp, hj, hm, hw, Bool.not_true, Bool.false_eq_true, if_false]
theorem fireTimer_due (ha : p.armed = true) (hd : (s.ftime.toNat % 2 ^ 48 + 2 ^ 48 - p.evmask.toNat / 2 ^ 16) % 2 ^ 48 < 2 ^ 47) :
    s.fireTimer pn = s.setPart pn { p with timerFlag := true, armed := false } := by
  unfold State.fireTimer
  rw [onPart_some hp, ha, decide_eq_true hd]
  rfl
end

/-! ### Semaphore waits (R252, R253) -/

/-- The oldest waiter, whose deadline has not passed, takes its units, which a semaphore that is not shared must not hold from above it. -/
theorem serveSem_oldest {s : State} {cl : Fin 64} {n : BitVec 8} {w : SemWaiter} {rest : List SemWaiter} {j : Job}
    (hm : (s.sem cl n).waiters = w :: rest) (hn : w.n ≤ (s.sem cl n).count) (hd : w.deadline.all (fun t => decide (s.ftime ≤ t)) = true)
    (hj : s.job w.core = some j) (hl : j.lives w.org.stamp.coord = true)
    (hu : w.shared = true ∨ unitAbove (takeUnits w.n (s.sem cl n).units).1 w.org.stamp.coord = none) :
    let x := takeUnits w.n (s.sem cl n).units
    s.serveSem cl n = (s.setSem cl n ⟨x.2, rest⟩).onJob w.core (fun j =>
      { j.served w (servedStatus s.ftime w.deadline) with
        semTaken := j.semTaken ++ [⟨n, x.1.map (fun u => (u.n, u.owner)), w.org.stamp.coord⟩] }) := by
  have hlate : w.deadline.any (fun t => decide (t < s.ftime)) = false := by
    cases hw : w.deadline with
    | none => rfl
    | some t =>
      rw [hw, Option.all_some, decide_eq_true_eq] at hd
      exact decide_eq_false (BitVec.not_lt.mpr hd)
  have hnone : (if w.shared = true then none else unitAbove (takeUnits w.n (s.sem cl n).units).1 w.org.stamp.coord) = none := by
    split
    · rfl
    · exact hu.resolve_left ‹_›
  unfold State.serveSem
  simp only [hm, decide_eq_false (Nat.not_lt.mpr hn), hlate, hj, Option.any_some, hl, hnone, Bool.not_true, Bool.or_self, Bool.false_eq_true,
    if_false]
  rfl
/-- A waiter is of a core and its deadline has passed. -/
def overdue (s : State) (c : CoreId) (w : SemWaiter) : Bool := decide (w.core = c) && w.deadline.any (fun t => decide (t < s.ftime))

/-- The overdue waiters leave their lists; a semaphore without waiters is as it was. -/
theorem timeoutSem_overdue {s : State} {c : CoreId} {w : SemWaiter}
    (hw : (s.clusters.get (clusterOf c)).sems.toList.findSome? (fun m => m.waiters.find? (overdue s c)) = some w) :
    s.timeoutSem c = State.onJob { s with
      clusters := s.clusters.set (clusterOf c) { s.clusters.get (clusterOf c) with
        sems := (s.clusters.get (clusterOf c)).sems.map (fun (m : Sem) => { m with
          waiters := m.waiters.filter (fun x => !overdue s c x) }) } } c (fun j => j.served w 0) := by
  have hsame : (fun (m : Sem) => if m.waiters.isEmpty then m else { m with waiters := m.waiters.filter (fun x => !overdue s c x) }) =
      fun m => { m with waiters := m.waiters.filter (fun x => !overdue s c x) } := by
    funext m
    obtain ⟨units, waiters⟩ := m
    cases waiters <;> rfl
  unfold overdue at hw hsame ⊢
  unfold State.timeoutSem
  simp only [hw, hsame]

/-! ### Barriers and supersteps (R266, R267, R307 to R309, R312) -/

/-- The state in which an arrival of the job on a core has left the job's list to be counted. -/
def arrivalTaken (u : State) (c : CoreId) (j : Job) (a : Arrival) : State :=
  u.setJob c { j with arrivals := j.arrivals.filter (fun x => x.org.seq ≠ a.org.seq) }

section
variable {s u : State} {c : CoreId} {crew : Bool} {j : Job} {a : Arrival} {g : Group} (hu : u = s.settleFront c) (hj : u.job c = some j)
  (hg : u.jobs.find? (fun g => g.handle = j.handle) = some g) (hm : u.mayArrive c j a = true)
include hu hj hg hm

/-- An arrival at an SSTEP: it counts unless its superstep has passed, and the last one fixes T0. -/
theorem countArrivalOf_sstep (ha : j.arrivals.find? (fun a => a.sstep || a.crew = crew) = some a) (hs : a.sstep = true) :
    let v := arrivalTaken u c j a
    let l := if g.ssteps.contains c then g.ssteps else g.ssteps ++ [c]
    s.countArrivalOf c crew = if a.a < g.t0s.length then v else { v with
      jobs := v.jobs.map (fun x => if x.handle = g.handle then
        (if g.cores.all (fun x => l.contains x) then { g with ssteps := [], t0s := g.t0s ++ [ceil256 u.ftime] } else { g with ssteps := l }) else x) } := by
  unfold State.countArrivalOf
  simp only [← hu, hj, ha, hg, hm, hs, Bool.not_true, Bool.false_eq_true, if_false, if_true]
  rfl
/-- An arrival at a barrier of the team: it counts in the context of the launch's shared block. -/
theorem countArrivalOf_team (ha : j.arrivals.find? (fun a => a.sstep || a.crew = false) = some a) (hs : a.sstep = false) {b : Fin 16}
    (hb : (arrivalTaken u c j a).sharedBlock (clusterOf c) j.handle = some b) :
    let k := u.block (clusterOf c) b
    let members := g.cores.filter (fun x => decide (x.val / 4 = c.val / 4))
    let x := countArrival k.phase k.arrived c a.a members
    s.countArrivalOf c false = ((arrivalTaken u c j a).setBlock (clusterOf c) b { k with phase := x.1, arrived := x.2 } false).passBarr
      j.handle false members := by
  unfold arrivalTaken at hb ⊢
  unfold State.countArrivalOf
  simp only [← hu, hj, ha, hg, hm, hs, hb, Bool.not_true, Bool.false_eq_true, if_false]
  rfl
end

section
variable {s : State} {c : CoreId} {j : Job} (hj : s.job c = some j)
include hj

theorem onJob_some (f : Job → Job) : s.onJob c f = s.setJob c (f j) := by
  unfold State.onJob
  simp only [hj]
theorem timeoutBarr_late {k : Bool} {ph : Option Nat} {d : Word} (hw : (j.stream .c).wait = .barr k ph (some d)) (hd : d < s.ftime) :
    s.timeoutBarr c = s.setJob c (j.onStream .c (fun x => { x with wait := .barrServed 0 })).stir := by
  unfold State.timeoutBarr
  rw [onJob_some hj]
  simp only [hw, hd, if_true]
/-- The one participant of a superstep passes once T0 has come. -/
theorem passStep_alone {g : Group} {t0 : Word} (hg : s.jobs.find? (fun x => x.handle = g.handle) = some g) (hc : g.cores = [c])
    (hh : j.handle = g.handle) (hw : (j.stream .c).wait = .sstep) (ht : g.t0s[j.arrStep - 1]? = some t0) (hd : t0 ≤ s.ftime) :
    s.passStep g.handle = s.setJob c (j.onStream .c (fun x => { x with wait := .sstepPassed t0 })).stir := by
  unfold State.passStep
  simp only [hg, hc, List.foldl_cons, List.foldl_nil]
  rw [onJob_some hj]
  simp only [hh, hw, ht, hd, ne_eq, not_true_eq_false, decide_false, Bool.or_self, Bool.false_eq_true, if_false, if_true]
end

/-- Settles O43: each event's conditions hold, so that it takes its step. -/
theorem synchronisationEvents : Obligations.SynchronisationEvents := by
  refine fun s c j => ⟨fun pn p hp hj hh hv hd hn hi hw hb => ?_, fun pn p hp ha hd => ?_, fun cl n w rest hm hn hd hj hl => ?_, fun w => ?_,
    fun crew u a g hu hj ha hg hm => ⟨fun hs hle => ?_, fun hs hle => ?_, fun b hs hc hb => ?_⟩, fun k ph d hj hw hd => ?_,
    fun g t0 hg hc hj hh hw ht hd => ?_⟩
  · exact congrArg Host.Outcome.next (enterEvent_enters hp hj (mustEnter_pending hp hj hh hv hd hn hi hw hb) hw)
  · exact congrArg Host.Outcome.next (fireTimer_due hp ha hd)
  · exact fun hu => congrArg Host.Outcome.next (serveSem_oldest hm hn hd hj hl hu)
  · exact fun hw => congrArg Host.Outcome.next (timeoutSem_overdue hw)
  · exact congrArg Host.Outcome.next ((countArrivalOf_sstep hu hj hg hm ha hs).trans (if_pos hle))
  · exact congrArg Host.Outcome.next ((countArrivalOf_sstep hu hj hg hm ha hs).trans (if_neg (Nat.not_lt.mpr hle)))
  · subst hc
    exact congrArg Host.Outcome.next (countArrivalOf_team hu hj hg hm ha hs hb)
  · exact congrArg Host.Outcome.next (timeoutBarr_late hj hw hd)
  · exact congrArg Host.Outcome.next (passStep_alone hj hg hc hh hw ht hd)

end Sys2Proof.Proofs
end

section
/-!
PROOF. O46: what the host does to a partition.
-/
open Sys2Proof Sys2Proof.Machine Sys2Proof.Claims
namespace Sys2Proof.Proofs

/-! ### Mailboxes (R326, R329, R339) -/

section
variable {p : Partition} {n : BitVec 4} {msg : List Byte} {whole : Bool}

theorem mail_broken (h : whole = false ∨ msg.length ≠ 64) : p.mail n msg whole = { p with badcnt := p.badcnt + 1 } :=
  if_pos (by simpa using h)

variable (hw : whole = true) (hl : msg.length = 64)
include hw hl

theorem mail_whole : p.mail n msg whole = if p.down || decide (8 ≤ (p.mailboxes.get n.toFin).length) then { p with ovfcnt := p.ovfcnt + 1 }
    else { p with mailboxes := p.mailboxes.set n.toFin (p.mailboxes.get n.toFin ++ [msg]), mbxFlags := p.mbxFlags ||| (1 <<< n.toNat) } :=
  if_neg (by simp [hw, hl])
theorem mail_full (hf : 8 ≤ (p.mailboxes.get n.toFin).length) : p.mail n msg whole = { p with ovfcnt := p.ovfcnt + 1 } :=
  (mail_whole hw hl).trans (if_pos (by rw [decide_eq_true hf, Bool.or_true]))
theorem mail_enters (hd : p.down = false) (hr : (p.mailboxes.get n.toFin).length < 8) : p.mail n msg whole = { p with
    mailboxes := p.mailboxes.set n.toFin (p.mailboxes.get n.toFin ++ [msg])
    mbxFlags := p.mbxFlags ||| (1 <<< n.toNat) } :=
  (mail_whole hw hl).trans (if_neg (by rw [hd, decide_eq_false (Nat.not_le.mpr hr)]; exact Bool.false_ne_true))
end

theorem not_down {p : Partition} (ht : p.tearing = 0) (hs : p.pstate.toNat < 3) : p.down = false :=
  decide_eq_false (not_or.mpr ⟨not_not.mpr ht, Nat.not_le.mpr hs⟩)

theorem mail_received {s : State} {pn : PartId} {p : Partition} (n : BitVec 4) (msg : List Byte) (whole : Bool)
    (hv : s.module.vfEnable = true) (hp : s.part pn = some p) (hw : s.logWaits.any (fun w => w.by_ = some pn) = false) :
    s.mail pn n msg whole = s.setPart pn (p.mail n msg whole) := by
  unfold State.mail
  simp only [hp, hw, hv, Bool.true_or, Bool.false_eq_true, if_false, if_true]
theorem ask_waits {s : State} {n : BitVec 4} {msg : List Byte} {m : Fin 4} (h3 : 3 ≤ s.module.step) (hn : n.toNat = m.val)
    (hl : msg.length = 64) (hr : (s.module.requests.get m).length < 8) : s.ask n msg true = { s with
      module := { s.module with requests := s.module.requests.set m.val (s.module.requests.get m ++ [(msg, s.ftime)]) m.isLt } } := by
  have hm : n.toNat % 4 = m.val := by
    rw [hn, Nat.mod_eq_of_lt m.isLt]
  unfold State.ask
  simp only [hm, Fin.eta]
  refine if_neg ?_
  rintro (h | h | h | h | h)
  · omega
  · have := m.isLt
    omega
  · cases h
  · exact h hl
  · omega

/-! ### Accesses through BAR2 (R241, R248, R325, R394) -/

/-- One sector completes no line of DRAM, whose poison stays (R290). -/
theorem cleanLines_sector (s : State) (k n : Nat) : s.cleanLines (cleanSectors [(.here k none, n)] []) = s := by
  by_cases hn : n = 32
  · subst hn
    simp [cleanSectors, State.cleanLines]
  · simp [cleanSectors, State.cleanLines, hn]

section
variable {s : State} {pn : PartId} {p : Partition} (hv : s.vf pn = some p) (hd : p.down = false)
include hv hd

theorem hostWrite_sector {a key : Nat} {bs : List Byte} (hp : pieces a bs.length = [(a, bs.length)])
    (hk : s.hostKey pn p .w a bs.length = some (.here key none)) :
    s.hostWrite pn a bs = (s.pokeHome key (bs.take bs.length)).traceWake pn := by
  have hmap : [(a, bs.length)].mapM (fun x => (s.hostKey pn p .w x.1 x.2).map (fun t => (t, x.1 - a, x.2))) =
      some [(.here key none, a - a, bs.length)] := by
    simp [hk]
  unfold State.hostWrite
  simp only [hv, hd, hp, hmap, Bool.false_eq_true, if_false, List.foldl_cons, List.foldl_nil, List.map_cons, List.map_nil, cleanLines_sector,
    Nat.sub_self, List.drop_zero]
  rfl
theorem hostAtomic_word {a key : Nat} {op : BitVec 2} {f : AOp} {v c : BitVec 32} {e : Word} {lvl : Nat} {co : Option CoreId}
    (hf : hostOp op = some f) (ha : a % 4 = 0) (hl : s.hostLeaf pn p .rw a = some (e, lvl)) (hapl : ptApl e = 2) (hpa : ptPa e = 0)
    (hk : s.hostKey pn p .rw a 4 = some (.here key co)) (hb : s.poisonAt key 4 = none) (hlog : s.logged (.here key co, 4) = false)
    (hw : s.awaitAhead (keyCore key) .fabric (fun _ _ _ => true) = false) : s.hostAtomic pn a op 32 v c =
      s.pokeClear key (leBytes 4 (atomicNew f (BitVec.ofNat 32 (leNat (memBytes s.mem key 4))) v c).1.toNat) := by
  unfold State.hostAtomic
  simp only [hv, hd, hf, ha, hl, hapl, hpa, hk, hb, hlog, hw, ne_eq, not_true_eq_false, or_self, decide_false, Option.isSome_none, Bool.or_self,
    Bool.false_eq_true, if_false]
end

/-! ### PCTL (R328, R338) -/

section
variable {s : State} {pn : PartId} {p : Partition} (hv : s.vf pn = some p) (hs : p.pstate = 2)
include hv hs

theorem resumeSup_stopped : s.resumeSup pn = (s.resumeLaunch p.supHandle).1.onPart pn (fun p => { p with pstate := 1 }) := by
  unfold State.resumeSup
  simp only [hv, hs, if_true]
theorem restartSup_starts {t : State} (hb : s.module.brimUp = true)
    (ht : (s.endSup p).startSup pn (p.supHandle.toNat / 2 ^ 13 + 1) = some t) : s.restartSup pn = t := by
  unfold State.restartSup
  simp only [hv, hs, hb, ht, ne_eq, not_true_eq_false, if_false, if_true, Option.getD_some]
theorem restartSup_waits (hb : s.module.brimUp = false) : s.restartSup pn = s.setPart pn { p with restartAsked := true } := by
  unfold State.restartSup
  simp only [hv, hs, hb, ne_eq, not_true_eq_false, Bool.false_eq_true, if_false]
end

/-! ### VF Enable and teardown (R329, R341) -/

theorem setVf_present {s : State} (on : Bool) (h : 3 ≤ s.module.step) :
    let u : State := { s with module := { s.module with vfEnable := on } }
    s.setVf on = if on then u else { u with
      parts := s.parts.map (fun x => x.map (fun p => if p.pstate.toNat < 3 then { p with pstate := 3, tearing := 1 } else p)) } :=
  if_neg (Nat.not_lt.mpr h)

section
variable {s : State} {pn : PartId} {p : Partition} (hp : s.part pn = some p)
include hp

theorem tear_discards (ht : p.tearing = 3) : s.tear pn = s.setPart pn { p with
    tearing := 4
    ovfcnt := p.ovfcnt + BitVec.ofNat 64 p.unread
    mailboxes := Vector.replicate 16 []
    mbxTaken := [] } := by
  unfold State.tear
  simp only [hp, ht]
  rfl
theorem tear_ends (ht : p.tearing = 5) : s.tear pn = (s.dropJobs pn p).onPart pn (fun p => { p with
    tearing := 0
    pstate := 4
    mitten := []
    ckBusy := none
    events := []
    eventsWait := [] }) := by
  unfold State.tear
  simp only [hp, ht]
  rfl
end

/-- Settles O46: each event's conditions hold, so that it makes its effect. -/
theorem hostEvents : Obligations.HostEvents := by
  refine fun s pn p => ⟨fun n msg whole hv hp ht hs hw => ⟨fun hwhole hl hr => ?_, fun hwhole hl hf => ?_, fun hbad => ?_⟩,
    fun n msg m h3 hn hl hr => ?_, fun a len => rfl, fun a len key bs hv hd hpc hk => ?_,
    fun a key op f v c e lvl co hv hd hf ha hleaf hapl hpa hk hb hlog hw => ?_, fun v => rfl,
    fun hv hs => ⟨rfl, rfl, ?_, fun t hb ht => ?_, fun hb => ?_⟩, fun h3 => ⟨?_, ?_⟩, fun hp => ⟨fun ht => ?_, fun ht => ?_⟩⟩
  · exact congrArg Host.Outcome.next ((mail_received n msg whole hv hp hw).trans (by rw [mail_enters hwhole hl (not_down ht hs) hr]))
  · exact congrArg Host.Outcome.next ((mail_received n msg whole hv hp hw).trans (by rw [mail_full hwhole hl hf]))
  · exact congrArg Host.Outcome.next ((mail_received n msg whole hv hp hw).trans (by rw [mail_broken hbad]))
  · exact congrArg Host.Outcome.next (ask_waits h3 hn hl hr)
  · exact congrArg Host.Outcome.next (hostWrite_sector hv hd hpc hk)
  · exact congrArg Host.Outcome.next (hostAtomic_word hv hd hf ha hleaf hapl hpa hk hb hlog hw)
  · exact congrArg Host.Outcome.next (resumeSup_stopped hv hs)
  · exact congrArg Host.Outcome.next (restartSup_starts hv hs hb ht)
  · exact congrArg Host.Outcome.next (restartSup_waits hv hs hb)
  · exact congrArg Host.Outcome.next (setVf_present true h3)
  · exact congrArg Host.Outcome.next (setVf_present false h3)
  · exact congrArg Host.Outcome.next (tear_discards hp ht)
  · exact congrArg Host.Outcome.next (tear_ends hp ht)

end Sys2Proof.Proofs
end

section
/-!
PROOF. O22 and O24: SNAP and TMARK, barriers and supersteps.
-/
open Sys2Proof Sys2Proof.Machine Sys2Proof.Claims
namespace Sys2Proof.Proofs

/-! ### Debug marks (R395, R396) -/

section
variable {s : State} {pn : PartId} {p : Partition} (hp : s.part pn = some p) (tag : BitVec 5) (by_ : Option (CoreId × Handle × Origin))
include hp

/-- A trigger fires where no earlier one of its partition still captures. -/
theorem fireTrigger_fires (h : ∀ g, p.trigger = some g → g.time.toNat + 256 < s.ftime.toNat) : s.fireTrigger pn tag by_ =
    (s.setPart pn { p with trigger := some ⟨tag, s.ftime + 64, by_, p.cores, false⟩ }, none) := by
  unfold State.fireTrigger
  cases hg : p.trigger with
  | none => simp only [hp, hg]
  | some g => simp only [hp, hg, if_neg (Nat.not_le.mpr (h g hg))]
theorem fireTrigger_joins {g : Trigger} (hg : p.trigger = some g) (h : s.ftime.toNat ≤ g.time.toNat + 256) :
    s.fireTrigger pn tag by_ = (s, some g.time) := by
  unfold State.fireTrigger
  simp only [hp, hg, if_pos h]
end

section
variable {h : Hdr} {f : FRR} {s : State} {j : Job} {p : Partition} (hj : s.own = some j) (hp : s.part j.part = some p)
include hj

theorem snapBody_fires {u : State} (ht : s.fireTrigger j.part f.fn (some (s.cur.1, j.handle, s.origin h)) = (u, none)) :
    Runs (snapBody h f) s () u := by
  refine runs_bind (runs_originOf h hj) (runs_bind (runs_getJob hj) (runs_bind (runs_curCore s) (runs_bind (runs_get s) ?_)))
  simp only [ht]
  exact runs_bind (runs_set s u) (runs_pure () u)
theorem snapBody_joins {w : Word} (ht : s.fireTrigger j.part f.fn (some (s.cur.1, j.handle, s.origin h)) = (s, some w)) :
    Runs (snapBody h f) s () (s.trace s.cur.1 2 s.cur.2 f.fn.toNat (some (j.stream s.cur.2).coord) h.stage.toNat j.seq w) := by
  refine runs_bind (runs_originOf h hj) (runs_bind (runs_getJob hj) (runs_bind (runs_curCore s) (runs_bind (runs_get s) ?_)))
  simp only [ht]
  exact runs_bind (runs_set s s) (traceOwn_runs h 2 f.fn.toNat w hj)
end

/-- Settles O22: SNAP fires the trigger unless an earlier one still captures; TMARK's value is popped before its record is made. -/
theorem debugMarks : Obligations.DebugMarks := by
  refine fun h f s s0 s1 j p v => ⟨fun he hj hp => ?_, fun he hv hj => ?_⟩
  · have h0 := stands_of_entered he
    rw [← h0.cur]
    have fires (hg : ∀ g, p.trigger = some g → g.time.toNat + 256 < s0.ftime.toNat) :=
      completes_of_straight (body := snapBody h f) he rfl (snapBody_fires hj (fireTrigger_fires hp f.fn _ hg)) (h0.setPart _ _)
    refine ⟨fun hn => fires fun g hg => ?_, fun g hg hl => fires fun g' hg' => ?_, fun g hg hl => ?_⟩
    · cases hn.symm.trans hg
    · cases hg.symm.trans hg'
      exact hl
    · exact completes_of_straight (body := snapBody h f) he rfl (snapBody_joins hj (fireTrigger_joins hp f.fn _ hg hl))
        (h0.manned (trace_manned ..))
  · have h1 := (stands_of_entered he).scalars hv
    rw [← h1.cur]
    exact completes_of_straight (body := tmarkBody h f) he rfl (runs_pop hv (traceOwn_runs h 1 f.fn.toNat v hj)) (h1.manned (trace_manned ..))

/-! ### An instruction that waits with an arrival (R266, R312) -/

/-- Before its body an instruction has only taken its tokens: the job stands where it stood. -/
theorem entered_own {i : Instr} {s s0 : State} {j : Job} (he : s.entered i = some s0) (hj : s0.own = some j) :
    ∃ j0, s.own = some j0 ∧ j.stream s.cur.2 = j0.stream s.cur.2 ∧ j =
      { j0 with streams := j.streams, tiles := j.tiles, toks := j.toks, rlog := j.rlog, tileTail := j.tileTail, tileLeft := j.tileLeft } := by
  obtain ⟨e, henc⟩ : ∃ e, i.enc = some e := by
    unfold State.entered at he
    cases henc : i.enc with
    | none => simp [henc] at he
    | some e => exact ⟨e, rfl⟩
  obtain ⟨j0, hj0, -, -, -, ht⟩ := entered_passes henc he
  obtain ⟨hc, hk⟩ := stays_of_runs (popTokens_runs ht) (popTokens_keeps (n := ⟨e.h, [], none⟩) s)
  obtain ⟨k, rfl, hf⟩ := hk j0 hj0
  cases (State.job_setJob s s.cur.1 k).symm.trans hj
  have hl := entered_lane he
  rw [State.lane_eq hj, State.lane_eq hj0, Option.some.injEq] at hl
  exact ⟨j0, hj0, hl, hf.job⟩
theorem entered_origin {i : Instr} {s s0 : State} {j : Job} (he : s.entered i = some s0) (hj : s0.own = some j) (h : Hdr) :
    s0.origin h = s.origin h := by
  obtain ⟨j0, hj0, hl, hk⟩ := entered_own he hj
  have hseq : j.seq = j0.seq := by rw [hk]
  rw [State.origin_eq hj, State.origin_eq hj0, (stands_of_entered he).cur, hl, hseq]

/-- The job whose stream waits with an arrival. -/
def arriving (st : StreamId) (a : Arrival) (w : Wait) (j : Job) : Job := (j.arrive a).onStream st (fun t => { t with wait := w })

theorem enlist_arrival (s : State) (w : Wait) (a : Arrival) : s.enlist w none (some a) = s.onOwn (arriving s.cur.2 a w) := rfl
theorem onOwn_onJob_own (s : State) (f g : Job → Job) : ((s.onOwn f).onJob s.cur.1 g).own = s.own.map (g ∘ f) := by
  have h : ((s.onOwn f).onJob (s.onOwn f).cur.1 g).own = (s.onOwn f).own.map g := State.onOwn_own _ g
  rwa [State.onOwn_cur, State.onOwn_own, Option.map_map] at h
theorem runInstr_waits {i : Instr} {e : Enc} {body : M (Option Word)} {s u : State} {c : BitVec 4} {w : Wait}
    {x : Option (BitVec 8 × SemWaiter)} {a : Option Arrival} (he : i.enc = some e) (hf : Fails (attempt i e body) s (.wait c w x a) u) :
    runInstr i body s = .next ((s.enlist w x a).onJob s.cur.1 (fun j => j.stalled s.cur.2 c e.h.stage)) := by
  unfold runInstr
  unfold Fails at hf
  rw [he]
  simp only [hf]
theorem stalled_lane (j : Job) (st : StreamId) (c : BitVec 4) (g : BitVec 2) :
    (j.stalled st c g).stream st = { j.stream st with cause := c, tried := true, waitStage := g } := by
  have hcount (k : Job) : (k.count 10 1).stream st = k.stream st := rfl
  unfold Job.stalled
  dsimp only
  split
  · rw [hcount, Job.stream_onStream]
  · rw [Job.stream_onStream]
/-- A stall leaves what the job has arrived at. -/
theorem stalled_arrivals (j : Job) (st : StreamId) (c : BitVec 4) (g : BitVec 2) : (j.stalled st c g).arrivals = j.arrivals ∧
    (j.stalled st c g).arrTeam = j.arrTeam ∧ (j.stalled st c g).arrCrew = j.arrCrew ∧ (j.stalled st c g).arrStep = j.arrStep := by
  unfold Job.stalled
  dsimp only
  split <;> exact ⟨rfl, rfl, rfl, rfl⟩

/-- The job k has left an arrival, and its stream waits at the instruction. -/
structure ArrivesAndWaits (st : StreamId) (j k : Job) (a : Arrival) (w : Wait) : Prop where
  arrivals : k.arrivals = j.arrivals ++ [a]
  team : k.arrTeam = (j.arrive a).arrTeam
  crew : k.arrCrew = (j.arrive a).arrCrew
  step : k.arrStep = (j.arrive a).arrStep
  wait : (k.stream st).wait = w
  pc : (k.stream st).pc = (j.stream st).pc

/-- An instruction whose body waits with an arrival leaves it, and the tokens that it has taken are there again. -/
theorem exec_arrives {i : Instr} {e : Enc} {body : M Unit} {s s0 : State} {j : Job} {c : BitVec 4} {w : Wait} {a : Arrival}
    (henc : i.enc = some e) (hx : exec i s = runInstr i (straight body) s) (he : s.entered i = some s0) (hj : s0.own = some j)
    (hb : Fails body s0 (.wait c w none (some a)) s0) :
    ∃ (u : State) (k : Job), exec i s = .next u ∧ u.own = some k ∧ ArrivesAndWaits s.cur.2 j k a w := by
  obtain ⟨j0, hj0, hl, hk⟩ := entered_own he hj
  obtain ⟨harr, hteam, hcrew, hstep⟩ := stalled_arrivals (arriving s.cur.2 a w j0) s.cur.2 c e.h.stage
  refine ⟨_, _, hx.trans (runInstr_waits henc (attempt_body_fails henc he (straight_fails hb))),
    (onOwn_onJob_own s (arriving s.cur.2 a w) _).trans (congrArg (Option.map _) hj0), harr.trans ?_, hteam.trans ?_, hcrew.trans ?_,
    hstep.trans ?_, ?_, ?_⟩
  · rw [hk]; rfl
  · rw [hk]; rfl
  · rw [hk]; rfl
  · rw [hk]; rfl
  · rw [Function.comp, stalled_lane, arriving, Job.stream_onStream]
  · rw [Function.comp, stalled_lane, arriving, Job.stream_onStream, hl]
    rfl

/-! ### Barriers (R266, R308, R309) -/

/-- The arrival number that a job's next arrival at a barrier has. -/
def arrivalNo (j : Job) (crew : Bool) : Nat := if crew then j.arrCrew else j.arrTeam
/-- An arrival at a barrier moves on the number of its own scope alone. -/
theorem ArrivesAndWaits.numbers {st : StreamId} {j k : Job} {o : Origin} {crew : Bool} {w : Wait}
    (h : ArrivesAndWaits st j k ⟨o, crew, false, arrivalNo j crew⟩ w) :
    if crew then k.arrCrew = arrivalNo j crew + 1 ∧ k.arrTeam = j.arrTeam else k.arrTeam = arrivalNo j crew + 1 ∧ k.arrCrew = j.arrCrew := by
  cases crew with
  | false => exact ⟨h.team, h.crew⟩
  | true => exact ⟨h.crew, h.team⟩

section
variable {s : State} {j : Job} (hj : s.own = some j)
include hj

/-- What a wait reads: the state, the executing job, the instruction's place and its stream. -/
theorem wait_reads {α : Type} (h : Hdr) (g : State → Job → Origin → Stream → M α) :
    (do let s ← get; let j ← getJob; let o ← originOf h; let t ← getStream; g s j o t : M α).run s =
      (g s j (s.origin h) (j.stream s.cur.2)).run s := by
  rw [run_bind (runs_get s), run_bind (runs_getJob hj), run_bind (runs_originOf h hj), run_bind (runs_getStream hj)]

section
variable (h : Hdr) (f : FRR) (crew : Bool) (dl : Option Word)

theorem barrWait_served {st : Nat} (w : Bool) (hw : (j.stream s.cur.2).wait = .barrServed st) :
    Runs (barrWait h f crew w dl) s (BitVec.ofNat 64 st) (idled s) := by
  refine (wait_reads hj h _).trans ?_
  simp only [hw]
  exact runs_bind (runs_modifyStream _ hj) (runs_pure _ _)

variable (hw : (j.stream s.cur.2).wait = .none)
include hw

theorem barrWait_passed (hp : arrivalNo j crew = 0 ∨ arrivalNo j crew - 1 < s.phase s.cur.1 j crew) :
    Runs (barrWait h f crew true dl) s (BitVec.ofNat 64 (servedStatus s.ftime dl)) s := by
  unfold arrivalNo at hp
  refine (wait_reads hj h _).trans ?_
  simp only [hw, if_true, if_pos hp]
  exact runs_pure _ s
theorem barrWait_arrives (hp : s.phase s.cur.1 j crew ≤ arrivalNo j crew) : Fails (barrWait h f crew false dl) s
    (.wait 9 (.barr crew (some (arrivalNo j crew)) dl) none (some ⟨s.origin h, crew, false, arrivalNo j crew⟩)) s := by
  unfold arrivalNo at hp ⊢
  refine (wait_reads hj h _).trans ?_
  simp only [hw, Bool.false_eq_true, if_false, if_neg (Nat.not_lt.mpr hp)]
  exact fails_throw _ s
end

end

section
variable {h : Hdr} {f : FRR} {s u : State} {j : Job} {v : Word} (hr : j.replay.replaying = false)
  (hl : f.fn.getLsbD 0 = true → 2 ≤ j.level.toNat)
include hl

/-- A job that arrives at a barrier of its crew is of a level that has one. -/
theorem barr_level : (f.fn.getLsbD 0 && decide (j.level.toNat < 2)) = false := by
  cases hc : f.fn.getLsbD 0 with
  | false => rfl
  | true => exact decide_eq_false (Nat.not_lt.mpr (hl hc))

include hr

/-- A BARR of a live job that is not timed is its wait. -/
theorem barrBody_untimed (hj : s.own = some j) (ht : f.fn.getLsbD 1 = false) :
    (barrBody h f).run s = (barrWait h f (f.fn.getLsbD 0) (f.fn.getLsbD 2) none >>= fun _ => pure ()).run s := by
  unfold barrBody
  rw [run_bind (runs_getJob hj), run_bind (runs_trapIf _ _ s (barr_level hl)), if_neg (by rw [ht]; exact Bool.false_ne_true),
    run_bind (replaying_runs hj hr), if_neg Bool.false_ne_true]
theorem barrBody_runs (hj : s.own = some j) (ht : f.fn.getLsbD 1 = false)
    (hw : Runs (barrWait h f (f.fn.getLsbD 0) (f.fn.getLsbD 2) none) s v u) : Runs (barrBody h f) s () u :=
  (barrBody_untimed hr hl hj ht).trans (runs_bind hw (runs_pure () u))
/-- A timed BARR pops its deadline and pushes its status. -/
theorem barrBody_timed {s0 : State} {d : Word} (hj : s.own = some j) (ht : f.fn.getLsbD 1 = true) (hv : s0.scalars [f.a] = some ([d], s))
    (hlive : s.live = true) (hroom : s.room f.d = true) (hw : Runs (barrWait h f (f.fn.getLsbD 0) (f.fn.getLsbD 2) (some d)) s v u)
    (hu : Stands s u) (hroom' : u.room f.d = s.room f.d) : Runs (barrBody h f) s0 () (u.arrived h f.d 5 v) := by
  obtain ⟨j0, hj0⟩ := Option.isSome_iff_exists.mp ((scalars_keeps hv).2.symm.trans (by rw [hj]; rfl))
  obtain ⟨regs, fences, rfl⟩ := (scalars_reads hv).eq hj0
  cases (State.job_setJob s0 s0.cur.1 _).symm.trans hj
  obtain ⟨k, hk⟩ := hu.job
  refine runs_bind (runs_getJob hj0) (runs_bind (runs_trapIf _ _ s0 (barr_level hl)) ?_)
  rw [if_pos ht]
  exact runs_pop hv (runs_bind (pushRoom_runs hj hroom) (runs_bind (replaying_runs hj hr)
    (arrival_moves hj hlive hw hk (hroom'.trans hroom))))
end

/-! ### Supersteps (R311, R312) -/

/-- The state in which the executing job has passed its superstep at T0. -/
def passed (s : State) (c : Coord) (t0 : Word) : State := (idled s).onOwn (fun j => { j with passages := j.passages ++ [(c, t0)] })

theorem passed_room (s : State) (c : Coord) (t0 : Word) (x : Spec) : (passed s c t0).room x = s.room x :=
  (onOwn_room (f := fun j => { j with passages := j.passages ++ [(c, t0)] }) (fun _ => rfl) (fun _ _ => rfl) x).trans (idled_room s x)
theorem passed_cur (s : State) (c : Coord) (t0 : Word) : (passed s c t0).cur = s.cur :=
  (State.onOwn_cur _ _).trans (State.onLane_cur _ _)

section
variable {s : State} {j : Job} (hj : s.own = some j)
include hj

theorem passed_own (c : Coord) (t0 : Word) : (passed s c t0).own = some
    { j.onStream s.cur.2 (fun t => { t with wait := .none }) with passages := j.passages ++ [(c, t0)] } := by
  rw [passed, State.onOwn_own, idled, onLane_eq hj]
  rfl
theorem passed_origin (h : Hdr) (c : Coord) (t0 : Word) : (passed s c t0).origin h = s.origin h := by
  rw [State.origin_eq (passed_own hj c t0), State.origin_eq hj, passed_cur]
  simp [Job.stream, Job.onStream, Job.setStream]

variable (h : Hdr)

theorem sstepWait_passed {t0 : Word} (hw : (j.stream s.cur.2).wait = .sstepPassed t0) : Runs (sstepWait h) s t0 (idled s) := by
  refine (wait_reads hj h _).trans ?_
  simp only [hw]
  exact runs_bind (runs_modifyStream _ hj) (runs_pure _ _)
theorem sstepWait_arrives (hw : (j.stream s.cur.2).wait = .none)
    (hn : (s.jobs.find? (fun g => g.handle = j.handle)).bind (fun g => g.t0s[j.arrStep]?) = none) :
    Fails (sstepWait h) s (.wait 9 .sstep none (some ⟨s.origin h, false, true, j.arrStep⟩)) s := by
  refine (wait_reads hj h _).trans ?_
  simp only [hw, hn]
  exact fails_throw _ s

variable (f : FRR) (hl : s.live = true) (hr : s.room f.d = true)
include hl hr

/-- SSTEP of a live job with room for T0 is its wait, then the passage and the recorded push. -/
theorem sstepBody_waits : (sstepBody h f).run s = (do
    let v ← sstepWait h
    modifyJob (fun k => { k with passages := k.passages ++ [((s.origin h).stamp.coord, v)] })
    push h f.d v
    let c ← curCore
    modify (fun u => u.recordArrival c (s.origin h) 8 v false) : M Unit).run s := by
  obtain ⟨hp, hf⟩ := live_own hl hj
  unfold sstepBody
  rw [run_bind (runs_originOf h hj), run_bind (replayTake_runs h 8 hj hp)]
  dsimp only
  rw [run_bind (traceRoom_runs h hj hf), run_bind (pushRoom_runs hj hr)]
theorem sstepBody_passed {t0 : Word} (hw : (j.stream s.cur.2).wait = .sstepPassed t0) :
    Runs (sstepBody h f) s () ((passed s (j.stream s.cur.2).coord t0).arrived h f.d 8 t0) := by
  have ho : (idled s).own = some (j.onStream s.cur.2 (fun t => { t with wait := .none })) := onLane_eq hj _
  have hroom : (passed s (j.stream s.cur.2).coord t0).room f.d = true := (passed_room ..).trans hr
  refine (sstepBody_waits hj h f hl hr).trans (runs_bind (sstepWait_passed hj h hw) ?_)
  rw [State.arrived, passed_origin hj, ← State.put_cur (passed s (j.stream s.cur.2).coord t0) h f.d (some t0) false, State.origin_eq hj]
  exact runs_bind (runs_modifyJob _ ho) (runs_bind (push_runs (passed_own hj _ t0) hroom) (runs_bind (runs_curCore _) (runs_modify _ _)))
end

/-- Settles O24: each completes where its wait is over; the first try leaves an arrival, and the stream waits at the instruction. -/
theorem barrierAndSuperstep : Obligations.BarrierAndSuperstep := by
  intro h f s s0 s1 j d hj hr hlevel t crew a idle
  refine ⟨fun he ht h0 => ?_, fun he ht hv hl hroom => ?_, fun he h0 hl hroom => ?_⟩
  · subst h0
    have hs := stands_of_entered he
    simp only [t, crew, a, idle, ← hs.cur]
    have completes {v : Word} {u : State} (hw : Runs (barrWait h f (f.fn.getLsbD 0) (f.fn.getLsbD 2) none) s1 v u) (hu : Stands s u) :=
      completes_of_straight (body := barrBody h f) he rfl (barrBody_runs hr hlevel hj ht hw) hu
    refine ⟨fun st hw => completes (barrWait_served hj h f _ none _ hw) (hs.onLane _), fun hw h2 hp => ?_, fun hw h2 hp => ?_⟩
    · exact completes (by rw [h2]; exact barrWait_passed hj h f _ none hw hp) hs
    · have hb : Fails (barrBody h f) s1 _ s1 := (barrBody_untimed hr hlevel hj ht).trans
        (fails_bind_left (by rw [h2]; exact barrWait_arrives hj h f _ none hw hp))
      obtain ⟨u, k, hx, hk, hwait⟩ := exec_arrives (body := barrBody h f) rfl rfl he hj hb
      rw [hs.cur, ← entered_origin he hj]
      exact ⟨u, k, hx, hk, hwait.arrivals, hwait.numbers, hwait.step, hwait.wait, hwait.pc⟩
  · have h1 := (stands_of_entered he).scalars hv
    simp only [t, crew, a, idle, ← h1.cur]
    have completes {v : Word} {u : State} (hw : Runs (barrWait h f (f.fn.getLsbD 0) (f.fn.getLsbD 2) (some d)) s1 v u) (hu : Stands s u)
        (hroom' : u.room f.d = s1.room f.d) :=
      completes_of_straight (body := barrBody h f) he rfl
        (barrBody_timed hr hlevel hj ht hv hl hroom hw ⟨hu.cur.trans h1.cur.symm, hu.2⟩ hroom') (hu.arrived _ _ _ _)
    have hnow : BitVec.ofNat 64 (servedStatus s1.ftime (some d)) = if d = s1.ftime then 3 else 1 := by
      simp only [servedStatus, Option.some.injEq]
      split <;> rfl
    rw [← hnow]
    exact ⟨fun st hw => completes (barrWait_served hj h f _ (some d) _ hw) (h1.onLane _) (idled_room ..),
      fun hw h2 hp => completes (by rw [h2]; exact barrWait_passed hj h f _ (some d) hw hp) h1 rfl⟩
  · subst h0
    have hs := stands_of_entered he
    simp only [t, idle, ← hs.cur]
    refine ⟨fun t0 hw => ?_, fun hw hn => ?_⟩
    · exact completes_of_straight (body := sstepBody h f) he rfl (sstepBody_passed hj h f hl hroom hw) (((hs.onLane _).onOwn _).arrived _ _ _ _)
    · have hb : Fails (sstepBody h f) s1 _ s1 := (sstepBody_waits hj h f hl hroom).trans (fails_bind_left (sstepWait_arrives hj h hw hn))
      obtain ⟨u, k, hx, hk, hwait⟩ := exec_arrives (body := sstepBody h f) rfl rfl he hj hb
      rw [hs.cur, ← entered_origin he hj]
      exact ⟨u, k, hx, hk, hwait.arrivals, hwait.step, hwait.team, hwait.crew, hwait.wait, hwait.pc⟩

end Sys2Proof.Proofs
end

section
/-!
PROOF. O47: the host's writes of the debug window, the timed trigger and the capture.
-/
open Sys2Proof Sys2Proof.Machine Sys2Proof.Claims
namespace Sys2Proof.Proofs

/-! ### The registers of the debug window (R392, R393) -/

section
variable {p : Partition} {v : Word}

theorem writeTrbase_off (h : p.traceOn = false) (hv : v.toNat % 64 = 0) : p.writeTrbase v = { p with trbase := v } :=
  if_neg (by simp [h, hv])
theorem writeTrbase_on (h : p.traceOn = true) : p.writeTrbase v = p := if_pos (by simp [h])
theorem ringSizeOk_pow {n : Nat} (hn : n < 17) : ringSizeOk (2 ^ (8 + n)) = true :=
  List.any_eq_true.mpr ⟨n, List.mem_range.mpr hn, decide_eq_true rfl⟩
theorem writeTrsize_off {n : Nat} (h : p.traceOn = false) (hn : n < 17) (hv : v = BitVec.ofNat 64 (2 ^ (8 + n))) :
    p.writeTrsize v = { p with trsize := v } := by
  have hsize : v.toNat = 2 ^ (8 + n) := by
    rw [hv, BitVec.toNat_ofNat, Nat.mod_eq_of_lt (Nat.pow_lt_pow_right (by decide) (by omega))]
  exact if_neg (by simp [h, hsize, ringSizeOk_pow hn])
theorem writeTrsize_on (h : p.traceOn = true) : p.writeTrsize v = p := if_pos (by simp [h])
end

section
variable {s : State} {pn : PartId} {p : Partition} (hp : s.part pn = some p)
include hp

/-- The host changes the partition of an enabled function that is not being torn down. -/
theorem onVf_running (f : Partition → Partition) (hv : s.module.vfEnable = true) (ht : p.tearing = 0) (hs : p.pstate.toNat < 3) :
    s.onVf pn f = s.setPart pn (f p) := by
  unfold State.onVf
  rw [if_pos hv, onPart_some hp, if_pos ⟨ht, hs⟩]
theorem debugStop_own {v : Word} {j : Job} (hj : s.job (coreOf p.dbgcore.toNat) = some j) (ho : j.part = pn) :
    s.debugStop pn v = s.stopAt (coreOf p.dbgcore.toNat) j.handle v
      ⟨wordCoord v, v.getLsbD 62, if v.getLsbD 62 then 5 else 1, 1, .c, 5, 0, 0, 0, none⟩ := by
  unfold State.debugStop
  simp only [hp, hj, ho, ne_eq, not_true_eq_false, if_false]

/-! ### The timed trigger and the capture (R396, R397) -/

theorem fireTimed_due (ha : p.trigArmed = true) (hd : p.trigat ≤ s.ftime) : s.fireTimed pn =
    { State.onPart (State.fireTrigger { s with ftime := p.trigat } pn (BitVec.ofNat 5 (Config.freeWord s.tick 52).toNat) none).1 pn
      (fun p => { p with trigArmed := false }) with ftime := s.ftime } := by
  unfold State.fireTimed
  simp only [hp, ha, decide_eq_true hd, Bool.and_self, if_true]
theorem capture_due {c : CoreId} {t : Trigger} {q : JobSlot} {j : Job} (ht : p.trigger = some t) (hd : t.time ≤ s.ftime) (hc : c ∈ t.left)
    (hk : p.tctl.getLsbD 3 = true) (hq : (s.core c).slot = some q) (hj : s.job c = some j) (ho : j.part = pn)
    (hs : q.state = .running ∨ q.state = .landing ∨ q.state = .stopped) : s.capture pn c =
      (s.setPart pn { p with trigger := some { t with left := t.left.filter (fun x => x ≠ c) } }).captureGroup pn c j t := by
  have hwaits : ¬ s.ftime < t.time := BitVec.not_lt.mpr hd
  unfold State.capture
  simp only [hp, ht, hq, hj, ho, hk, hwaits, hs, List.contains_iff_mem.mpr hc, decide_true, decide_false, Bool.not_true, Bool.or_self,
    Bool.and_self, Bool.false_eq_true, if_false, if_true]
end

/-- Settles O47: each event's conditions hold, so that it takes its step. -/
theorem debugEvents : Obligations.DebugEvents := by
  intro s pn p v hp
  refine ⟨fun hv ht hs => ?_, fun ha hd => congrArg Host.Outcome.next (fireTimed_due hp ha hd),
    fun c t q j ht hd hc hk hq hj ho hs => congrArg Host.Outcome.next (capture_due hp ht hd hc hk hq hj ho hs)⟩
  have vf (f : Partition → Partition) {q : Partition} (hf : f p = q) :
      (Host.Outcome.next (s.onVf pn f) : Host.Outcome State Fault Refusal) = .next (s.setPart pn q) :=
    congrArg Host.Outcome.next ((onVf_running hp f hv ht hs).trans (by rw [hf]))
  exact ⟨vf _ rfl, fun hoff ha => vf _ (writeTrbase_off hoff ha), fun hoff n hn hw => vf _ (writeTrsize_off hoff hn hw),
    fun hon => ⟨vf _ (writeTrbase_on hon), vf _ (writeTrsize_on hon)⟩,
    fun j hj ho => congrArg Host.Outcome.next ((if_pos hv).trans (debugStop_own hp hj ho))⟩

end Sys2Proof.Proofs
end

section
/-!
PROOF. O51: Cuff's pairing, keeping, sealing, restoring and dumping.
-/
open Sys2Proof Sys2Proof.Machine Sys2Proof.Claims
namespace Sys2Proof.Proofs

/-! ### Pairing (R368, R369) -/

theorem pokeHome_module (s : State) (key : Nat) (bs : List Byte) : (s.pokeHome key bs).module = s.module := by
  unfold State.pokeHome
  dsimp only
  split <;> rfl
theorem cuffWrite_module (s : State) (pn : PartId) (a : Nat) (bs : List Byte) : (s.cuffWrite pn a bs).module = s.module := by
  unfold State.cuffWrite
  refine List.foldlRecOn (motive := fun u : State => u.module = s.module) _ _ rfl fun u hu x _ => ?_
  split
  · exact (pokeHome_module u _ _).trans hu
  · exact hu

/-- CKPAIR in a status, with its address and its lowest bits. -/
def pairStatus (p : Partition) (n : Nat) : Word := (p.ckpair &&& 0x01FFFFFFFFFFF000) + BitVec.ofNat 64 (n * 2 ^ 60)
/-- The state in which the pairing has written the two feeds into the control block. -/
def feedsWritten (s : State) (pn : PartId) (p : Partition) (feed : BitVec 16) : State :=
  s.cuffWrite pn (p.ckpair.toNat % 2 ^ 56 / 2 ^ 12 * 2 ^ 12 + 56) (leBytes 8 (s.module.feed.toNat + feed.toNat * 2 ^ 16))

section
variable {s : State} {pn : PartId} {p : Partition} (hp : s.part pn = some p) (h1 : p.ckStatus = 1)
include hp h1

theorem pair_refused {size : Nat} (feed : BitVec 16) (force : Bool) (hs : size ≠ p.ck 2) :
    s.pair pn feed force size = s.setPart pn { p with ckpair := pairStatus p 5 } := by
  unfold State.pair
  simp only [hp, h1, ne_eq, not_true_eq_false, if_false, if_pos hs]
  rfl
/-- Two modules of one feed do not pair unless one of them is forced to. -/
theorem pair_sameFeed (h56 : p.ckpair.getLsbD 56 = false) : s.pair pn s.module.feed false (p.ck 2) =
    (feedsWritten s pn p s.module.feed).setPart pn { p with ckpair := pairStatus p 3 } := by
  unfold State.pair
  simp only [hp, h1, h56, cuffWrite_module, ne_eq, not_true_eq_false, if_false, Bool.or_self, Bool.not_false, and_self, if_true]
  rfl
theorem pair_forced (feed : BitVec 16) :
    let u := feedsWritten s pn p feed
    let q : Partition := { p with ckpair := pairStatus p 2 + 1 <<< 59, ckgen := 1, ckFirst := 1, sealedGens := [], ckNo := u.tick }
    s.pair pn feed true (p.ck 2) = (u.setPart pn q).openSlot pn q 1 := by
  unfold State.pair
  simp only [hp, h1, ne_eq, not_true_eq_false, if_false, Bool.true_or, Bool.not_true, Bool.false_eq_true, and_false, if_true]
  rfl
end

/-! ### The keeper (R355, R370) -/

section
variable {s : State} {pn : PartId} {p : Partition} (hp : s.part pn = some p)
include hp

section
variable {a : Nat} {data : List Byte} {d : DieId} {o : Nat} (n : Nat) (hpair : p.paired = true) (hd : p.down = false)
  (hr : regionOf a = .dram d o) (ho : s.owners.contains (a / 65536, pn) = true) (hl : a % 64 + data.length ≤ 64)
include hpair hd hr ho hl

theorem keep_outside (hm : p.ckMap.find? (fun x => decide (x.1 = a / 4096)) = none) : s.keep pn n a data = s.pokeHome a data := by
  unfold State.keep
  simp only [hp, hpair, hd, hr, ho, hm, decide_eq_false (Nat.not_lt.mpr hl), Bool.not_true, Bool.or_self, Bool.false_eq_true, if_false]
theorem keep_window {i : Nat} (hm : p.ckMap.find? (fun x => decide (x.1 = a / 4096)) = some (a / 4096, i)) : s.keep pn n a data =
    (((s.pokeHome a data).openFor pn p n).cuffWrite pn (p.ckData n i + a % 4096) data).cuffWrite pn (p.ckRec n i + 8) [1] := by
  unfold State.keep
  simp only [hp, hpair, hd, hr, ho, hm, decide_eq_false (Nat.not_lt.mpr hl), Bool.not_true, Bool.or_self, Bool.false_eq_true, if_false]
end

/-! ### Seals (R371, R374) -/

theorem sealMsg_kept (n : Nat) : s.sealMsg pn n none = s.sealKept pn p n := by
  unfold State.sealMsg
  simp only [hp]
theorem sealMsg_answered (n status : Nat) (man : List Byte) : s.sealMsg pn n (some (status, man)) = s.sealEnded pn p n status man := by
  unfold State.sealMsg
  simp only [hp]
end

section
variable {s : State} {p : Partition} {n : Nat} {start : Word} (pn : PartId) (man : List Byte) (hb : p.ckBusy = some (1, n, start))
include hb

theorem sealEnded_unreachable : s.sealEnded pn p n 3 man = s.setPart pn { p with ckBusy := none, ckseal := cksealWord 3 1 6 } := by
  unfold State.sealEnded
  simp only [hb, Option.any_some, and_self, decide_true, Bool.not_true, Bool.false_eq_true, if_false, if_true]
theorem sealEnded_done {status : Nat} (h1 : status ≤ 1) (ho : s.storesOut pn (p.ck 0 % 2 ^ 14) start = false) :
    let q : Partition := { p with ckBusy := none, ckseal := cksealWord 2 1 0, sealedGens := p.sealedGens ++ [n] }
    s.sealEnded pn p n status man = (s.setPart pn q).resultBlock pn q n status man := by
  have h3 : ¬ status = 3 := by omega
  unfold State.sealEnded
  simp only [hb, h3, ho, decide_eq_true h1, Nat.min_eq_right (h1.trans (by decide : 1 ≤ 2)), Option.any_some, and_self, decide_true,
    Bool.not_true, Bool.false_eq_true, if_false, if_true]
end

/-! ### CKSEAL (R371 to R374) -/

section
variable {s : State} {pn : PartId} {p : Partition} {k : Nat} {v : Word} (hp : s.part pn = some p) (hk : s.ckReqs[k]? = some (pn, v))
  (hfirst : ∀ x ∈ s.ckReqs.take k, x.1 ≠ pn) (hst : pteBits p.ckseal 63 62 ≠ 1)
include hp hk hfirst hst

/-- The oldest CKSEAL write of a partition begins while no operation is in progress. -/
theorem beginCk_begins {op : Nat} (hop : pteBits v 61 60 = op) (f : State → PartId → Partition → Nat → State) :
    s.beginCk k op f = f { s with ckReqs := s.ckReqs.eraseIdx k } pn p (pteBits v 47 0) := by
  have hold : (s.ckReqs.take k).any (fun x => x.1 = pn) = false :=
    List.any_eq_false.mpr fun x hx => by simpa using hfirst x hx
  have hpart : State.part { s with ckReqs := s.ckReqs.eraseIdx k } pn = some p := hp
  unfold State.beginCk
  simp only [hk, hop, hold, hpart, hst, ne_eq, not_true_eq_false, Bool.false_eq_true, or_self, if_false]
end

section
variable {p : Partition} {n : Nat}

/-- A generation of this pairing is not foreign. -/
theorem not_foreign (hf : p.ckFirst ≤ n) (hg : n < p.ckgen.toNat) : p.foreign n = false := decide_eq_false (by omega)
theorem keeperHolds_sealed (s : State) (h0 : 0 < n) (hf : p.ckFirst ≤ n) (hg : n < p.ckgen.toNat) (h2 : p.ckgen.toNat ≤ n + 2)
    (hs : p.sealedGens.contains n = true) : s.keeperHolds p n = true := by
  have hrecent : 0 < n ∧ n ≠ p.ckgen.toNat ∧ p.ckgen.toNat ≤ n + 2 := ⟨h0, by omega, h2⟩
  unfold State.keeperHolds
  rw [decide_eq_true hrecent, not_foreign hf hg, if_neg Bool.false_ne_true, hs]
  rfl
theorem keeperHolds_not (s : State) (h : n = 0 ∨ n = p.ckgen.toNat ∨ n + 2 < p.ckgen.toNat ∨
    (p.ckFirst ≤ n ∧ n < p.ckgen.toNat ∧ p.sealedGens.contains n = false)) : s.keeperHolds p n = false := by
  have old (ho : ¬ (0 < n ∧ n ≠ p.ckgen.toNat ∧ p.ckgen.toNat ≤ n + 2)) : s.keeperHolds p n = false := by
    unfold State.keeperHolds
    rw [decide_eq_false ho, Bool.false_and]
  obtain h | h | h | ⟨hf, hg, hs⟩ := h
  · exact old (by omega)
  · exact old (by omega)
  · exact old (by omega)
  · unfold State.keeperHolds
    rw [not_foreign hf hg, if_neg Bool.false_ne_true, hs, Bool.and_false]
end

/-! ### The end of a restore (R372) -/

/-- Page i of a restore of generation n, or none where its digest differs. -/
def restoredPage (s : State) (p : Partition) (n : Nat) (records pages : List (List Byte)) (i : Nat) : Option (List Byte) :=
  restorePage (s.keyNo p n) n (records.getD i []) (pages.getD i [])
/-- The first page of a restore whose digest differs. -/
def firstBad (m : Nat) (got : Nat → Option (List Byte)) : Option Nat :=
  (List.range m).find? (fun i => (((List.range m).map got).getD i none).isNone)

theorem getD_map_range {α : Type} {m i : Nat} (g : Nat → Option α) (h : i < m) : ((List.range m).map g).getD i none = g i := by
  simp [List.getD, h]
theorem firstBad_none {m : Nat} {got : Nat → Option (List Byte)} (h : ∀ i, i < m → (got i).isSome = true) : firstBad m got = none := by
  refine List.find?_eq_none.mpr fun i hi => ?_
  have hm := List.mem_range.mp hi
  rw [getD_map_range got hm, ← Option.not_isSome, h i hm]
  exact Bool.false_ne_true
theorem firstBad_some {m i : Nat} {got : Nat → Option (List Byte)} (hi : i < m) (h : got i = none) :
    ∃ first, firstBad m got = some first ∧ first ≤ i ∧ got first = none := by
  have hbad (n : Nat) (hn : n < m) : (((List.range m).map got).getD n none).isNone = (got n).isNone := by rw [getD_map_range got hn]
  cases hf : firstBad m got with
  | none =>
    have hgood := List.find?_eq_none.mp hf i (List.mem_range.mpr hi)
    rw [hbad i hi, h] at hgood
    exact absurd rfl hgood
  | some n =>
    obtain ⟨hn, hm, hfirst⟩ := List.find?_range_eq_some.mp hf
    rw [hbad n (List.mem_range.mp hm), Option.isNone_iff_eq_none] at hn
    refine ⟨n, rfl, Nat.not_lt.mp fun hlt => ?_, hn⟩
    have hearly := hfirst i hlt
    rw [hbad i hi, h] at hearly
    cases hearly

section
variable {s : State} {pn : PartId} {p : Partition} {n : Nat} {start : Word} {header : List Byte} {records pages : List (List Byte)}
  (hp : s.part pn = some p) (hb : p.ckBusy = some (2, n, start))
include hp hb

theorem restoreEnded_verified (hall : firstBad p.ckPages (restoredPage s p n records pages) = none)
    (hm : s.manifestOk pn p n header records = true) :
    let got := restoredPage s p n records pages
    let u := (List.range p.ckPages).foldl (fun s i => s.cuffWrite pn (p.ck 1 + 4096 * i)
      ((((List.range p.ckPages).map got).getD i none).getD [])) s
    let absent := (List.range p.ckPages).any (fun i => decide (leNat (((records.getD i []).drop 8).take 1) = 0))
    let q : Partition := { p.restored n with ckBusy := none, ckseal := cksealWord 2 2 0 }
    s.restoreEnded pn header records pages = (u.setPart pn q).resultBlock pn q n (bitNat absent) (manifestOf header records) := by
  unfold firstBad restoredPage at hall
  unfold State.restoreEnded
  simp only [hp, hb, hall, hm, ne_eq, not_true_eq_false, if_false, Option.isNone_none, Bool.and_self, if_true]
  rfl
theorem restoreEnded_fails {first : Nat} (hbad : firstBad p.ckPages (restoredPage s p n records pages) = some first) :
    let q : Partition := { p with ckBusy := none, ckseal := cksealWord 3 2 4 }
    s.restoreEnded pn header records pages =
      ((s.cuffWrite pn (p.ck 1) (List.replicate (p.ck 2) 0)).setPart pn q).resultBlock pn q n first (manifestOf header records) := by
  unfold firstBad restoredPage at hbad
  unfold State.restoreEnded
  simp only [hp, hb, hbad, ne_eq, not_true_eq_false, if_false, Option.isNone_some, Bool.false_and, Bool.false_eq_true, Option.getD_some]
end

/-! ### The end of a dump (R373) -/

theorem dumpEnded_written {s : State} {pn : PartId} {p : Partition} {n : Nat} {start : Word} (hp : s.part pn = some p)
    (hb : p.ckBusy = some (3, n, start)) :
    let us := s.unitsOf pn
    let u := s.dumpWrite pn p (p.ck 6) (leBytes 8 us.length ++ leBytes 8 start.toNat ++ List.replicate 4080 0 ++
      us.flatMap (fun u => leBytes 8 (u * 65536)))
    let v := us.zipIdx.foldl (fun s x => s.dumpWrite pn p (p.ck 6 + dumpBase us.length + x.2 * 65536) (memBytes s.mem (x.1 * 65536) 65536)) u
    s.dumpEnded pn = v.setPart pn { p with
      ckBusy := none
      ckseal := if s.dumpOk pn p us.length then cksealWord 2 3 0 else cksealWord 3 3 5 } := by
  unfold State.dumpEnded
  simp only [hp, hb, ne_eq, not_true_eq_false, if_false]

/-- Settles O51: each event's conditions hold, so that it takes its step; a restore fails at the first page whose digest differs. -/
theorem cuffEvents : Obligations.CuffEvents := by
  intro s pn p hp
  refine ⟨fun h1 => ⟨fun feed force size hs => ?_, fun h56 => ?_, fun feed => ?_⟩, fun n a data d o i hpair hd hr ho hl => ⟨fun hm => ?_,
    fun hm => ?_⟩, fun n => ?_, fun n status man start hb => ⟨fun h3 => ?_, fun h1 ho => ?_⟩, fun k v hk hfirst hst => ?_,
    fun n start header records pages hb => ⟨fun hall hm => ?_, fun i hi hbad => ?_⟩, fun n start hb => ?_⟩
  · exact congrArg Host.Outcome.next (pair_refused hp h1 feed force hs)
  · exact congrArg Host.Outcome.next (pair_sameFeed hp h1 h56)
  · exact congrArg Host.Outcome.next (pair_forced hp h1 feed)
  · exact congrArg Host.Outcome.next (keep_outside hp n hpair hd hr ho hl hm)
  · exact congrArg Host.Outcome.next (keep_window hp n hpair hd hr ho hl hm)
  · exact congrArg Host.Outcome.next (sealMsg_kept hp n)
  · subst h3
    exact congrArg Host.Outcome.next ((sealMsg_answered hp n 3 man).trans (sealEnded_unreachable pn man hb))
  · exact congrArg Host.Outcome.next ((sealMsg_answered hp n status man).trans (sealEnded_done pn man hb h1 ho))
  · have begins {op : Nat} {t : State} (f : State → PartId → Partition → Nat → State) (hop : pteBits v 61 60 = op)
        (ht : f { s with ckReqs := s.ckReqs.eraseIdx k } pn p (pteBits v 47 0) = t) :
        (Host.Outcome.next (s.beginCk k op f) : Host.Outcome State Fault Refusal) = .next t :=
      congrArg Host.Outcome.next ((beginCk_begins hp hk hfirst hst hop f).trans ht)
    refine ⟨fun hop => ⟨fun hpair => begins _ hop ?_, fun hpair hg => begins _ hop ?_, fun hpair hg => begins _ hop ?_⟩,
      fun hop => ⟨fun hpair => begins _ hop ?_, fun hpair h0 hf hg h2 hs => begins _ hop ?_, fun hpair hn => begins _ hop ?_⟩,
      fun hop => ⟨fun hok => begins _ hop ?_, fun hok => begins _ hop ?_⟩⟩
    · simp only [hpair, Bool.not_false, if_true]
    · simp only [hpair, Bool.not_true, Bool.false_eq_true, if_false, ne_eq, hg, not_false_eq_true, if_true]
    · simp only [hpair, Bool.not_true, Bool.false_eq_true, if_false, ne_eq, hg, not_true_eq_false]
    · simp only [hpair, Bool.not_false, if_true]
    · simp only [hpair, keeperHolds_sealed _ h0 hf hg h2 hs, Bool.not_true, Bool.false_eq_true, if_false]
    · simp only [hpair, keeperHolds_not _ hn, Bool.not_true, Bool.not_false, Bool.false_eq_true, if_false, if_true]
    · simp only [hok, Bool.not_false, if_true]
    · simp only [hok, Bool.not_true, Bool.false_eq_true, if_false]
  · exact congrArg Host.Outcome.next (restoreEnded_verified hp hb (firstBad_none hall) hm)
  · obtain ⟨first, hf, hle, hnone⟩ := firstBad_some (got := restoredPage s p n records pages) hi hbad
    exact ⟨first, hle, hnone, congrArg Host.Outcome.next (restoreEnded_fails hp hb hf)⟩
  · exact congrArg Host.Outcome.next (dumpEnded_written hp hb)

end Sys2Proof.Proofs
end

section
/-!
PROOF. O49: control flits, and the data flits that bring about what they announce.
-/
open Sys2Proof Sys2Proof.Machine Sys2Proof.Claims
namespace Sys2Proof.Proofs

/-! ### A control flit arrives (R362, R366) -/

section
variable {s : State} {g : BitVec 5} {bs : List Byte} (hg : g.toNat < 16)
include hg

theorem taken_group (s : State) : s.taken g = s := if_neg (Nat.not_le.mpr hg)
theorem tagged_group (s : State) (e : Nat) (bs : List Byte) :
    s.tagged g e bs = decide (bs.drop 48 = tagBytes g false e (bs.take 48)) := if_neg (Nat.not_le.mpr hg)
/-- A group's flit is judged by the key of its direction, or by the next one once it has been announced. -/
theorem authentic_group : s.authentic g bs = true ↔ bs.length = 64 ∧ (bs.drop 48 = tagBytes g false (s.port g).rxEpoch.toNat (bs.take 48) ∨
    ((s.port g).rxKeyAt.isSome = true ∧ bs.drop 48 = tagBytes g false ((s.port g).rxEpoch + 1).toNat (bs.take 48))) := by
  unfold State.authentic
  simp only [tagged_group hg, Bool.and_eq_true, Bool.or_eq_true, decide_eq_true_eq]
end

theorem portOf_lt (k : BitVec 4) : (portOf k).toNat < 16 := by
  rw [portOf, BitVec.toNat_setWidth, Nat.mod_eq_of_lt (by omega)]
  exact k.isLt

section
variable {s : State} {g : BitVec 5} {type : Nat} {bs : List Byte} {x y : Group16} (f : Group16 → State)

theorem arrive_unauthentic (hx : s.port g = x) (ht : x.talks = true) (ha : s.authentic g bs = false) :
    s.arrive g type bs f = if 8 ≤ x.authFails + 1 then s.linkDown g x 5 else s.setPort g { x with authFails := x.authFails + 1 } := by
  unfold State.arrive
  simp only [hx, ht, ha, Bool.not_true, Bool.not_false, Bool.false_eq_true, if_false, if_true]
  rfl
theorem arrive_accepted (h : accepted s g type bs x y) : s.arrive g type bs f = (f y).taken g := by
  obtain ⟨hx, ht, ha, htype, hversion, rfl⟩ := h
  unfold State.arrive
  simp only [hx, ht, ha, htype, hversion, ne_eq, not_true_eq_false, or_self, Bool.not_true, Bool.false_eq_true, if_false]
end

theorem accepted_port {s : State} {g : BitVec 5} {type : Nat} {bs : List Byte} {x y : Group16} (h : accepted s g type bs x y) :
    y = { x with authFails := 0 } := by
  obtain ⟨-, -, -, -, -, hy⟩ := h
  exact hy

/-! ### Descriptors (R363, R364) -/

section
variable {s : State} {g : BitVec 5} {x : Group16} (hn : s.neighbours g x.peer = true)
include hn

theorem compare_agrees (ha : x.agrees x.peer = true) : s.compare g x = s.linkUp g x 2 := by
  unfold State.compare
  simp only [hn, ha, Bool.not_true, Bool.false_eq_true, if_false, if_true]

variable (ha : x.agrees x.peer = false)
include ha

theorem compare_retries (hr : x.retry.toNat < 3) : s.compare g x = s.setPort g (x.retrain (x.retry + 1)) := by
  unfold State.compare
  simp only [hn, ha, if_pos hr, Bool.not_true, Bool.false_eq_true, if_false]
/-- After three retries the greatest common configuration decides. -/
theorem compare_decides (hr : 3 ≤ x.retry.toNat) : s.compare g x = match x.common x.peer with
    | .ok w => s.linkUp g w 3
    | .error r => s.linkDown g x r := by
  unfold State.compare
  cases x.common x.peer <;> simp only [hn, ha, if_neg (Nat.not_lt.mpr hr), Bool.not_true, Bool.false_eq_true, if_false]
end

theorem describe_compares {s : State} {g : BitVec 5} {bs : List Byte} {x y : Group16} (h : accepted s g 1 bs x y)
    (hs : x.state = 1 ∨ x.state = 3 ∨ x.state = 5) (hw : x.width ≠ 0) (hp : x.peer = []) :
    s.describe g bs = (s.compare g { y with peer := (bs.drop 16).take 32 }).taken g := by
  unfold State.describe
  rw [arrive_accepted _ h]
  cases accepted_port h
  refine congrArg (State.taken · g) (if_neg ?_)
  rintro (⟨h1, h3, h5⟩ | h | h)
  · exact hs.elim h1 (Or.elim · h3 h5)
  · exact hw h
  · exact h hp

/-! ### Lane swaps (R365) -/

/-- No lane of the sixteen is numbered as the absence of a swap is. -/
theorem lane_ne_unswapped {n : Nat} (hn : n < 16) : (31 : BitVec 5) ≠ BitVec.ofNat 5 n := by
  intro he
  have hlane : 31 = n := by
    have h := congrArg BitVec.toNat he
    rwa [BitVec.toNat_ofNat, Nat.mod_eq_of_lt (by omega)] at h
  omega

section
variable {s : State} {g : BitVec 5} {bs : List Byte} {x y : Group16} (h : accepted s g 2 bs x y)
include h

/-- A request for the lane that is swapped already changes nothing. -/
theorem swapReqd_swapped (hs : x.swapMap = BitVec.ofNat 5 (flitNat bs 16 1)) : s.swapReqd g bs = (s.setPort g y).taken g := by
  have hmap : y.swapMap = BitVec.ofNat 5 (flitNat bs 16 1) := by rw [accepted_port h, ← hs]
  unfold State.swapReqd
  rw [arrive_accepted _ h]
  exact congrArg (State.taken · g) (if_pos (by simp [hmap]))

variable (hu : x.up = true) (hl : flitNat bs 16 1 < 16) (hn : x.swapAt = none)
include hu hl hn

/-- A lane that is not swapped yet, with no swap announced, needs the spare. -/
theorem swapReqd_another (hs : x.swapMap ≠ BitVec.ofNat 5 (flitNat bs 16 1)) : s.swapReqd g bs =
    (s.setPort g (if x.swapMap ≠ 31 then y.retrain 0
      else ({ y with swapAt := some (BitVec.ofNat 5 (flitNat bs 16 1), x.txSeq + 64) } : Group16).send g 3 (x.txSeq + 64).toNat
        (leBytes 1 (BitVec.ofNat 5 (flitNat bs 16 1)).toNat))).taken g := by
  have hup : y.up = true := by rw [accepted_port h]; exact hu
  have hmap : y.swapMap = x.swapMap := by rw [accepted_port h]
  have hnone : y.swapAt = none := by rw [accepted_port h]; exact hn
  have hseq : y.txSeq = x.txSeq := by rw [accepted_port h]
  unfold State.swapReqd
  rw [arrive_accepted _ h]
  refine congrArg (State.taken · g) ((if_neg (by simp [hup, hmap, hs, hnone, hl])).trans ?_)
  by_cases h31 : x.swapMap = 31
  · rw [if_neg (by simp [hmap, h31, hnone]), if_neg (not_not.mpr h31), hseq]
  · rw [if_pos (Or.inl (by rwa [hmap])), if_pos h31]
end

/-! ### Key rotation (R366) -/

section
variable {s : State} {g : BitVec 5} {bs : List Byte} {x y : Group16} (h : accepted s g 5 bs x y)
include h

theorem keyAcked_other (he : flitNat bs 16 4 ≠ x.epoch.toNat) : s.keyAcked g bs = (s.setPort g y).taken g := by
  unfold State.keyAcked
  rw [arrive_accepted _ h]
  cases accepted_port h
  rw [if_neg he]
theorem keyAcked_current (he : flitNat bs 16 4 = x.epoch.toNat) {n : Word} (hk : x.keyAt = some n) (hn : x.txAcked < n) :
    s.keyAcked g bs = (s.setPort g { y with txAcked := n, keyAt := none }).taken g := by
  unfold State.keyAcked
  rw [arrive_accepted _ h]
  cases accepted_port h
  have hself : ¬ n < n := BitVec.lt_irrefl n
  simp only [he, if_true, Group16.zeroised, hk, Option.filter_some, decide_eq_true hn, Option.getD_some, decide_eq_false hself,
    Bool.false_eq_true, if_false]
end

/-! ### Data flits at the two ends (R365, R366) -/

section
variable (x : Group16) (sent acked : Nat) (limit : Word)

/-- The sending side once its sequence number and the acknowledged one have grown. -/
def grown : Group16 :=
  let tx := growTo x.txSeq (x.keyFrom + 0x100000000) sent
  { x with txSeq := tx, txAcked := growTo x.txAcked (if limit < tx then limit else tx) acked }
/-- The sending side once the swap of a flit that has been sent holds. -/
def swapSent (x : Group16) : Group16 := match x.swapAt with
  | some (lane, n) => if n ≤ x.txSeq then { x with swapMap := lane, swapAt := none } else x
  | none => x

theorem grown_keeps : (grown x sent acked limit).swapMap = x.swapMap ∧ (grown x sent acked limit).swapAt = x.swapAt ∧
    (grown x sent acked limit).keyAt = x.keyAt := by
  unfold grown
  exact ⟨rfl, rfl, rfl⟩
theorem sends_eq : x.sends sent acked limit = (swapSent (grown x sent acked limit)).zeroised := by
  unfold Group16.sends swapSent
  rfl
theorem swapSent_numbers (x : Group16) : (swapSent x).txSeq = x.txSeq ∧ (swapSent x).txAcked = x.txAcked ∧ (swapSent x).keyAt = x.keyAt := by
  unfold swapSent
  split
  · split <;> exact ⟨rfl, rfl, rfl⟩
  · exact ⟨rfl, rfl, rfl⟩
theorem swapSent_swap {x : Group16} {lane : BitVec 5} {n : Word} (h : x.swapAt = some (lane, n)) :
    if n ≤ x.txSeq then (swapSent x).swapMap = lane ∧ (swapSent x).swapAt = none
    else (swapSent x).swapMap = x.swapMap ∧ (swapSent x).swapAt = x.swapAt := by
  unfold swapSent
  simp only [h]
  split
  · exact ⟨rfl, rfl⟩
  · exact ⟨rfl, h⟩
theorem sends_swap {lane : BitVec 5} {n : Word} (h : x.swapAt = some (lane, n)) :
    let a := x.sends sent acked limit
    if n ≤ a.txSeq then a.swapMap = lane ∧ a.swapAt = none else a.swapMap = x.swapMap ∧ a.swapAt = x.swapAt := by
  obtain ⟨hmap, hat, -⟩ := grown_keeps x sent acked limit
  have hs := swapSent_swap (hat.trans h)
  rw [hmap, hat, ← (swapSent_numbers _).1] at hs
  rw [sends_eq]
  exact hs
/-- The old key is kept while a flit of it may be replayed. -/
theorem sends_key {n : Word} (h : x.keyAt = some n) :
    let a := x.sends sent acked limit
    a.keyAt = if a.txAcked < n then some n else none := by
  obtain ⟨-, -, hgrown⟩ := grown_keeps x sent acked limit
  obtain ⟨-, -, hswap⟩ := swapSent_numbers (grown x sent acked limit)
  have hk := hswap.trans (hgrown.trans h)
  rw [sends_eq]
  simp only [Group16.zeroised, hk, Option.filter_some, decide_eq_true_eq]

variable (g : BitVec 5) (rx : Word)

/-- The receiving side once the swap of a flit that has arrived holds. -/
def swapReceived : Group16 :=
  let x := { x with rxSeq := rx }
  match x.rxSwapAt with
  | some (lane, n) => if n ≤ rx then { x with rxSwap := lane, rxSwapAt := none, swapAsked := none } else x
  | none => x
/-- The receiving side once it has gone over to the key of a flit that has arrived. -/
def keyReceived : Group16 := match x.rxKeyAt with
  | some n => if n < rx then
      let y := { x with rxEpoch := x.rxEpoch + 1, rxKeyAt := none }
      if y.talks then y.send g 5 n.toNat (leBytes 4 y.rxEpoch.toNat) else y
    else x
  | none => x

theorem receives_eq : x.receives g rx = keyReceived (swapReceived x rx) g rx := by
  unfold Group16.receives keyReceived swapReceived
  rfl
theorem swapReceived_key : (swapReceived x rx).rxEpoch = x.rxEpoch ∧ (swapReceived x rx).rxKeyAt = x.rxKeyAt := by
  unfold swapReceived
  dsimp only
  split
  · split <;> exact ⟨rfl, rfl⟩
  · exact ⟨rfl, rfl⟩
theorem keyReceived_swap : (keyReceived x g rx).rxSwap = x.rxSwap ∧ (keyReceived x g rx).rxSwapAt = x.rxSwapAt := by
  unfold keyReceived
  split
  · split
    · dsimp only
      split <;> exact ⟨rfl, rfl⟩
    · exact ⟨rfl, rfl⟩
  · exact ⟨rfl, rfl⟩
theorem receives_swap {lane : BitVec 5} {n : Word} (h : x.rxSwapAt = some (lane, n)) :
    let b := x.receives g rx
    if n ≤ rx then b.rxSwap = lane ∧ b.rxSwapAt = none else b.rxSwap = x.rxSwap ∧ b.rxSwapAt = x.rxSwapAt := by
  obtain ⟨hswap, hat⟩ := keyReceived_swap (swapReceived x rx) g rx
  simp only [receives_eq, hswap, hat]
  unfold swapReceived
  simp only [h]
  split
  · exact ⟨rfl, rfl⟩
  · exact ⟨rfl, rfl⟩
theorem receives_key {n : Word} (h : x.rxKeyAt = some n) :
    let b := x.receives g rx
    if n < rx then b.rxEpoch = x.rxEpoch + 1 ∧ b.rxKeyAt = none else b.rxEpoch = x.rxEpoch ∧ b.rxKeyAt = x.rxKeyAt := by
  obtain ⟨hepoch, hat⟩ := swapReceived_key x rx
  rw [receives_eq, ← hepoch, ← hat]
  rw [h] at hat
  unfold keyReceived
  simp only [hat]
  split
  · split <;> exact ⟨rfl, rfl⟩
  · exact ⟨rfl, hat⟩
end

/-! ### Personalities and fabric time over a group's flits (R346, R361) -/

section
variable {s : State} {k : BitVec 4} {bs : List Byte} {x y : Group16}

theorem persReqd_joins (h : accepted s (portOf k) 6 bs x y) (hc : x.changing = false) :
    let kind := BitVec.ofNat 4 (flitNat bs 16 1)
    let drop := BitVec.ofNat 64 (flitNat bs 24 8)
    s.persReqd k bs = (s.drain k.toNat).setPort (portOf k) ((y.change kind drop).send (portOf k) 7 x.txSeq.toNat
      (leBytes 8 kind.toNat ++ leBytes 8 drop.toNat)) := by
  unfold State.persReqd
  rw [arrive_accepted _ h, taken_group (portOf_lt k)]
  cases accepted_port h
  simp only [hc, Bool.false_eq_true, if_false]
theorem takeTime_master (h : accepted s (portOf k) 8 bs x y) :
    let u := s.setPort (portOf k) y
    let sent := BitVec.ofNat 64 (flitNat bs 16 8)
    u.isMaster = false → flitNat x.peer 0 2 / 4 = u.masterNode → s.takeTime k bs = State.alignAll { u with
      module := { u.module with ahead := aheadOf u.ftime sent } } (nearTime u.ftime sent) := by
  intro u sent hm hp
  unfold State.takeTime
  rw [arrive_accepted _ h, taken_group (portOf_lt k)]
  have hnode : y.peerNode = (s.setPort (portOf k) y).masterNode := by
    cases accepted_port h
    exact hp
  simp only [show (s.setPort (portOf k) y).isMaster = false from hm, hnode, decide_true, Bool.not_false, Bool.and_self, if_true]
  rfl
end

/-- Settles O49: a flit that authenticates is taken with no failure counted, whatever its type does with the port. -/
theorem controlFlits : Obligations.ControlFlits := by
  intro s g bs x y
  refine ⟨fun hg => authentic_group hg, fun hg u => taken_group hg u, fun hx ht ha => ?_, fun h => ?_,
    fun h hu hl => ⟨fun hs => ?_, fun hs h31 hn => ?_, fun h31 hn => ?_⟩, fun h => ?_, fun h => ?_, fun h => ⟨fun he => ?_,
    fun he n hk hn => ?_⟩, fun n lane sent acked limit rx => ⟨sends_swap x sent acked limit, sends_key x sent acked limit,
    receives_swap x g rx, receives_key x g rx⟩, fun k hk => ?_⟩
  · have dropped (type : Nat) (f : Group16 → State) : (Host.Outcome.next (s.arrive g type bs f) : Host.Outcome State Fault Refusal) = .next _ :=
      congrArg Host.Outcome.next (arrive_unauthentic f hx ht ha)
    exact ⟨dropped _ _, dropped _ _, dropped _ _, dropped _ _, dropped _ _⟩
  · intro z ends hs hw hp hn
    have ends_of {u : State} (hc : s.compare g z = u) : ends u :=
      congrArg Host.Outcome.next ((describe_compares h hs hw hp).trans (congrArg (State.taken · g) hc))
    have hretry : z.retry = x.retry := by
      cases accepted_port h
      rfl
    refine ⟨fun ha => ends_of (compare_agrees hn ha), fun ha hr => ?_, fun ha hr => ⟨fun w hc => ?_, fun r hc => ?_⟩⟩
    · rw [← hretry] at hr ⊢
      exact ends_of (compare_retries hn ha hr)
    · exact ends_of ((compare_decides hn ha (hretry ▸ hr)).trans (by rw [hc]))
    · exact ends_of ((compare_decides hn ha (hretry ▸ hr)).trans (by rw [hc]))
  · exact congrArg Host.Outcome.next (swapReqd_swapped h hs)
  · exact congrArg Host.Outcome.next ((swapReqd_another h hu hl hn hs).trans (by rw [if_pos h31]))
  · have hs : x.swapMap ≠ BitVec.ofNat 5 (flitNat bs 16 1) := h31 ▸ lane_ne_unswapped hl
    exact congrArg Host.Outcome.next ((swapReqd_another h hu hl hn hs).trans (by rw [if_neg (not_not.mpr h31)]))
  · refine congrArg Host.Outcome.next ((arrive_accepted _ h).trans ?_)
    cases accepted_port h
    rfl
  · refine congrArg Host.Outcome.next ((arrive_accepted _ h).trans ?_)
    cases accepted_port h
    rfl
  · exact congrArg Host.Outcome.next (keyAcked_other h he)
  · exact congrArg Host.Outcome.next (keyAcked_current h he hk hn)
  · subst hk
    refine ⟨fun h hc => congrArg Host.Outcome.next (persReqd_joins h hc), fun h => ?_,
      fun h => ?_⟩
    · refine congrArg Host.Outcome.next ((arrive_accepted _ h).trans ((taken_group (portOf_lt k) _).trans ?_))
      cases accepted_port h
      rfl
    · intro u sent near hm hp
      exact congrArg Host.Outcome.next (takeTime_master h hm hp)

end Sys2Proof.Proofs
end

section
/-!
PROOF. O50: personality changes, links, lanes, keys, fabric time and splits.
-/
open Sys2Proof Sys2Proof.Machine Sys2Proof.Claims
namespace Sys2Proof.Proofs

/-! ### Personality changes and fabric time (R346, R359, R361) -/

section
variable {s : State} {k : BitVec 4} {x : Group16} (hx : x = s.groups.get k.toFin)
include hx

/-- A change that Brim may begin, at a port that has no peer to ask. -/
theorem beginChange_begins (hb : s.brim = true) (hc : x.changing = false) (hoff : x.persReq = 1 → s.module.groupOff k.toNat = false)
    (hp : x.persReq ≠ x.pers) (ha : x.admits x.persReq = true) (ht : x.talks = false) : s.beginChange k =
      (s.drain k.toNat).setPort (portOf k) (x.change x.persReq (s.ftime + BitVec.ofNat 64 (12500 * x.tout.toNat))) := by
  have hon : (decide (x.persReq = 1) && s.module.groupOff k.toNat) = false := by
    by_cases h1 : x.persReq = 1
    · rw [hoff h1, Bool.and_false]
    · rw [decide_eq_false h1, Bool.false_and]
  unfold State.beginChange
  simp only [← hx, hb, hc, hon, decide_eq_false hp, ha, ht, Bool.not_true, Bool.or_self, Bool.false_eq_true, if_false]

/-- The link drops at its time once nothing is outstanding through the group. -/
theorem dropLink_due (hc : x.changing = true) (h4 : x.state = 4) (hd : x.dropAt ≤ s.ftime)
    (hr : ∀ r ∈ s.remotes, r.way.bind Way.group ≠ some k) (hch : ∀ r ∈ s.chunks, r.way.group ≠ some k) : s.dropLink k =
    if x.persNew = 0 then ((s.setPort (portOf k) { x.cleared with state := 0, changing := false }).flipEmap k.toNat).newEpoch
    else s.setPort (portOf k) { x.cleared with state := 5 } := by
  have hout : s.outstanding k = false := by
    unfold State.outstanding
    rw [Bool.or_eq_false_iff]
    exact ⟨List.any_eq_false.mpr fun r h => by simpa using hr r h, List.any_eq_false.mpr fun r h => by simpa using hch r h⟩
  have hdue : ¬ s.ftime < x.dropAt := BitVec.not_lt.mpr hd
  unfold State.dropLink
  simp only [← hx, hc, h4, hout, hdue, ne_eq, not_true_eq_false, decide_false, Bool.not_true, Bool.or_self, Bool.false_eq_true, if_false]
theorem sendTime_up (ht : x.talks = true) (hu : x.up = true) :
    s.sendTime k = s.setPort (portOf k) (x.send (portOf k) 8 x.txSeq.toNat (leBytes 8 s.ftime.toNat)) := by
  unfold State.sendTime
  simp only [← hx, ht, hu, Bool.and_self, if_true]
end

/-! ### Links (R352, R360, R361, R364) -/

/-- A port that has trained, with the lanes that its receiver finds good. -/
def trainedPort (x : Group16) (width : BitVec 8) (speed : BitVec 4) (ok : BitVec 17) : Group16 :=
  { x with width := width, speed := speed.setWidth 8, state := if x.state = 6 then 1 else x.state, laneOk := ok }

section
variable {s : State} {g : BitVec 5} {x : Group16} (hx : s.port g = x)
include hx

/-- Training ends with a descriptor at a port that has a peer to compare with, and with the link up at another. -/
theorem trained_ends {width : BitVec 8} {speed : BitVec 4} (hs : x.state = 1 ∨ x.state = 3 ∨ x.state = 5 ∨ x.state = 6) (hw : x.width = 0)
    (hp : x.pers ≠ 0) (hsp : speed ≠ 0) (hwidth : width.toNat ∈ [1, 2, 4, 8, 16]) :
    let y := trainedPort x width speed (Config.freeLanes s.tick g.toNat)
    let z := y.send g 1 x.txSeq.toNat (s.descriptor g y)
    s.trained g width speed = if x.pers = 1 then (if x.peer = [] then s.setPort g z else s.compare g z) else s.linkUp g y 2 := by
  have hwaits : decide ((x.state = 1 ∨ x.state = 3 ∨ x.state = 5 ∨ x.state = 6) ∧ x.width = 0) = true := decide_eq_true ⟨hs, hw⟩
  have hmay : decide (x.pers = 0 ∨ speed = 0) = false := decide_eq_false (not_or.mpr ⟨hp, hsp⟩)
  unfold State.trained
  simp only [hx, hwaits, hmay, List.contains_iff_mem.mpr hwidth, Bool.not_true, Bool.or_self, Bool.false_eq_true, if_false]
  rfl
theorem goDown_reason {reason : BitVec 8} (h0 : x.state ≠ 0) (h6 : x.state ≠ 6) (hr : 1 ≤ reason.toNat) (hr6 : reason.toNat ≤ 6) :
    s.goDown g reason = s.linkDown g x reason := by
  unfold State.goDown
  simp only [hx]
  refine if_neg ?_
  rintro (h | h | h | h)
  · exact h0 h
  · exact h6 h
  · rw [h] at hr
    exact absurd hr (by decide)
  · omega

/-! ### Lanes and keys (R365, R366) -/

/-- The first bad lane of a receiver is asked to be swapped. -/
theorem sample_asks {lane : BitVec 5} {flits corrected eye : Nat} (ht : x.talks = true) (hu : x.up = true) (hl : lane.toNat < 16)
    (hbad : flits < corrected * 100000 ∨ eye < 20) (h31 : x.rxSwap = 31) (hn : x.swapAsked = none) :
    let y : Group16 := { x with laneOk := x.laneOk &&& ~~~((1 : BitVec 17) <<< lane.toNat), swapAsked := some lane }
    s.sample g lane flits corrected eye = s.setPort g (y.send g 2 x.txSeq.toNat (leBytes 1 lane.toNat)) := by
  have hlane : ¬ 16 < lane.toNat := by omega
  have hfirst : ¬ (lane = 31 ∨ (none : Option (BitVec 5)) = some lane) := by
    rintro (h | h)
    · rw [h] at hl
      exact absurd hl (by decide)
    · cases h
  unfold State.sample
  simp only [hx, ht, hu, hlane, hbad, h31, hn, hfirst, hl, decide_true, decide_false, Bool.not_true, Bool.or_self, Bool.false_eq_true, if_false,
    and_self, if_true]
/-- The sender goes over to its next key at flit N, and announces it where its port carries control flits. -/
theorem rotate_ciphers (hu : x.up = true) (hk : x.keyAt = none) (hc : x.ciphers = true) :
    let y := if x.talks then x.send g 4 x.txSeq.toNat (leBytes 4 (x.epoch.toNat + 1)) else x
    s.rotate g = s.setPort g { y with epoch := x.epoch + 1, keyAt := some x.txSeq, keyFrom := x.txSeq } := by
  unfold State.rotate
  simp only [hx, hu, hk, hc, Option.isSome_none, Bool.not_true, Bool.or_self, Bool.false_eq_true, if_false]
end

theorem ciphers_of_talks {x : Group16} (h : x.talks = true) : x.ciphers = true := by
  unfold Group16.talks at h
  obtain ⟨h1, -, -⟩ := of_decide_eq_true h
  exact decide_eq_true (Or.inl h1)

/-! ### Splits (R367) -/

/-- The state in which a launch that a split has parted is marked. -/
def splitMarked (s : State) (hd : Handle) : State :=
  { s with jobs := s.jobs.map (fun (y : Group) => if y.handle = hd then { y with linkLost := true } else y) }
/-- A job of a launch runs or lands on a core. -/
def splitRuns (u : State) (hd : Handle) (c : CoreId) : Bool := (u.core c).lands && (u.job c).any (fun j => j.handle = hd)

/-- A parted launch at its end: what the job of its first core has left, which the launch knows already where that core is done. -/
def splitLast (k : Group) (first : Option Job) : Group :=
  let lost : Group := { k with linkLost := true }
  if k.done.contains (k.cores.headD 0) then lost else match first with
    | some j => { lost with front := optCoordWord j.front, lastRec := j.traprec }
    | none => lost
theorem splitLast_keeps (k : Group) (first : Option Job) : (splitLast k first).cores = k.cores ∧ (splitLast k first).done = k.done ∧
    (splitLast k first).part = k.part := by
  unfold splitLast
  dsimp only
  split
  · exact ⟨rfl, rfl, rfl⟩
  · cases first <;> exact ⟨rfl, rfl, rfl⟩

section
variable {s : State} {k : Group} (hk : s.jobs.find? (fun y => y.handle = k.handle) = some k) (hs : s.isSplit k = true)
include hk hs

/-- While jobs of a parted launch run, each takes a hard cut. -/
theorem split_lands (hr : k.cores.any (splitRuns (splitMarked s k.handle) k.handle) = true) : s.split k.handle =
    k.cores.foldl (fun v c => if splitRuns (splitMarked s k.handle) k.handle c then
      (v.onJob c (fun j => j.hardStop 0x10 (optCoordWord j.front))).markLanding c else v) (splitMarked s k.handle) := by
  unfold splitRuns splitMarked at hr ⊢
  unfold State.split
  simp only [hk, hs, hr, Bool.not_true, Bool.and_false, Bool.false_eq_true, if_false, if_true]
/-- Once none runs, the launch ends. -/
theorem split_ends (hr : k.cores.any (splitRuns (splitMarked s k.handle) k.handle) = false) :
    let u := splitMarked s k.handle
    s.split k.handle = State.complete (k.cores.foldl (fun s c => s.leaveCore c k.handle)
      ((k.cores.filter (fun c => !k.done.contains c)).foldl (fun s c => s.loseJob k.handle k.part c) u))
      (splitLast k (u.lastJob (k.cores.headD 0) k.handle)) := by
  intro u
  obtain ⟨hcores, hdone, hpart⟩ := splitLast_keeps k (u.lastJob (k.cores.headD 0) k.handle)
  have hend : s.split k.handle =
      let g := splitLast k (u.lastJob (k.cores.headD 0) k.handle)
      State.complete (g.cores.foldl (fun s c => s.leaveCore c k.handle)
        ((g.cores.filter (fun c => !g.done.contains c)).foldl (fun s c => s.loseJob k.handle g.part c) u)) g := by
    unfold splitRuns splitMarked at hr
    unfold u splitMarked State.split
    simp only [hk, hs, hr, Bool.not_true, Bool.and_false, Bool.false_eq_true, if_false]
    unfold splitLast
    generalize State.lastJob _ _ _ = o
    cases o <;> rfl
  simp only [hcores, hdone, hpart] at hend
  exact hend
end

/-- Settles O50: each event's conditions hold, so that it takes its step. -/
theorem fabricEvents : Obligations.FabricEvents := by
  intro s g x
  refine ⟨fun k hx => ⟨fun hb hc hoff hp ha ht => ?_, fun hc h4 hd hr hch => ⟨fun h0 => ?_, fun h0 => ?_⟩, fun ht hu => ?_⟩,
    fun width speed hx hs hw hp hsp hwidth => ⟨Config.freeLanes s.tick g.toNat, fun h1 hn => ?_, fun h1 hn hnb ha => ?_, fun h1 => ?_⟩,
    fun reason hx h0 h6 hr hr6 => ?_, fun lane flits corrected eye hx ht hu hl hbad h31 hn => ?_, fun hx hu hk => ⟨fun ht => ?_, fun ht h2 => ?_⟩,
    fun k hk hs => ⟨fun hr => ?_, fun hr => ?_⟩⟩
  · exact congrArg Host.Outcome.next (beginChange_begins hx hb hc hoff hp ha ht)
  · exact congrArg Host.Outcome.next ((dropLink_due hx hc h4 hd hr hch).trans (if_pos h0))
  · exact congrArg Host.Outcome.next ((dropLink_due hx hc h4 hd hr hch).trans (if_neg h0))
  · exact congrArg Host.Outcome.next (sendTime_up hx ht hu)
  · exact congrArg Host.Outcome.next ((trained_ends hx hs hw hp hsp hwidth).trans ((if_pos h1).trans (if_pos hn)))
  · exact congrArg Host.Outcome.next ((trained_ends hx hs hw hp hsp hwidth).trans ((if_pos h1).trans ((if_neg hn).trans (compare_agrees hnb ha))))
  · exact congrArg Host.Outcome.next ((trained_ends hx hs hw hp hsp hwidth).trans (if_neg h1))
  · exact congrArg Host.Outcome.next (goDown_reason hx h0 h6 hr hr6)
  · exact congrArg Host.Outcome.next (sample_asks hx ht hu hl hbad h31 hn)
  · exact congrArg Host.Outcome.next ((rotate_ciphers hx hu hk (ciphers_of_talks ht)).trans (by rw [if_pos ht]))
  · exact congrArg Host.Outcome.next ((rotate_ciphers hx hu hk (decide_eq_true (Or.inr h2))).trans (by rw [ht]; rfl))
  · exact congrArg Host.Outcome.next (split_lands hk hs hr)
  · refine congrArg Host.Outcome.next ((split_ends hk hs hr).trans (congrArg (State.complete _) ?_))
    unfold splitLast splitMarked
    generalize State.lastJob _ _ _ = o
    cases o <;> rfl

end Sys2Proof.Proofs
end
